-- ==== Sys2Proof/Word.lean ====
section
/-! DEFINITION. The word types of Lenlos and their plainest arithmetic (spec/00_scope.md R2). -/

namespace Sys2Proof

/-- A 64-bit scalar, address or instruction word. -/
abbrev Word := BitVec 64

/-- One byte of memory. -/
abbrev Byte := BitVec 8

/-- The bytes of one vector register, byte 0 in the low bits (03 R53). -/
abbrev VReg := BitVec 16384

/-- One mask register, bit 512 j + c for row j and column c (03 R56). -/
abbrev Mask := BitVec 4096

/-- The accumulator partition, element (i, j) in bits 32 (128 i + j) upwards (10 R225). -/
abbrev Partition := BitVec 524288

/-- Bits [off + w - 1 : off] of a value. -/
def field {n : Nat} (x : BitVec n) (off w : Nat) : BitVec w := BitVec.extractLsb' off w x

/-- The value with bits [off + w - 1 : off] replaced. -/
def putField {n w : Nat} (x : BitVec n) (off : Nat) (y : BitVec w) : BitVec n :=
  (x &&& ~~~((BitVec.allOnes w).setWidth n <<< off)) ||| ((y.setWidth n) <<< off)

/-- A one-bit field as a Boolean. -/
def bit {n : Nat} (x : BitVec n) (i : Nat) : Bool := x.getLsbD i

/-- A Boolean as one bit at position i of a word. -/
def bitAt (b : Bool) (i : Nat) : Word := if b then (1 : Word) <<< i else 0

/-- A field placed at bit i of a word. -/
def place {n : Nat} (x : BitVec n) (i : Nat) : Word := x.setWidth 64 <<< i

/-- A number placed at bit i of a word. -/
def at' (x : Nat) (i : Nat) : Word := BitVec.ofNat 64 x <<< i

end Sys2Proof
end

