-- ==== Sys2Proof/Machine/Flags.lean ====
section
/-! DEFINITION. Number formats, exact values, rounding, the sticky flags, conversion and quantisation
(04 R70 to R90), Philox (09 R217) and the functions of the transcendental unit (09 R215, R216). -/

namespace Sys2Proof.Machine

/-- The sticky flags of one operation: NV DZ OF UF NX SAT from bit 0 up (03 R66). -/
abbrev Flags := BitVec 6

def fNV : Flags := 1
def fDZ : Flags := 2
def fOF : Flags := 4
def fUF : Flags := 8
def fNX : Flags := 16
def fSAT : Flags := 32

/-- A flag or none. -/
def flagIf (b : Bool) (f : Flags) : Flags := if b then f else 0

/-- An exact value: (-1)^neg * (m + d) * 2^e with d = 0, or 0 < d < 1 when sticky; zeros keep their sign (04 R72). -/
inductive FVal where
  | nan
  | inf (neg : Bool)
  | fin (neg : Bool) (m : Nat) (e : Int) (sticky : Bool)
deriving DecidableEq, Repr

/-- Positive or negative zero. -/
def FVal.zero (neg : Bool) : FVal := .fin neg 0 0 false

/-- An integer as an exact value. -/
def FVal.ofInt (x : Int) : FVal := .fin (decide (x < 0)) x.natAbs 0 false

/-- A floating-point encoding (04 R71): field widths, the code of the largest finite magnitude, infinities, NaN. -/
structure FFmt where
  ebits : Nat
  fbits : Nat
  maxCode : Nat
  hasInf : Bool
  nanCode : Nat
deriving DecidableEq, Repr

def FFmt.fp32 : FFmt := ⟨8, 23, 0x7F7FFFFF, true, 0x7FC00000⟩
def FFmt.fp16 : FFmt := ⟨5, 10, 0x7BFF, true, 0x7E00⟩
def FFmt.bf16 : FFmt := ⟨8, 7, 0x7F7F, true, 0x7FC0⟩
def FFmt.e4m3 : FFmt := ⟨4, 3, 0x7E, false, 0x7F⟩
def FFmt.e5m2 : FFmt := ⟨5, 2, 0x7B, true, 0x7E⟩
def FFmt.e2m1 : FFmt := ⟨2, 1, 7, false, 7⟩

/-- The exponent bias. -/
def FFmt.bias (f : FFmt) : Nat := 2 ^ (f.ebits - 1) - 1

/-- The width of the magnitude field: every bit but the sign. -/
def FFmt.magBits (f : FFmt) : Nat := f.ebits + f.fbits

/-- The exponent of the last fraction bit of subnormals. -/
def FFmt.qmin (f : FFmt) : Int := 1 - (f.bias : Int) - f.fbits

/-- Significand and quantum exponent of a finite magnitude code (04 R71). -/
def FFmt.parts (f : FFmt) (mag : Nat) : Nat × Int :=
  let e := mag / 2 ^ f.fbits
  let frac := mag % 2 ^ f.fbits
  if e = 0 then (frac, f.qmin) else (frac + 2 ^ f.fbits, f.qmin + (e - 1))

/-- The value of a code (04 R71). -/
def FFmt.value (f : FFmt) (code : Nat) : FVal :=
  let neg := code.testBit f.magBits
  let mag := code % 2 ^ f.magBits
  if mag ≤ f.maxCode then .fin neg (f.parts mag).1 (f.parts mag).2 false
  else if f.hasInf && mag == f.maxCode + 1 then .inf neg else .nan

/-- A signed magnitude code. -/
def FFmt.signed (f : FFmt) (neg : Bool) (mag : Nat) : Nat := if neg then 2 ^ f.magBits + mag else mag

/-- The code of an infinity, or of the largest finite value in a format without infinities (04 R79). -/
def FFmt.infCode (f : FFmt) (neg : Bool) : Nat := f.signed neg (if f.hasInf then f.maxCode + 1 else f.maxCode)

/-- Rounding modes (04 R77), with the element's random value for SR. -/
inductive Mode where
  | rne | rtz | rdn | rup
  | sr (r : Nat)
deriving DecidableEq, Repr

/-- The mode of a mode field; r is the random value of the element (04 R77, R81). -/
def Mode.ofField (m : Nat) (r : Nat) : Mode :=
  if m = 0 then .rne else if m = 1 then .rtz else if m = 2 then .rdn else if m = 3 then .rup else .sr r

/-- Whether the magnitude steps up from lo to hi, for a fraction (rem + d) / den of the gap and an odd or even lo
(04 R77, R80). -/
def stepsUp (mode : Mode) (neg odd : Bool) (rem den : Nat) (sticky : Bool) : Bool :=
  let inexact := rem != 0 || sticky
  match mode with
  | .rne => decide (2 * rem > den) || (2 * rem == den && den != 1 && (sticky || odd))
  | .rtz => false
  | .rdn => neg && inexact
  | .rup => !neg && inexact
  | .sr r => inexact && decide (r < rem * 65536 / den)

/-- A rounded result: its code and flags. -/
structure Rounded where
  code : Nat
  flags : Flags
deriving DecidableEq, Repr

/-- m * 2^e in units of 2^q: whole units, remainder and divisor of the remainder. -/
def inUnits (m : Nat) (e q : Int) : Nat × Nat × Nat :=
  if q ≤ e then (m * 2 ^ (e - q).toNat, 0, 1)
  else (m / 2 ^ (q - e).toNat, m % 2 ^ (q - e).toNat, 2 ^ (q - e).toNat)

/-- The result of an overflow: an infinity or the largest finite value by mode (04 R78), always the largest finite
value with SAT in a saturating result (04 R79). -/
def overflowed (f : FFmt) (mode : Mode) (sat neg : Bool) : Rounded :=
  let toInf := match mode with
    | .rne | .sr _ => true
    | .rtz => false
    | .rdn => neg
    | .rup => !neg
  if toInf && f.hasInf && !sat then ⟨f.infCode neg, fOF ||| fNX⟩
  else ⟨f.signed neg f.maxCode, fOF ||| fNX ||| flagIf toInf fSAT⟩

/-- Rounding of a non-zero magnitude at or above the largest finite value (04 R78, R80). -/
def roundTop (f : FFmt) (mode : Mode) (sat neg : Bool) (m : Nat) (e : Int) (sticky : Bool) : Rounded :=
  let (lm, lq) := f.parts f.maxCode
  let hi : Nat := 2 ^ (f.fbits + 1)
  let q := if e < lq then e else lq
  let x := (inUnits m e q).1
  let lo := (inUnits lm lq q).1
  let top := (inUnits hi lq q).1
  if top ≤ x then overflowed f mode sat neg
  else if stepsUp mode neg true (x - lo) (top - lo) sticky then overflowed f mode sat neg
  else ⟨f.signed neg f.maxCode, flagIf (x != lo || sticky) fNX⟩

/-- Whether the magnitude rounded with an unbounded exponent stays below the smallest normal value (04 R82, UF). -/
def tinyAfterRounding (f : FFmt) (mode : Mode) (neg : Bool) (m : Nat) (e : Int) (sticky : Bool) : Bool :=
  let l : Int := Nat.log2 m + e
  let emin : Int := f.qmin + f.fbits
  if l < emin - 1 then true
  else if emin ≤ l then false
  else
    let (n, rem, den) := inUnits m e (l - f.fbits)
    !(n + 1 == 2 ^ (f.fbits + 1) && stepsUp mode neg (n % 2 == 1) rem den sticky)

/-- RoundTo: one rounding of an exact value to a format, with its flags (04 R77 to R80, R82). sat says that the
instruction form saturates, which replaces an infinity that overflow produces; formats without infinities always do. A NaN has no flag of its
own here, so that an invalid operation sets NV without NX (log entry 47). -/
def roundTo (f : FFmt) (x : FVal) (mode : Mode) (sat : Bool := false) : Rounded :=
  match x with
  | .nan => ⟨f.nanCode, 0⟩
  | .inf neg =>
    if f.hasInf then ⟨f.infCode neg, 0⟩ else ⟨f.signed neg f.maxCode, fSAT ||| fNX⟩
  | .fin neg 0 _ false => ⟨f.signed neg 0, 0⟩
  | .fin neg m e sticky =>
    let (lm, lq) := f.parts f.maxCode
    let (n, _, _) := inUnits m e lq
    if lm ≤ n then roundTop f mode sat neg m e sticky
    else
      let l : Int := Nat.log2 m + e - f.fbits
      let q := if l < f.qmin then f.qmin else l
      let (n, rem, den) := inUnits m e q
      let up := stepsUp mode neg (n % 2 == 1) rem den sticky
      let mag := (q - f.qmin).toNat * 2 ^ f.fbits + n + (if up then 1 else 0)
      let inexact := rem != 0 || sticky
      ⟨f.signed neg mag, flagIf inexact fNX ||| flagIf (inexact && tinyAfterRounding f mode neg m e sticky) fUF⟩

/-- Rounding to an integer under a mode (04 R84), of a finite value. -/
def roundInt (neg : Bool) (m : Nat) (e : Int) (sticky : Bool) (mode : Mode) : Int × Bool :=
  let (n, rem, den) := inUnits m e 0
  let k := n + (if stepsUp mode neg (n % 2 == 1) rem den sticky then 1 else 0)
  (if neg then -(k : Int) else k, rem != 0 || sticky)

/-- The sign, magnitude and exponent of a product, with the flag of 0 × ∞ (04 R82, R83). -/
def mulExact (x y : FVal) : FVal × Flags :=
  match x, y with
  | .nan, _ | _, .nan => (.nan, 0)
  | .inf a, .inf b => (.inf (a != b), 0)
  | .inf a, .fin b m _ _ | .fin b m _ _, .inf a => if m = 0 then (.nan, fNV) else (.inf (a != b), 0)
  | .fin a m e _, .fin b n g _ => (.fin (a != b) (m * n) (e + g) false, 0)

/-- A signed integer multiple of 2^e. -/
def FVal.scaled (neg : Bool) (m : Nat) (e q : Int) : Int :=
  let n := m * 2 ^ (e - q).toNat
  if neg then -(n : Int) else n

/-- The exact sum, with the sign of zero that 04 R77 gives and the flag of ∞ - ∞ (04 R82). -/
def addExact (rdn : Bool) (x y : FVal) : FVal × Flags :=
  match x, y with
  | .nan, _ | _, .nan => (.nan, 0)
  | .inf a, .inf b => if a = b then (.inf a, 0) else (.nan, fNV)
  | .inf a, .fin .. | .fin .., .inf a => (.inf a, 0)
  | .fin a m e _, .fin b n g _ =>
    if m = 0 && n = 0 then (.zero (if a = b then a else rdn), 0)
    else
      let q := if e < g then e else g
      let z := FVal.scaled a m e q + FVal.scaled b n g q
      if z = 0 then (.zero rdn, 0) else (.fin (decide (z < 0)) z.natAbs q false, 0)

/-- The value with its sign inverted. -/
def FVal.negate : FVal → FVal
  | .nan => .nan
  | .inf a => .inf (!a)
  | .fin a m e s => .fin (!a) m e s

/-- A NaN. -/
def FVal.isNan : FVal → Bool
  | .nan => true
  | _ => false

/-- A NaN or an infinity. -/
def FVal.notFinite : FVal → Bool
  | .fin .. => false
  | _ => true

/-- Negative and not NaN. -/
def FVal.isNeg : FVal → Bool
  | .nan => false
  | .inf a => a
  | .fin a _ _ _ => a

/-- x < y of values that are not NaN, -0 equal to +0 (04 R83). -/
def FVal.lt (x y : FVal) : Bool :=
  match x, y with
  | .nan, _ | _, .nan => false
  | .inf a, .inf b => a && !b
  | .inf a, .fin .. => a
  | .fin .., .inf b => !b
  | .fin a m e _, .fin b n g _ =>
    let q := if e < g then e else g
    decide (FVal.scaled a m e q < FVal.scaled b n g q)

/-- x below y in the order of VMIN and VMAX, where -0 lies below +0 (04 R83; 08 R189). -/
def FVal.below (x y : FVal) : Bool := x.lt y || (!y.lt x && x.isNeg && !y.isNeg)

/-- The magnitude of a finite value in units of 2^q. -/
def FVal.magIn (q : Int) : FVal → Nat
  | .fin _ m e _ => m * 2 ^ (e - q).toNat
  | _ => 0

/-- The value times 2^k. -/
def FVal.shift (k : Int) : FVal → FVal
  | .fin a m e s => .fin a m (e + k) s
  | x => x

/-! ## Element formats (03 R54) -/

/-- The width of an element in bits; 8 for NONE (08 R178). The block formats have no element width of their own. -/
def fmtWidth (f : BitVec 4) : Nat :=
  match f.toNat with
  | 1 => 4
  | 3 | 6 | 9 | 0xA => 16
  | 4 | 7 | 8 => 32
  | _ => 8

/-- The bytes of an element for alignment: 4, 2 or 1 (07 R156). -/
def fmtBytesOf (f : BitVec 4) : Nat := if fmtWidth f < 8 then 1 else fmtWidth f / 8

/-- Elements per row (03 R54). -/
def fmtElems (f : BitVec 4) : Nat :=
  match f.toNat with
  | 0xD => 480
  | 0xE => 448
  | _ => 2048 / fmtWidth f

/-- A block format. -/
def isBlock (f : BitVec 4) : Bool := f == 0xD || f == 0xE

/-- The bytes of a block. -/
def blockBytes (f : BitVec 4) : Nat := if f == 0xE then 18 else 17

/-- A signed integer format. -/
def isInt (f : BitVec 4) : Bool := 1 ≤ f.toNat && f.toNat ≤ 4

/-- An unsigned integer format. -/
def isNatFmt (f : BitVec 4) : Bool := 5 ≤ f.toNat && f.toNat ≤ 7

/-- An integer format. -/
def isInteger (f : BitVec 4) : Bool := isInt f || isNatFmt f

/-- A floating element format. -/
def isFloat (f : BitVec 4) : Bool := 8 ≤ f.toNat && f.toNat ≤ 0xC

/-- A numeric format (08 R186). -/
def isNumeric (f : BitVec 4) : Bool := 1 ≤ f.toNat && f.toNat ≤ 0xC

/-- The encoding of a floating format; FP32 for a code that has none. -/
def ffmt (f : BitVec 4) : FFmt :=
  match f.toNat with
  | 9 => .fp16
  | 0xA => .bf16
  | 0xB => .e4m3
  | 0xC => .e5m2
  | _ => .fp32

/-- The integer that a code of an integer format stands for (04 R70). -/
def intValue (f : BitVec 4) (code : Nat) : Int :=
  if isInt f && code.testBit (fmtWidth f - 1) then (code : Int) - 2 ^ fmtWidth f else code

/-- The smallest and the largest integer of a format (04 R70). -/
def intMin (f : BitVec 4) : Int := if isInt f then -2 ^ (fmtWidth f - 1) else 0
def intMax (f : BitVec 4) : Int := if isInt f then 2 ^ (fmtWidth f - 1) - 1 else 2 ^ fmtWidth f - 1

/-- The code of an integer modulo 2^width. -/
def intCode (f : BitVec 4) (x : Int) : Nat := (x % 2 ^ fmtWidth f).toNat

/-- SatTo of an integer format (00 R9): the code, SAT and NX when it clamps (04 R82). -/
def satInt (f : BitVec 4) (x : Int) : Rounded :=
  if x < intMin f then ⟨intCode f (intMin f), fSAT ||| fNX⟩
  else if intMax f < x then ⟨intCode f (intMax f), fSAT ||| fNX⟩
  else ⟨intCode f x, 0⟩

/-- The exact value of a code of a numeric format. -/
def elemValue (f : BitVec 4) (code : Nat) : FVal :=
  if isFloat f then (ffmt f).value code else FVal.ofInt (intValue f code)

/-- An exact value clamped to an integer format without the flag of a conversion (04 R88). -/
def clampInt (dst : BitVec 4) (x : FVal) : Rounded :=
  match x with
  | .nan => ⟨0, fSAT ||| fNX⟩
  | .inf neg => ⟨intCode dst (if neg then intMin dst else intMax dst), fSAT ||| fNX⟩
  | .fin neg m e s => satInt dst (roundInt neg m e s .rtz).1

/-- Conversion of an exact value to an element format (04 R84). A value out of an integer format's range sets NV whatever its source (04
R82). -/
def convert (dst : BitVec 4) (x : FVal) (mode : Mode) : Rounded :=
  if isFloat dst then roundTo (ffmt dst) x mode
  else
    match x with
    | .nan => ⟨0, fNV ||| fSAT ||| fNX⟩
    | .inf neg => ⟨intCode dst (if neg then intMin dst else intMax dst), fNV ||| fSAT ||| fNX⟩
    | .fin neg m e s =>
      let (k, inexact) := roundInt neg m e s mode
      let r := satInt dst k
      ⟨r.code, r.flags ||| flagIf inexact fNX ||| flagIf (r.flags != 0) fNV⟩

/-- FILL encoded in an element format (03 R58; 07 R168): zero and excluded are zero, an infinity is the format's, or its
extreme value where it has none; NONE is an unsigned byte. -/
def fillCode (f : BitVec 4) (fill : BitVec 2) : Nat :=
  if fill == 1 || fill == 2 then
    let neg := fill == 1
    if isFloat f then (ffmt f).infCode neg
    else if f == 0 then (if neg then 0 else 255)
    else intCode f (if neg then intMin f else intMax f)
  else 0

/-- FILL as a whole block (07 R168). The spare byte of an MXF4S block, which R168 does not name, is zero (log entry 47). -/
def fillBlock (fill : BitVec 2) : Nat :=
  if fill == 2 then 0x77777777777777777777777777777777 + 0xFE * 2 ^ 128
  else if fill == 1 then 0xFFFFFFFFFFFFFFFFFFFFFFFFFFFFFFFF + 0xFE * 2 ^ 128
  else 0x7F * 2 ^ 128

/-! ## Block formats (04 R73 to R76) -/

/-- The value of element j of a block (04 R74). -/
def blockValue (f : BitVec 4) (block : Nat) (j : Nat) : FVal :=
  let code := block / 2 ^ (4 * j) % 16
  let scale : Nat := block / 2 ^ 128 % 256
  let k : Int := (scale : Int) - 127
  if scale = 255 then .nan
  else if f == 0xE && code == 8 then (FFmt.e4m3.value (block / 2 ^ 136 % 256)).shift k
  else (FFmt.e2m1.value code).shift k

/-- A quantised block and the flags of its quantisation. -/
structure QBlock where
  bytes : Nat
  flags : Flags
deriving DecidableEq, Repr

/-- The smallest exponent of the finite values of a list, for aligning magnitudes. -/
def minExp : List FVal → Int
  | [] => 0
  | .fin _ m e _ :: r => if m = 0 then minExp r else (if e < minExp r then e else minExp r)
  | _ :: r => minExp r

/-- Index and magnitude of the first largest entry, beginning the count at i. -/
def largest (i : Nat) : List Nat → Nat × Nat
  | [] => (i, 0)
  | [a] => (i, a)
  | a :: r => let (j, b) := largest (i + 1) r; if b ≤ a then (i, a) else (j, b)

/-- floor(log2 x) of a positive magnitude x * 2^q. -/
def logIn (x : Nat) (q : Int) : Int := Nat.log2 x + q

/-- Quantise: 32 exact values to a block, element j with random value r j under SR (04 R85, R86). Quantisation reports
NX, UF, OF and SAT, and NV for a NaN block. -/
def quantise (f : BitVec 4) (v : List FVal) (mode : Nat → Mode) : QBlock :=
  if v.any FVal.notFinite then ⟨0xFF * 2 ^ 128 + (if f == 0xE then 0x7F * 2 ^ 136 else 0), fNV⟩
  else
    let q := minExp v
    let mags := v.map (FVal.magIn q)
    let o := (largest 0 mags).1
    let rest := if f == 0xE then mags.set o 0 else mags
    let a0 := (largest 0 rest).2
    let a := if f == 0xE && a0 = 0 then mags.getD o 0 else a0
    let e0 := if a = 0 then 0 else logIn a q - 2
    let e : Int := if e0 < -127 then -127 else if 127 < e0 then 127 else e0
    let code (j : Nat) (x : FVal) : Nat × Flags :=
      if f == 0xE && j == o then (8, 0)
      else
        let r := roundTo FFmt.e2m1 (x.shift (-e)) (mode j)
        (if f == 0xE && r.code == 8 then 0 else r.code, r.flags)
    let cs := v.zipIdx.map (fun p => code p.2 p.1)
    let spare := roundTo FFmt.e4m3 ((v.getD o (.zero false)).shift (-e)) (mode o)
    let elems := (cs.zipIdx.map (fun p => p.1.1 * 2 ^ (4 * p.2))).sum
    let fl := cs.foldl (fun x p => x ||| p.2) 0 ||| (if f == 0xE then spare.flags else 0)
    ⟨elems + (e + 127).toNat * 2 ^ 128 + (if f == 0xE then spare.code * 2 ^ 136 else 0), fl⟩

/-! ## Random values (09 R217; 04 R81) -/

/-- One round of Philox4x32. -/
def philoxRound (k0 k1 : BitVec 32) (c : BitVec 32 × BitVec 32 × BitVec 32 × BitVec 32) :
    BitVec 32 × BitVec 32 × BitVec 32 × BitVec 32 :=
  let p0 : Word := 0xD2511F53 * c.1.setWidth 64
  let p1 : Word := 0xCD9E8D57 * c.2.2.1.setWidth 64
  (field p1 32 32 ^^^ c.2.1 ^^^ k0, field p1 0 32, field p0 32 32 ^^^ c.2.2.2 ^^^ k1, field p0 0 32)

/-- n rounds, the key stepping after each. -/
def philoxRounds : Nat → BitVec 32 → BitVec 32 → BitVec 32 × BitVec 32 × BitVec 32 × BitVec 32 →
    BitVec 32 × BitVec 32 × BitVec 32 × BitVec 32
  | 0, _, _, c => c
  | n + 1, k0, k1, c => philoxRounds n (k0 + 0x9E3779B9) (k1 + 0xBB67AE85) (philoxRound k0 k1 c)

/-- Word i of Philox4x32-10 (09 R217). -/
def philox (key : Word) (c : BitVec 32 × BitVec 32 × BitVec 32 × BitVec 32) (i : Nat) : BitVec 32 :=
  let w := philoxRounds 10 (field key 0 32) (field key 32 32) c
  if i = 0 then w.1 else if i = 1 then w.2.1 else if i = 2 then w.2.2.1 else w.2.2.2

/-- The random value of position e under SR (04 R81). -/
def srValue (key ctr : Word) (e : Nat) : Nat :=
  let n := ctr + BitVec.ofNat 64 (e / 8)
  let w := (philox key (field n 0 32, field n 32 32, 0x5352, 0) (e % 8 / 2)).toNat
  if e % 2 = 0 then w % 65536 else w / 65536

/-- The random word of position e of VRNG (09 R218). -/
def rngWord (key ctr : Word) (e : Nat) : BitVec 32 :=
  let n := ctr + BitVec.ofNat 64 (e / 4)
  philox key (field n 0 32, field n 32 32, 0x564E, 0) (e % 4)

/-! ## The transcendental unit (09 R215, R216) -/

/-- floor of the square root, bit by bit. -/
def isqrtFrom (n : Nat) : Nat → Nat → Nat
  | 0, r => r
  | k + 1, r => isqrtFrom n k (if (r + 2 ^ k) * (r + 2 ^ k) ≤ n then r + 2 ^ k else r)

/-- floor of the square root. -/
def isqrt (n : Nat) : Nat := isqrtFrom n (Nat.log2 n / 2 + 1) 0

/-- 1 / (m * 2^e), 64 bits and a sticky remainder. -/
def recipFin (neg : Bool) (m : Nat) (e : Int) : FVal :=
  let k := Nat.log2 m + 64
  .fin neg (2 ^ k / m) (-(k : Int) - e) (2 ^ k % m != 0)

/-- The square root of m * 2^e with e made even, 64 bits and a sticky remainder. -/
def sqrtFin (m : Nat) (e : Int) : FVal :=
  let (m, e) : Nat × Int := if e % 2 = 0 then (m, e) else (2 * m, e - 1)
  let n := m * 2 ^ 128
  let r := isqrt n
  .fin false r (e / 2 - 64) (r * r != n)

/-- 1 / sqrt (m * 2^e). -/
def rsqrtFin (m : Nat) (e : Int) : FVal :=
  let (m, e) : Nat × Int := if e % 2 = 0 then (m, e) else (2 * m, e - 1)
  let k := Nat.log2 m / 2 + 66
  let n := 2 ^ (2 * k) / m
  let r := isqrt n
  .fin false r (-(k : Int) - e / 2) (r * r * m != 2 ^ (2 * k))

/-- Product of the roots 2^(1/2), 2^(1/4), … of the bits of a fraction f / 2^n, in units of 2^-256; r is the last root. -/
def exp2Bits (f : Nat) : Nat → Nat → Nat → Nat
  | 0, _, p => p
  | n + 1, r, p =>
    let r := isqrt (r * 2 ^ 256)
    exp2Bits f n r (if f.testBit n then p * r / 2 ^ 256 else p)

/-- 2^x of a finite x; exact for integers (09 R215). Above 2^11 and below -2^11 every format overflows or underflows. -/
def exp2Fin (neg : Bool) (m : Nat) (e : Int) : FVal :=
  let (n, rem, _) := inUnits m e 0
  if 2048 ≤ n then (if neg then .fin false 1 (-2048) true else .fin false 1 2048 true)
  else if rem = 0 then .fin false 1 (if neg then -(n : Int) else n) false
  else
    let w := (-e).toNat
    let whole : Int := if neg then -(n : Int) - 1 else n
    let frac := if neg then 2 ^ w - rem else rem
    .fin false (exp2Bits frac w (2 ^ 257) (2 ^ 256)) (whole - 256) true

/-- Bits of log2 y for y in [1, 2) held in units of 2^-300, by repeated squaring. -/
def log2Bits : Nat → Nat → Nat → Nat
  | 0, _, acc => acc
  | k + 1, y, acc =>
    let y2 := y * y / 2 ^ 300
    if 2 ^ 301 ≤ y2 then log2Bits k (y2 / 2) (2 * acc + 1) else log2Bits k y2 (2 * acc)

/-- log2 (m * 2^e) of a positive value; exact for powers of two (09 R215, R216). -/
def log2Fin (m : Nat) (e : Int) : FVal :=
  let n : Int := Nat.log2 m + e
  if m = 2 ^ Nat.log2 m then (if n = 0 then .zero false else FVal.ofInt n)
  else
    let y := m * 2 ^ 300 / 2 ^ Nat.log2 m
    let f := log2Bits 128 y 0
    if 0 ≤ n then .fin false (n.toNat * 2 ^ 128 + f) (-128) true
    else .fin true ((-n).toNat * 2 ^ 128 - f - 1) (-128) true

/-- The functions of the unit. -/
inductive Trans where | rcp | rsq | sqrt | exp2 | log2
deriving DecidableEq, Repr

/-- The exact result of a function and its NV or DZ flag (09 R215, R216; 04 R82). -/
def transExact (op : Trans) (x : FVal) : FVal × Flags :=
  match op, x with
  | _, .nan => (.nan, 0)
  | .rcp, .inf a => (.zero a, 0)
  | .rcp, .fin a m e _ => if m = 0 then (.inf a, fDZ) else (recipFin a m e, 0)
  | .rsq, .inf a => if a then (.nan, fNV) else (.zero false, 0)
  | .rsq, .fin a m e _ => if m = 0 then (.inf a, fDZ) else if a then (.nan, fNV) else (rsqrtFin m e, 0)
  | .sqrt, .inf a => if a then (.nan, fNV) else (.inf false, 0)
  | .sqrt, .fin a m e _ => if m = 0 then (.zero a, 0) else if a then (.nan, fNV) else (sqrtFin m e, 0)
  | .exp2, .inf a => if a then (.zero false, 0) else (.inf false, 0)
  | .exp2, .fin a m e _ => if m = 0 then (.fin false 1 0 false, 0) else (exp2Fin a m e, 0)
  | .log2, .inf a => if a then (.nan, fNV) else (.inf false, 0)
  | .log2, .fin a m e _ => if m = 0 then (.inf true, fDZ) else if a then (.nan, fNV) else (log2Fin m e, 0)

/-- RoundTo(FP32, x + y, RNE): the Combine of sums, and the accumulation of matrix products (04 R87, R90). -/
def addFp32 (x y : FVal) : Rounded :=
  let (z, fl) := addExact false x y
  let r := roundTo FFmt.fp32 z .rne
  ⟨r.code, r.flags ||| fl⟩

end Sys2Proof.Machine
end

