-- ==== Sys2Proof/Syntax/Fields.lean ====
section
/-! DEFINITION. The operand fields of the nine instruction families (05 R91 to R93, R99), and what the events of
spec/opcode_table.json carry. Fields are kept raw, as the word gives them; WellFormed says which values are legal. -/

namespace Sys2Proof

/-- The WAIT and SIG bytes (05 R92, R93). -/
structure Sync where
  wait : BitVec 8
  sig : BitVec 8
deriving DecidableEq, Repr

/-- The synchronisation of a word with both bytes zero: no stall, no bell. -/
def Sync.plain : Sync := ⟨0, 0⟩

/-- STALL, bits [7:5] of WAIT (05 R92). -/
def Sync.stall (y : Sync) : Nat := (field y.wait 5 3).toNat

/-- The bell taken at issue, bits [4:0] of WAIT; 0 takes none (05 R92). -/
def Sync.takes (y : Sync) : BitVec 5 := field y.wait 0 5

/-- KIND, bits [7:6] of SIG: 1 rings at completion, 2 at acceptance (05 R93). -/
def Sync.kind (y : Sync) : BitVec 2 := field y.sig 6 2

/-- The bell rung, bits [4:0] of SIG (05 R93). -/
def Sync.rings (y : Sync) : BitVec 5 := field y.sig 0 5

/-- The SIG byte is not one of the four reserved forms (05 R93). -/
def Sync.legal (y : Sync) : Bool :=
  y.kind != 3 && !bit y.sig 5 && ((y.kind == 0) == (y.rings == 0))

/-- The SR family; its zero field [15:0] is zero in every decoded instruction (05 R99). -/
structure SR where
  sync : Sync
  sd : BitVec 5
  sa : BitVec 5
  sb : BitVec 5
  pg : BitVec 3
  pn : Bool
deriving DecidableEq, Repr

/-- The SI family. -/
structure SI where
  sync : Sync
  sd : BitVec 5
  sa : BitVec 5
  pg : BitVec 3
  pn : Bool
  imm24 : BitVec 24
deriving DecidableEq, Repr

/-- The LI family. -/
structure LI where
  sync : Sync
  sd : BitVec 5
  imm32 : BitVec 32
deriving DecidableEq, Repr

/-- The BR family. -/
structure BR where
  sync : Sync
  pg : BitVec 3
  pn : Bool
  sa : BitVec 5
  off28 : BitVec 28
deriving DecidableEq, Repr

/-- The M family. -/
structure M where
  sync : Sync
  sd : BitVec 5
  sa : BitVec 5
  pg : BitVec 3
  pn : Bool
  size : BitVec 2
  ac : BitVec 3
  scope : BitVec 3
  off18 : BitVec 18
deriving DecidableEq, Repr

/-- The T family, whose fn is zero in every assigned instruction (07 R161). -/
structure T where
  sync : Sync
  t : BitVec 6
  sa : BitVec 5
  sb : BitVec 5
  h : BitVec 4
  ac : BitVec 3
  pg : BitVec 3
  pn : Bool
  mode : BitVec 8
deriving DecidableEq, Repr

/-- The V family. -/
structure V where
  sync : Sync
  vd : BitVec 6
  va : BitVec 6
  vb : BitVec 6
  vc : BitVec 6
  h : BitVec 4
  m : BitVec 3
  fmt : BitVec 4
  fn : BitVec 5
deriving DecidableEq, Repr

/-- The X family, less fn, which selects the instruction. -/
structure X where
  sync : Sync
  ta : BitVec 6
  tb : BitVec 6
  ha : BitVec 4
  hb : BitVec 4
  unf : BitVec 4
  fmt : BitVec 4
  ctl : BitVec 8
deriving DecidableEq, Repr

/-- The N family, less fn, which selects the instruction. -/
structure N where
  sync : Sync
  sa : BitVec 5
  sb : BitVec 5
  sc : BitVec 5
  vd : BitVec 6
  scope : BitVec 3
  ctl : BitVec 11
deriving DecidableEq, Repr

/-- The conditions of PCMP, in fn order (06 R131). -/
inductive PCond where | eq | ne | lt | ge | ltu | geu
deriving DecidableEq, Repr

/-- The fields that SHPX sets, in fn order (06 R139). -/
inductive ShpxField where | vrows | vcols | rows | stride
deriving DecidableEq, Repr

/-- The five engine queues (02 R25, R39). -/
inductive Queue where | lq | sq | aq | mq | nq
deriving DecidableEq, Repr

/-- A context, named by its cohort's name and its member number (11 R11; 17 R343). -/
structure CtxRef where
  cohort : BitVec 32
  member : Nat
deriving DecidableEq, Repr

/-- How the management core answers one line of a fault record (13 R287, R288). -/
inductive FaultAnswer where
  /-- It writes these page-table entries: physical address and value. -/
  | mapped (entries : List (Nat × Word))
  /-- No mapping exists for the address. -/
  | unanswerable
  /-- No mapping exists for an address at which a device agent waits, in the address space of this ASID and root table
  (16 R508; 19 R510; 23 R463). -/
  | agentUnanswerable (asid : BitVec 16) (root : Nat) (addr : Word)
deriving DecidableEq, Repr

/-- One core chosen for a member of a cohort, with the origins of its extents (02 R32; 07 R149). -/
structure BindSlot where
  cluster : Nat
  core : Nat
  bank : Bool
  abOrigin : Nat
  wbOrigin : Nat
deriving DecidableEq, Repr

/-- One page migration of 13 R281: the leaf entry's physical address, the page's size (0 for 64 KiB, 1 for 2 MiB, 2 for
1 GiB), and the tier and frame it moves to. -/
structure Migration where
  leaf : Nat
  size : Nat
  tier : Nat
  frame : Nat
deriving DecidableEq, Repr

/-- A permutation of the torus dimensions in which a route travels (23 R443). -/
inductive DimOrder where | xyz | xzy | yxz | yzx | zxy | zyx
deriving DecidableEq, Repr

/-- An access of the host to device memory (23 R465). -/
inductive HostAccess where
  | load (bytes : Nat)
  | store (bytes : List Byte)
deriving DecidableEq, Repr

/-- An access of a sandbox through the window of its tool context (19 R384). -/
inductive ToolAccess where
  | load (addr : Word) (bytes : Nat)
  | store (addr : Word) (bytes : List Byte)
  | fetch (addr : Word)
  /-- An engine carries bytes of the sandbox as far as a scope on the tool context's behalf. -/
  | transfer (addr : Word) (bytes : Nat) (scope : BitVec 3)
deriving DecidableEq, Repr

/-- A message header (23 R445). -/
structure MsgHeader where
  dest : Nat
  src : Nat
  cls : BitVec 2
  rel : Bool
  scope : BitVec 3
  len : Nat
  handler : Word
  name : BitVec 32
  member : Nat
  reg : Nat
  slot : Nat
  tag : Word
  arg0 : Word
  arg1 : Word
  arg2 : Word
  arg3 : Word
deriving DecidableEq, Repr

/-- How a boot ends: with every step done, with an image that does not verify (step 3), or with an interface that does not train (step 4; 28
R497). -/
inductive BootEnd where | ready | unverified | untrained
deriving DecidableEq, Repr

/-- A launch accepted on another node that hands cohorts to this one (21 R414; log entry 17): its identifier, its record and cohort table, and the
address space that it has on this package. -/
structure HandedLaunch where
  id : Word
  record : List Byte
  table : List Byte
  asid : BitVec 16
  root : Nat
deriving DecidableEq, Repr

/-- What reaches the management core about launches: the k-th record submitted here, for its check; one that another node accepted; an image that
software unloads, with its address space (06 R120); the end of a member of a cohort homed here that another node holds, as that node reports it
(17 R345; 21 R415); the word of another home that a cohort held here has its deferred arrivals (17 R348); and names that are set aside for a
standing binding (21 R420). -/
inductive RecordArrival where
  | submitted (k : Nat)
  | handed (l : HandedLaunch)
  | unload (asid : BitVec 16) (root : Nat) (image : Word)
  | memberEnded (name : BitVec 32) (member : Nat) (failed : Bool) (status : BitVec 16) (basin drops : Nat)
  | drained (name : BitVec 32)
  | stock (binding count : Nat)
deriving DecidableEq, Repr

/-- A save that the management core starts: the cohort and where its members' images go (14 R301). A cohort whose save
a CTXST has requested takes the descriptor's addresses instead (14 R313). fellows: the same for each other cohort of a COLOC launch, which is
pre-empted with it (21 R419). -/
structure SaveRequest where
  name : BitVec 32
  images : List (Nat × Word)
  fellows : List (BitVec 32 × List (Nat × Word))
deriving DecidableEq, Repr

/-- What another package hands over beside the images of a cohort that moves here (02 R35; 17 R345; log entry 20): its members at binding, those
that were saved, what its bind records held of the address space, the heap and the run-list blocks (member m at blocks + 64 m), whether its
launch targets quay cores, its members' registrations at barriers (18 R370), and the names of its launch's cohorts by stage and number (17
R364). -/
structure HandedCohort where
  nmem : Nat
  members : List Nat
  asid : BitVec 16
  root : Nat
  heapBase : Nat
  heapSize : Nat
  blocks : Word
  quay : Bool
  regs : List (Nat × Nat)
  peers : List (BitVec 4 × Nat × BitVec 32)
deriving DecidableEq, Repr

/-- A restore: the cohort, where its images lie unless a CTXLD has named them, and the chosen cores (14 R306). -/
structure RestoreRequest where
  name : BitVec 32
  images : List (Nat × Word)
  slots : List BindSlot
  handed : Option HandedCohort
deriving DecidableEq, Repr

/-- This package's place in a pod: its node, and the nodes that are absent, stopped or cut off (23 R440; 12 R251). -/
structure PodPlace where
  node : Nat
  lost : List Nat
deriving DecidableEq, Repr

end Sys2Proof
end

