-- ==== Sys2Proof/Syntax.lean ====
section
/-! DEFINITION. The instructions and the events of spec/opcode_table.json, one constructor per row.
An instruction carries the operand fields of its word; an event carries what names its occasion.
Each docstring cites the rule of spec/ that gives the row its meaning. -/

namespace Sys2Proof

/-- One row of the opcode table: 185 instructions (05 R102 to R108) and 111 events. -/
inductive Instr where
  /-- NOP: 06 R142. -/
  | nop (o : Sync)
  /-- ADD: 06 R127. -/
  | add (o : SR)
  /-- SUB: 06 R127. -/
  | sub (o : SR)
  /-- MUL: 06 R127. -/
  | mul (o : SR)
  /-- DIV: 06 R127. -/
  | div (o : SR)
  /-- DIVU: 06 R127. -/
  | divu (o : SR)
  /-- REM: 06 R127. -/
  | rem (o : SR)
  /-- REMU: 06 R127. -/
  | remu (o : SR)
  /-- AND: 06 R127. -/
  | and_ (o : SR)
  /-- OR: 06 R127. -/
  | or_ (o : SR)
  /-- XOR: 06 R127. -/
  | xor_ (o : SR)
  /-- SHL: 06 R127. -/
  | shl (o : SR)
  /-- SHR: 06 R127. -/
  | shr (o : SR)
  /-- SRA: 06 R127. -/
  | sra (o : SR)
  /-- SLT: 06 R127. -/
  | slt (o : SR)
  /-- SLTU: 06 R127. -/
  | sltu (o : SR)
  /-- MIN: 06 R127. -/
  | min (o : SR)
  /-- MINU: 06 R127. -/
  | minu (o : SR)
  /-- MAX: 06 R127. -/
  | max (o : SR)
  /-- MAXU: 06 R127. -/
  | maxu (o : SR)
  /-- CLZ: 06 R127. -/
  | clz (o : SR)
  /-- CTZ: 06 R127. -/
  | ctz (o : SR)
  /-- POPC: 06 R127. -/
  | popc (o : SR)
  /-- ADDI: 06 R128. -/
  | addi (o : SI)
  /-- MULI: 06 R128. -/
  | muli (o : SI)
  /-- DIVI: 06 R128. -/
  | divi (o : SI)
  /-- REMI: 06 R128. -/
  | remi (o : SI)
  /-- DIVUI: 06 R128. -/
  | divui (o : SI)
  /-- REMUI: 06 R128. -/
  | remui (o : SI)
  /-- SLTI: 06 R128. -/
  | slti (o : SI)
  /-- SLTUI: 06 R128. -/
  | sltui (o : SI)
  /-- ANDI: 06 R128. -/
  | andi (o : SI)
  /-- ORI: 06 R128. -/
  | ori (o : SI)
  /-- XORI: 06 R128. -/
  | xori (o : SI)
  /-- SHLI: 06 R128. -/
  | shli (o : SI)
  /-- SHRI: 06 R128. -/
  | shri (o : SI)
  /-- SRAI: 06 R128. -/
  | srai (o : SI)
  /-- LI: 06 R129. -/
  | li (o : LI)
  /-- LUI: 06 R129. -/
  | lui (o : LI)
  /-- LEA: 06 R129. -/
  | lea (o : LI)
  /-- SEL: 06 R130. -/
  | sel (o : SR)
  /-- PCMP: 06 R131. -/
  | pcmp (c : PCond) (o : SR)
  /-- PAND: 06 R132. -/
  | pand (o : SR)
  /-- POR: 06 R132. -/
  | por (o : SR)
  /-- PNOT: 06 R132. -/
  | pnot (o : SR)
  /-- B: 06 R134. -/
  | b (o : BR)
  /-- CALL: 06 R134. -/
  | call (o : BR)
  /-- RET: 06 R134. -/
  | ret (o : BR)
  /-- LOOP: 06 R135. -/
  | loop (o : BR)
  /-- ROTSET: 06 R136. -/
  | rotset (o : SI)
  /-- CSRR: 06 R137. -/
  | csrr (o : SI)
  /-- CSRW: 06 R137. -/
  | csrw (o : SI)
  /-- CSRS: 06 R137. -/
  | csrs (o : SI)
  /-- CSRC: 06 R137. -/
  | csrc (o : SI)
  /-- SLIP: 06 R125. -/
  | slip (o : SI)
  /-- QSYNC: 06 R126. -/
  | qsync (o : SI)
  /-- SHP: 06 R138. -/
  | shp (o : SR)
  /-- SHPX: 06 R139. -/
  | shpx (c : ShpxField) (o : SI)
  /-- FEAT: 06 R141. -/
  | feat (o : SI)
  /-- BELLS: 06 R140. -/
  | bells (o : SI)
  /-- BELLW: 06 R140. -/
  | bellw (o : SI)
  /-- TRAP: 06 R143. -/
  | trap (o : SI)
  /-- BRK: 06 R143. -/
  | brk (o : SI)
  /-- EXIT: 06 R144. -/
  | exit (o : SI)
  /-- YIELD: 14 R315. -/
  | yield (o : SI)
  /-- SNAPR: 14 R316. -/
  | snapr (o : SR)
  /-- LD: 06 R145. -/
  | ld (o : M)
  /-- LDU: 06 R145. -/
  | ldu (o : M)
  /-- ST: 06 R145. -/
  | st (o : M)
  /-- LDA: 12 R265. -/
  | lda (o : M)
  /-- STL: 12 R265. -/
  | stl (o : M)
  /-- AMO: 12 R266. -/
  | amo (o : M)
  /-- AMOCAS: 12 R267. -/
  | amocas (o : M)
  /-- RED: 12 R268. -/
  | red (o : M)
  /-- FENCE: 12 R271. -/
  | fence (o : M)
  /-- WAITV: 12 R272. -/
  | waitv (o : M)
  /-- DCWB: 12 R273. -/
  | dcwb (o : M)
  /-- DCINV: 12 R273. -/
  | dcinv (o : M)
  /-- XLAT: 13 R293. -/
  | xlat (o : M)
  /-- MIGR: 13 R294. -/
  | migr (o : M)
  /-- HALLOC: 13 R295. -/
  | halloc (o : M)
  /-- HFREE: 13 R296. -/
  | hfree (o : M)
  /-- TLBINV: 13 R297. -/
  | tlbinv (o : SR)
  /-- CTXST: 14 R313. -/
  | ctxst (o : SR)
  /-- CTXLD: 14 R314. -/
  | ctxld (o : SR)
  /-- MWRR: 10 R224. -/
  | mwrr (o : SI)
  /-- BINIT: 18 R373. -/
  | binit (o : SR)
  /-- BREG: 18 R374. -/
  | breg (o : SR)
  /-- BARV: 18 R375. -/
  | barv (o : SR)
  /-- BARW: 18 R376. -/
  | barw (o : SR)
  /-- BARVW: 18 R376. -/
  | barvw (o : SR)
  /-- BDROP: 18 R375. -/
  | bdrop (o : SR)
  /-- BTEST: 18 R377. -/
  | btest (o : SR)
  /-- TLD: 07 R163. -/
  | tld (o : T)
  /-- TLDX: 07 R163. -/
  | tldx (o : T)
  /-- TLDV: 07 R164. -/
  | tldv (o : T)
  /-- VLDB: 07 R164. -/
  | vldb (o : T)
  /-- TGATH: 07 R165. -/
  | tgath (o : T)
  /-- VGATH: 07 R165. -/
  | vgath (o : T)
  /-- TFILL: 07 R166. -/
  | tfill (o : T)
  /-- TCPY: 07 R167. -/
  | tcpy (o : T)
  /-- VLDT: 07 R168. -/
  | vldt (o : T)
  /-- UNFCFG: 07 R171. -/
  | unfcfg (o : T)
  /-- PFT: 07 R170. -/
  | pft (o : T)
  /-- TSTAT: 07 R169. -/
  | tstat (o : T)
  /-- TST: 07 R172. -/
  | tst (o : T)
  /-- TSTV: 07 R172. -/
  | tstv (o : T)
  /-- TSCAT: 07 R173. -/
  | tscat (o : T)
  /-- VSTT: 07 R174. -/
  | vstt (o : T)
  /-- TREL: 07 R175. -/
  | trel (o : T)
  /-- VADD: 08 R188. -/
  | vadd (o : V)
  /-- VSUB: 08 R188. -/
  | vsub (o : V)
  /-- VMUL: 08 R188. -/
  | vmul (o : V)
  /-- VFMA: 08 R188. -/
  | vfma (o : V)
  /-- VFMS: 08 R188. -/
  | vfms (o : V)
  /-- VMIN: 08 R189. -/
  | vmin (o : V)
  /-- VMAX: 08 R189. -/
  | vmax (o : V)
  /-- VABS: 08 R189. -/
  | vabs (o : V)
  /-- VNEG: 08 R189. -/
  | vneg (o : V)
  /-- VRCP: 09 R215. -/
  | vrcp (o : V)
  /-- VRSQ: 09 R215. -/
  | vrsq (o : V)
  /-- VSQRT: 09 R215. -/
  | vsqrt (o : V)
  /-- VEXP2: 09 R215. -/
  | vexp2 (o : V)
  /-- VLOG2: 09 R215. -/
  | vlog2 (o : V)
  /-- VCMP: 08 R190. -/
  | vcmp (o : V)
  /-- VSELM: 08 R191. -/
  | vselm (o : V)
  /-- VAND: 08 R193. -/
  | vand (o : V)
  /-- VOR: 08 R193. -/
  | vor (o : V)
  /-- VXOR: 08 R193. -/
  | vxor (o : V)
  /-- VNOT: 08 R193. -/
  | vnot (o : V)
  /-- VSHL: 08 R194. -/
  | vshl (o : V)
  /-- VSHR: 08 R194. -/
  | vshr (o : V)
  /-- VCVT: 08 R200. -/
  | vcvt (o : V)
  /-- VQNT: 08 R201. -/
  | vqnt (o : V)
  /-- VDQNT: 08 R202. -/
  | vdqnt (o : V)
  /-- VBCAST: 08 R197. -/
  | vbcast (o : V)
  /-- VMOV: 08 R195. -/
  | vmov (o : V)
  /-- VMOV_FROM_CHANNEL: 08 R196. -/
  | vmovFrom (o : V)
  /-- VMOV_TO_CHANNEL: 08 R196. -/
  | vmovTo (o : V)
  /-- VEXT: 08 R198. -/
  | vext (o : V)
  /-- VINS: 08 R199. -/
  | vins (o : V)
  /-- VREDSUM: 09 R206. -/
  | vredsum (o : V)
  /-- VREDMAX: 09 R207. -/
  | vredmax (o : V)
  /-- VREDMIN: 09 R207. -/
  | vredmin (o : V)
  /-- VARGMAX: 09 R210. -/
  | vargmax (o : V)
  /-- VARGMIN: 09 R210. -/
  | vargmin (o : V)
  /-- VSCAN: 09 R211. -/
  | vscan (o : V)
  /-- VTRN: 09 R212. -/
  | vtrn (o : V)
  /-- VSHF: 09 R213. -/
  | vshf (o : V)
  /-- VPERMR: 09 R214. -/
  | vpermr (o : V)
  /-- VBADDQ: 09 R219. -/
  | vbaddq (o : V)
  /-- VRNG: 09 R218. -/
  | vrng (o : V)
  /-- VMLOG: 08 R192. -/
  | vmlog (o : V)
  /-- MMA: 10 R239. -/
  | mma (o : X)
  /-- MMAZ: 10 R232. -/
  | mmaz (o : X)
  /-- MMAU: 10 R232. -/
  | mmau (o : X)
  /-- AMLD: 10 R240. -/
  | amld (o : X)
  /-- AMLD_STAT: 10 R240. -/
  | amldStat (o : X)
  /-- AMST: 10 R241. -/
  | amst (o : X)
  /-- AMZ: 10 R242. -/
  | amz (o : X)
  /-- MHINT: 10 R243. -/
  | mhint (o : X)
  /-- MSYNC: 10 R244. -/
  | msync (o : X)
  /-- RSTV: 17 R361. -/
  | rstv (o : N)
  /-- RSTV_REL: 17 R355. -/
  | rstvRel (o : N)
  /-- VEXP: 17 R363. -/
  | vexp (o : N)
  /-- CNAME: 17 R364. -/
  | cname (o : N)
  /-- AMSG: 23 R458. -/
  | amsg (o : N)
  /-- MCST: 23 R459. -/
  | mcst (o : N)
  /-- REDST: 23 R461. -/
  | redst (o : N)
  /-- CPY: 23 R463. -/
  | cpy (o : N)
  /-- CPYW: 23 R464. -/
  | cpyw (o : N)
  /-- TASKQ: 16 R339. -/
  | taskq (o : N)
  /-- TASKDEC: 16 R340. -/
  | taskdec (o : N)
  /-- TEND: 16 R341. -/
  | tend (o : N)
  /-- QSNAP: 16 R342. -/
  | qsnap (o : N)
  /-- FCALL: 19 R397. -/
  | fcall (o : N)
  /-- FWAIT: 19 R398. -/
  | fwait (o : N)
  /-- FPOLL: 19 R399. -/
  | fpoll (o : N)
  /-- FDONE: 19 R399. -/
  | fdone (o : N)
  /-- FLINK: 19 R401. -/
  | flink (o : N)
  /-- FCANCEL: 19 R399. -/
  | fcancel (o : N)
  /-- ADREF: 19 R402. -/
  | adref (o : N)
  /-- LAUNCH: 21 R432. -/
  | launch (o : N)
  /-- GRAPHGO: 21 R433. -/
  | graphgo (o : N)
  /-- HRING: 21 R434. -/
  | hring (o : N)
  /-- UNASSIGNED_MAJOR_OPCODE: 05 R109: the control unit meets this word, whose major opcode is unassigned. -/
  | unassignedMajorOpcode (w : Word)
  /-- QUEUE_ISSUE: 02 R41: the head of queue q of context c issues if every condition holds. -/
  | queueIssue (c : CtxRef) (q : Queue)
  /-- ENGINE_COMPLETION: 02 R42: the oldest issued operation of queue q completes. -/
  | engineCompletion (c : CtxRef) (q : Queue)
  /-- PAGE_FAULT_ANSWER: 13 R287: the management core answers the oldest line of the fault record. -/
  | pageFaultAnswer (c : CtxRef) (a : FaultAnswer)
  /-- TRAP_DECISION: 26 R477: the handler's decision, or the default, is carried out. -/
  | trapDecision (c : CtxRef)
  /-- WATCHDOG_EXPIRY: 02 R46. -/
  | watchdogExpiry (c : CtxRef)
  /-- EXIT_TAKES_EFFECT: 02 R37. -/
  | exitTakesEffect (c : CtxRef)
  /-- TEND_TAKES_EFFECT: 16 R341. -/
  | tendTakesEffect (c : CtxRef)
  /-- BANK_SWITCH: 14 R300: the bank of context c becomes the active one of its core. -/
  | bankSwitch (c : CtxRef)
  /-- COHORT_SAVE: 14 R301: the save of a cohort runs. -/
  | cohortSave (r : SaveRequest)
  /-- SAVE_DONE: 14 R303. -/
  | saveDone (name : BitVec 32)
  /-- COHORT_RESTORE: 14 R306. -/
  | cohortRestore (r : RestoreRequest)
  /-- COHORT_MIGRATION: 02 R35: a saved cohort is moved. -/
  | cohortMigration (name : BitVec 32) (node : Nat) (cluster : Nat)
  /-- COHORT_BIND: 21 R418: cohort k of a launch is bound to these slots. -/
  | cohortBind (launch : Nat) (k : Nat) (slots : List BindSlot)
  /-- STANDING_BIND: 21 R421. -/
  | standingBind (launch : Nat) (k : Nat) (slots : List BindSlot)
  /-- LAUNCH_RECORD_ARRIVAL: 21 R412, R414: a submitted record is checked, or cohorts are handed to this node. -/
  | launchRecordArrival (r : RecordArrival)
  /-- LAUNCH_COMPLETION: 21 R416. -/
  | launchCompletion (launch : Nat)
  /-- LAUNCH_DOORBELL: 21 R413. -/
  | launchDoorbell (pa : Nat)
  /-- GRAPH_DOORBELL: 21 R413. -/
  | graphDoorbell (pa : Nat)
  /-- NODE_LAUNCH: 21 R423. -/
  | nodeLaunch (walk : Nat)
  /-- NODE_COPY: 21 R423. -/
  | nodeCopy (walk : Nat)
  /-- NODE_WAIT_ON_WORD: 21 R423. -/
  | nodeWaitOnWord (walk : Nat)
  /-- NODE_SIGNAL_WORD: 21 R423. -/
  | nodeSignalWord (walk : Nat)
  /-- NODE_CONDITIONAL: 21 R424. -/
  | nodeConditional (walk : Nat)
  /-- NODE_HOST_RING_DRAIN: 21 R429. -/
  | nodeHostRingDrain (walk : Nat)
  /-- NODE_END: 21 R423. -/
  | nodeEnd (walk : Nat)
  /-- GRAPH_WAIT_TIMEOUT: 21 R425. -/
  | graphWaitTimeout (walk : Nat)
  /-- HOST_RING_TIME_RULE: 21 R429. -/
  | hostRingTimeRule (r : Nat)
  /-- MATRIX_GRANT: 10 R223. -/
  | matrixGrant (bench : Nat)
  /-- MATRIX_COMPLETION: 10 R233. -/
  | matrixCompletion (c : CtxRef)
  /-- LEVEL_STEP: 10 R234. -/
  | levelStep (bench : Nat)
  /-- MHINT_HOLD_EXPIRY: 10 R234. -/
  | mhintHoldExpiry (bench : Nat)
  /-- TASK_DEQUEUE: 16 R332. -/
  | taskDequeue (c : CtxRef)
  /-- STEAL_ATTEMPT: 16 R333. -/
  | stealAttempt (c : CtxRef)
  /-- RUN_LIST_REFILL: 16 R331. -/
  | runListRefill (c : CtxRef)
  /-- TASK_DECREMENT_ARRIVAL: 16 R328: message k in flight reaches its home. -/
  | taskDecrementArrival (k : Nat)
  /-- COUNTER_SETTING_ARRIVAL: 16 R339. -/
  | counterSettingArrival (k : Nat)
  /-- REGISTER_STORE_ARRIVAL: 17 R352. -/
  | registerStoreArrival (k : Nat)
  /-- BUSY_RETRY: 17 R353. -/
  | busyRetry (k : Nat)
  /-- DEFERRED_DELIVERY: 17 R348. -/
  | deferredDelivery (name : BitVec 32)
  /-- ACTIVE_MESSAGE_ARRIVAL: 23 R455. -/
  | activeMessageArrival (k : Nat)
  /-- REMOTE_LOAD: 23 R454. -/
  | remoteLoad (k : Nat)
  /-- REMOTE_STORE: 23 R454. -/
  | remoteStore (k : Nat)
  /-- REMOTE_ATOMIC: 12 R252. -/
  | remoteAtomic (k : Nat)
  /-- BLOCK_REDUCTION: 23 R462. -/
  | blockReduction (quay : Nat)
  /-- COPY_COMPLETE: 23 R463. -/
  | copyComplete (k : Nat)
  /-- RED_POISON_TRAP: 12 R270. -/
  | redPoisonTrap (c : CtxRef)
  /-- WAITV_REREAD: 12 R272. -/
  | waitvReread (c : CtxRef)
  /-- BARRIER_WAIT_END: 18 R376. -/
  | barrierWaitEnd (c : CtxRef)
  /-- RESOLVE_OK: 19 R386. -/
  | resolveOk (tool : Nat) (handle : Word)
  /-- RESOLVE_ERR: 19 R386. -/
  | resolveErr (tool : Nat) (handle : Word)
  /-- RESOLVE_OUTCOME: 19 R386. -/
  | resolveOutcome (tool : Nat)
  /-- REMOTE_RESOLVE: 19 R387. -/
  | remoteResolve (payload : List Byte)
  /-- FUTURE_DEADLINE: 19 R390. -/
  | futureDeadline (index : Nat)
  /-- FUTURE_RESOLUTION: 19 R388. -/
  | futureResolution (index : Nat)
  /-- ADAPTER_LOAD_DONE: 19 R395: the load of an entry at an HBM4E address ends, with cause 0 on success. -/
  | adapterLoadDone (entry : Nat) (addr : Nat) (cause : Nat)
  /-- SANDBOX_VIOLATION: 19 R385. -/
  | sandboxViolation (tool : Nat) (addr : Word)
  /-- PAGE_MIGRATION: 13 R281. -/
  | pageMigration (m : Migration)
  /-- PACKET_RECEIVE: 23 R446. -/
  | packetReceive (port : Nat) (flits : List (List Byte))
  /-- ACK_RECEIVE: 23 R446. -/
  | ackReceive (port : Nat) (seq : Nat)
  /-- NAK_RECEIVE: 23 R446. -/
  | nakReceive (port : Nat) (seq : Nat)
  /-- REPLAY_DONE: 23 R447. -/
  | replayDone (port : Nat)
  /-- LANE_FAILURE: 23 R447. -/
  | laneFailure (port : Nat) (lane : Nat)
  /-- LINK_TRAINED: 23 R448: with the expected number that the far end sent. -/
  | linkTrained (port : Nat) (seq : Nat)
  /-- RETRAIN_TIMEOUT: 23 R447. -/
  | retrainTimeout (port : Nat)
  /-- TRAINING_REQUEST: 23 R447. -/
  | trainingRequest (port : Nat)
  /-- DETOUR_INSTALL: 23 R443. -/
  | detourInstall (dest : Nat) (order : DimOrder)
  /-- KEY_PHASE_SWITCH: 23 R452. -/
  | keyPhaseSwitch (port : Nat)
  /-- RETIRE_RECEIVE: 23 R452. -/
  | retireReceive (port : Nat)
  /-- PARTITION_DISSOLVE: 23 R453. -/
  | partitionDissolve (ports : List Nat)
  /-- HOST_SNOOP: 23 R467. -/
  | hostSnoop (line : Nat) (exclusive : Bool)
  /-- HOST_ATOMIC: 23 R465. -/
  | hostAtomic (pa : Nat) (op : BitVec 4) (double : Bool) (x : Word)
  /-- PATROL_SCRUB: 26 R482. -/
  | patrolScrub (line : Nat) (bad : Bool) (synd : BitVec 16)
  /-- RECESS_START: 10 R220. -/
  | recessStart (bench : Nat)
  /-- RECESS_END: 26 R485. -/
  | recessEnd (bench : Nat) (failing : Option (BitVec 16))
  /-- POWER_WINDOW: 28 R506. -/
  | powerWindow (watts : Nat) (celsius : Nat)
  /-- COLD_RESET: 28 R497. -/
  | coldReset (boots : BootEnd)
  /-- WARM_RESET: 28 R497. -/
  | warmReset (boots : BootEnd)
  /-- TRACE_TAIL_FLUSH: 27 R487. -/
  | traceTailFlush (ring : Nat)
  /-- SAMPLE: 27 R488. -/
  | sample (c : CtxRef)
  /-- TRIGGER_ARM: 27 R489. -/
  | triggerArm (n : Nat) (value : Word)
  /-- FREEZE: 27 R493. -/
  | freeze (domains : BitVec 5)
  /-- THAW: 27 R493. -/
  | thaw (domains : BitVec 5)
  /-- MCB_STATUS_CLEAR: 26 R480. -/
  | mcbStatusClear (bank : Nat) (value : Word)
  /-- REGISTER_WINDOW_WRITE: 28 R511. -/
  | registerWindowWrite (offset : Nat) (value : Word)
  /-- HOST_MEMORY_ACCESS: 23 R465. -/
  | hostMemoryAccess (pa : Nat) (access : HostAccess)
  /-- TOOL_CORE_ACCESS: 19 R384. -/
  | toolCoreAccess (tool : Nat) (access : ToolAccess)
  /-- CREDIT_RECEIVE: 23 R442. -/
  | creditReceive (port : Nat) (cls : Nat) (vc : Nat) (n : Nat)
  /-- WAIT_ON_WORD_REREAD: 21 R423. -/
  | waitOnWordReread (walk : Nat)
  /-- HOST_LINK_LOSS: 26 R481. -/
  | hostLinkLoss (lost : Bool) (synd : BitVec 16)
  /-- DIE_TO_DIE_LINK_EVENT: 26 R481. -/
  | dieToDieLinkEvent (link : Nat) (synd : BitVec 16)
  /-- POD_FORMATION: 23 R440. -/
  | podFormation (dx : Nat) (dy : Nat) (dz : Nat) (place : PodPlace)
  /-- CLOCK_STEP_UP: 28 R506. -/
  | clockStepUp
  /-- FIRMWARE_SWITCH: 28 R499. -/
  | firmwareSwitch
  /-- DEBUG_HOLD_ENTER: 27 R493. -/
  | debugHoldEnter
  /-- KEYSET: 28 R505: the management core serves the command at the head of its queue, if it is this one. -/
  | keyset
  /-- KEYERASE: 28 R505: the management core serves the command at the head of its queue, if it is this one. -/
  | keyerase
  /-- TOOL: 28 R505: the management core serves the command at the head of its queue, if it is this one. -/
  | tool
  /-- ADAPTER: 28 R505: the management core serves the command at the head of its queue, if it is this one. -/
  | adapter
  /-- HANDLER: 28 R505: the management core serves the command at the head of its queue, if it is this one. -/
  | handler
  /-- BINDING: 28 R505: the management core serves the command at the head of its queue, if it is this one. -/
  | binding
  /-- TERMINATE: 21 R417: the management core serves the command at the head of its queue, if it is this one. -/
  | terminate
  /-- STOP: 27 R491: the management core serves the command at the head of its queue, if it is this one. -/
  | stop
  /-- RELEASE: 27 R491: the management core serves the command at the head of its queue, if it is this one. -/
  | release
  /-- SAMPLE_CONFIG: 28 R505: the management core serves the command at the head of its queue, if it is this one. -/
  | sampleConfig
  /-- SERVICE: 28 R507: the management core serves the command at the head of its queue, if it is this one. -/
  | service
  /-- UPDATE: 28 R499: the management core serves the command at the head of its queue, if it is this one. -/
  | update
  /-- ATTEST: 28 R500: the management core serves the command at the head of its queue, if it is this one. -/
  | attest
  /-- DEBUG_HOLD_EXIT: 27 R493. -/
  | debugHoldExit
  /-- LOCKSTEP_MISMATCH: 26 R481. -/
  | lockstepMismatch
  /-- SECURITY_BLOCK_FAULT: 26 R481. -/
  | securityBlockFault
deriving DecidableEq, Repr

end Sys2Proof
end

