-- ==== Sys2Proof/Machine/State.lean ====
section
/-! DEFINITION. The state of one package (node) of Ittos as plain data, the state after reset, and the reasons a step
can stop. Every field names the rule of spec/ that gives it to the machine. -/

namespace Sys2Proof.Machine

/-- Why the machine stops. -/
inductive Fault where
  /-- A fatal machine check has stopped every issue on the package (26 R484). Raised by step. Safe: the manual says so. -/
  | fatalMachineCheck
deriving DecidableEq, Repr

/-- Why the model answers no next state. -/
inductive Refusal where
  /-- The instruction has no meaning in this model yet. Raised by exec's arm alone. Safe: nothing is claimed. -/
  | notModelled (mnemonic : String)
  /-- The agenda holds an instruction of a word, which no event brings about. Raised by step. Safe: the agenda is the
  model's own input. -/
  | agendaHoldsNoEvent
deriving DecidableEq, Repr

/-- A shape slot (03 R57). -/
structure Shape where
  fmt : BitVec 4
  fill : BitVec 2
  rows : BitVec 12
  vrows : BitVec 12
  vcols : BitVec 16
  rowbytes : BitVec 16
  stride : BitVec 48
deriving DecidableEq, Repr

/-- The reset value of a shape slot, which h0 always holds (03 R57, R58). -/
def Shape.reset : Shape :=
  { fmt := 0, fill := 0, rows := 8, vrows := 8, vcols := 0xFFFF, rowbytes := 256, stride := 256 }

/-- STATE of a tile (03 R59; 07 R151). -/
inductive TileState where | empty | filling | ready | draining
deriving DecidableEq, Repr

/-- A tile table entry (03 R59). -/
structure Tile where
  state : TileState
  wb : Bool
  base : BitVec 18
  extent : BitVec 18
  fepoch : BitVec 8
  cepoch : BitVec 8
  readers : BitVec 8
  rpv : Bool
  rpoint : BitVec 19
  shape : Shape
deriving DecidableEq, Repr

/-- The reset value of a tile table entry (03 R59; 07 R153). -/
def Tile.reset : Tile :=
  { state := .empty, wb := false, base := 0, extent := 0, fepoch := 0, cepoch := 0, readers := 0, rpv := false,
    rpoint := 0, shape := Shape.reset }

/-- An unfolding slot (07 R171). -/
structure Unfold where
  kh : BitVec 8
  kw : BitVec 8
  sh : BitVec 4
  sw : BitVec 4
  dh : BitVec 4
  dw : BitVec 4
  pt : BitVec 8
  pb : BitVec 8
  pl : BitVec 8
  pr : BitVec 8
  ih : BitVec 16
  iw : BitVec 16
  c : BitVec 16
  layout : BitVec 2
deriving DecidableEq, Repr

/-- The reset value of an unfolding slot: the plain matrix, which f0 always holds (07 R171). -/
def Unfold.reset : Unfold :=
  { kh := 1, kw := 1, sh := 1, sw := 1, dh := 1, dw := 1, pt := 0, pb := 0, pl := 0, pr := 0, ih := 1, iw := 1, c := 1,
    layout := 0 }

/-- A hold record (03 R61); HELD is FEPOCH ≠ CEPOCH. -/
structure Hold where
  kind : BitVec 3
  fepoch : BitVec 8
  cepoch : BitVec 8
  readers : BitVec 8
  expect : BitVec 8
  arrived : BitVec 8
  rpv : Bool
  rpoint : BitVec 19
deriving DecidableEq, Repr

/-- The reset value of a hold record (03 R61). -/
def Hold.reset : Hold :=
  { kind := 0, fepoch := 0, cepoch := 0, readers := 0, expect := 0, arrived := 0, rpv := false, rpoint := 0 }

/-- ROT, the rotating region (03 R64, R66). -/
structure Rot where
  vw : BitVec 6
  vbase : BitVec 5
  pw : BitVec 3
  pbase : BitVec 2
deriving DecidableEq, Repr

/-- COORD, the coordinate of a context (03 R66; 00 R11). -/
structure Coord where
  node : BitVec 9
  cluster : BitVec 5
  core : BitVec 6
  stage : BitVec 4
  member : BitVec 6
deriving DecidableEq, Repr

/-- ACCSTAT (10 R227). -/
structure AccStat where
  int : Bool
  ckf : Bool
  rpv : Bool
  rchunk : BitVec 12
  flags : BitVec 6
deriving DecidableEq, Repr

/-- One entry of a channel buffer (03 R63). -/
structure ChanEntry where
  data : VReg
  tag : BitVec 4
deriving DecidableEq, Repr

/-- The R120 state of a context; unbound: there is no context. saved and exited are 06 R120's, saving 14 R298's. -/
inductive Life where | unbound | running | inactive | faulted | trapped | idle | saved | exited
deriving DecidableEq, Repr

/-- A queued instruction with what was captured when it was forwarded (02 R39; 16 R322). Vector register fields of the
instruction are physical. fills, schk, iaddr and born are the values that the manual fixes at forwarding and that the
entry's bytes do not hold: the fill shapes of the tiles' epochs (07 R153), CTX.SCHK (03 R67), the instruction's address, and
the cycle of its forwarding, which orders it among all that the context forwarded. -/
structure Entry where
  instr : Instr
  isVoid : Bool
  opa : Word
  opb : Word
  opc : Word
  epochs : List (BitVec 8)
  shapes : List Shape
  unf : Unfold
  fills : List Shape
  schk : Bool
  iaddr : Word
  born : Nat
deriving DecidableEq, Repr

/-- What an engine instruction does to a tile or register that it names: fills, reads or leaves a tile (07 R151); reads or
writes a register, does both, or loads it under a hold (03 R61). -/
inductive Role where | fill | read | leave | write | both | load
deriving DecidableEq, Repr

/-- A tile or a vector register that an engine instruction names. -/
structure Oper where
  isTile : Bool
  n : BitVec 6
  role : Role
deriving DecidableEq, Repr

/-- One engine queue (16 R321 to R324). issued: the head has issued and has not retired; rstart: it has recorded a
restart point; moved: rows or indices that a head in flight has transferred, where it has not reached its last one; last: the cycle of
the last issue (05 R92); gone: the cycle of the last retirement, in which no other head of the queue issues (16 R324); laid: the runs on poisoned lines
that the store in flight has written so far (12 R270). -/
structure EQueue where
  head : Nat
  entries : List Entry
  issued : Bool
  rstart : Bool
  moved : Option Nat
  last : Option Nat
  gone : Option Nat
  laid : List (Nat × Nat) := []
deriving DecidableEq, Repr

/-- What a vector-engine result changes when it becomes visible (08 R181 to R184). -/
inductive Visible where
  /-- Bytes of one register row. -/
  | row (reg : BitVec 6) (row : Nat) (sel data : BitVec 2048)
  /-- The format tag of a register. -/
  | tag (reg : BitVec 6) (tag : BitVec 4)
  /-- Bits of one mask row. -/
  | maskRow (m : BitVec 3) (row : Nat) (sel data : BitVec 512)
  /-- Sticky flags, set at completion. -/
  | flags (f : BitVec 6)
  /-- A bell rung at completion. -/
  | ring (b : BitVec 5)
  /-- An entry appended to the channel buffer of the next or the previous member. -/
  | send (next : Bool) (data : VReg) (tag : BitVec 4)
  /-- The tile operand has been read. -/
  | tileRead (t : BitVec 6)
  /-- A register operand has been read. -/
  | regRead (reg : BitVec 6)
  /-- The instruction that wrote a register is complete (03 R61). -/
  | wrote (reg : BitVec 6)
deriving DecidableEq, Repr

/-- An access kind for translation (13 R279). -/
inductive Access where | load | store | rmw | fetch
deriving DecidableEq, Repr

/-- One line of a fault record (13 R287). queue is numbered as in the trap record. -/
structure FaultLine where
  queue : Nat
  iaddr : Word
  vaddr : Word
  access : Access
  cause : BitVec 7
  malformed : Bool
deriving DecidableEq, Repr

/-- A trap record (26 R476), less the fields that the context itself holds. -/
structure TrapRec where
  cause : BitVec 7
  queue : Nat
  resumable : Bool
  mc : Bool
  secondary : Bool
  code : BitVec 16
  pc : Word
  iaddr : Word
  vaddr : Word
  info : Word
deriving DecidableEq, Repr

/-- An expectation opened by VEXP that has not closed: its register and the bell to ring at its close (17 R363). -/
structure Expect where
  reg : BitVec 6
  ring : BitVec 5
deriving DecidableEq, Repr

/-- What started an activation (02 R31; 27 R487). -/
inductive ActCause where
  | launch
  /-- A task, with the address of its record. -/
  | task (record : Word)
  /-- A message, with its header's TAG. -/
  | message (tag : Word)
deriving DecidableEq, Repr

/-- An arrival: the header of 17 R350 and its 2,048 data bytes. -/
structure Arrival where
  name : BitVec 32
  member : Nat
  reg : Nat
  rows : BitVec 8
  tag : BitVec 4
  kind : Nat
  rel : Bool
  scope : BitVec 3
  seq : Nat
  sender : Word
  stataddr : Word
  stamp : Nat
  record : Word
  value : Nat
  data : VReg
deriving DecidableEq, Repr

/-- A message waiting in an inbox: its arrival header, and the message's own header and payload (23 R455). -/
structure InboxMsg where
  arr : Arrival
  bytes : List Byte
deriving DecidableEq, Repr

/-- What the control unit's own instruction waits for, so far as 02 R46 asks: a barrier, a bell, or the end of what was forwarded
(QSYNC, SLIP, EXIT). -/
inductive OutsideWait where
  | none
  | barrier
  | bell (b : BitVec 5)
  | drain
deriving DecidableEq, Repr

/-- What a read of a watched location finds: its bytes, and those of its lines. -/
structure Glance where
  bytes : List Byte
  lines : List Byte
deriving DecidableEq, Repr

/-- The location that a WAITV watches (12 R272): the waiting instruction's address, the runs of bytes that its first read translated,
whether they lie outside the caches (another package or a scratchpad window), the bytes of the lines as last read, what a read that is due in
the cycle under way finds, and the cycle of the last read. -/
structure Watch where
  pc : Word
  segs : List (Nat × Nat)
  away : Bool
  seen : List Byte
  again : Option Glance
  last : Nat
deriving DecidableEq, Repr

/-- A SLIP at work (16 R325): its queue, the last cycle of the move, and whether the move still goes on. -/
structure Slip where
  queue : Nat
  until_ : Nat
  live : Bool
deriving DecidableEq, Repr

/-- One context (03). -/
structure Ctx where
  /-- R120 state of the context. -/
  life : Life
  /-- Scalar registers s0 to s31 (03 R51); reads go through sreg. -/
  s : Vector Word 32
  /-- Predicates p0 to p7 (03 R51); reads go through preg. -/
  p : Vector Bool 8
  /-- Vector registers v0 to v63, physical numbers (03 R53). -/
  v : Vector VReg 64
  /-- Their format tags (03 R54). -/
  tags : Vector (BitVec 4) 64
  /-- Masks m0 to m7 (03 R56); reads go through mreg. -/
  m : Vector Mask 8
  /-- Shape slots (03 R57). -/
  h : Vector Shape 16
  /-- The tile table (03 R59). -/
  t : Vector Tile 64
  /-- Unfolding slots (07 R171). -/
  f : Vector Unfold 16
  /-- Hold records (03 R61). -/
  holds : Vector Hold 64
  /-- Bells; entry 0 is unused (03 R62). rung: the bells rung in the cycle under way, whose counts grow at its end (02 R45). -/
  bells : Vector (BitVec 8) 32
  rung : List (BitVec 5)
  /-- Operands whose tile or hold an operation of the cycle under way has changed: it lets nothing issue before the next (02 R45). -/
  fresh : List Oper
  /-- Entries of the incoming buffers from the previous and the next member, oldest first (03 R63). -/
  vprev : List ChanEntry
  vnext : List ChanEntry
  /-- The control-stream program counter (02 R25). -/
  pc : Word
  /-- CTX (03 R66). -/
  priv : Bool
  sealed : Bool
  bank : Bool
  schk : Bool
  /-- FLAGS: SAT NX UF OF DZ NV from bit 5 down (03 R66). -/
  flags : BitVec 6
  rot : Rot
  lcnt : Word
  /-- SLIPD, depths of LQ SQ AQ MQ NQ (03 R66). -/
  slipd : Vector (BitVec 8) 5
  /-- The SLIP at work, or the last one (16 R325). -/
  slip : Option Slip
  /-- QWDOG.LIMIT and the count of 02 R46, in cycles. -/
  qwdog : BitVec 32
  wdog : Nat
  srkey : Word
  srctr : Word
  coord : Coord
  /-- CSR COHORT: name and member count at binding. -/
  cohort : BitVec 32
  nmem : Nat
  /-- CSR LAUNCH. -/
  launch : Word
  /-- CSR CYCLE. -/
  cycle : Word
  /-- ACTNO (27 R486). -/
  actno : Word
  /-- The five queues. -/
  lq : EQueue
  sq : EQueue
  aq : EQueue
  mq : EQueue
  nq : EQueue
  /-- Cycles of the core since the context was bound or restored, in every state (05 R92), and the control unit's last turn. -/
  clk : Nat
  lastTurn : Option Nat
  /-- The value of clk when the context last became active (02 R36). -/
  since : Nat
  /-- The control unit's last turn stalled: on its own instruction, or on the depth of a queue (02 R46). -/
  held : Option Bool
  /-- The location under a WAITV's watch (12 R272). -/
  watch : Option Watch
  /-- Vector-engine results on their way, with the cycle of their visibility (08 R183), and the cycle from which the
  vector engine is free again (08 R181). -/
  pending : List (Nat × Visible)
  aqFree : Nat
  /-- Open expectations of VEXP. -/
  expects : List Expect
  /-- Operations handed to the message port that have not completed, by their serial number (02 R42). -/
  handed : List Nat
  /-- Matrix commands whose chunks are fetched and not yet all added (10 R225, R233): the time of completion and the bell to
  ring; for the operation at MQ's head, the time of its first fetch cycle and of its retirement; and the cycle in which a command last
completed. -/
  mqDone : List (Nat × BitVec 5)
  mqFirst : Nat
  mqLast : Nat
  mqEnded : Option Nat
  /-- The accumulator partition and ACCSTAT (10 R225, R227). -/
  acc : Partition
  accstat : AccStat
  /-- Declarations of the image header: extents and their origins in the physical buffers, ACC, CHAN, REQFEAT
  (02 R32; 06 R117; 07 R149). -/
  abext : Nat
  wbext : Nat
  abOrigin : Nat
  wbOrigin : Nat
  hasAcc : Bool
  hasChan : Bool
  reqfeat : Word
  /-- Address space (13 R274): ASID and root; heap base, 0 for none, and size in bytes (13 R290). -/
  asid : BitVec 16
  root : Nat
  heapBase : Nat
  heapSize : Nat
  /-- Key slot of a sealed context and SEAL.SAVECTR (14 R308, R317). -/
  keyslot : Nat
  savectr : BitVec 32
  /-- Basin entries in the last image (21 R417). -/
  basinSaved : Nat
  /-- The fault record, and the trap record of a trapped context. -/
  faultRec : List FaultLine
  trap : Option TrapRec
  /-- Traps that wait for the next boundary of the control stream (17 R361; 23 R457). -/
  after : List TrapRec
  /-- Run-list block address, hardware run list, and whether the next choice starts with the run list (16 R330 to R332). -/
  runBlock : Word
  runList : List Word
  listTurn : Bool
  /-- Global time at which the context last became idle, steal attempts that failed since, and which neighbour comes next
  (16 R327, R333). -/
  idleSince : Nat
  stealFails : Nat
  stealPrev : Bool
  /-- The value of clk then (16 R333); and whether the image under which the context is saved holds it idle (14 R304). -/
  idleAt : Nat
  savedIdle : Bool
  /-- Where the management core's own save has put the image (14 R301). -/
  imageAt : Option Word
  /-- The inbox, oldest first (23 R455). -/
  inbox : List InboxMsg
  /-- The current or last activation: its cause, entry and start time (02 R31; 27 R487). -/
  cause : ActCause
  entry : Word
  started : Nat
  /-- An EXIT that waits for the queues, with its status (06 R144). -/
  exiting : Option (BitVec 16)
  /-- The control unit waits on an event outside the core (02 R46). -/
  outside : OutsideWait
  /-- A stop of 27 R491 is in force. -/
  stopped : Bool
deriving DecidableEq, Repr

/-! ## The package -/

/-- A translation-cache entry (13 R280, R283). cache: 0 control, 1 load stream, 2 weight stream, 3 store stream,
4 + e the stream cache of copy engine e. -/
structure TlbEntry where
  cluster : Nat
  core : Nat
  cache : Nat
  asid : BitVec 16
  vbase : Nat
  size : Nat
  pte : Nat
  entry : Word
deriving DecidableEq, Repr

/-- The MOESI states of a directory entry (12 R250). -/
inductive Moesi where | m | o | e | s
deriving DecidableEq, Repr

/-- A directory entry of a line that some cache holds (12 R250). l1s: the cores whose L1 holds it, by package-wide number; inL2: the home slice's
copy holds data that memory lacks (12 R273). -/
structure LineDir where
  line : Nat
  state : Moesi
  owner : Nat
  sharers : BitVec 26
  l1s : List Nat
  inL2 : Bool
deriving DecidableEq, Repr

/-- A basin entry, in the basin of its core (17 R350). -/
structure BasinEntry where
  cluster : Nat
  core : Nat
  arr : Arrival
deriving DecidableEq, Repr

/-- An address space: ASID and the physical address of its root table; no root for physical addresses (13 R274; 28 R504). -/
structure Space where
  asid : BitVec 16
  root : Option Nat
deriving DecidableEq, Repr

/-- Where the outcome of an operation goes. -/
inductive Origin where
  | none
  /-- An NQ instruction of a context: its serial number, address, completion bell and status word, if sc names one. -/
  | ctx (c : CtxRef) (space : Space) (serial : Nat) (iaddr : Word) (ring : BitVec 5) (status : Option Word)
  /-- The linked decrement of the future with a handle (19 R392), with the space of the record. -/
  | link (handle : Word) (space : Space)
  /-- A message of another node, with its routing tag. -/
  | node (n : Nat) (tag : Word)
  /-- A unit of the copy with a number (23 R463). -/
  | copy (num : Nat)
  /-- An arrival that has left a deferred list (17 R348). -/
  | deferred
deriving DecidableEq, Repr

/-- What a message in flight carries. -/
inductive Load where
  /-- A register store, counter setting, task decrement or active message (17 R350); the last with its header and payload
  bytes. -/
  | arrival (a : Arrival) (bytes : List Byte)
  /-- A load, store or atomic that another package asks of this one (23 R454). -/
  | load (pa bytes : Nat)
  | store (pa : Nat) (bytes : List Byte)
  | atomic (pa : Nat) (op : BitVec 4) (double : Bool) (x y : Word)
  /-- A packet that waits for its port: a response or transit traffic (23 R442). vc and dim are those of its arrival, dim
  being 3 for a packet of this node. -/
  | packet (h : MsgHeader) (payload : List Byte) (vc : Bool) (dim : Nat)
deriving DecidableEq, Repr

/-- A message in flight, with its busy answers in a row and the time of the next attempt (17 R353). away: a packet has
carried it to another node, whose answer is awaited; parked: a task message that waits at its target's message port (16 R331); port: the
fabric port of its arrival (12 R269). -/
structure Flight where
  load : Load
  origin : Origin
  busy : Nat
  due : Nat
  away : Bool
  parked : Bool
  port : Nat
deriving DecidableEq, Repr

/-- Device writes to a task record that wait for an absent page (16 R508): the context concerned, the record, its fields, and the status that
COMPL takes. -/
structure Owed where
  ctx : Option CtxRef
  space : Space
  record : Word
  writes : List (Nat × List Byte)
  status : Nat
deriving DecidableEq, Repr

/-- A block update in a quay core's queue (23 R462): the REDST it belongs to, the keys of the destination's bytes and the source
block. -/
structure BlockJob where
  quay : Nat
  op : Nat
  fmt : BitVec 4
  keys : List Nat
  src : List Byte
deriving DecidableEq, Repr

/-- A REDST whose blocks wait in queues (23 R459): its number, where its outcome goes, its completion record, the destinations
written, the cause and the address of the first denied one, and the destinations with their length. -/
structure Reduction where
  op : Nat
  origin : Origin
  space : Space
  compl : Word
  written : Word
  cause : BitVec 7
  va : Word := 0
  all : Bool
  dests : List Word := []
  len : Nat := 0
deriving DecidableEq, Repr

/-- What a copy serves. -/
inductive CopyFor where
  | cpy (o : Origin)
  /-- CPYW, with FLAG, VALUE and STATUS of its command block. -/
  | cpyw (o : Origin) (flag value status : Word)
  /-- A copy node of a walk. -/
  | node (walk index : Nat)
deriving DecidableEq, Repr

/-- A copy that an engine runs (23 R463): its number, the bytes copied, those sent to another package beyond them, and the cause for which a unit
sent could not be delivered, or 0. -/
structure Copy where
  num : Nat
  serves : CopyFor
  space : Space
  src : Word
  dst : Word
  len : Nat
  done : Nat := 0
  ahead : Nat := 0
  broken : BitVec 7 := 0
deriving DecidableEq, Repr

/-- States of a directory entry (17 R345). -/
inductive DirState where | free | pending | resident | saving | saved | migrating | exited
deriving DecidableEq, Repr

/-- A directory entry (17 R345), with the deferred list and the registrations that the home keeps beside it
(17 R348; 18 R370). moveTo: where the management core moves a migrating cohort. -/
structure DirEntry where
  name : BitVec 32
  state : DirState
  stage : BitVec 4
  nmem : Nat
  draining : Bool
  live : BitVec 64
  launch : Word
  node : Nat
  cluster : Nat
  defcap : Nat
  defhead : Nat
  defring : Nat
  deferred : List Arrival
  regs : List (Nat × Nat)
  number : Nat
  moveTo : Option (Nat × Nat) := none
deriving DecidableEq, Repr

/-- A cohort held here whose home is another node (02 R35; 17 R345): its members' registrations at barriers, which move with its name (18 R370), the
names of its launch's cohorts by stage and number (17 R364), and whether its home still delivers its deferred arrivals (17 R348). -/
structure Guest where
  name : BitVec 32
  regs : List (Nat × Nat)
  peers : List (BitVec 4 × Nat × BitVec 32)
  draining : Bool
deriving DecidableEq, Repr

/-- A barrier block (18 R365). -/
structure Barrier where
  exp : Nat
  arr : Nat
  base : Nat
  phase : Nat
  scope : BitVec 3
  init : Bool
  wantsUnit : Bool
  bound : Bool
  dissolved : Bool
  owner : BitVec 32
  regcount : Nat
deriving DecidableEq, Repr

/-- A barrier held by a unit of a cluster (18 R366), named by the key of its block. -/
structure BarrierUnit where
  cluster : Nat
  key : Nat
  block : Barrier
deriving DecidableEq, Repr

/-- A barrier that operations reached in the cycle under way (18 R368, R378): its block as the cycle found it, with INIT clear where it held no
barrier, and the phases of the arrivals whose drops are still to be taken. -/
structure Meeting where
  key : Nat
  found : Barrier
  drops : List Nat
deriving DecidableEq, Repr

/-- What R117's header gives a binding. -/
structure Image where
  base : Word
  entry : Word
  acc : Bool
  chan : Bool
  reqfeat : Word
  cmin : Nat
  cmax : Nat
  stlo : Nat
  sthi : Nat
  abext : Nat
  wbext : Nat
  shapes : List (Nat × Shape)
  tiles : List (Nat × Word)
deriving DecidableEq, Repr

/-- A cohort of a launch (21 R410): its table entry, its name and its number within the stage. -/
structure LCohort where
  name : BitVec 32
  members : Nat
  stage : BitVec 4
  node : Nat
  cluster : Nat
  port : Nat
  number : Nat
  bound : Bool
deriving DecidableEq, Repr

/-- A member entry of a completion record (21 R415). -/
structure MemberEntry where
  kind : Nat
  basin : Nat
  drops : Nat
  status : Nat
deriving DecidableEq, Repr

/-- States of a launch (21 R414). -/
inductive LaunchState where | accepted | running | completing
deriving DecidableEq, Repr

/-- A launch accepted and not yet complete (21 R409 to R416). -/
structure Launch where
  id : Word
  state : LaunchState
  image : Image
  space : Space
  complSpace : Space
  compl : Word
  binding : Option Nat
  coloc : Bool
  priv : Bool
  isSealed : Bool
  keyslot : Nat
  args : List Word
  heapBase : Nat
  heapSize : Nat
  rltab : Word
  cohorts : List LCohort
  entries : List MemberEntry
  stampA : Nat
  stampF : Option Nat
  terminated : Bool
  adapters : List Nat
  walk : Option (Nat × Nat)
deriving DecidableEq, Repr

/-- Who submitted a launch record (21 R412, R413, R423). -/
inductive Submitter where
  | ctx (o : Origin) (out : Word)
  | walk (w index : Nat) (nowait : Bool)
  | host
deriving DecidableEq, Repr

/-- A submitted record that has not been checked (21 R414). -/
structure Submission where
  record : Word
  space : Space
  priv : Bool
  hostRead : Bool
  by_ : Submitter
deriving DecidableEq, Repr

/-- A standing binding's four words (21 R420); STOCK is names; QUEUED is the count of its launches' unbound cohorts. -/
structure Standing where
  w0 : Word
  w1 : Word
  w2 : Word
  stock : List (BitVec 32)
deriving DecidableEq, Repr

/-- The reset value of a standing binding. -/
def Standing.reset : Standing := { w0 := 0, w1 := 0, w2 := 0, stock := [] }

/-- A NOWAIT operation of a walk that has not finished, with its node. -/
structure NoWait where
  index : Nat
  launch : Option Word
deriving DecidableEq, Repr

/-- A graph walk (21 R422 to R425). started: its node has started, with these bytes, and has not finished; startedAt is the
global time of that start in ns. failed: the node, the cause and the time of the failure. -/
structure Walk where
  num : Nat
  g : Word
  nnodes : Nat
  space : Space
  priv : Bool
  compl : Option Word
  node : Nat
  started : Bool
  startedAt : Nat
  body : List Byte
  nowait : List NoWait
  failed : Option (Nat × Nat × Nat)
deriving DecidableEq, Repr

/-- A host ring (21 R426, R429). prior: the cycle in which the host last wrote HEAD, and HEAD before it (R430). -/
structure HostRing where
  en : Bool
  base : Nat
  log2 : Nat
  tailAddr : Nat
  head : BitVec 32
  tail : BitVec 32
  vector : BitVec 11
  cnt : Nat
  time : Nat
  pend : Nat
  oldest : Nat
  prior : Option (Nat × BitVec 32)
deriving DecidableEq, Repr

/-- The reset value of a host ring descriptor (21 R426). -/
def HostRing.reset : HostRing :=
  { en := false, base := 0, log2 := 8, tailAddr := 0, head := 0, tail := 0, vector := 0, cnt := 1, time := 0, pend := 0,
    oldest := 0, prior := none }

/-- States of a future (19 R381); consumed ends in the same step. -/
inductive FutureState where | free | armed | resolving | resolved
deriving DecidableEq, Repr

/-- What an entry of the future table awaits a page for (19 R510): the reply's COUNT and DETAIL, a remote reply's bytes to be stored, or a
linked decrement to be sent. -/
inductive FutureWait where
  | nothing
  | reply
  | remote (bytes : List Byte)
  | decrement
  /-- The linked decrement has been sent and is still to be taken (19 R388). -/
  | sent
deriving DecidableEq, Repr

/-- A future table entry (19 R379 to R401). -/
structure Future where
  index : Nat
  state : FutureState
  gen : Nat
  key : BitVec 24
  launch : Word
  space : Space
  args : Word
  narg : Nat
  repcap : Nat
  reply : Word
  ring : Word
  fbaddr : Word
  fblen : Nat
  deadline : Nat
  status : Nat
  detail : Nat
  link : Option (Word × Nat × Space)
  code : Nat
  count : Nat
  dropped : Bool
  stampr : Nat
  adapter : Option Nat
  await : FutureWait
  replies : List (Word × Word × Space × Origin)
deriving DecidableEq, Repr

/-- A tool table entry and its tool context (19 R383, R384, R386). ended: the context has been terminated (19 R385). -/
structure Tool where
  num : Nat
  peer : Bool
  ring : Word
  entries : Nat
  windows : List (Word × Word)
  resolve : Nat
  tailAddr : Word
  space : Space
  tail : Nat
  outcome : Nat
  requests : List Word
  unit : Nat
  ended : Bool := false
deriving DecidableEq, Repr

/-- An adapter of the catalogue (19 R394). -/
structure Adapter where
  num : BitVec 32
  size : Nat
  source : Nat
  node : Nat
deriving DecidableEq, Repr

/-- An entry of the residency table that is not free (19 R394, R395). -/
structure Residency where
  entry : Nat
  num : BitVec 32
  resident : Bool
  addr : Nat
  launches : List Word
  waiting : List Nat
deriving DecidableEq, Repr

/-- A migration under way (13 R281): the key of the leaf entry, the key of the old frame, the page's size, and its new frame with its
tier, in the codes of RES (13 R278): 0 HBM4E, 1 LPDDR, 2 host memory. -/
structure Moving where
  pte : Nat
  old : Nat
  size : Nat
  frame : Nat
  tier : Nat
deriving DecidableEq, Repr

/-- A chunk of a heap: its offset, its class, the blocks of it that were ever handed out, and the offsets of its allocated
blocks (13 R290). -/
structure Chunk where
  offset : Nat
  cls : Nat
  fresh : Nat
  used : List Nat
deriving DecidableEq, Repr

/-- The allocator state of one heap: chunks carved so far, and the released blocks of each class, newest first (13 R290,
R291). -/
structure Heap where
  space : Space
  base : Nat
  size : Nat
  carved : Nat
  chunks : List Chunk
  free : List (Nat × Nat)
deriving DecidableEq, Repr

/-- A save or restore that a descriptor or the management core requested (14 R301, R306, R313, R314): its descriptor, the
images' addresses, the required cluster, whether the images are written (or read and accepted), the key slots that a save sealed,
how many members it saved, the plain images that a restore has accepted, and whether the cohort comes from another package. -/
structure Transfer where
  name : BitVec 32
  desc : Option (Word × Space)
  images : List (Nat × Word)
  place : Option Nat
  isRestore : Bool
  written : Bool
  slots : List Nat
  count : Nat
  plains : List (Nat × List Byte)
  handed : Bool
deriving DecidableEq, Repr

/-- A key slot of the security block that is keyed (14 R309). -/
structure KeySlot where
  slot : Nat
  key : BitVec 256
  stored : Nat
  live : Bool
deriving DecidableEq, Repr

/-- States of a fabric link, in the codes of PSTAT (23 R447, R449). -/
inductive PortState where | down | train | up | retrain | replay | failed | fenced
deriving DecidableEq, Repr

/-- A packet retained for replay (23 R446), with the EPOCH of its nonce (23 R451). -/
structure Sent where
  pseq : Nat
  kp : Bool
  epoch : Nat
  vc : Bool
  hdr : MsgHeader
  payload : List Byte
  origin : Origin
deriving DecidableEq, Repr

/-- A fabric port (23 R442 to R453). rxEpoch0, rxEpoch1: EPOCH of the inbound direction in each phase. retireDue: every packet of the old phase
is acknowledged, and RETIRE has been sent; resent: the last packet that a NAK since has had resent, whose acknowledgement RETIRE waits for again;
farRetired: the other end's RETIRE of this rotation has come. naks: NAKs sent. grants: flits of a class and
channel that packets have left free here and that the next control flit grants. control: the control flits sent, newest first. -/
structure Port where
  state : PortState
  width : BitVec 2
  lanesel : BitVec 2
  kp : Bool
  oldv : Bool
  key0 : Option (BitVec 256)
  key1 : Option (BitVec 256)
  epoch0 : Nat
  epoch1 : Nat
  rxEpoch0 : Nat
  rxEpoch1 : Nat
  failmask : BitVec 16
  ack : Nat
  nextSeq : Nat
  expected : Nat
  replay : List Sent
  credits : Vector Nat 6
  trainingAt : Nat
  retireDue : Bool
  resent : Option Nat
  farRetired : Bool
  switchDue : Bool
  naks : Nat
  grants : Vector Nat 6
  control : List (List Byte)
deriving DecidableEq, Repr

/-- A fabric port after package reset (23 R447, R449). -/
def Port.reset : Port :=
  { state := .down, width := 3, lanesel := 0, kp := false, oldv := false, key0 := none, key1 := none, epoch0 := 0, epoch1 := 0, rxEpoch0 := 0, rxEpoch1 := 0,
    failmask := 0, ack := 0, nextSeq := 0, expected := 0, replay := [], credits := Vector.replicate 6 0, trainingAt := 0,
    retireDue := false, resent := none, farRetired := false, switchDue := false, naks := 0, grants := Vector.replicate 6 0, control := [] }

/-- A machine-check bank (26 R480). taken: the time at which its record came, which orders the errors of one cycle (R481). -/
structure Mcb where
  bank : Nat
  status : Word
  addr : Word
  info : Word
  ctl : Word
  taken : Nat
deriving DecidableEq, Repr

/-- A trap handler (26 R477), with its undecided records: the context and the address of the record. -/
structure Handler where
  asid : BitVec 16
  space : Space
  cohort : BitVec 32
  member : Nat
  address : Word
  ring : Word
  slots : Nat
  seq : Nat
  undecided : List (CtxRef × Word)
deriving DecidableEq, Repr

/-- A default decision that resumed or moved a context: its trapping instruction, its bench for a checksum mismatch, and the time
(14 R307; 26 R482). -/
structure Retry where
  ctx : CtxRef
  iaddr : Word
  bench : Option Nat
  time : Nat
deriving DecidableEq, Repr

/-- A trace ring (27 R487). -/
structure TraceRing where
  en : Bool
  host : Bool
  base : Nat
  log2 : Nat
  tailAddr : Nat
  head : BitVec 32
  tail : BitVec 32
  dropcnt : BitVec 32
  shown : BitVec 32
deriving DecidableEq, Repr

/-- The reset value of a trace ring (27 R487). -/
def TraceRing.reset : TraceRing :=
  { en := false, host := false, base := 0, log2 := 8, tailAddr := 0, head := 0, tail := 0, dropcnt := 0, shown := 0 }

/-- States of a trigger (27 R489). -/
inductive TriggerState where | idle | armed | tracing | done
deriving DecidableEq, Repr

/-- A trigger (27 R489). -/
structure Trigger where
  state : TriggerState
  startk : BitVec 3
  stopk : BitVec 3
  brkpt : Bool
  ring : BitVec 4
  tstart : Word
  tstop : Word
  tfilt : Word
deriving DecidableEq, Repr

/-- A happening of this cycle that a record of kind 1, 2, 4 or 5 describes (27 R489), with that record; held: the start of an activation that a
breakpoint holds back, which is a start event and no more. -/
structure Happening where
  kind : Nat
  coord : Word
  entry : Word
  sealed : Bool
  held : Bool
  record : List Byte
deriving DecidableEq, Repr

/-- The reset value of a trigger (27 R489). -/
def Trigger.reset : Trigger :=
  { state := .idle, startk := 0, stopk := 0, brkpt := false, ring := 0, tstart := 0, tstop := 0, tfilt := 0 }

/-- Sampling of an address space (27 R488; 28 R505). -/
structure Sampling where
  asid : BitVec 16
  ring : BitVec 4
  period : Nat
deriving DecidableEq, Repr

/-- A stop in force (27 R491; 28 R505): cohort, launch or coordinate mask. -/
structure Stop where
  kind : Nat
  value : Word
  mask : Word
deriving DecidableEq, Repr

/-- A management command that waits (28 R503), and whether the host wrote it. -/
structure Command where
  block : List Byte
  space : Space
deriving DecidableEq, Repr

/-- States of a bench (10 R220). -/
inductive BenchState where | inService | quiescing | recess | fenced | retired
deriving DecidableEq, Repr

/-- A bench (10 R220 to R234; 28 R502). weights are those written; roundWeights those of the current round; visiting is
the core at its visit and share the grants it has had there. A level change is due at stepAt, 0 for none; hint is the time of
an `.up` whose hold lasts, down a `.down` that waits for the last fetch. The unit is free from busyUntil. toFence: it
quiesces to be fenced; asked: the time at which it was asked to quiesce; wasFenced: its recess began while it was fenced; passed: it has passed a recess since. -/
structure Bench where
  num : Nat
  state : BenchState
  features : Word
  weights : Vector (BitVec 4) 8
  roundWeights : Vector (BitVec 4) 8
  visiting : Nat
  share : Nat
  level : Nat
  rising : Bool
  hint : Option Nat
  down : Bool
  stepAt : Nat
  busyUntil : Nat
  toFence : Bool
  asked : Nat
  wasFenced : Bool
  passed : Bool
deriving DecidableEq, Repr

/-- A unit out of service: its class and number as SERVICE names them, whether it is retired, and for one that is under test the time at which
the test ends and the unit serves again (28 R507). -/
structure OutUnit where
  cls : Nat
  unit : Nat
  retired : Bool
  test : Option Nat
deriving DecidableEq, Repr

/-- A launch of a capture (27 R494): its identifier, how it was submitted, the launcher's address space, its record and cohort table, the
global timestamp, its declared outputs, the checksum of them, none before its completion record is written, and the unordered mark
(R495). -/
structure CapturedLaunch where
  id : Word
  submission : Submission
  launcher : Space
  record : List Byte
  table : List Byte
  time : Nat
  outputs : List (Nat × Nat)
  checksum : List Byte
  unordered : Bool
deriving DecidableEq, Repr

/-- A capture (27 R494): the snapshot, by the key of each range's first byte; the declared outputs of launches to come; the launches accepted
and the walks started, in order; and what is kept as information only (R496). -/
structure Capture where
  snapshot : List (Nat × List Byte)
  manifest : List (List (Nat × Nat))
  launches : List CapturedLaunch
  walks : List (Word × Nat × Nat)
  notes : List (Nat × Nat)
deriving DecidableEq, Repr

/-- The outcome of a replayed launch (27 R496): a mismatch has both checksums, a failure the completion record's CODE. -/
inductive ReplayOutcome where
  | matched
  | mismatch (captured replayed : List Byte)
  | unordered
  | failed (code : Nat)
deriving DecidableEq, Repr

/-- A replay (27 R496): the launches still to run, the one that runs under a new identifier, and the outcomes so far. -/
structure Replay where
  rest : List CapturedLaunch
  current : Option (Word × CapturedLaunch)
  outcomes : List (Word × ReplayOutcome)
deriving DecidableEq, Repr

/-- The state of the package. -/
structure State where
  /-- The context whose turn the step takes; unbound where there is none. -/
  cx : Ctx
  /-- Every other context that is bound or saved. -/
  others : List Ctx
  /-- Memory: device bytes of node n at n 2^52 + pa, host bytes at 320 2^52 + hpa, scratchpads from 1024 2^52 (12 R249;
  07 R149), in canonical form; and the numbers of its poisoned lines (12 R270). -/
  mem : List Host.Cell
  poison : List Nat
  /-- Physical page bases (64 KiB granules) that software pinned (13 R282). -/
  pinned : List Nat
  /-- Directory entries of lines that caches hold (12 R250). -/
  lines : List LineDir
  /-- Migrations that are requested: the key of the leaf entry, and the tier (13 R282, R294); and those under way. -/
  migrations : List (Nat × Nat)
  moving : List Moving
  tlbs : List TlbEntry
  /-- Basin entries, and the cores of those freed in the cycle under way, which still count (17 R350, R359). -/
  basins : List BasinEntry
  freed : List (Nat × Nat)
  arrivalSeq : Nat
  units : List BarrierUnit
  /-- The barriers that the cycle under way has reached; none between cycles (18 R378). -/
  meetings : List Meeting
  benches : List Bench
  /-- The node; nodes of the pod that are absent, stopped or cut off beyond this package's own ports (12 R251; 26 R484); and the pod's
  dimensions DX, DY, DZ (23 R440). -/
  node : Nat
  lost : List Nat
  dx : Nat
  dy : Nat
  dz : Nat
  /-- BOOTOK (28 R497), a latched fatal stop (26 R484) and the clock step, 0 for 3.0 GHz to 4 for 1.8 GHz (28 R506), with
  the 10 ms windows in a row below 95 % of both limits. -/
  booted : Bool
  fatal : Bool
  clock : Nat
  coolWindows : Nat
  /-- Global time in units of 1/756 ns (00 R4). -/
  time : Nat
  dir : List DirEntry
  lastSlot : Nat
  /-- Cohorts of other homes held here; and the node that a home's reply has given for a cohort, as the message port of each core keeps it (17
  R347). -/
  guests : List Guest
  located : List (Nat × BitVec 32 × Nat)
  /-- Arrivals of other nodes that were answered busy and are to come again, oldest first, with the answers given (17 R353, R354); and counter
  settings of TASKQs without a status word that stand in a deferred list here, with the operation that each completes (16 R339). -/
  refused : List (Arrival × List Byte × Nat)
  settings : List (BitVec 32 × Nat × Word × Origin)
  launches : List Launch
  launchCount : Nat
  /-- Program images that software has unloaded (06 R120). -/
  unloaded : List (Space × Word)
  submissions : List Submission
  standing : Vector Standing 64
  walks : List Walk
  hostRings : Vector HostRing 16
  /-- MSI-X vectors raised, newest first; the number 2,048 stands for the fatal-error interrupt (21 R429; 26 R484). -/
  interrupts : List Nat
  /-- Banks that have interrupted the management core, newest first (26 R481). -/
  notices : List Nat
  futures : List Future
  /-- Entries as they were consumed, while a linked decrement of theirs is under way (19 R392, R401). -/
  consumed : List Future
  lastFuture : Nat
  tools : List Tool
  /-- Violation log: tool and address of each violation, newest first (19 R385). -/
  violations : List (Nat × Word)
  ueDiscards : Nat
  /-- Request records sent to Ultra Ethernet peers, newest first: the peer and the record (19 R387). -/
  ueSent : List (Word × List Word)
  adapters : List Adapter
  residency : List Residency
  heaps : List Heap
  transfers : List Transfer
  flights : List Flight
  serial : Nat
  copies : List Copy
  owed : List Owed
  /-- Granules of 64 KiB for which the management core has found no mapping that a device agent's access could use (23 R463). -/
  unmapped : List (Space × Nat)
  blocks : List BlockJob
  reductions : List Reduction
  keys : List KeySlot
  ports : Vector Port 6
  detours : List (Nat × DimOrder)
  mcbs : List Mcb
  handlers : List Handler
  retries : List Retry
  traces : Vector TraceRing 16
  triggers : Vector Trigger 8
  happened : List Happening
  samplings : List Sampling
  stops : List Stop
  /-- The capture and the replay that are under way (27 R494, R496). -/
  capture : Option Capture
  replay : Option Replay
  /-- Debug hold, and the frozen domains CD0 to CD3 and HD (27 R493). -/
  debugHold : Bool
  frozen : BitVec 5
  /-- The mailbox's command block (28 R503) and the commands that wait, oldest first. -/
  mailbox : Vector Byte 64
  commands : List Command
  /-- Firmware: version and counter of the running image, its bytes' hash input, the monotonic counter, the staged image,
  whether it is verified and waits for its switch, and the HSS signatures used (28 R498 to R500). -/
  fwVersion : Nat
  fwCounter : Nat
  fwImage : List Byte
  fwMonotonic : Nat
  staged : List Byte
  stagedOk : Bool
  hssUsed : Nat
  outUnits : List OutUnit
  /-- Retired frames: 64 KiB granule numbers (28 R507). -/
  retiredFrames : List Nat
  /-- The model's own: events to come, each after a number of cycles; the contexts that take a turn alone in their cycle; whether
  deliveries and completions wait for events; extra cycles without a turn; rows that a transfer of LQ or SQ moves before it goes on in a
  later cycle; and the argument of the free values. -/
  agenda : List (Nat × Instr)
  turns : List CtxRef
  paced : Bool
  delays : List Nat
  spans : List Nat
  free : Nat
deriving DecidableEq, Repr

/-! ## Reset -/

/-- A queue at its segment start, empty (16 R321). -/
def EQueue.reset (head : Nat) : EQueue := { head := head, entries := [], issued := false, rstart := false, moved := none, last := none,
                                                 gone := none }

/-- A context before any binding: the reset values of 03 R51 to R67. -/
def Ctx.reset : Ctx :=
  { life := .unbound
    s := Vector.replicate 32 0
    p := Vector.replicate 8 false
    v := Vector.replicate 64 0
    tags := Vector.replicate 64 0
    m := Vector.replicate 8 0
    h := Vector.replicate 16 Shape.reset
    t := Vector.replicate 64 Tile.reset
    f := Vector.replicate 16 Unfold.reset
    holds := Vector.replicate 64 Hold.reset
    bells := Vector.replicate 32 0, rung := [], fresh := []
    vprev := [], vnext := []
    pc := 0
    priv := false, sealed := false, bank := false, schk := false
    flags := 0
    rot := { vw := 0, vbase := 0, pw := 0, pbase := 0 }
    lcnt := 0
    slipd := #v[64, 32, 96, 32, 32], slip := none
    qwdog := 0x10000, wdog := 0
    srkey := 0, srctr := 0
    coord := { node := 0, cluster := 0, core := 0, stage := 0, member := 0 }
    cohort := 0, nmem := 0, launch := 0, cycle := 0, actno := 0
    lq := EQueue.reset 0, sq := EQueue.reset 64, aq := EQueue.reset 96, mq := EQueue.reset 192, nq := EQueue.reset 224
    clk := 0, lastTurn := none, since := 0, held := none, watch := none
    pending := [], aqFree := 0
    expects := [], handed := [], mqDone := [], mqFirst := 0, mqLast := 0, mqEnded := none
    acc := 0
    accstat := { int := false, ckf := false, rpv := false, rchunk := 0, flags := 0 }
    abext := 0, wbext := 0, abOrigin := 0, wbOrigin := 0
    hasAcc := false, hasChan := false, reqfeat := 0
    asid := 0, root := 0, heapBase := 0, heapSize := 0
    keyslot := 0, savectr := 0, basinSaved := 0
    faultRec := [], trap := none, after := []
    runBlock := 0, runList := [], listTurn := false
    idleSince := 0, stealFails := 0, stealPrev := false, idleAt := 0, savedIdle := false, imageAt := none
    inbox := []
    cause := .launch, entry := 0, started := 0
    exiting := none, outside := .none, stopped := false }

/-- A bench after package reset: in service, every weight 1, every feature of version 1 (10 R220, R224; 28 R502). -/
def Bench.reset (n : Nat) : Bench :=
  { num := n, state := .inService, features := 0xFF, weights := Vector.replicate 8 1, roundWeights := Vector.replicate 8 1,
    visiting := 0, share := 0, level := 0, rising := false, hint := none, down := false, stepAt := 0, busyUntil := 0, toFence := false, asked := 0,
    wasFenced := false, passed := false }

/-- The machine right after reset: no context, memory lists nothing, every register at the value the manual states or a log
entry names. Benches in their reset state are not listed. -/
def State.reset : State :=
  { cx := Ctx.reset
    others := []
    mem := [], poison := [], pinned := [], lines := [], migrations := [], moving := []
    tlbs := [], basins := [], freed := [], arrivalSeq := 0, units := [], meetings := [], benches := []
    node := 0, lost := [], dx := 1, dy := 1, dz := 1
    booted := true, fatal := false, clock := 0, coolWindows := 0, time := 0
    dir := [], lastSlot := 0, guests := [], located := [], refused := [], settings := []
    launches := [], launchCount := 0, unloaded := [], submissions := [], standing := Vector.replicate 64 Standing.reset
    walks := [], hostRings := Vector.replicate 16 HostRing.reset, interrupts := [], notices := []
    futures := [], consumed := [], lastFuture := 262143
    tools := [], violations := [], ueDiscards := 0, ueSent := []
    adapters := [], residency := [], heaps := [], transfers := []
    flights := [], serial := 0, copies := [], owed := [], unmapped := [], blocks := [], reductions := []
    keys := [], ports := Vector.replicate 6 Port.reset, detours := []
    mcbs := [], handlers := [], retries := []
    traces := Vector.replicate 16 TraceRing.reset, triggers := Vector.replicate 8 Trigger.reset, happened := []
    samplings := [], stops := [], capture := none, replay := none
    debugHold := false, frozen := 0
    mailbox := Vector.replicate 64 0, commands := []
    fwVersion := 0, fwCounter := 0, fwImage := [], fwMonotonic := 0, staged := [], stagedOk := false, hssUsed := 0
    outUnits := [], retiredFrames := []
    agenda := [], turns := [], paced := false, delays := [], spans := [], free := 0 }

end Sys2Proof.Machine
end

