-- ==== Sys2Proof/Machine/Operands.lean ====
section
/-! DEFINITION. Operand forms: shapes and their use rules (03 R57, R58), elements of registers and rows (03 R53),
write sets (08 R176, R178), the format an instruction takes (03 R55), and the words of the state's records. -/

namespace Sys2Proof.Machine

/-! ## Words of records -/

/-- Word 0 of a shape slot (03 R57). -/
def Shape.word0 (h : Shape) : Word :=
  place h.fmt 60 ||| place h.fill 58 ||| place h.rows 44 ||| place h.vrows 32 ||| place h.vcols 16 ||| place h.rowbytes 0

/-- Word 1 of a shape slot (03 R57). -/
def Shape.word1 (h : Shape) : Word := place h.stride 0

/-- The shape that two words hold. -/
def Shape.ofWords (a b : Word) : Shape :=
  { fmt := field a 60 4, fill := field a 58 2, rows := field a 44 12, vrows := field a 32 12, vcols := field a 16 16,
    rowbytes := field a 0 16, stride := field b 0 48 }

/-- The field checks of a shape slot (03 R58). -/
def Shape.legal (h : Shape) : Bool :=
  1 ≤ h.rows.toNat && h.vrows.toNat ≤ h.rows.toNat && 1 ≤ h.rowbytes.toNat && h.fmt != 0xF

/-- The code of a tile state (03 R59). -/
def TileState.code : TileState → BitVec 2
  | .empty => 0
  | .filling => 1
  | .ready => 2
  | .draining => 3

/-- The tile state of a code. -/
def TileState.ofCode (c : BitVec 2) : TileState :=
  if c == 0 then .empty else if c == 1 then .filling else if c == 2 then .ready else .draining

/-- Word 0 of a tile table entry (03 R59). -/
def Tile.word0 (t : Tile) : Word :=
  place t.state.code 62 ||| bitAt t.wb 61 ||| place t.base 38 ||| place t.extent 20

/-- Word 1 of a tile table entry (03 R59). -/
def Tile.word1 (t : Tile) : Word :=
  place t.fepoch 56 ||| place t.cepoch 48 ||| place t.readers 40 ||| bitAt t.rpv 19 ||| place t.rpoint 0

/-- Word 0 of an unfolding slot (07 R171). -/
def Unfold.word0 (u : Unfold) : Word :=
  place u.kh 56 ||| place u.kw 48 ||| place u.sh 44 ||| place u.sw 40 ||| place u.dh 36 ||| place u.dw 32 |||
    place u.pt 24 ||| place u.pb 16 ||| place u.pl 8 ||| place u.pr 0

/-- Word 1 of an unfolding slot (07 R171). -/
def Unfold.word1 (u : Unfold) : Word :=
  place u.ih 48 ||| place u.iw 32 ||| place u.c 16 ||| place u.layout 0

/-- The unfolding slot that two words hold. -/
def Unfold.ofWords (a b : Word) : Unfold :=
  { kh := field a 56 8, kw := field a 48 8, sh := field a 44 4, sw := field a 40 4, dh := field a 36 4,
    dw := field a 32 4, pt := field a 24 8, pb := field a 16 8, pl := field a 8 8, pr := field a 0 8,
    ih := field b 48 16, iw := field b 32 16, c := field b 16 16, layout := field b 0 2 }

/-- Output height of an unfolding (07 R171), by floor division. -/
def Unfold.outH (u : Unfold) : Int :=
  ((u.ih.toNat : Int) + u.pt.toNat + u.pb.toNat - u.dh.toNat * ((u.kh.toNat : Int) - 1) - 1) / (u.sh.toNat : Int) + 1

/-- Output width of an unfolding (07 R171). -/
def Unfold.outW (u : Unfold) : Int :=
  ((u.iw.toNat : Int) + u.pl.toNat + u.pr.toNat - u.dw.toNat * ((u.kw.toNat : Int) - 1) - 1) / (u.sw.toNat : Int) + 1

/-- The fields lie in their ranges and the output is not empty (07 R171). -/
def Unfold.legal (u : Unfold) : Bool :=
  let small (x : Nat) := 1 ≤ x && x ≤ 32
  small u.kh.toNat && small u.kw.toNat && u.sh != 0 && u.sw != 0 && u.dh != 0 && u.dw != 0 &&
    u.ih != 0 && u.iw != 0 && u.c != 0 && u.layout != 3 &&
    (u.layout == 0 || (decide (1 ≤ u.outH) && decide (1 ≤ u.outW)))

/-- A hold record (03 R61). -/
def Hold.word (h : Hold) : Word :=
  bitAt (h.fepoch != h.cepoch) 63 ||| place h.kind 60 ||| place h.fepoch 52 ||| place h.cepoch 44 |||
    place h.readers 36 ||| place h.expect 28 ||| place h.arrived 20 ||| bitAt h.rpv 19 ||| place h.rpoint 0

/-- Whether the register is held (03 R61). -/
def Hold.held (h : Hold) : Bool := h.fepoch != h.cepoch

/-- ROT (03 R66). -/
def Rot.word (r : Rot) : Word := place r.pw 24 ||| place r.pbase 16 ||| place r.vw 8 ||| place r.vbase 0

/-- COORD (03 R66). -/
def Coord.word (c : Coord) : Word :=
  place c.node 55 ||| place c.cluster 50 ||| place c.core 44 ||| place c.stage 40 ||| place c.member 34

/-- ACCSTAT (10 R227). -/
def AccStat.word (a : AccStat) : Word :=
  bitAt a.int 63 ||| bitAt a.ckf 62 ||| bitAt a.rpv 61 ||| place a.rchunk 32 ||| place a.flags 0

/-! ## Shapes in use -/

/-- The elements in a number of row bytes: whole blocks of 32 in a block format (03 R58). -/
def elemsIn (f : BitVec 4) (bytes : Nat) : Nat :=
  if isBlock f then bytes / blockBytes f * 32 else bytes * 8 / fmtWidth f

/-- The valid columns: VCOLS, or all of ROWBYTES for 0xFFFF (03 R57). -/
def Shape.cols (h : Shape) (f : BitVec 4) : Nat :=
  if h.vcols == 0xFFFF then elemsIn f h.rowbytes.toNat else h.vcols.toNat

/-- ROWBYTES is a whole number of elements or blocks, and VCOLS does not pass it (03 R58). -/
def Shape.fits (h : Shape) (f : BitVec 4) : Bool :=
  (if isBlock f then h.rowbytes.toNat % blockBytes f == 0 else h.rowbytes.toNat * 8 % fmtWidth f == 0) &&
    (h.vcols == 0xFFFF || h.vcols.toNat ≤ elemsIn f h.rowbytes.toNat)

/-- A register-side shape: at most 8 rows of 256 bytes (03 R58). -/
def Shape.regSide (h : Shape) : Bool := h.rows.toNat ≤ 8 && h.rowbytes.toNat ≤ 256

/-- The memory stride as a signed number (03 R57). -/
def Shape.step (h : Shape) : Int := h.stride.toInt

/-- Nothing is moved or computed: VROWS or VCOLS is zero (03 R58). -/
def Shape.isEmpty (h : Shape) : Bool := h.vrows == 0 || h.vcols == 0

/-- The span in bytes of n columns from the start of a row (07 R154). -/
def spanBytes (f : BitVec 4) (n : Nat) : Nat :=
  if isBlock f then (n + 31) / 32 * blockBytes f else (n * fmtWidth f + 7) / 8

/-- VB, the valid bytes of a row (07 R154). -/
def Shape.vb (h : Shape) : Nat := spanBytes h.fmt (h.cols h.fmt)

/-- Element j of a row, in a format, lies within the valid columns of a fill of this shape: in its valid bytes, which a fill without a format
counts as VCOLS itself (07 R154, R168). -/
def Shape.brought (h : Shape) (f : BitVec 4) (j : Nat) : Bool :=
  if isBlock f then decide ((j / 32 + 1) * blockBytes f ≤ h.vb) else decide ((j + 1) * fmtWidth f ≤ 8 * h.vb)

/-- The column limits of memory and tile rows: whole blocks, whole INT4 pairs (07 R154). -/
def Shape.colsAligned (h : Shape) : Bool :=
  h.vcols == 0xFFFF ||
    ((!isBlock h.fmt || h.vcols.toNat % 32 == 0) && (h.fmt != 1 || h.vcols.toNat % 2 == 0))

/-- The effective shape of a reader or leave, from its own slot and the fill shape (07 R153); none where two non-zero
formats differ. The smaller valid extent counts 0xFFFF as the elements in ROWBYTES. -/
def Shape.effective (own fill : Shape) : Option Shape :=
  if own.fmt != 0 && fill.fmt != 0 && own.fmt != fill.fmt then none
  else
    let f := if own.fmt != 0 then own.fmt else fill.fmt
    some { own with fmt := f, vrows := if fill.vrows.toNat < own.vrows.toNat then fill.vrows else own.vrows,
                    vcols := if own.cols f ≤ fill.cols f then own.vcols else BitVec.ofNat 16 (fill.cols f) }

/-! ## Rows and elements (03 R53) -/

/-- Row i of a register, as a number of 2,048 bits. -/
def rowOf (v : VReg) (i : Nat) : Nat := (field v (2048 * i) 2048).toNat

/-- Element j of a row: w bits. -/
def elemOf (w row j : Nat) : Nat := row / 2 ^ (w * j) % 2 ^ w

/-- Element (i, j) of a register in a format that is no block format. -/
def regElem (f : BitVec 4) (v : VReg) (i j : Nat) : Nat := elemOf (fmtWidth f) (rowOf v i) j

/-- Block q of a row. -/
def blockOf (f : BitVec 4) (row q : Nat) : Nat := elemOf (8 * blockBytes f) row q

/-- The exact value of element j of a row, of any numeric or block format (04 R74). -/
def rowValue (f : BitVec 4) (row j : Nat) : FVal :=
  if isBlock f then blockValue f (blockOf f row (j / 32)) (j % 32) else elemValue f (elemOf (fmtWidth f) row j)

/-- Bits of the units (elements, or blocks of w bits) that p selects among the first n. -/
def selBits (w : Nat) (p : Nat → Bool) : Nat → Nat
  | 0 => 0
  | n + 1 => selBits w p n + (if p n then (2 ^ w - 1) * 2 ^ (w * n) else 0)

/-- A row under construction: which bits are written, their values, and the flags of the elements. -/
structure RowAcc where
  sel : Nat
  data : Nat
  flags : Flags
deriving DecidableEq, Repr

/-- The row of the units of w bits that f gives among the first n. -/
def packRow (w : Nat) (f : Nat → Option Rounded) : Nat → RowAcc
  | 0 => ⟨0, 0, 0⟩
  | n + 1 =>
    let a := packRow w f n
    match f n with
    | none => a
    | some r => ⟨a.sel + (2 ^ w - 1) * 2 ^ (w * n), a.data + r.code % 2 ^ w * 2 ^ (w * n), a.flags ||| r.flags⟩

/-- Row i of a mask. -/
def maskRowOf (m : Mask) (i : Nat) : Nat := (field m (512 * i) 512).toNat

/-- Element (i, j) lies in the write set (08 R176). -/
def inSet (h : Shape) (f : BitVec 4) (m : Mask) (i j : Nat) : Bool :=
  decide (i < h.vrows.toNat) && decide (j < h.cols f) && m.getLsbD (512 * i + j)

/-- Element (i, j) is valid (03 R58). -/
def inValid (h : Shape) (f : BitVec 4) (i j : Nat) : Bool := decide (i < h.vrows.toNat) && decide (j < h.cols f)

/-- The bits of row i that a data-moving instruction writes: elements, or whole blocks chosen by their first column
(08 R176, R178). -/
def moveBits (h : Shape) (f : BitVec 4) (p : Nat → Bool) (i : Nat) : Nat :=
  if isBlock f then
    selBits (8 * blockBytes f) (fun q => decide (i < h.vrows.toNat) && decide (32 * q < h.cols f) && p (32 * q)) (fmtElems f / 32)
  else selBits (fmtWidth f) (fun j => decide (i < h.vrows.toNat) && p j) (h.cols f)

/-- The trailing bytes of a row of a block format, which every write of the register clears (03 R53; 08 R178). -/
def trailBits (f : BitVec 4) : Nat :=
  if f == 0xD then 0xFF * 2 ^ 2040 else if f == 0xE then 0xFFFFFFFF * 2 ^ 2016 else 0

/-- FILL of a shape as an element code, excluded read as zero (03 R58). -/
def Shape.fillElem (h : Shape) (f : BitVec 4) : Nat := fillCode f h.fill

/-! ## Formats of instructions (03 R55) -/

/-- The named format: fmt, or the shape's FMT when fmt is 0. -/
def named (fmt : BitVec 4) (h : Shape) : BitVec 4 := if fmt != 0 then fmt else h.fmt

/-- The format under which operands are read, from the named format and the operands' tags; none is cause 0x10. -/
def formatOf (nm : BitVec 4) (tags : List (BitVec 4)) (accepts : BitVec 4 → Bool) : Option (BitVec 4) :=
  match tags with
  | [] => if accepts nm then some nm else none
  | t :: rest =>
    let f := if nm != 0 then nm else t
    if (t :: rest).all (· == f) && accepts f then some f else none

/-- NONE, and every format: what moves accept. -/
def acceptsAny (f : BitVec 4) : Bool := f != 0xF

/-- NONE and the formats of 8, 16 or 32 bits. -/
def acceptsBytes (f : BitVec 4) : Bool := f.toNat ≤ 0xC && f != 1

/-- INT and NAT. -/
def acceptsInteger (f : BitVec 4) : Bool := isInteger f

/-- FP32, FP16, BF16. -/
def acceptsTrans (f : BitVec 4) : Bool := f == 8 || f == 9 || f == 0xA

end Sys2Proof.Machine
end

