-- ==== Sys2Proof/Machine/Fabric.lean ====
section
/-! DEFINITION. Towards other packages: the pod, routes and the port that a packet leaves by (23 R440, R441, R443), packets retained and sent (23
R442, R445, R446, R451), and the requests that this package's own accesses send (12 R251, R252; 23 R454). -/

namespace Sys2Proof.Machine

/-! ## The pod and its routes (23 R440, R441, R443) -/

/-- Node n is in the pod (23 R440). -/
def State.inPod (s : State) (n : Nat) : Bool := n < 320 && n % 8 < s.dx && n / 8 % 8 < s.dy && n / 64 < s.dz

/-- The package at the other end of a port's link (23 R441). -/
def State.facing (s : State) (p : Nat) : Nat :=
  let step (n a : Nat) : Nat := (a + if p % 2 == 0 then 1 else n - 1) % max 1 n
  let x := s.node % 8
  let y := s.node / 8 % 8
  let z := s.node / 64
  if p / 2 == 0 then step s.dx x + 8 * y + 64 * z else if p / 2 == 1 then x + 8 * step s.dy y + 64 * z else x + 8 * y + 64 * step s.dz z

/-- The port of the first hop from one node to another, the dimensions taken in an order (23 R441, R443). -/
def hopPort (order : DimOrder) (dx dy dz src dst : Nat) : Option Nat :=
  let hop (n a b p : Nat) : Option Nat :=
    let d := (b + n - a) % n
    if d == 0 then none else if d ≤ n - d then some (2 * p) else some (2 * p + 1)
  let x := hop dx (src % 8) (dst % 8) 0
  let y := hop dy (src / 8 % 8) (dst / 8 % 8) 1
  let z := hop dz (src / 64) (dst / 64) 2
  match order with
  | .xyz => x <|> y <|> z
  | .xzy => x <|> z <|> y
  | .yxz => y <|> x <|> z
  | .yzx => y <|> z <|> x
  | .zxy => z <|> x <|> y
  | .zyx => z <|> y <|> x

/-- The order in which packets to a node travel (23 R441, R443). -/
def State.orderTo (s : State) (dst : Nat) : DimOrder :=
  match s.detours.find? (·.1 == dst) with
  | some (_, o) => o
  | none => .xyz

/-- The port through which packets to a node leave. -/
def State.portTo (s : State) (dst : Nat) : Option Nat := hopPort (s.orderTo dst) s.dx s.dy s.dz s.node dst

/-- The port's state. -/
def State.portAt (s : State) (p : Nat) : Port := s.ports.toList.getD p Port.reset

/-- A node can be reached: it is in the pod, neither absent nor stopped nor cut off, and the port towards it is in service (12 R251). -/
def State.reachable (s : State) (dst : Nat) : Bool :=
  dst == s.node || (s.inPod dst && !s.lost.contains dst &&
    match s.portTo dst with
    | none => true
    | some p => match (s.portAt p).state with
      | .up | .retrain | .replay => true
      | .down | .train | .failed | .fenced => false)

/-! ## Packets (23 R440 to R446, R451) -/

/-- The flits of a packet (23 R445). -/
def flitsOf (len : Nat) : Nat := (80 + len + 243) / 244

/-- Flits that a replay buffer holds. -/
def Port.held (p : Port) : Nat := (p.replay.map fun x => flitsOf x.payload.length).sum

/-- The link out of a port crosses its dimension's dateline (23 R442). -/
def State.dateline (s : State) (port : Nat) : Bool :=
  let (x, n) := if port / 2 == 0 then (s.node % 8, s.dx) else if port / 2 == 1 then (s.node / 8 % 8, s.dy) else (s.node / 64, s.dz)
  if port % 2 == 0 then x + 1 == n else x == 0

/-- A port is replaced. -/
def State.setPort (s : State) (n : Nat) (p : Port) : State :=
  if h : n < 6 then { s with ports := s.ports.set n p } else s

/-- The virtual channel of a packet on its next link: VC0 on entering a dimension, VC1 once it crosses the dateline. -/
def State.nextVc (s : State) (port : Nat) (vc : Bool) (dim : Nat) : Bool := s.dateline port || (vc && dim == port / 2)

/-- The port holds a key for its phase. -/
def Port.keyed (p : Port) : Bool := (if p.kp then p.key1 else p.key0).isSome

/-- The direction's EPOCH has room for the next packet (23 R451). -/
def Port.epochRoom (p : Port) : Bool :=
  p.nextSeq % 2 ^ 24 != 0 || p.nextSeq == 0 || decide ((if p.kp then p.epoch1 else p.epoch0) + 1 ≤ 2 ^ 32 - 1)

/-- A packet retained and sent: the sequence number advances, and EPOCH with its wrap. -/
def Port.send (p : Port) (h : MsgHeader) (payload : List Byte) (o : Origin) (cr : Nat) : Port :=
  let wrap := p.nextSeq % 2 ^ 24 == 0 && p.nextSeq != 0
  let epoch := (if p.kp then p.epoch1 else p.epoch0) + wrap.toNat
  { p with replay := p.replay ++ [⟨p.nextSeq % 2 ^ 24, p.kp, epoch, cr % 2 == 1, h, payload, o⟩], nextSeq := p.nextSeq + 1,
           epoch0 := if p.kp then p.epoch0 else epoch, epoch1 := if p.kp then epoch else p.epoch1,
           credits := p.credits.toList.zipIdx.foldl (fun v x =>
             if h : x.2 < 6 then v.set x.2 (if x.2 == cr then x.1 - flitsOf payload.length else x.1) else v) p.credits }

/-- The handler that carries an arrival of each kind, at the top of the reserved range (23 R454). -/
def builtIn (n : Nat) : Word := 0xFFFFFFFFFFFFF000 + BitVec.ofNat 64 n

/-- The header of a request of another node to a handler that takes an address (23 R454). -/
def atomicHeader (dest src n : Nat) (tag : Word) : MsgHeader :=
  { dest := dest, src := src, cls := 0, rel := false, scope := 0, len := 0, handler := builtIn n, name := 0, member := 0, reg := 0, slot := 0,
    tag := tag, arg0 := 0, arg1 := 0, arg2 := 0, arg3 := 0 }

/-! ## Requests of this package's own accesses (12 R251, R252; 23 R454) -/

/-- A request packet of n flits in a class leaves by a port: the link is up and keyed, and there are credits and room for it; it waits else. -/
def State.portTakes (s : State) (port : Nat) (cls : BitVec 2) (flits : Nat) : Bool :=
  let p := s.portAt port
  p.state == .up && p.keyed && p.epochRoom && decide (flits ≤ p.credits.toList.getD (2 * cls.toNat + (s.nextVc port false 3).toNat) 0) &&
    decide (p.held + flits ≤ 1024)

/-- A packet of this node to a node waits for its port in a class. -/
def State.waitingTo (s : State) (dst : Nat) (cls : BitVec 2) : Bool :=
  s.flights.any fun f => match f.load with
    | .packet h _ _ _ => h.src == s.node && h.dest == dst && h.cls == cls
    | .arrival _ _ | .load _ _ | .store _ _ | .atomic _ _ _ _ _ => false

/-- A packet of this node goes to the port towards its node. -/
def State.sendTo (s : State) (h : MsgHeader) (payload : List Byte) (o : Origin) : State :=
  match s.portTo h.dest with
  | none => s
  | some n => s.setPort n ((s.portAt n).send h payload o (2 * h.cls.toNat + (s.nextVc n false 3).toNat))

end Sys2Proof.Machine
end

