-- ==== Sys2Proof/Machine/Ops.lean ====
section
/-! DEFINITION. The named operations over memory, registers, banks and records: canonical memory, extent checks and
translation (12 R247 to R252; 13 R274 to R287), scalar registers, predicates, bells and rotation (03), taking a trap or
a page fault and returning from one (26 R475 to R479; 13 R287; 06 R124), and machine-check records (26 R480, R481). -/

namespace Sys2Proof.Machine

/-! ## Memory as a canonical list -/

/-- What an unlisted address reads as (log entry 2). -/
def Memory.blank : Byte := 0

/-- One byte. -/
def Memory.get : List Host.Cell → Nat → Byte
  | [], _ => Memory.blank
  | (a, b) :: r, k => if a = k then b else if k < a then Memory.blank else Memory.get r k

/-- One byte written; writing the value of an unlisted address removes the entry. -/
def Memory.set : List Host.Cell → Nat → Byte → List Host.Cell
  | [], k, v => if v = Memory.blank then [] else [(k, v)]
  | (a, b) :: r, k, v =>
    if k < a then (if v = Memory.blank then (a, b) :: r else (k, v) :: (a, b) :: r)
    else if k = a then (if v = Memory.blank then r else (k, v) :: r)
    else (a, b) :: Memory.set r k v

/-- Every address of the list lies above a bound, rising strictly, and no entry is the value of an unlisted address. -/
def Memory.wfAbove : Option Nat → List Host.Cell → Bool
  | _, [] => true
  | lo, (a, b) :: r => (match lo with | none => true | some l => decide (l < a)) && b != Memory.blank && Memory.wfAbove (some a) r

/-- The canonical form. -/
def Memory.wf (m : List Host.Cell) : Bool := Memory.wfAbove none m

/-- n bytes from an address. -/
def Memory.read (m : List Host.Cell) (k : Nat) : Nat → List Byte
  | 0 => []
  | n + 1 => Memory.get m k :: Memory.read m (k + 1) n

/-- Bytes written from an address upwards. -/
def Memory.write (m : List Host.Cell) (k : Nat) : List Byte → List Host.Cell
  | [] => m
  | b :: bs => Memory.write (Memory.set m k b) (k + 1) bs

/-- The little-endian number of bytes (00 R2). -/
def leNat : List Byte → Nat
  | [] => 0
  | b :: bs => b.toNat + 256 * leNat bs

/-- n little-endian bytes of a number. -/
def leBytes : Nat → Nat → List Byte
  | 0, _ => []
  | n + 1, x => BitVec.ofNat 8 x :: leBytes n (x / 256)

/-- The field of w bytes at an offset of a record, as a number. -/
def recNat (bs : List Byte) (off w : Nat) : Nat := leNat ((bs.drop off).take w)

/-- The dword at an offset of a record. -/
def recWord (bs : List Byte) (off : Nat) : Word := BitVec.ofNat 64 (recNat bs off 8)

/-- Bytes [off, off + w) of a record are zero. -/
def recZero (bs : List Byte) (off w : Nat) : Bool := ((bs.drop off).take w).all (· == 0)

/-- The 8 bytes of a word. -/
def wordBytes (x : Word) : List Byte := leBytes 8 x.toNat

/-! ## Places of bytes -/

/-- The key of a device physical address of a node. -/
def devKey (node pa : Nat) : Nat := node * 2 ^ 52 + pa

/-- The key of a host physical address. -/
def hostKey (pa : Nat) : Nat := 320 * 2 ^ 52 + pa

/-- The key of a byte of a scratchpad: buffer 0 is AB, 1 is WB (07 R149). -/
def scratchKey (cluster core buf off : Nat) : Nat := 1024 * 2 ^ 52 + ((cluster * 64 + core) * 2 + buf) * 2 ^ 18 + off

/-- The node that holds a device byte. -/
def keyNode (k : Nat) : Nat := k / 2 ^ 52

/-- The key belongs to a scratchpad. -/
def isScratch (k : Nat) : Bool := decide (1024 * 2 ^ 52 ≤ k)

/-- The key belongs to host memory. -/
def isHost (k : Nat) : Bool := keyNode k == 320

/-- The 128-byte line of a key (12 R249). -/
def lineOf (k : Nat) : Nat := k / 128

/-- A run of bytes: its first key and its length. -/
abbrev Seg := Nat × Nat

/-- The bytes of runs. -/
def readSegs (m : List Host.Cell) : List Seg → List Byte
  | [] => []
  | (k, n) :: r => Memory.read m k n ++ readSegs m r

/-- Bytes written over runs. -/
def writeSegs (m : List Host.Cell) : List Seg → List Byte → List Host.Cell
  | [], _ => m
  | (k, n) :: r, bs => writeSegs (Memory.write m k (bs.take n)) r (bs.drop n)

/-- A poisoned line lies under the run. -/
def segPoisoned (poison : List Nat) (g : Seg) : Bool :=
  g.2 != 0 && poison.any fun l => decide (lineOf g.1 ≤ l) && decide (l ≤ lineOf (g.1 + g.2 - 1))

/-- A poisoned line lies under one of the runs. -/
def segsPoisoned (poison : List Nat) (gs : List Seg) : Bool := gs.any (segPoisoned poison)

/-- The poison left after one instruction or one copy-engine unit wrote the runs: lines whose every byte lies in a run are clean (12
R270). -/
def clearPoison (poison : List Nat) (gs : List Seg) : List Nat :=
  poison.filter fun l => !((List.range 128).all fun b => gs.any fun g => decide (g.1 ≤ l * 128 + b) && decide (l * 128 + b < g.1 + g.2))

/-- The lines of a run of bytes, by the key of their first byte. -/
def segLines (g : Seg) : List Nat :=
  if g.2 == 0 then [] else (List.range (lineOf (g.1 + g.2 - 1) + 1 - lineOf g.1)).map fun k => (lineOf g.1 + k) * 128

/-- The lines of runs of bytes. -/
def segsLines (gs : List Seg) : List Nat := gs.flatMap segLines

/-! ## Contexts -/

/-- The context is the one that a reference names. -/
def Ctx.is (c : Ctx) (r : CtxRef) : Bool := c.life != .unbound && c.cohort == r.cohort && c.coord.member.toNat == r.member

/-- The reference that names a context. -/
def Ctx.ref (c : Ctx) : CtxRef := ⟨c.cohort, c.coord.member.toNat⟩

/-- The context occupies a bank of a core (02 R36). -/
def Ctx.resident (c : Ctx) : Bool :=
  match c.life with
  | .running | .inactive | .faulted | .trapped | .idle => true
  | .unbound | .saved | .exited => false

/-- The context is in an activation that a turn can carry on. -/
def Ctx.isRunning (c : Ctx) : Bool := c.life == .running

/-- The contexts of two references lie on one core. -/
def Ctx.sameCore (a b : Ctx) : Bool := a.coord.cluster == b.coord.cluster && a.coord.core == b.coord.core

/-- Every context. -/
def State.ctxs (s : State) : List Ctx := if s.cx.life == .unbound then s.others else s.cx :: s.others

/-- The context that a reference names. -/
def State.findCtx (s : State) (r : CtxRef) : Option Ctx := s.ctxs.find? (·.is r)

/-- The context that a reference names becomes the current one. -/
def State.focus (s : State) (r : CtxRef) : Option State :=
  if s.cx.is r then some s
  else
    match s.others.find? (·.is r) with
    | none => none
    | some c =>
      some { s with cx := c, others := s.others.filter (fun x => !x.is r) ++ (if s.cx.life == .unbound then [] else [s.cx]) }

/-- Every context is replaced. -/
def State.mapCtxs (s : State) (f : Ctx → Ctx) : State := { s with cx := f s.cx, others := s.others.map f }

/-- The context that a reference names is replaced. -/
def State.modCtx (s : State) (r : CtxRef) (f : Ctx → Ctx) : State := s.mapCtxs fun c => if c.is r then f c else c

/-- The resident member of a cohort on a core of a cluster (07 R149). -/
def State.peer (s : State) (name : BitVec 32) (cluster core : Nat) : Option Ctx :=
  s.ctxs.find? fun c => c.cohort == name && c.resident && c.coord.cluster.toNat == cluster && c.coord.core.toNat == core

/-! ## Time -/

/-- Cycles of the core clock in units of 1/756 ns (28 R506). -/
def clockPeriod (step : Nat) : Nat := #[252, 280, 315, 360, 420].getD step 420

/-- Global timestamp in ns (00 R4). -/
def State.ns (s : State) : Nat := s.time / 756

/-- The clock domain of a context's core is frozen (27 R493). -/
def State.isFrozen (s : State) (c : Ctx) : Bool := bit s.frozen (min (c.coord.cluster.toNat / 6) 4)

/-- A cycle passes for a context: its core's clock, and CYCLE while it runs (03 R66; 05 R92). -/
def Ctx.pass (c : Ctx) : Ctx :=
  { c with clk := c.clk + 1, cycle := if c.life == .running then c.cycle + 1 else c.cycle }

/-- A cycle passes: global time, and the clocks of the contexts whose clock domain is not frozen. -/
def State.pass (s : State) : State :=
  { (s.mapCtxs fun c => if c.resident && !s.isFrozen c then c.pass else c) with time := s.time + clockPeriod s.clock }

/-! ## Scalar registers, predicates and rotation (03 R51, R64) -/

/-- s[n]; s0 reads zero. -/
def Ctx.sreg (c : Ctx) (n : BitVec 5) : Word := if n == 0 then 0 else c.s[n.toNat]'(by omega)

/-- s[n] = x; a write to s0 is discarded. -/
def Ctx.setSreg (c : Ctx) (n : BitVec 5) (x : Word) : Ctx :=
  if n == 0 then c else { c with s := c.s.set n.toNat x (by omega) }

/-- The physical predicate of p[n] (03 R64). -/
def Ctx.physP (c : Ctx) (n : BitVec 3) : BitVec 3 :=
  if 4 ≤ n.toNat && n.toNat - 4 < c.rot.pw.toNat then BitVec.ofNat 3 (4 + (n.toNat - 4 + c.rot.pbase.toNat) % c.rot.pw.toNat) else n

/-- p[n]; p0 reads true. -/
def Ctx.preg (c : Ctx) (n : BitVec 3) : Bool := if n == 0 then true else c.p[(c.physP n).toNat]'(by omega)

/-- p[n] = b; a write to p0 is discarded. -/
def Ctx.setPreg (c : Ctx) (n : BitVec 3) (b : Bool) : Ctx :=
  if n == 0 then c else { c with p := c.p.set (c.physP n).toNat b (by omega) }

/-- The guard of a family with pg and pn (05 R97). -/
def Ctx.guard (c : Ctx) (pg : BitVec 3) (pn : Bool) : Bool := c.preg pg != pn

/-- The physical vector register of v[n] (03 R64). -/
def Ctx.physV (c : Ctx) (n : BitVec 6) : BitVec 6 :=
  if 32 ≤ n.toNat && n.toNat - 32 < c.rot.vw.toNat then BitVec.ofNat 6 (32 + (n.toNat - 32 + c.rot.vbase.toNat) % c.rot.vw.toNat)
  else n

/-- A physical vector register. -/
def Ctx.vreg (c : Ctx) (n : BitVec 6) : VReg := c.v[n.toNat]'(by omega)

/-- The tag of a physical vector register. -/
def Ctx.vtag (c : Ctx) (n : BitVec 6) : BitVec 4 := c.tags[n.toNat]'(by omega)

/-- A physical vector register and its tag are written. -/
def Ctx.setV (c : Ctx) (n : BitVec 6) (x : VReg) (t : BitVec 4) : Ctx :=
  { c with v := c.v.set n.toNat x (by omega), tags := c.tags.set n.toNat t (by omega) }

/-- A mask; m0 reads all ones (03 R56). -/
def Ctx.mreg (c : Ctx) (n : BitVec 3) : Mask := if n == 0 then BitVec.allOnes 4096 else c.m[n.toNat]'(by omega)

/-- A mask is written; a write to m0 is discarded. -/
def Ctx.setM (c : Ctx) (n : BitVec 3) (x : Mask) : Ctx := if n == 0 then c else { c with m := c.m.set n.toNat x (by omega) }

/-- A shape slot. -/
def Ctx.shape (c : Ctx) (n : BitVec 4) : Shape := c.h[n.toNat]'(by omega)

/-- A shape slot is written. -/
def Ctx.setShape (c : Ctx) (n : BitVec 4) (x : Shape) : Ctx := { c with h := c.h.set n.toNat x (by omega) }

/-- A tile table entry. -/
def Ctx.tile (c : Ctx) (n : BitVec 6) : Tile := c.t[n.toNat]'(by omega)

/-- A tile table entry is replaced. -/
def Ctx.modTile (c : Ctx) (n : BitVec 6) (f : Tile → Tile) : Ctx := { c with t := c.t.set n.toNat (f (c.tile n)) (by omega) }

/-- A hold record. -/
def Ctx.hold (c : Ctx) (n : BitVec 6) : Hold := c.holds[n.toNat]'(by omega)

/-- A hold record is replaced. -/
def Ctx.modHold (c : Ctx) (n : BitVec 6) (f : Hold → Hold) : Ctx :=
  { c with holds := c.holds.set n.toNat (f (c.hold n)) (by omega) }

/-- A bell's count; b0 is no bell. -/
def Ctx.bell (c : Ctx) (b : BitVec 5) : BitVec 8 := c.bells[b.toNat]'(by omega)

/-- A bell is rung: the ring is added at the end of the cycle; b0 rings nothing (02 R45; 05 R92). -/
def Ctx.ring (c : Ctx) (b : BitVec 5) : Ctx := if b == 0 then c else { c with rung := b :: c.rung }

/-- A bell's count with the rings of the cycle under way: it saturates at 255 (02 R45). -/
def Ctx.bellNow (c : Ctx) (b : BitVec 5) : BitVec 8 := BitVec.ofNat 8 (min 255 ((c.bell b).toNat + c.rung.count b))

/-- The rings of the cycle are added (02 R45). -/
def Ctx.addRings (c : Ctx) : Ctx :=
  if c.rung.isEmpty then c
  else { c with bells := Vector.ofFn fun k : Fin 32 => c.bellNow (BitVec.ofNat 5 k.val), rung := [] }

/-- The end of a cycle: its rings are added, and its changes of tiles and holds show (02 R45). -/
def Ctx.cycleEnd (c : Ctx) : Ctx := { c.addRings with fresh := [] }

/-- A bell's count can be taken; no bell always can. -/
def Ctx.canTake (c : Ctx) (b : BitVec 5) : Bool := b == 0 || c.bell b != 0

/-- One count is taken from a bell. -/
def Ctx.take (c : Ctx) (b : BitVec 5) : Ctx :=
  if b == 0 then c else { c with bells := c.bells.set b.toNat (c.bell b - 1) (by omega) }

/-- The depth of a queue (03 R66). -/
def Ctx.depth (c : Ctx) (q : Queue) : Nat :=
  match q with
  | .lq => c.slipd[0].toNat
  | .sq => c.slipd[1].toNat
  | .aq => c.slipd[2].toNat
  | .mq => c.slipd[3].toNat
  | .nq => c.slipd[4].toNat

/-- A queue. -/
def Ctx.queue (c : Ctx) (q : Queue) : EQueue :=
  match q with
  | .lq => c.lq
  | .sq => c.sq
  | .aq => c.aq
  | .mq => c.mq
  | .nq => c.nq

/-- A queue is replaced. -/
def Ctx.setQueue (c : Ctx) (q : Queue) (x : EQueue) : Ctx :=
  match q with
  | .lq => { c with lq := x }
  | .sq => { c with sq := x }
  | .aq => { c with aq := x }
  | .mq => { c with mq := x }
  | .nq => { c with nq := x }

/-- The number of a queue in the records, 0 being the control unit (26 R476). -/
def queueCode : Queue → Nat
  | .lq => 1
  | .sq => 2
  | .aq => 3
  | .mq => 4
  | .nq => 5

/-- The cycle under way, counted since the context was bound or restored. -/
def Ctx.now (c : Ctx) : Nat := c.clk

/-- The address space of a context (13 R274). -/
def Ctx.space (c : Ctx) : Space := ⟨c.asid, some c.root⟩

/-! ## The directory (12 R250) -/

/-- The sharer bit of the current context: its cluster, or the hub bit for a quay core. -/
def State.ownSharer (s : State) : Nat := min s.cx.coord.cluster.toNat 24

/-- A device or host line that this package may cache: no scratchpad line and no line of another package (12 R249, R251). -/
def State.cacheable (s : State) (k : Nat) : Bool := isHost k || keyNode k == s.node

/-- The core whose L1 an access of a sharer enters: the current context's, or the host's and the tool cluster's own caches past every core's
number. -/
def State.cacheOf (s : State) (sharer : Nat) : Nat := if sharer == s.ownSharer then s.cx.coord.cluster.toNat * 64 + s.cx.coord.core.toNat else 64 * sharer + 63

/-- The directory after an L1 read by a sharer (log entry 9). -/
def State.noteRead (s : State) (sharer : Nat) (k : Nat) : State :=
  if !s.cacheable k then s
  else
    let one : BitVec 26 := 1#26 <<< sharer
    let l := lineOf k
    let core := s.cacheOf sharer
    match s.lines.find? (·.line == l) with
    | none => { s with lines := ⟨l, .e, sharer, one, [core], false⟩ :: s.lines }
    | some d =>
      if d.sharers &&& one != 0 && d.l1s.contains core then s
      else
        let d1 : LineDir :=
          if d.sharers == 0 then { d with state := .e, owner := sharer }
          else { d with state := match d.state with | .m | .o => Moesi.o | .e | .s => Moesi.s }
        { s with lines := { d1 with sharers := d.sharers ||| one, l1s := core :: d.l1s.filter (· != core) } :: s.lines.filter (·.line != l) }

/-- The directory after an L1 write by a sharer: the one copy, in state M (12 R250). -/
def State.noteWrite (s : State) (sharer : Nat) (k : Nat) : State :=
  if !s.cacheable k then s
  else { s with lines := ⟨lineOf k, .m, sharer, 1#26 <<< sharer, [s.cacheOf sharer], false⟩ :: s.lines.filter (·.line != lineOf k) }

/-- The directory after the line's copies are recalled. -/
def State.noteRecall (s : State) (k : Nat) : State := { s with lines := s.lines.filter (·.line != lineOf k) }

/-- A hub engine's write is performed at the lines' home: every copy is recalled first (12 R250). -/
def State.recallSegs (s : State) (gs : List Seg) : State := (segsLines gs).foldl State.noteRecall s

/-- Runs written at their home (12 R250). whole: by one copy-engine unit, which clears the poison of a line that it covers (12 R270). -/
def State.homeWrite (s : State) (gs : List Seg) (bs : List Byte) (whole : Bool := false) : State :=
  let s1 := s.recallSegs gs
  { s1 with mem := writeSegs s1.mem gs bs, poison := if whole then clearPoison s1.poison gs else s1.poison }

/-! ## Another package's memory (12 R251; 23 R454) -/

/-- The byte lies in another package's memory. -/
def State.remote (s : State) (k : Nat) : Bool := !isScratch k && !isHost k && keyNode k != s.node

/-- A run cut at the lines that it meets. -/
def linePieces (g : Seg) : List Seg := (segLines g).map fun k => (max k g.1, min (k + 128) (g.1 + g.2) - max k g.1)

/-- The pieces of runs that lie in another package's memory, a line each: every access to one travels as a message (12 R251). -/
def State.remotePieces (s : State) (gs : List Seg) : List Seg :=
  if gs.any (fun g => s.remote g.1) then (gs.flatMap linePieces).filter fun g => s.remote g.1 else []

/-- The ports that lead to the pieces take a request for each, and none waits before them for the same node (23 R442). -/
def State.linkRoom (s : State) (gs : List Seg) : Bool :=
  let away := s.remotePieces gs
  let ports := away.filterMap fun g => s.portTo (keyNode g.1)
  (ports.all fun p => s.portTakes p 0 (ports.count p)) && away.all fun g => !s.waitingTo (keyNode g.1) 0

/-- The header of a request for bytes of another package, in the layout of log entry 13: the address in ARG0. -/
def State.askHeader (s : State) (n : Nat) (g : Seg) (x y z : Word) (len : Nat) : MsgHeader :=
  { atomicHeader (keyNode g.1) s.node n s.cx.coord.word with
    cls := if len ≤ 160 then 0 else 2, len := len, arg0 := BitVec.ofNat 64 (g.1 % 2 ^ 52), arg1 := x, arg2 := y, arg3 := z }

/-- A request for bytes of another package goes to its port. -/
def State.ask (s : State) (n : Nat) (g : Seg) (x y z : Word) (payload : List Byte) : State :=
  s.sendTo (s.askHeader n g x y z payload.length) payload .none

/-- Remote loads of the pieces of runs (23 R454). -/
def State.askLoads (s : State) (gs : List Seg) : State :=
  (s.remotePieces gs).foldl (fun s g => s.ask 0 g (BitVec.ofNat 64 g.2) 0 0 []) s

/-- Remote stores of bytes over runs (23 R454). -/
def State.askStores (s : State) : List Seg → List Byte → State
  | [], _ => s
  | g :: r, bs =>
    ((s.remotePieces [g]).foldl (fun s p => s.ask 8 p 0 0 0 ((bs.drop (p.1 - g.1)).take p.2)) s).askStores r (bs.drop g.2)

/-! ## Extents (12 R248) -/

/-- A failed access: its cause, its address, the kind, and whether the walk met a malformed entry. -/
structure Fail where
  cause : BitVec 7
  va : Word
  access : Access
  malformed : Bool
deriving DecidableEq, Repr

/-- Where an extent lies once R248 steps 1 to 5 pass. -/
inductive Place where
  /-- Window 0x0. -/
  | virt
  /-- A scratchpad, from this key. -/
  | scratch (key : Nat)
  /-- A step fails with this cause. -/
  | bad (cause : BitVec 7)
deriving DecidableEq, Repr

/-- Bits [hi:lo] of an address are zero. -/
def zeroBits (a hi lo : Nat) : Bool := a / 2 ^ lo % 2 ^ (hi + 1 - lo) == 0

/-- An offset of a scratchpad extent, within the declared extent of the context that owns it. -/
def Ctx.scratchAt (c : Ctx) (wb : Bool) (off len : Nat) : Place :=
  let ext := if wb then c.wbext else c.abext
  let origin := if wb then c.wbOrigin else c.abOrigin
  if off + len ≤ ext then .scratch (scratchKey c.coord.cluster.toNat c.coord.core.toNat wb.toNat (origin + off)) else .bad 0x21

/-- Steps 1 to 5 of 12 R248 for len bytes from first byte f, in the current context. onlyVirt: the address of a structure
of a device agent, for which windows 0x8 to 0xB are reserved (12 R509). A first byte below address 0 fails as one that leaves its window, with
cause 0x22, which no rule names for it (log entry 47). -/
def State.placeOf (s : State) (f : Int) (len : Nat) (onlyVirt : Bool) : Place :=
  let l := f + len - 1
  if f < 0 || l > 2 ^ 64 - 1 then .bad 0x22
  else
    let a := f.toNat
    let b := l.toNat
    let sel := a / 2 ^ 60
    if b / 2 ^ 60 != sel then .bad 0x23
    else if sel == 0 then (if b ≤ 0x01FFFFFFFFFFFFFF then .virt else .bad 0x22)
    else if onlyVirt || sel < 8 || 0xB < sel then .bad 0x22
    else
      let off := a % 2 ^ 18
      if sel ≤ 9 then
        if zeroBits a 59 18 && zeroBits b 59 18 then s.cx.scratchAt (sel == 9) off len else .bad 0x22
      else if zeroBits a 59 28 && zeroBits a 21 18 && zeroBits b 59 28 && zeroBits b 21 18 then
        let idx := a / 2 ^ 22 % 64
        if b / 2 ^ 22 % 64 != idx then .bad 0x21
        else if idx == s.cx.coord.core.toNat then s.cx.scratchAt (sel == 0xB) off len
        else
          match s.peer s.cx.cohort s.cx.coord.cluster.toNat idx with
          | none => .bad 0x21
          | some p => p.scratchAt (sel == 0xB) off len
      else .bad 0x22

/-! ## Translation (13 R276 to R286) -/

/-- A valid leaf: where its entry lies, the page size and the entry. -/
structure Leaf where
  pte : Nat
  size : Nat
  entry : Word
deriving DecidableEq, Repr

/-- What a walk finds. -/
inductive Walked where
  | leaf (l : Leaf)
  | absent
  | malformed
deriving DecidableEq, Repr

/-- A table entry breaks 13 R277, its next table being aligned to this size. -/
def tableMalformed (e : Word) (align : Nat) : Bool :=
  field e 60 3 != 0 || field e 52 7 != 0 || field e 0 8 != 0 || (field e 8 44).toNat * 256 % align != 0

/-- A leaf entry breaks 13 R278 for a page of this size. -/
def State.leafMalformed (s : State) (e : Word) (size : Nat) : Bool :=
  let res := (field e 60 3).toNat
  let nd := (field e 7 9).toNat
  bit e 52 || field e 0 7 != 0 || 5 < res || (field e 16 36).toNat * 65536 % size != 0 ||
    (if res == 3 then nd == s.node || !s.inPod nd else nd != 0)

/-- The walk of 13 R279 from a table at a level, the number of levels still to visit after it being n. -/
def State.walkFrom (s : State) (va : Nat) : Nat → Nat → Walked
  | 0, t => -- level 0
    let k := devKey s.node (t + 8 * (va / 2 ^ 16 % 32))
    let e := BitVec.ofNat 64 (leNat (Memory.read s.mem k 8))
    if !bit e 63 then .absent else if !bit e 59 || s.leafMalformed e 0x10000 then .malformed else .leaf ⟨k, 0x10000, e⟩
  | n + 1, t =>
    let idx := if n == 0 then va / 2 ^ 21 % 512 else if n == 1 then va / 2 ^ 30 % 512 else va / 2 ^ 39 % 262144
    let size := if n == 0 then 2 ^ 21 else 2 ^ 30
    let k := devKey s.node (t + 8 * idx)
    let e := BitVec.ofNat 64 (leNat (Memory.read s.mem k 8))
    if !bit e 63 then .absent
    else if bit e 59 then (if n == 2 || s.leafMalformed e size then .malformed else .leaf ⟨k, size, e⟩)
    else if tableMalformed e (if n == 0 then 256 else 4096) then .malformed
    else s.walkFrom va n ((field e 8 44).toNat * 256)

/-- The walk from a root table. -/
def State.walkTable (s : State) (root va : Nat) : Walked := s.walkFrom va 3 root

/-- The access kind needs a permission that the leaf denies (13 R279). -/
def denied (e : Word) : Access → Bool
  | .load => !bit e 57
  | .store => !bit e 56
  | .rmw => !bit e 57 || !bit e 56
  | .fetch => !bit e 55

/-- The access kind writes. -/
def Access.writes : Access → Bool
  | .store | .rmw => true
  | .load | .fetch => false

/-- The checks of 13 R279 on a leaf: the cause of the first that fails. -/
def leafCause (e : Word) (k : Access) : Option (BitVec 7) :=
  if field e 60 3 == 5 then some 0x25
  else if denied e k then some 0x21
  else if field e 60 3 == 4 && k.writes then some 0x20
  else none

/-- The key of an address within a page (13 R278, R279); a migrating page is read in its old frame (13 R281). -/
def State.leafKey (s : State) (l : Leaf) (va : Nat) : Nat :=
  let pa := (field l.entry 16 36).toNat * 65536 + va % l.size
  match (field l.entry 60 3).toNat with
  | 2 => hostKey pa
  | 3 => devKey (field l.entry 7 9).toNat pa
  | 4 => ((s.moving.find? (·.pte == l.pte)).elim (devKey s.node pa) fun m => m.old + va % l.size)
  | _ => devKey s.node pa

/-- The A bit, and the D bit for an access that writes, are set in an entry. -/
def withAD (e : Word) (k : Access) : Word := e ||| bitAt true 54 ||| bitAt k.writes 53

/-- The entries that a translation cache can hold (13 R283). -/
def tlbCapacity (cache : Nat) : Nat := if cache == 0 then 128 else 16

/-- An entry belongs to a translation cache: 0 to 3 of the current context's core, or 4 + e of copy engine e. -/
def State.ownTlb (s : State) (cache : Nat) (e : TlbEntry) : Bool :=
  e.cache == cache && (4 ≤ cache || e.cluster == s.cx.coord.cluster.toNat && e.core == s.cx.coord.core.toNat)

/-- The cached leaf of an address, if the cache holds one. -/
def State.tlbHit (s : State) (cache : Nat) (asid : BitVec 16) (va : Nat) : Option Leaf :=
  (s.tlbs.find? fun e => s.ownTlb cache e && e.asid == asid && decide (e.vbase ≤ va) && decide (va < e.vbase + e.size)).map
    fun e => ⟨e.pte, e.size, e.entry⟩

/-- A leaf enters a translation cache; the oldest entry of a full one leaves (log entry 8). -/
def State.tlbFill (s : State) (cache : Nat) (asid : BitVec 16) (va : Nat) (l : Leaf) : State :=
  let vb := va / l.size * l.size
  let rest := s.tlbs.filter fun e => !(s.ownTlb cache e && e.asid == asid && e.vbase == vb)
  let own := rest.filter (s.ownTlb cache)
  let keep := if tlbCapacity cache ≤ own.length then
      match own.getLast? with
      | some old => rest.filter (fun e => e != old)
      | none => rest
    else rest
  { s with tlbs := ⟨s.cx.coord.cluster.toNat, s.cx.coord.core.toNat, cache, asid, vb, l.size, l.pte, l.entry⟩ :: keep }

/-- The bits that an access adds to a leaf entry are set by an atomic OR in memory, at the entry's home (13 R279), which recalls every copy of its
line (12 R250). -/
def State.putPte (s : State) (l : Leaf) (k : Access) : State :=
  if withAD l.entry k == l.entry then s
  else s.homeWrite [(l.pte, 8)] (wordBytes (withAD (BitVec.ofNat 64 (leNat (Memory.read s.mem l.pte 8))) k))

/-- An answer of translation: the state after it and the key of the byte, or the failure. -/
inductive Translated where
  | ok (s : State) (key : Nat)
  | fail (f : Fail)

/-- Translate of 13 R279 for one byte in window 0x0. cache: the translation cache of the current core that serves it, none
for a device agent. In debug hold an access to host memory waits, which is the failure with cause 0 (27 R493). -/
def State.translate (s : State) (cache : Option Nat) (sp : Space) (va : Nat) (k : Access) : Translated :=
  let bad (c : BitVec 7) (m : Bool) : Translated := .fail ⟨c, BitVec.ofNat 64 va, k, m⟩
  match sp.root with
  | none => if s.retiredFrames.contains (va / 65536) then bad 0x25 false else .ok s (devKey s.node va)
  | some root =>
    let found := match cache with
      | none => s.walkTable root va
      | some c => match s.tlbHit c sp.asid va with
        | some l => .leaf l
        | none => s.walkTable root va
    match found with
    | .absent => bad 0x20 false
    | .malformed => bad 0x20 true
    | .leaf l =>
      match leafCause l.entry k with
      | some c => bad c false
      | none =>
        let key := s.leafKey l va
        if isHost key && s.debugHold then bad 0 false
        else if !isHost key && !s.reachable (keyNode key) then bad 0x58 false
        else
          let s1 := s.putPte l k
          .ok (match cache with
            | none => s1
            | some c => s1.tlbFill c sp.asid va { l with entry := withAD l.entry k }) key

/-- An answer for a range: the state after it and the runs of bytes, or the failure. -/
inductive Ranged where
  | ok (s : State) (gs : List Seg)
  | fail (f : Fail)

/-- Every 64 KiB granule of a range in window 0x0 is translated, in increasing order. -/
def State.translateRange (s : State) (cache : Option Nat) (sp : Space) (va len : Nat) (k : Access) : Nat → Ranged
  | 0 => .ok s []
  | fuel + 1 =>
    if len == 0 then .ok s []
    else
      let n := min len (65536 - va % 65536)
      match s.translate cache sp va k with
      | .fail f => .fail f
      | .ok s1 key =>
        match s1.translateRange cache sp (va + n) (len - n) k fuel with
        | .fail f => .fail f
        | .ok s2 gs => .ok s2 ((key, n) :: gs)

/-- A request for each line of another package that an access meets goes to its port, and the access waits for room, a key and credits, which is
the failure with cause 0 (12 R251; 23 R442, R453, R454); a store or an atomic sends its own with its data (log entry 14). -/
def Ranged.asked (x : Ranged) (f : Word) (k : Access) : Ranged :=
  match x with
  | .fail e => .fail e
  | .ok s gs => if !s.linkRoom gs then .fail ⟨0, f, k, false⟩ else .ok (if k.writes then s else s.askLoads gs) gs

/-- Translate of 00 R9: the extent checks of 12 R248, then every page of the extent. -/
def State.mapRange (s : State) (cache : Option Nat) (f : Int) (len : Nat) (k : Access) (onlyVirt : Bool) : Ranged :=
  match s.placeOf f len onlyVirt with
  | .bad c => .fail ⟨c, BitVec.ofInt 64 f, k, false⟩
  | .scratch key => .ok s [(key, len)]
  | .virt => s.translateRange cache s.cx.space f.toNat len k (len / 65536 + 2)

/-- A device agent's access in an address space: window 0x0 alone (12 R509; 28 R504). cache: a copy engine's translation cache. -/
def State.agentAccess (s : State) (sp : Space) (a : Word) (len : Nat) (k : Access) (cache : Option Nat := none) : Ranged :=
  let l := a.toNat + len - 1
  match sp.root with
  | none => s.translateRange none sp a.toNat len k (len / 65536 + 2)
  | some _ =>
    if 2 ^ 64 - 1 < l then .fail ⟨0x22, a, k, false⟩
    else if l / 2 ^ 60 != a.toNat / 2 ^ 60 then .fail ⟨0x23, a, k, false⟩
    else if 0x01FFFFFFFFFFFFFF < l then .fail ⟨0x22, a, k, false⟩
    else s.translateRange cache sp a.toNat len k (len / 65536 + 2)

/-- A unit of a class serves: it is not fenced or retired, and no test of it is under way (01 R22, R24; 28 R507). -/
def State.unitServes (s : State) (cls unit : Nat) : Bool :=
  !s.outUnits.any fun u => u.cls == cls && u.unit == unit && u.test.all (s.time < ·)

/-! ## Device agents (12 R509) -/

/-- A device agent's read: the state and the bytes, or the cause. -/
def State.agentRead (s : State) (sp : Space) (a : Word) (len : Nat) : Except (BitVec 7) (State × List Byte) :=
  match s.agentAccess sp a len .load with
  | .fail f => .error f.cause
  | .ok s1 gs => if segsPoisoned s1.poison gs then .error 0x25 else .ok (s1, readSegs s1.mem gs)

/-- A device agent's write: the state, or the cause. -/
def State.agentWrite (s : State) (sp : Space) (a : Word) (bs : List Byte) : Except (BitVec 7) State :=
  match s.agentAccess sp a bs.length .store with
  | .fail f => .error f.cause
  | .ok s1 gs => .ok (s1.homeWrite gs bs)

/-- A device agent's write of a dword that is not made where it faults. -/
def State.agentPut (s : State) (sp : Space) (a : Word) (x : Word) : State :=
  match s.agentWrite sp a (wordBytes x) with
  | .error _ => s
  | .ok s1 => s1

/-! ## Machine-check banks (26 R480, R481) -/

/-- MCB_CTL after reset: CETHR 0x0100 (26 R480). -/
def mcbCtlReset : Word := 0x0100 <<< 48

/-- A bank; an unlisted one holds its reset values. -/
def State.mcb (s : State) (n : Nat) : Mcb :=
  match s.mcbs.find? (·.bank == n) with
  | some b => b
  | none => ⟨n, 0, 0, 0, mcbCtlReset, 0⟩

/-- A bank is written. -/
def State.setMcb (s : State) (b : Mcb) : State := { s with mcbs := b :: s.mcbs.filter (·.bank != b.bank) }

/-- What an error brings to its bank: severity 1 corrected, 2 contained, 3 fatal; class; detail; line; affected work. -/
structure Check where
  sev : BitVec 2
  cls : BitVec 7
  synd : BitVec 16
  addr : Option Nat
  info : Option Word
deriving DecidableEq, Repr

/-- The class number of a bank's unit within its class (26 R480). -/
def unitOfBank (n : Nat) : Nat :=
  if n < 1560 then n else if n < 1752 then n - 1560 else if n < 1776 then n - 1752 else if n < 1788 then n - 1776
  else if n < 1796 then n - 1788 else if n < 1802 then n - 1796 else if n < 1810 then n - 1802 else if n < 1812 then 0
  else if n < 1831 then n - 1812 else if n < 1863 then n - 1831 else 0

/-- MCB_STATUS of a record, before CECOUNT. -/
def Check.status (c : Check) (bank : Nat) : Word :=
  bitAt true 63 ||| place c.sev 60 ||| bitAt c.addr.isSome 59 ||| bitAt c.info.isSome 58 ||| place c.cls 50 |||
    at' (unitOfBank bank) 32 ||| place c.synd 0

/-- A bank interrupts the management core (26 R481). -/
def State.notify (s : State) (bank : Nat) (when_ : Bool) : State := if when_ then { s with notices := bank :: s.notices } else s

/-- CECOUNT of a bank after a corrected error, saturating. -/
def Mcb.counted (b : Mcb) : Mcb :=
  let ce := field b.status 16 16
  { b with status := putField b.status 16 (if ce == 0xFFFF then ce else ce + 1) }

/-- A corrected error counts in its bank; a count that reaches CETHR interrupts the management core (26 R481). -/
def State.countCorrected (s : State) (bank : Nat) : State :=
  let b := s.mcb bank
  let c := b.counted
  let ce : BitVec 16 := field c.status 16 16
  (s.setMcb c).notify bank (c != b && ce == field b.ctl 48 16)

/-- An error fills the record of a bank (26 R481): it is empty, and for a corrected error CELOG is set; it is fatal; it is contained and a
corrected one is held; or the errors' order within a cycle would have put the one held after it. -/
def Mcb.fills (b : Mcb) (now : Nat) (c : Check) : Bool :=
  let held : BitVec 2 := field b.status 60 2
  let before := held == c.sev && b.taken == now && decide (c.synd.toNat < (field b.status 0 16 : BitVec 16).toNat)
  if !bit b.status 63 then c.sev != 1 || bit b.ctl 1
  else match c.sev with
    | 3 => !before
    | 2 => held == 1 || before
    | _ => before && bit b.ctl 1

/-- The record of an error enters its bank, or OVER is set where a contained one finds no room; a contained record that an error of the same
cycle displaces counts as the later one (26 R481). -/
def Mcb.record (b : Mcb) (now : Nat) (c : Check) : Mcb :=
  if b.fills now c then
    let displaced := bit b.status 63 && b.taken == now && (field b.status 60 2 : BitVec 2) == 2
    { b with status := c.status b.bank ||| place (field b.status 16 16 : BitVec 16) 16 ||| bitAt (bit b.status 62 || displaced) 62
             addr := BitVec.ofNat 64 (c.addr.getD 0), info := c.info.getD 0, taken := now }
  else { b with status := b.status ||| bitAt (c.sev == 2) 62 }

/-- An error is counted and recorded in its bank, and notified (26 R481); a fatal one stops the package (26 R484). -/
def State.machineCheck (s : State) (bank : Nat) (c : Check) : State :=
  let s0 := if c.sev == 1 then s.countCorrected bank else s
  let b := s0.mcb bank
  let s1 := (s0.setMcb (b.record s.time c)).notify bank (c.sev != 1 && b.fills s.time c)
  if c.sev == 3 then { s1 with fatal := true, interrupts := 2048 :: s1.interrupts } else s1

/-- The package-wide core number of a coordinate (01 R13; 26 R480). -/
def Ctx.coreNumber (c : Ctx) : Nat := c.coord.cluster.toNat * 64 + c.coord.core.toNat

/-- The kind of work that an error affects, as MCB_INFO codes it (26 R480). -/
def Ctx.item (c : Ctx) : Nat :=
  match c.cause with
  | .launch => 1
  | .task _ => 2
  | .message _ => 6

/-- MCB_INFO for a context's work (26 R480). -/
def Ctx.mcInfo (c : Ctx) (item queue : Nat) : Word := (c.coord.word &&& ~~~(0x3FFFFFFFF : Word)) ||| at' item 31 ||| at' queue 28

/-- The next check of a bank's unit is to fail once (26 R480, INJ). -/
def State.injected (s : State) (bank : Nat) : Bool := bit (s.mcb bank).ctl 2

/-- The injected failure has happened: INJ clears. -/
def State.clearInj (s : State) (bank : Nat) : State := let b := s.mcb bank; s.setMcb { b with ctl := b.ctl &&& ~~~4 }

/-- The bank of a device line's home slice (12 R249, R270; 26 R480). -/
def homeBank (k : Nat) : Nat := 1752 + k % 2 ^ 52 / 128 % 24

/-- The first byte of some runs at which the check of a home slice of this package is to fail, as injected: its place among them, and its address
(26 R480, R482). -/
def State.sliceFault (s : State) (n : Nat) : List Seg → Option (Nat × Nat)
  | [] => none
  | (k, len) :: gs =>
    if isScratch k || isHost k || keyNode k != s.node then s.sliceFault (n + len) gs
    else match (List.range (len / 128 + 2)).find? fun i =>
        (let a := if i == 0 then k else (k / 128 + i) * 128; decide (a < k + len) && s.injected (homeBank a)) with
      | some i => let a := if i == 0 then k else (k / 128 + i) * 128; some (n + (a - k), a)
      | none => s.sliceFault (n + len) gs

/-- The check of a home slice fails, as injected: a double-bit error of the line, and INJ clears (26 R480, R482). -/
def State.sliceCheck (s : State) (a : Nat) (info : Option Word) : State :=
  (s.clearInj (homeBank a)).machineCheck (homeBank a) { sev := 2, cls := 0x72, synd := 0, addr := some (a % 2 ^ 52 / 128 * 128), info := info }

/-- A slice that is to fail its next check fails a read of it, which then has no data (26 R482). -/
def Ranged.checked (x : Ranged) (f : Int) (k : Access) : Ranged :=
  match x with
  | .fail e => .fail e
  | .ok s gs => match (if k == .store then none else s.sliceFault 0 gs) with
    | some (n, _) => .fail ⟨0x25, BitVec.ofInt 64 (f + n), k, false⟩
    | none => .ok s gs

/-- An access of the current context: its range, what it asks of other packages, and what the home slices' checks find. -/
def State.access (s : State) (cache : Option Nat) (f : Int) (len : Nat) (k : Access) (onlyVirt : Bool) : Ranged :=
  (s.mapRange cache f len k onlyVirt).asked (BitVec.ofInt 64 f) k |>.checked f k

/-! ## Traps (26 R475 to R479) -/

/-- A trap as its reporter knows it. -/
structure Trap where
  cause : BitVec 7
  queue : Nat
  iaddr : Word
  va : Word := 0
  code : BitVec 16 := 0
  info : Word := 0
  mc : Bool := false
  resumable : Bool := true
deriving DecidableEq, Repr

/-- The trap record of a trap whose control stream stops at a boundary (26 R476). -/
def Trap.record (t : Trap) (pc : Word) : TrapRec :=
  { cause := t.cause, queue := t.queue, resumable := t.resumable, mc := t.mc, secondary := false, code := t.code, pc := pc,
    iaddr := t.iaddr, vaddr := t.va, info := t.info }

/-- TAKING AN EXCEPTION. The context stops at its boundary in state trapped, its trap record written (26 R475, R476;
06 R120). A context that is already trapped keeps the reported trap and marks it SECONDARY; one that is faulted carries
the trap as a line of its fault record, another queue having faulted too (13 R288; 26 R476). -/
def Ctx.takeTrap (c : Ctx) (t : Trap) : Ctx :=
  match c.life, c.trap with
  | .trapped, some r => { c with trap := some { r with secondary := true } }
  | .faulted, x => { c with trap := some { x.getD (t.record c.pc) with secondary := true } }
  | _, _ => { c with life := .trapped, trap := some (t.record c.pc) }

/-- The current context takes a trap. -/
def State.takeTrap (s : State) (t : Trap) : State := { s with cx := s.cx.takeTrap t }

/-- The context is loaded and ready to run on its core: inactive, and under no stop of 27 R491. -/
def Ctx.isReady (c : Ctx) : Bool := c.life == .inactive && !c.stopped

/-- The context becomes the active one of its core (02 R36, R48). -/
def Ctx.activated (c : Ctx) : Ctx := { c with life := .running, since := c.clk }

/-- No context runs on the core of c. -/
def State.coreFree (s : State) (c : Ctx) : Bool := !s.ctxs.any fun x => x.sameCore c && x.life == .running

/-- The other bank of the current context's core becomes active, if a ready context is loaded there (02 R48; 13 R287). -/
def State.wakeOther (s : State) : State :=
  if !s.coreFree s.cx then s
  else match s.others.find? fun c => c.sameCore s.cx && c.isReady with
    | some c => s.modCtx c.ref Ctx.activated
    | none => s

/-- TAKING A PAGE FAULT (13 R287; 02 R48): a line of the fault record, and state faulted; the drain and the bank switch follow in the
same cycle. A context that is already stopped adds the line; a trap of another queue becomes SECONDARY (26 R476). -/
def State.takePageFault (s : State) (l : FaultLine) : State :=
  { s with cx := { s.cx with faultRec := s.cx.faultRec ++ [l], life := .faulted,
                             trap := s.cx.trap.map fun r => { r with secondary := true } } }

/-- VADDR of a trap record: the virtual address for causes 0x20 to 0x25, else 0 (26 R476). -/
def addressFor (cause : BitVec 7) (va : Word) : Word := if 0x20 ≤ cause.toNat && cause.toNat ≤ 0x25 then va else 0

/-- The address of a failed access's first byte in a home slice that is to fail its next check. -/
def State.sliceOf (s : State) (f : Fail) : Option Nat :=
  if f.cause != 0x25 then none
  else match s.mapRange none f.va.toNat 1 f.access false with
    | .ok _ gs => (s.sliceFault 0 gs).map Prod.snd
    | .fail _ => none

/-- A failed access of a queue, or of the control unit as queue 0: a page fault for cause 0x20, else a trap (13 R288), for which a home slice that
failed logs its check (26 R482). One that waits for the host link (cause 0) is tried again (27 R493). -/
def State.takeFail (s : State) (q : Nat) (iaddr : Word) (f : Fail) : State :=
  if f.cause == 0 then s
  else if f.cause == 0x20 then s.takePageFault ⟨q, iaddr, f.va, f.access, f.cause, f.malformed⟩
  else match s.sliceOf f with
    | some a => (s.sliceCheck a (some (s.cx.mcInfo s.cx.item q))).takeTrap
        { cause := f.cause, queue := q, iaddr := iaddr, va := addressFor f.cause f.va, mc := true, code := 0x72 }
    | none => s.takeTrap { cause := f.cause, queue := q, iaddr := iaddr, va := addressFor f.cause f.va }

/-- RETURNING FROM AN EXCEPTION (06 R124): TRAP and BRK of the control unit continue at the next word, every other trap at
the boundary where the control stream stopped, and engine operations from their restart points. -/
def Ctx.resume (c : Ctx) : Ctx :=
  match c.trap with
  | none => c
  | some r =>
    { c with life := .running, trap := none,
             pc := if (r.cause == 7 || r.cause == 8) && r.queue == 0 then r.pc + 8 else r.pc }

end Sys2Proof.Machine
end

