-- ==== Sys2Proof/Machine/Crypto.lean ====
section
/-! DEFINITION. The functions that the manual names and does not define: AES-256-GCM (14 R308; 23 R451), AES key wrap (23 R451) and SHA-256
(27 R494; 28 R500), as FIPS 197, SP 800-38D, RFC 3394 and FIPS 180-4 define them (PRESUMED, log entry 5). -/

namespace Sys2Proof.Machine

/-! ## AES-256 -/

/-- The S-box, 32 values a row, the first in the lowest byte. -/
def sboxRows : List Nat :=
  [0xC072A49CAFA2D4ADF04759FA7DC982CA76ABD7FE2B670130C56F6BF27B777C63,
   0x75B227EBE28012079A059618C323C7041531D871F1E5A534CCF73F362693FDB7,
   0xCF584C4A39BECB6A5BB1FC20ED00D153842FE329B3D63B52A05A6E1B1A2C8309,
   0xD2F3FF1021DAB6BCF5389D928F40A351A89F3C507F02F94585334D43FBAAEFD0,
   0xDB0B5EDE14B8EE4688902A22DC4F816073195D643D7EA7C41744975FEC130CCD,
   0x08AE7A65EAF4566CA94ED58D6D37C8E779E4959162ACD3C25C2406490A3A32E0,
   0x9E1DC186B95735610EF6034866B53E708A8BBD4B1F74DDE8C6B4A61C2E2578BA,
   0x16BB54B00F2D99416842E6BF0D89A18CDF2855CEE9871E9B948ED9691198F8E1]

/-- The S-box. -/
def sbox (x : Byte) : Byte := BitVec.ofNat 8 (sboxRows.getD (x.toNat / 32) 0 >>> (8 * (x.toNat % 32)))

/-- The four bytes of a word, most significant first. -/
def beBytes (w : BitVec 32) : List Byte := [field w 24 8, field w 16 8, field w 8 8, field w 0 8]

/-- The word of four bytes, most significant first. -/
def beWord (b : List Byte) : BitVec 32 := b.getD 0 0 ++ b.getD 1 0 ++ b.getD 2 0 ++ b.getD 3 0

/-- The S-box on each byte of a word. -/
def subWord (w : BitVec 32) : BitVec 32 := beWord ((beBytes w).map sbox)

/-- Multiplication by x in AES's field. -/
def xtime (b : Byte) : Byte := (b <<< 1) ^^^ (if bit b 7 then 0x1B else 0)

/-- Round constant n, from 1. -/
def rcon : Nat → Byte
  | 0 => 0x8D
  | n + 1 => xtime (rcon n)

/-- The key schedule, newest word first: n more words from word i on. -/
def expandKey (ws : List (BitVec 32)) (i : Nat) : Nat → List (BitVec 32)
  | 0 => ws
  | n + 1 =>
    let t := ws.getD 0 0
    let u := if i % 8 == 0 then subWord (t.rotateLeft 8) ^^^ (rcon (i / 8)).setWidth 32 <<< 24 else if i % 8 == 4 then subWord t else t
    expandKey ((ws.getD 7 0 ^^^ u) :: ws) (i + 1) n

/-- A byte list cut into blocks of n bytes, the last one as long as what is left. -/
def blocksOf (n : Nat) (l : List Byte) : List (List Byte) := (List.range ((l.length + n - 1) / n)).map fun i => (l.drop (n * i)).take n

/-- The 15 round keys of a key of 32 bytes. -/
def roundKeys (key : List Byte) : List (List Byte) :=
  blocksOf 16 ((expandKey ((blocksOf 4 key).map beWord).reverse 8 52).reverse.flatMap beBytes)

/-- The bitwise sum of two byte lists. -/
def xorBytes (a b : List Byte) : List Byte := List.zipWith (· ^^^ ·) a b

/-- ShiftRows, columns of four bytes. -/
def shiftRows (s : List Byte) : List Byte := (List.range 16).map fun i => s.getD (i % 4 + 4 * ((i / 4 + i % 4) % 4)) 0

/-- MixColumns on one column. -/
def mixColumn (c : List Byte) : List Byte :=
  (List.range 4).map fun r =>
    let a := c.getD r 0
    let b := c.getD ((r + 1) % 4) 0
    xtime a ^^^ (xtime b ^^^ b) ^^^ c.getD ((r + 2) % 4) 0 ^^^ c.getD ((r + 3) % 4) 0

/-- The rounds after the first key: the last one mixes no columns. -/
def aesRounds (s : List Byte) : List (List Byte) → List Byte
  | [] => s
  | [k] => xorBytes (shiftRows (s.map sbox)) k
  | k :: ks => aesRounds (xorBytes ((blocksOf 4 (shiftRows (s.map sbox))).flatMap mixColumn) k) ks

/-- AES on a block of 16 bytes. -/
def aesBlock (ks : List (List Byte)) (b : List Byte) : List Byte := aesRounds (xorBytes b (ks.headD [])) ks.tail

/-! ## AES key wrap (RFC 3394) -/

/-- The value that the S-box takes to x. -/
def sboxInv (x : Byte) : Byte := BitVec.ofNat 8 (((List.range 256).find? fun n => sbox (BitVec.ofNat 8 n) == x).getD 0)

/-- SubBytes and ShiftRows undone. -/
def unshiftRows (s : List Byte) : List Byte := (List.range 16).map fun i => sboxInv (s.getD (i % 4 + 4 * ((i / 4 + 4 - i % 4) % 4)) 0)

/-- MixColumns undone on one column: 14, 11, 13 and 9 times its bytes. -/
def unmixColumn (c : List Byte) : List Byte :=
  (List.range 4).map fun r =>
    let x (n k : Nat) : Byte := (List.range n).foldl (fun b _ => xtime b) (c.getD ((r + k) % 4) 0)
    (x 3 0 ^^^ x 2 0 ^^^ x 1 0) ^^^ (x 3 1 ^^^ x 1 1 ^^^ x 0 1) ^^^ (x 3 2 ^^^ x 2 2 ^^^ x 0 2) ^^^ (x 3 3 ^^^ x 0 3)

/-- The rounds before the last undone, their round keys from the last to the first. -/
def aesUndo (s : List Byte) : List (List Byte) → List Byte
  | [] => s
  | [k] => xorBytes s k
  | k :: ks => aesUndo (unshiftRows ((blocksOf 4 (xorBytes s k)).flatMap unmixColumn)) ks

/-- AES undone on a block of 16 bytes. -/
def aesInverse (ks : List (List Byte)) (b : List Byte) : List Byte :=
  aesUndo (unshiftRows (xorBytes b (ks.reverse.headD []))) ks.reverse.tail

/-- One step of unwrapping: the check value and the four half blocks, step t from 24 down to 1. -/
def unwrapStep (ks : List (List Byte)) (x : List Byte × List (List Byte)) (t : Nat) : List Byte × List (List Byte) :=
  let i := (t - 1) % 4
  let b := aesInverse ks (xorBytes x.1 (leBytes 8 t).reverse ++ x.2.getD i [])
  (b.take 8, x.2.set i (b.drop 8))

/-- The key of 32 bytes that 40 wrapped bytes hold under a key; none where the check value is not that of the RFC. -/
def keyUnwrap (kek : BitVec 256) (w : List Byte) : Option (BitVec 256) :=
  let ks := roundKeys (leBytes 32 kek.toNat)
  let x := ((List.range 24).map fun i => 24 - i).foldl (unwrapStep ks) (w.take 8, blocksOf 8 (w.drop 8))
  if w.length == 40 && x.1 == List.replicate 8 0xA6 then some (BitVec.ofNat 256 (leNat x.2.flatten)) else none

/-! ## GCM -/

/-- The number of a byte list, most significant first. -/
def beNat (b : List Byte) : Nat := leNat b.reverse

/-- Multiplication in GCM's field: the bits of x from its highest on, n of them left. -/
def gcmMul (x z v : BitVec 128) : Nat → BitVec 128
  | 0 => z
  | n + 1 =>
    gcmMul x (if bit x n then z ^^^ v else z) ((v >>> 1) ^^^ (if bit v 0 then (0xE1 : BitVec 128) <<< 120 else 0)) n

/-- A byte list filled with zeros to whole blocks. -/
def padBlocks (b : List Byte) : List Byte := b ++ List.replicate ((16 - b.length % 16) % 16) 0

/-- GHASH. -/
def ghash (h : BitVec 128) (b : List Byte) : BitVec 128 :=
  (blocksOf 16 b).foldl (fun y x => gcmMul (y ^^^ BitVec.ofNat 128 (beNat x)) 0 h 128) 0

/-- The counter block of a nonce of 12 bytes. -/
def counterBlock (nonce : List Byte) (n : Nat) : List Byte := nonce ++ beBytes (BitVec.ofNat 32 n)

/-- Bytes under GCM's key stream; the key's bytes are in little-endian order. -/
def gcmCrypt (key : BitVec 256) (nonce bs : List Byte) : List Byte :=
  let ks := roundKeys (leBytes 32 key.toNat)
  (blocksOf 16 bs).zipIdx.flatMap fun x => xorBytes x.1 (aesBlock ks (counterBlock nonce (x.2 + 2)))

/-- GCM's tag over associated data and ciphertext. -/
def gcmTag (key : BitVec 256) (nonce aad ct : List Byte) : List Byte :=
  let ks := roundKeys (leBytes 32 key.toNat)
  let h := BitVec.ofNat 128 (beNat (aesBlock ks (List.replicate 16 0)))
  let lens := (leBytes 8 (8 * aad.length)).reverse ++ (leBytes 8 (8 * ct.length)).reverse
  xorBytes (leBytes 16 (ghash h (padBlocks aad ++ padBlocks ct ++ lens)).toNat).reverse (aesBlock ks (counterBlock nonce 1))

/-! ## SHA-256 -/

/-- The round constants. -/
def shaK : List (BitVec 32) :=
  [0x428A2F98, 0x71374491, 0xB5C0FBCF, 0xE9B5DBA5, 0x3956C25B, 0x59F111F1, 0x923F82A4, 0xAB1C5ED5] ++
  [0xD807AA98, 0x12835B01, 0x243185BE, 0x550C7DC3, 0x72BE5D74, 0x80DEB1FE, 0x9BDC06A7, 0xC19BF174] ++
  [0xE49B69C1, 0xEFBE4786, 0x0FC19DC6, 0x240CA1CC, 0x2DE92C6F, 0x4A7484AA, 0x5CB0A9DC, 0x76F988DA] ++
  [0x983E5152, 0xA831C66D, 0xB00327C8, 0xBF597FC7, 0xC6E00BF3, 0xD5A79147, 0x06CA6351, 0x14292967] ++
  [0x27B70A85, 0x2E1B2138, 0x4D2C6DFC, 0x53380D13, 0x650A7354, 0x766A0ABB, 0x81C2C92E, 0x92722C85] ++
  [0xA2BFE8A1, 0xA81A664B, 0xC24B8B70, 0xC76C51A3, 0xD192E819, 0xD6990624, 0xF40E3585, 0x106AA070] ++
  [0x19A4C116, 0x1E376C08, 0x2748774C, 0x34B0BCB5, 0x391C0CB3, 0x4ED8AA4A, 0x5B9CCA4F, 0x682E6FF3] ++
  [0x748F82EE, 0x78A5636F, 0x84C87814, 0x8CC70208, 0x90BEFFFA, 0xA4506CEB, 0xBEF9A3F7, 0xC67178F2]

/-- The initial hash value. -/
def shaH : List (BitVec 32) := [0x6A09E667, 0xBB67AE85, 0x3C6EF372, 0xA54FF53A, 0x510E527F, 0x9B05688C, 0x1F83D9AB, 0x5BE0CD19]

/-- The message schedule, newest word first: n more words. -/
def shaSchedule (ws : List (BitVec 32)) : Nat → List (BitVec 32)
  | 0 => ws
  | n + 1 =>
    let a := ws.getD 14 0
    let b := ws.getD 1 0
    let s0 := a.rotateRight 7 ^^^ a.rotateRight 18 ^^^ (a >>> 3)
    let s1 := b.rotateRight 17 ^^^ b.rotateRight 19 ^^^ (b >>> 10)
    shaSchedule ((s1 + ws.getD 6 0 + s0 + ws.getD 15 0) :: ws) n

/-- One round on the eight working words. -/
def shaRound (v : List (BitVec 32)) (kw : BitVec 32) : List (BitVec 32) :=
  let a := v.getD 0 0
  let e := v.getD 4 0
  let ch := (e &&& v.getD 5 0) ^^^ (~~~e &&& v.getD 6 0)
  let maj := (a &&& v.getD 1 0) ^^^ (a &&& v.getD 2 0) ^^^ (v.getD 1 0 &&& v.getD 2 0)
  let t1 := v.getD 7 0 + (e.rotateRight 6 ^^^ e.rotateRight 11 ^^^ e.rotateRight 25) + ch + kw
  let t2 := (a.rotateRight 2 ^^^ a.rotateRight 13 ^^^ a.rotateRight 22) + maj
  [t1 + t2, a, v.getD 1 0, v.getD 2 0, v.getD 3 0 + t1, e, v.getD 5 0, v.getD 6 0]

/-- One block of 64 bytes enters the hash. -/
def shaBlock (h : List (BitVec 32)) (b : List Byte) : List (BitVec 32) :=
  let ws := (shaSchedule ((blocksOf 4 b).map beWord).reverse 48).reverse
  List.zipWith (· + ·) h ((List.zipWith (· + ·) shaK ws).foldl shaRound h)

/-- SHA-256 of a byte string: 32 bytes. -/
def sha256 (bs : List Byte) : List Byte :=
  let pad := bs ++ [0x80] ++ List.replicate ((119 - bs.length % 64) % 64) 0 ++ (leBytes 8 (8 * bs.length)).reverse
  ((blocksOf 64 pad).foldl shaBlock shaH).flatMap beBytes

end Sys2Proof.Machine
end

