-- ==== Sys2Proof/Config.lean ====
section
/-! DEFINITION. What an implementation fixes and the manual leaves open: the free values of the model.
Each opaque constant has no body, so no theorem can rest on what it answers. -/

namespace Sys2Proof.Config

/-- KEY of the n-th future armed, from the security block's random source (19 R379; log entry 5). -/
opaque futureKey : Nat → BitVec 24

/-- The device's key-encryption key, which its fuses hold (23 R451; 28 R505; log entry 5). -/
opaque deviceKek : BitVec 256

/-- Whether a staged firmware image verifies under the fused LMS key (28 R498; log entry 12). -/
opaque lmsVerifies : List Byte → Bool

/-- The attestation report fields that fuses hold, and the HSS signature of a report (28 R500; log entry 12). -/
opaque fuseIdentity : List Byte

/-- The HSS signature of report bytes at a position of the signing state (28 R500; log entry 12). -/
opaque hssSignature : Nat → List Byte → List Byte

/-- How many signatures the signing state holds before it is exhausted (28 R500; log entry 12). -/
opaque hssCapacity : Nat

/-- Version and anti-rollback counter in the header of a firmware image, whose layout is not given (28 R498; log entry 12). -/
opaque firmwareVersion : List Byte → Nat

/-- The anti-rollback counter of a firmware image (28 R498; log entry 12). -/
opaque firmwareCounter : List Byte → Nat

/-- The report's bytes of the firmware version and counter, whose widths are not given (28 R500; log entry 12). -/
opaque reportFields : Nat → Nat → List Byte

/-- What a read of CSR 0xC80 returns; the manual gives that CSR a write alone (28 R503; log entry 10). -/
opaque mailboxRead : Nat → Word

/-- Bytes 4 to 15 of a CNAME record for a name whose directory another package keeps (17 R364; log entry 14). -/
opaque remoteRecord : Nat → BitVec 96

/-- Bytes 8 to 31 of a future record for a handle whose table another package keeps (19 R400; log entry 14). -/
opaque remoteFuture : Nat → BitVec 192

/-- The cycles that a context keeps the active bank of its core while another is ready there; the manual promises finite time alone (02 R36,
R49; log entry 49). -/
opaque quantum : Nat

/-- SLOT and GEN of the name that another node's management core gives a cohort of a launch accepted here (17 R344; log entry 17). -/
opaque remoteName : Nat → BitVec 23

/-- The member entry that another node reports for a member of a launch accepted here (21 R415; log entry 17). -/
opaque remoteEntry : Nat → BitVec 24

/-- The address of the deferred ring of a directory slot (17 R345; log entry 11). -/
opaque deferRing : Nat → Nat

/-- The bytes of BODY in a control flit that grants credits, a form that belongs to the link layer alone (23 R444; log entry 13). -/
opaque creditBody : List Nat → List Byte

/-- Whether a core in service of another package of the pod holds a mask of features, at an argument of the free values (14 R307; log entry 41). -/
opaque podHasFeature : Nat → Word → Bool

/-- The outcome of a store to a resolve window of the handle of a future that another package's table holds (19 R386; log entry 14). -/
opaque remoteOutcome : Nat → Word

end Sys2Proof.Config
end

