-- ==== Sys2Proof/Machine/Capture.lean ====
section
/-! DEFINITION. Captures: the snapshot, the list of accepted launches with their declared outputs, and the unordered mark (27 R494, R495). -/

namespace Sys2Proof.Machine

/-- The bytes of runs, given by the key of the first byte and a length. -/
def State.readRuns (s : State) (rs : List Seg) : List Byte := rs.flatMap fun r => Memory.read s.mem r.1 r.2

/-- The checksum of declared outputs: the first 8 bytes of SHA-256 over their bytes, in manifest order (27 R494). -/
def State.outputSum (s : State) (outputs : List Seg) : List Byte := (sha256 (s.readRuns outputs)).take 8

/-- A capture begins: the named ranges are kept as they stand. The manifest lists the declared outputs of the launches to come, up to 64 ranges
each, in order of acceptance (27 R494; log entry 51). -/
def State.startCapture (s : State) (ranges : List Seg) (manifest : List (List Seg)) : State :=
  { s with capture := some { snapshot := ranges.map fun r => (r.1, Memory.read s.mem r.1 r.2), manifest := manifest.map (·.take 64)
                             launches := [], walks := [], notes := [] } }

/-- An accepted launch enters the capture, with its record, its cohort table and the global timestamp. -/
def State.captureLaunch (s : State) (id : Word) (x : Submission) (launcher : Space) (record table : List Byte) : State :=
  { s with capture := s.capture.map fun c =>
      { c with manifest := c.manifest.tail
               launches := c.launches ++ [{ id := id, submission := x, launcher := launcher, record := record, table := table, time := s.ns
                                            outputs := c.manifest.headD [], checksum := [], unordered := false }] } }

/-- A walk that starts enters the capture. -/
def State.captureWalk (s : State) (g : Word) (nnodes : Nat) : State :=
  { s with capture := s.capture.map fun c => { c with walks := c.walks ++ [(g, nnodes, s.ns)] } }

/-- A launch's completion record is written: the checksum of its declared outputs is taken. -/
def State.captureDone (s : State) (id : Word) : State :=
  { s with capture := s.capture.map fun c =>
      { c with launches := c.launches.map fun l => if l.id == id then { l with checksum := s.outputSum l.outputs } else l } }

/-- Two runs of bytes meet. -/
def runsMeet (a b : Seg) : Bool := decide (a.1 < b.1 + b.2) && decide (b.1 < a.1 + a.2)

/-- A write whose order is not fixed goes to runs: every launch with a declared output there is marked (27 R495). -/
def State.noteUnordered (s : State) (gs : List Seg) : State :=
  { s with capture := s.capture.map fun c =>
      { c with launches := c.launches.map fun l =>
          if l.outputs.any fun o => gs.any (runsMeet o) then { l with unordered := true } else l } }

/-- The same where p holds: an AMO or RED of `.fadd`, a REDST of FP32, MXF4 or MXF4S. -/
def State.noteIf (s : State) (p : Bool) (gs : List Seg) : State := if p then s.noteUnordered gs else s

/-- What happened in a cycle from one state to the next, kept as information only: 0 page faults, 1 corrected errors, 2 pre-emptions (27
R496). -/
def State.captureNotes (before s : State) : State :=
  let more (f : State → Nat) : Bool := decide (f before < f s)
  let faulted (s : State) : Nat := (s.ctxs.map fun c => c.faultRec.length).sum
  let corrected (s : State) : Nat := (s.mcbs.map fun b => (field b.status 16 16 : BitVec 16).toNat).sum
  let saved (s : State) : Nat := (s.ctxs.filter fun c => c.life == .saved).length
  let kinds := [(0, more faulted), (1, more corrected), (2, more saved)].filterMap fun x => if x.2 then some (x.1, s.ns) else none
  { s with capture := s.capture.map fun c => { c with notes := c.notes ++ kinds } }

end Sys2Proof.Machine
end

