-- ==== Sys2Proof/WellFormed.lean ====
section
/-! DEFINITION. Which operand fields are legal: the reserved fields and reserved values of every instruction's entry
(05 R95 step 4, R98, R100, R101) and the SIG byte (05 R93). What a field may hold is a property of the word alone. -/

namespace Sys2Proof

/-- A mode field that names a rounding mode, 0 to 4 (05 R101; 04 R77). -/
def modeOk (fn : BitVec 5) : Bool := (field fn 0 3).toNat ≤ 4

/-- The fn of an instruction that rounds and has no variant: bits [4:3] reserved (08 R186). -/
def modeOnly (fn : BitVec 5) : Bool := modeOk fn && field fn 3 2 == 0

/-- A mask field uses [2:0] (05 R98). -/
def maskOk (x : BitVec 6) : Bool := field x 3 3 == 0

/-- A predicate field uses [2:0] (05 R98). -/
def predOk (x : BitVec 5) : Bool := field x 3 2 == 0

/-- fmt values of a Numeric instruction; 0 takes the tag's (08 R186). -/
def fmtNumeric (f : BitVec 4) : Bool := f.toNat ≤ 0xC

/-- fmt values of an Any instruction: all but the reserved 0xF (03 R54). -/
def fmtAny (f : BitVec 4) : Bool := f != 0xF

/-- fmt values of INT and NAT instructions. -/
def fmtInteger (f : BitVec 4) : Bool := f.toNat ≤ 7

/-- fmt values of a conversion's result, which must be named (08 R186). -/
def fmtResult (f : BitVec 4) : Bool := 1 ≤ f.toNat && f.toNat ≤ 0xC

/-- fmt values of the block formats. -/
def fmtBlock (f : BitVec 4) : Bool := f == 0xD || f == 0xE

/-- NONE and the formats of 8, 16 or 32 bits (09 R204). -/
def fmtBytes (f : BitVec 4) : Bool := f.toNat ≤ 0xC && f != 1

/-- FP32, FP16 and BF16, or 0 for the tag's (09 R204). -/
def fmtTrans (f : BitVec 4) : Bool := f == 0 || f == 8 || f == 9 || f == 0xA

/-- vb and vc reserved. -/
def V.noBC (o : V) : Bool := o.vb == 0 && o.vc == 0

/-- A cache hint in mode[1:0], the rest reserved (07 R157, R161). -/
def T.hintOk (o : T) : Bool := field o.mode 0 2 != 3 && field o.mode 2 6 == 0

/-- An index or source register in mode[5:0], the rest reserved (07 R161). -/
def T.regMode (o : T) : Bool := field o.mode 6 2 == 0

/-- An AMO or RED operation and size: op 0 to 9, `.fadd` of 4 bytes only, size 4 or 8 (12 R264, R266). -/
def M.amoOk (o : M) : Bool :=
  2 ≤ o.size.toNat && field o.off18 0 12 == 0 &&
    ((field o.off18 14 4).toNat ≤ 8 || (field o.off18 14 4 == 9 && o.size == 2))

/-- No operand field of an SI instruction but imm24 is used. -/
def SI.noRegs (o : SI) : Bool := o.sd == 0 && o.sa == 0

/-- fmt and ctl of MMA and MMAZ (10 R232, R238). -/
def X.mmaOk (o : X) : Bool :=
  (o.fmt == 0 || o.fmt == 2 || (9 ≤ o.fmt.toNat && o.fmt.toNat ≤ 0xE)) && field o.ctl 2 6 == 0 &&
    (!bit o.ctl 1 || o.fmt == 0 || o.fmt == 0xB || o.fmt == 0xC)

/-- The register and slot fields of an X instruction that names no B operand are zero. -/
def X.noB (o : X) : Bool := o.tb == 0 && o.hb == 0 && o.unf == 0

/-- An N instruction without vd and ctl. -/
def N.noVd (o : N) : Bool := o.vd == 0 && o.ctl == 0

/-- Every field of the instruction's word holds a value that its entry allows (05 R95 step 4). Events carry no word. -/
def Instr.fieldsOk : Instr → Bool
  | .clz o | .ctz o | .popc o => o.sb == 0
  | .shli o | .shri o | .srai o => field o.imm24 6 18 == 0
  | .pcmp _ o => predOk o.sd
  | .pand o | .por o => predOk o.sd && predOk o.sa && predOk o.sb
  | .pnot o => predOk o.sd && predOk o.sa && o.sb == 0
  | .b o | .call o | .loop o => o.sa == 0
  | .ret o => o.off28 == 0
  | .rotset o => o.noRegs && field o.imm24 6 2 == 0 && field o.imm24 11 13 == 0 &&
      (field o.imm24 0 6).toNat ≤ 32 && (field o.imm24 8 3).toNat ≤ 4
  | .csrr o => field o.imm24 12 12 == 0 && o.sa == 0
  | .csrw o | .csrs o | .csrc o => field o.imm24 12 12 == 0
  | .slip o => o.noRegs && field o.imm24 3 5 == 0 && field o.imm24 16 8 == 0 &&
      (field o.imm24 0 3).toNat ≤ 4 && field o.imm24 8 8 != 0
  | .qsync o => o.noRegs && field o.imm24 5 19 == 0
  | .shp o => field o.sd 4 1 == 0 && o.sd != 0
  | .shpx _ o => field o.sd 4 1 == 0 && o.sd != 0
  | .feat o => o.sa == 0 && field o.imm24 8 16 == 0
  | .bells o | .bellw o => o.noRegs && field o.imm24 5 19 == 0 && field o.imm24 0 5 != 0
  | .trap o | .brk o | .exit o => o.noRegs && field o.imm24 16 8 == 0
  | .yield o => o.noRegs && o.imm24 == 0
  | .snapr o => o.sb == 0
  | .binit _ | .btest _ => true
  | .breg o => o.sd == 0 && o.sb == 0
  | .barv o | .bdrop o => o.sb == 0
  | .barw o => o.sd == 0
  | .barvw o => o.sb == 0 && o.sd != 0
  | .tlbinv o => o.sd == 0
  | .mwrr o => o.sd == 0 && field o.imm24 3 5 == 0 && field o.imm24 12 12 == 0
  | .ld o | .ldu o | .st o => o.scope == 0
  | .amo o => o.amoOk
  | .amocas o => 2 ≤ o.size.toNat && field o.off18 14 4 == 0 && field o.off18 0 12 == 0 && o.sd != 31
  | .red o => o.amoOk && field o.off18 12 1 == 0
  | .fence o => o.sd == 0 && o.sa == 0 && o.size == 0 && o.ac == 0 && field o.off18 5 13 == 0
  | .dcwb o | .dcinv o => o.sd == 0 && o.size == 0 && o.ac == 0
  | .xlat o => o.ac == 0 && o.scope == 0
  | .migr o => o.ac == 0 && o.scope == 0 && o.size.toNat ≤ 1
  | .halloc o => o.ac == 0 && o.scope == 0 && o.size == 0 && o.off18 == 0 && o.sd != 0 && o.sd != 31
  | .hfree o => o.ac == 0 && o.scope == 0 && o.size == 0 && o.off18 == 0
  | .tld o | .tldx o | .tldv o | .vldb o | .tst o | .tstv o => o.hintOk
  | .tgath o | .vgath o | .tscat o => o.regMode
  | .tfill o => o.sb == 0 && o.mode == 0 && o.ac == 0
  | .tcpy o => o.mode == 0
  | .vldt o => o.regMode && o.ac == 0
  | .unfcfg o => o.h == 0 && o.mode == 0 && o.ac == 0 && field o.t 4 2 == 0 && o.t != 0
  | .pft o => o.t == 0 && field o.mode 1 7 == 0
  | .tstat o => o.sa == 0 && o.sb == 0 && o.mode == 0 && o.ac == 0
  | .vstt o => o.sa == 0 && o.sb == 0 && o.regMode && o.ac == 0
  | .trel o => o.sa == 0 && o.sb == 0 && o.h == 0 && o.mode == 0 && o.ac == 0
  | .vadd o | .vsub o | .vmul o => modeOk o.fn && o.vc == 0 && fmtNumeric o.fmt
  | .vfma o | .vfms o => modeOk o.fn && fmtNumeric o.fmt
  | .vmin o | .vmax o => field o.fn 0 3 == 0 && !bit o.fn 4 && o.vc == 0 && fmtNumeric o.fmt
  | .vabs o | .vneg o => field o.fn 0 4 == 0 && o.noBC && fmtNumeric o.fmt
  | .vcmp o => maskOk o.vd && !bit o.fn 4 && o.vc == 0 && fmtNumeric o.fmt
  | .vselm o | .vand o | .vor o | .vxor o => o.fn == 0 && o.vc == 0 && fmtAny o.fmt
  | .vnot o => o.fn == 0 && o.noBC && fmtAny o.fmt
  | .vshl o => field o.fn 3 2 == 0 && !bit o.fn 1 && (if bit o.fn 0 then o.vb == 0 else o.vc == 0) && fmtInteger o.fmt
  | .vshr o => field o.fn 2 3 == 0 && (if bit o.fn 0 then o.vb == 0 else o.vc == 0) && fmtInteger o.fmt
  | .vcvt o | .vdqnt o => modeOnly o.fn && o.vb == 0 && maskOk o.vc && fmtResult o.fmt
  | .vqnt o => modeOnly o.fn && o.vb == 0 && maskOk o.vc && fmtBlock o.fmt
  | .vbcast o => (o.fn == 0 || (o.fn == 1 && maskOk o.vb && o.vc == 0)) && fmtAny o.fmt
  | .vmov o => o.fn == 0 && o.noBC && fmtAny o.fmt
  | .vmovFrom o => (o.fn == 1 || o.fn == 2) && o.va == 0 && o.noBC && o.h == 0 && o.m == 0 && fmtAny o.fmt
  | .vmovTo o => (o.fn == 3 || o.fn == 4) && o.vd == 0 && o.noBC && o.h == 0 && o.m == 0 && fmtAny o.fmt
  | .vext o => field o.fn 3 2 == 0 && fmtAny o.fmt
  | .vins o => o.h == 0 && o.m == 0 && o.fmt == 0 && o.fn == 0
  | .vmlog o => maskOk o.vd && maskOk o.va && maskOk o.vb && o.vc == 0 && o.h == 0 && o.m == 0 && o.fmt == 0 &&
      o.fn.toNat ≤ 4 && (o.fn != 4 || o.vb == 0)
  | .vrcp o | .vrsq o | .vsqrt o | .vexp2 o | .vlog2 o => modeOnly o.fn && o.noBC && fmtTrans o.fmt
  | .vredsum o | .vredmax o | .vredmin o => o.noBC && o.fn.toNat ≤ 2 && fmtNumeric o.fmt
  | .vargmax o | .vargmin o => o.vb == 0 && o.fn.toNat ≤ 3 && fmtNumeric o.fmt
  | .vscan o => o.noBC && modeOk o.fn && fmtNumeric o.fmt
  | .vtrn o => o.noBC && o.fn == 0 && fmtBytes o.fmt
  | .vshf o => o.vb == 0 && fmtAny o.fmt
  | .vpermr o => o.vc == 0 && o.fn.toNat ≤ 1 && fmtBytes o.fmt
  | .vbaddq o => o.vc == 0 && modeOnly o.fn && (o.fmt == 0 || fmtBlock o.fmt)
  | .vrng o => !bit o.va 5 && !bit o.vb 5 && o.vc == 0 && o.fn == 0 && (o.fmt == 7 || o.fmt == 8)
  | .mma o | .mmaz o => o.mmaOk
  | .mmau o => (o.fmt == 0 || o.fmt == 5) && field o.ctl 2 6 == 0 && (!bit o.ctl 1 || o.fmt == 0)
  | .amld o => o.noB && o.ha == 0 && field o.ctl 5 3 == 0 &&
      (o.fmt == 0 || o.fmt == 4 || o.fmt == 8 || ((o.fmt == 9 || o.fmt == 0xA) && !bit o.ctl 4))
  | .amldStat o => o.noB && o.ha == 0 && o.ctl == 0 && (o.fmt == 0 || o.fmt == 7)
  | .amst o => o.noB && o.ctl == 0 && (o.fmt == 0 || (2 ≤ o.fmt.toNat && o.fmt.toNat ≤ 4) || (8 ≤ o.fmt.toNat && o.fmt.toNat ≤ 0xC))
  | .amz o => o.noB && o.ta == 0 && o.ha == 0 && o.ctl == 0 && (o.fmt == 0 || o.fmt == 4 || o.fmt == 8)
  | .mhint o => o.noB && o.ta == 0 && o.ha == 0 && o.fmt == 0 && field o.ctl 1 7 == 0
  | .msync o => o.noB && o.ta == 0 && o.ha == 0 && o.fmt == 0 && o.ctl == 0
  | .rstv o => o.scope == 0 && field o.ctl 8 3 == 0
  | .rstvRel o => field o.ctl 8 3 == 0
  | .vexp o => o.sb == 0 && o.sc == 0 && o.scope == 0 && o.ctl == 0
  | .cname o => o.vd == 0 && o.scope == 0 && o.ctl.toNat ≤ 1 && (o.ctl != 0 || o.sb == 0)
  | .amsg o | .launch o => o.sb == 0 && o.noVd
  | .mcst o | .cpy o | .cpyw o | .taskq o | .taskdec o | .graphgo o => o.noVd
  | .redst o => o.vd == 0 && (o.ctl == 4 || o.ctl == 8 || o.ctl == 0xD || o.ctl == 0xE)
  | .tend o => o.sa == 0 && o.sb == 0 && o.sc == 0 && o.scope == 0 && o.noVd
  | .qsnap o => o.sb == 0 && o.sc == 0 && o.scope == 0 && o.noVd
  | .fcall o => o.vd == 0
  | .fwait o | .fpoll o | .fdone o | .fcancel o | .adref o => o.sb == 0 && o.scope == 0 && o.noVd
  | .flink o => o.vd == 0 && o.scope == 0 && field o.ctl 8 3 == 0
  | .hring o => o.scope == 0 && o.noVd
  | _ => true

/-- The WAIT and SIG bytes of an instruction; an event has no word and so none. -/
def Instr.sync : Instr → Option Sync
  | .nop y => some y
  | .add o | .sub o | .mul o | .div o | .divu o | .rem o | .remu o | .and_ o | .or_ o | .xor_ o | .shl o | .shr o
    | .sra o | .slt o | .sltu o | .min o | .minu o | .max o | .maxu o | .clz o | .ctz o | .popc o | .sel o
    | .pand o | .por o | .pnot o | .shp o | .snapr o | .tlbinv o | .ctxst o | .ctxld o | .binit o | .breg o
    | .barv o | .barw o | .barvw o | .bdrop o | .btest o => some o.sync
  | .addi o | .muli o | .divi o | .remi o | .divui o | .remui o | .slti o | .sltui o | .andi o | .ori o | .xori o
    | .shli o | .shri o | .srai o | .rotset o | .csrr o | .csrw o | .csrs o | .csrc o | .slip o | .qsync o
    | .feat o | .bells o | .bellw o | .trap o | .brk o | .exit o | .yield o | .mwrr o => some o.sync
  | .li o | .lui o | .lea o => some o.sync
  | .pcmp _ o => some o.sync
  | .b o | .call o | .ret o | .loop o => some o.sync
  | .shpx _ o => some o.sync
  | .ld o | .ldu o | .st o | .lda o | .stl o | .amo o | .amocas o | .red o | .fence o | .waitv o | .dcwb o
    | .dcinv o | .xlat o | .migr o | .halloc o | .hfree o => some o.sync
  | .tld o | .tldx o | .tldv o | .vldb o | .tgath o | .vgath o | .tfill o | .tcpy o | .vldt o | .unfcfg o | .pft o
    | .tstat o | .tst o | .tstv o | .tscat o | .vstt o | .trel o => some o.sync
  | .vadd o | .vsub o | .vmul o | .vfma o | .vfms o | .vmin o | .vmax o | .vabs o | .vneg o | .vrcp o | .vrsq o
    | .vsqrt o | .vexp2 o | .vlog2 o | .vcmp o | .vselm o | .vand o | .vor o | .vxor o | .vnot o | .vshl o
    | .vshr o | .vcvt o | .vqnt o | .vdqnt o | .vbcast o | .vmov o | .vmovFrom o | .vmovTo o | .vext o | .vins o
    | .vredsum o | .vredmax o | .vredmin o | .vargmax o | .vargmin o | .vscan o | .vtrn o | .vshf o | .vpermr o
    | .vbaddq o | .vrng o | .vmlog o => some o.sync
  | .mma o | .mmaz o | .mmau o | .amld o | .amldStat o | .amst o | .amz o | .mhint o | .msync o => some o.sync
  | .rstv o | .rstvRel o | .vexp o | .cname o | .amsg o | .mcst o | .redst o | .cpy o | .cpyw o | .taskq o
    | .taskdec o | .tend o | .qsnap o | .fcall o | .fwait o | .fpoll o | .fdone o | .flink o | .fcancel o
    | .adref o | .launch o | .graphgo o | .hring o => some o.sync
  | .unassignedMajorOpcode _ | .queueIssue _ _ | .engineCompletion _ _ | .pageFaultAnswer _ _ | .trapDecision _
    | .watchdogExpiry _ | .exitTakesEffect _ | .tendTakesEffect _ | .bankSwitch _ | .cohortSave _ | .saveDone _
    | .cohortRestore _ | .cohortMigration _ _ _ | .cohortBind _ _ _ | .standingBind _ _ _ | .launchRecordArrival _
    | .launchCompletion _ | .launchDoorbell _ | .graphDoorbell _ | .nodeLaunch _ | .nodeCopy _ | .nodeWaitOnWord _
    | .nodeSignalWord _ | .nodeConditional _ | .nodeHostRingDrain _ | .nodeEnd _ | .graphWaitTimeout _
    | .hostRingTimeRule _ | .matrixGrant _ | .matrixCompletion _ | .levelStep _ | .mhintHoldExpiry _
    | .taskDequeue _ | .stealAttempt _ | .runListRefill _ | .taskDecrementArrival _ | .counterSettingArrival _
    | .registerStoreArrival _ | .busyRetry _ | .deferredDelivery _ | .activeMessageArrival _ | .remoteLoad _
    | .remoteStore _ | .remoteAtomic _ | .blockReduction _ | .copyComplete _ | .redPoisonTrap _ | .waitvReread _
    | .barrierWaitEnd _ | .resolveOk _ _ | .resolveErr _ _ | .resolveOutcome _ | .remoteResolve _
    | .futureDeadline _ | .futureResolution _ | .adapterLoadDone _ _ _ | .sandboxViolation _ _ | .pageMigration _
    | .packetReceive _ _ | .ackReceive _ _ | .nakReceive _ _ | .replayDone _ | .laneFailure _ _ | .linkTrained _ _
    | .retrainTimeout _ | .trainingRequest _ | .detourInstall _ _ | .keyPhaseSwitch _ | .retireReceive _
    | .partitionDissolve _ | .hostSnoop _ _ | .hostAtomic _ _ _ _ | .patrolScrub _ _ _ | .recessStart _
    | .recessEnd _ _ | .powerWindow _ _ | .coldReset _ | .warmReset _ | .traceTailFlush _ | .sample _
    | .triggerArm _ _ | .freeze _ | .thaw _ | .mcbStatusClear _ _ | .registerWindowWrite _ _
    | .hostMemoryAccess _ _ | .toolCoreAccess _ _ | .creditReceive _ _ _ _ | .waitOnWordReread _
    | .hostLinkLoss _ _ | .dieToDieLinkEvent _ _ | .podFormation _ _ _ _ | .clockStepUp | .firmwareSwitch
    | .debugHoldEnter | .keyset | .keyerase | .tool | .adapter | .handler | .binding | .terminate | .stop
    | .release | .sampleConfig | .service | .update | .attest | .debugHoldExit | .lockstepMismatch
    | .securityBlockFault => none

/-- The guard of an instruction that the control unit executes itself (05 R97, R99); LI, LUI, LEA and SEL have none, which is p0. -/
def Instr.cuGuard : Instr → Option (BitVec 3 × Bool)
  | .add o | .sub o | .mul o | .div o | .divu o | .rem o | .remu o | .and_ o | .or_ o | .xor_ o | .shl o | .shr o
    | .sra o | .slt o | .sltu o | .min o | .minu o | .max o | .maxu o | .clz o | .ctz o | .popc o | .pand o
    | .por o | .pnot o | .shp o | .snapr o | .tlbinv o | .ctxst o | .ctxld o | .binit o | .breg o | .barv o
    | .barw o | .barvw o | .bdrop o | .btest o => some (o.pg, o.pn)
  | .addi o | .muli o | .divi o | .remi o | .divui o | .remui o | .slti o | .sltui o | .andi o | .ori o | .xori o
    | .shli o | .shri o | .srai o | .rotset o | .csrr o | .csrw o | .csrs o | .csrc o | .slip o | .qsync o
    | .feat o | .bells o | .bellw o | .trap o | .brk o | .exit o | .yield o | .mwrr o => some (o.pg, o.pn)
  | .li _ | .lui _ | .lea _ | .sel _ => some (0, false)
  | .pcmp _ o => some (o.pg, o.pn)
  | .b o | .call o | .ret o | .loop o => some (o.pg, o.pn)
  | .shpx _ o => some (o.pg, o.pn)
  | .ld o | .ldu o | .st o | .lda o | .stl o | .amo o | .amocas o | .red o | .fence o | .waitv o | .dcwb o
    | .dcinv o | .xlat o | .migr o | .halloc o | .hfree o => some (o.pg, o.pn)
  | _ => none

/-- An instruction that a word may hold: legal fields and a legal SIG byte. An event is well formed. -/
def Instr.wellFormed (i : Instr) : Bool :=
  i.fieldsOk && (i.sync.elim true Sync.legal)

end Sys2Proof
end

