-- ==== Sys2Proof/Decode.lean ====
section
/-! DEFINITION. Decoding and encoding of the 64-bit instruction word (05 R91 to R109).
decode answers none for a word whose major opcode is assigned and whose function code or zero field is not
(cause 0x02 of 05 R95); a word of an unassigned major opcode decodes to the event row of that name. -/

namespace Sys2Proof

/-- MAJOR, bits [47:40] of a word (05 R91). -/
def majorOf (w : Word) : Nat := (field w 40 8).toNat

/-- The WAIT and SIG bytes of a word (05 R91). -/
def Sync.ofWord (w : Word) : Sync := ⟨field w 56 8, field w 48 8⟩

/-- The SR fields of a word (05 R99). -/
def SR.ofWord (w : Word) : SR :=
  ⟨Sync.ofWord w, field w 35 5, field w 30 5, field w 25 5, field w 22 3, bit w 21⟩

/-- The SI fields of a word (05 R99). -/
def SI.ofWord (w : Word) : SI :=
  ⟨Sync.ofWord w, field w 35 5, field w 30 5, field w 27 3, bit w 26, field w 0 24⟩

/-- The LI fields of a word (05 R99). -/
def LI.ofWord (w : Word) : LI :=
  ⟨Sync.ofWord w, field w 35 5, field w 0 32⟩

/-- The BR fields of a word (05 R99). -/
def BR.ofWord (w : Word) : BR :=
  ⟨Sync.ofWord w, field w 37 3, bit w 36, field w 31 5, field w 0 28⟩

/-- The M fields of a word (05 R99). -/
def M.ofWord (w : Word) : M :=
  ⟨Sync.ofWord w, field w 35 5, field w 30 5, field w 27 3, bit w 26, field w 24 2, field w 21 3, field w 18 3, field w 0 18⟩

/-- The T fields of a word (05 R99). -/
def T.ofWord (w : Word) : T :=
  ⟨Sync.ofWord w, field w 34 6, field w 29 5, field w 24 5, field w 20 4, field w 17 3, field w 14 3, bit w 13, field w 0 8⟩

/-- The V fields of a word (05 R99). -/
def V.ofWord (w : Word) : V :=
  ⟨Sync.ofWord w, field w 34 6, field w 28 6, field w 22 6, field w 16 6, field w 12 4, field w 9 3, field w 5 4, field w 0 5⟩

/-- The X fields of a word (05 R99). -/
def X.ofWord (w : Word) : X :=
  ⟨Sync.ofWord w, field w 34 6, field w 28 6, field w 24 4, field w 20 4, field w 16 4, field w 12 4, field w 0 8⟩

/-- The N fields of a word (05 R99). -/
def N.ofWord (w : Word) : N :=
  ⟨Sync.ofWord w, field w 35 5, field w 30 5, field w 25 5, field w 19 6, field w 16 3, field w 0 11⟩

/-- The majors 0x00 to 0x2F: the control unit's instructions of 05 R102. -/
def decodeControl (w : Word) : Nat → Option Instr
  | 0x00 => if field w 0 40 == 0 then some (.nop (Sync.ofWord w)) else none
  | 0x01 =>
    if field w 0 16 == 0 then match (field w 16 5).toNat with
    | 0 => some (.add (SR.ofWord w))
    | 1 => some (.sub (SR.ofWord w))
    | 2 => some (.mul (SR.ofWord w))
    | 3 => some (.div (SR.ofWord w))
    | 4 => some (.divu (SR.ofWord w))
    | 5 => some (.rem (SR.ofWord w))
    | 6 => some (.remu (SR.ofWord w))
    | 8 => some (.and_ (SR.ofWord w))
    | 9 => some (.or_ (SR.ofWord w))
    | 10 => some (.xor_ (SR.ofWord w))
    | 12 => some (.shl (SR.ofWord w))
    | 13 => some (.shr (SR.ofWord w))
    | 14 => some (.sra (SR.ofWord w))
    | 16 => some (.slt (SR.ofWord w))
    | 17 => some (.sltu (SR.ofWord w))
    | 18 => some (.min (SR.ofWord w))
    | 19 => some (.minu (SR.ofWord w))
    | 20 => some (.max (SR.ofWord w))
    | 21 => some (.maxu (SR.ofWord w))
    | 24 => some (.clz (SR.ofWord w))
    | 25 => some (.ctz (SR.ofWord w))
    | 26 => some (.popc (SR.ofWord w))
    | _ => none
    else none
  | 0x02 =>
    match (field w 24 2).toNat with
    | 0 => some (.addi (SI.ofWord w))
    | 1 => some (.muli (SI.ofWord w))
    | 2 => some (.divi (SI.ofWord w))
    | 3 => some (.remi (SI.ofWord w))
    | _ => none
  | 0x03 =>
    match (field w 24 2).toNat with
    | 0 => some (.divui (SI.ofWord w))
    | 1 => some (.remui (SI.ofWord w))
    | 2 => some (.slti (SI.ofWord w))
    | 3 => some (.sltui (SI.ofWord w))
    | _ => none
  | 0x04 =>
    match (field w 24 2).toNat with
    | 0 => some (.andi (SI.ofWord w))
    | 1 => some (.ori (SI.ofWord w))
    | 2 => some (.xori (SI.ofWord w))
    | _ => none
  | 0x05 =>
    match (field w 24 2).toNat with
    | 0 => some (.shli (SI.ofWord w))
    | 1 => some (.shri (SI.ofWord w))
    | 2 => some (.srai (SI.ofWord w))
    | _ => none
  | 0x08 =>
    match (field w 32 3).toNat with
    | 0 => some (.li (LI.ofWord w))
    | 1 => some (.lui (LI.ofWord w))
    | 2 => some (.lea (LI.ofWord w))
    | _ => none
  | 0x09 =>
    if field w 0 16 == 0 then match (field w 16 5).toNat with
    | 0 => some (.sel (SR.ofWord w))
    | _ => none
    else none
  | 0x0A =>
    if field w 0 16 == 0 then match (field w 16 5).toNat with
    | 0 => some (.pcmp .eq (SR.ofWord w))
    | 1 => some (.pcmp .ne (SR.ofWord w))
    | 2 => some (.pcmp .lt (SR.ofWord w))
    | 3 => some (.pcmp .ge (SR.ofWord w))
    | 4 => some (.pcmp .ltu (SR.ofWord w))
    | 5 => some (.pcmp .geu (SR.ofWord w))
    | _ => none
    else none
  | 0x0B =>
    if field w 0 16 == 0 then match (field w 16 5).toNat with
    | 0 => some (.pand (SR.ofWord w))
    | 1 => some (.por (SR.ofWord w))
    | 2 => some (.pnot (SR.ofWord w))
    | _ => none
    else none
  | 0x10 =>
    match (field w 28 3).toNat with
    | 0 => some (.b (BR.ofWord w))
    | 1 => some (.call (BR.ofWord w))
    | 2 => some (.ret (BR.ofWord w))
    | 3 => some (.loop (BR.ofWord w))
    | _ => none
  | 0x11 =>
    match (field w 24 2).toNat with
    | 0 => some (.rotset (SI.ofWord w))
    | _ => none
  | 0x18 =>
    match (field w 24 2).toNat with
    | 0 => some (.csrr (SI.ofWord w))
    | 1 => some (.csrw (SI.ofWord w))
    | 2 => some (.csrs (SI.ofWord w))
    | 3 => some (.csrc (SI.ofWord w))
    | _ => none
  | 0x19 =>
    match (field w 24 2).toNat with
    | 0 => some (.slip (SI.ofWord w))
    | 1 => some (.qsync (SI.ofWord w))
    | _ => none
  | 0x1A =>
    if field w 0 16 == 0 then match (field w 16 5).toNat with
    | 0 => some (.shp (SR.ofWord w))
    | _ => none
    else none
  | 0x1B =>
    match (field w 24 2).toNat with
    | 0 => some (.shpx .vrows (SI.ofWord w))
    | 1 => some (.shpx .vcols (SI.ofWord w))
    | 2 => some (.shpx .rows (SI.ofWord w))
    | 3 => some (.shpx .stride (SI.ofWord w))
    | _ => none
  | 0x1D =>
    match (field w 24 2).toNat with
    | 0 => some (.feat (SI.ofWord w))
    | _ => none
  | _ => some (.unassignedMajorOpcode w)

/-- The majors 0x30 to 0x3F: the M family (05 R103). -/
def decodeMemory (w : Word) : Nat → Option Instr
  | 0x30 => some (.ld (M.ofWord w))
  | 0x31 => some (.ldu (M.ofWord w))
  | 0x32 => some (.st (M.ofWord w))
  | 0x33 => some (.lda (M.ofWord w))
  | 0x34 => some (.stl (M.ofWord w))
  | 0x35 => some (.amo (M.ofWord w))
  | 0x36 => some (.amocas (M.ofWord w))
  | 0x37 => some (.red (M.ofWord w))
  | 0x38 => some (.fence (M.ofWord w))
  | 0x39 => some (.waitv (M.ofWord w))
  | 0x3A => some (.dcwb (M.ofWord w))
  | 0x3B => some (.dcinv (M.ofWord w))
  | 0x3C => some (.xlat (M.ofWord w))
  | 0x3D => some (.migr (M.ofWord w))
  | 0x3E => some (.halloc (M.ofWord w))
  | 0x3F => some (.hfree (M.ofWord w))
  | _ => some (.unassignedMajorOpcode w)

/-- The majors 0x40 to 0x6F: the load and store engines (05 R104). -/
def decodeTiles (w : Word) : Nat → Option Instr
  | 0x40 =>
    match (field w 8 5).toNat with
    | 0 => some (.tld (T.ofWord w))
    | _ => none
  | 0x41 =>
    match (field w 8 5).toNat with
    | 0 => some (.tldv (T.ofWord w))
    | _ => none
  | 0x42 =>
    match (field w 8 5).toNat with
    | 0 => some (.tgath (T.ofWord w))
    | _ => none
  | 0x43 =>
    match (field w 8 5).toNat with
    | 0 => some (.vgath (T.ofWord w))
    | _ => none
  | 0x44 =>
    match (field w 8 5).toNat with
    | 0 => some (.tfill (T.ofWord w))
    | _ => none
  | 0x45 =>
    match (field w 8 5).toNat with
    | 0 => some (.tcpy (T.ofWord w))
    | _ => none
  | 0x46 =>
    match (field w 8 5).toNat with
    | 0 => some (.vldt (T.ofWord w))
    | _ => none
  | 0x47 =>
    match (field w 8 5).toNat with
    | 0 => some (.unfcfg (T.ofWord w))
    | _ => none
  | 0x48 =>
    match (field w 8 5).toNat with
    | 0 => some (.pft (T.ofWord w))
    | _ => none
  | 0x49 =>
    match (field w 8 5).toNat with
    | 0 => some (.tstat (T.ofWord w))
    | _ => none
  | 0x4A =>
    match (field w 8 5).toNat with
    | 0 => some (.tldx (T.ofWord w))
    | _ => none
  | 0x4B =>
    match (field w 8 5).toNat with
    | 0 => some (.vldb (T.ofWord w))
    | _ => none
  | 0x60 =>
    match (field w 8 5).toNat with
    | 0 => some (.tst (T.ofWord w))
    | _ => none
  | 0x61 =>
    match (field w 8 5).toNat with
    | 0 => some (.tstv (T.ofWord w))
    | _ => none
  | 0x62 =>
    match (field w 8 5).toNat with
    | 0 => some (.tscat (T.ofWord w))
    | _ => none
  | 0x63 =>
    match (field w 8 5).toNat with
    | 0 => some (.vstt (T.ofWord w))
    | _ => none
  | 0x64 =>
    match (field w 8 5).toNat with
    | 0 => some (.trel (T.ofWord w))
    | _ => none
  | _ => some (.unassignedMajorOpcode w)

/-- The majors 0x70 to 0x7F: the message port (05 R105). -/
def decodePort (w : Word) : Nat → Option Instr
  | 0x70 =>
    match (field w 11 5).toNat with
    | 0 => some (.rstv (N.ofWord w))
    | 1 => some (.rstvRel (N.ofWord w))
    | _ => none
  | 0x71 =>
    match (field w 11 5).toNat with
    | 0 => some (.vexp (N.ofWord w))
    | _ => none
  | 0x72 =>
    match (field w 11 5).toNat with
    | 0 => some (.cname (N.ofWord w))
    | _ => none
  | 0x73 =>
    match (field w 11 5).toNat with
    | 0 => some (.amsg (N.ofWord w))
    | _ => none
  | 0x74 =>
    match (field w 11 5).toNat with
    | 0 => some (.mcst (N.ofWord w))
    | _ => none
  | 0x75 =>
    match (field w 11 5).toNat with
    | 0 => some (.redst (N.ofWord w))
    | _ => none
  | 0x76 =>
    match (field w 11 5).toNat with
    | 0 => some (.cpy (N.ofWord w))
    | 1 => some (.cpyw (N.ofWord w))
    | _ => none
  | 0x77 =>
    match (field w 11 5).toNat with
    | 0 => some (.taskq (N.ofWord w))
    | 1 => some (.taskdec (N.ofWord w))
    | 2 => some (.tend (N.ofWord w))
    | 3 => some (.qsnap (N.ofWord w))
    | _ => none
  | 0x78 =>
    match (field w 11 5).toNat with
    | 0 => some (.fcall (N.ofWord w))
    | 1 => some (.fwait (N.ofWord w))
    | 2 => some (.fpoll (N.ofWord w))
    | 3 => some (.fdone (N.ofWord w))
    | 4 => some (.flink (N.ofWord w))
    | 5 => some (.fcancel (N.ofWord w))
    | _ => none
  | 0x79 =>
    match (field w 11 5).toNat with
    | 0 => some (.adref (N.ofWord w))
    | _ => none
  | 0x7A =>
    match (field w 11 5).toNat with
    | 0 => some (.launch (N.ofWord w))
    | _ => none
  | 0x7B =>
    match (field w 11 5).toNat with
    | 0 => some (.graphgo (N.ofWord w))
    | _ => none
  | 0x7C =>
    match (field w 11 5).toNat with
    | 0 => some (.hring (N.ofWord w))
    | _ => none
  | _ => some (.unassignedMajorOpcode w)

/-- The majors 0x80 to 0xBF: the vector engine (05 R106). -/
def decodeVector (w : Word) : Nat → Option Instr
  | 0x80 => some (.vadd (V.ofWord w))
  | 0x81 => some (.vsub (V.ofWord w))
  | 0x82 => some (.vmul (V.ofWord w))
  | 0x83 => some (.vfma (V.ofWord w))
  | 0x84 => some (.vfms (V.ofWord w))
  | 0x85 => some (.vmin (V.ofWord w))
  | 0x86 => some (.vmax (V.ofWord w))
  | 0x87 => some (.vabs (V.ofWord w))
  | 0x88 => some (.vneg (V.ofWord w))
  | 0x89 => some (.vrcp (V.ofWord w))
  | 0x8A => some (.vrsq (V.ofWord w))
  | 0x8B => some (.vsqrt (V.ofWord w))
  | 0x8C => some (.vexp2 (V.ofWord w))
  | 0x8D => some (.vlog2 (V.ofWord w))
  | 0x8E => some (.vcmp (V.ofWord w))
  | 0x8F => some (.vselm (V.ofWord w))
  | 0x90 => some (.vand (V.ofWord w))
  | 0x91 => some (.vor (V.ofWord w))
  | 0x92 => some (.vxor (V.ofWord w))
  | 0x93 => some (.vnot (V.ofWord w))
  | 0x94 => some (.vshl (V.ofWord w))
  | 0x95 => some (.vshr (V.ofWord w))
  | 0x96 => some (.vcvt (V.ofWord w))
  | 0x97 => some (.vqnt (V.ofWord w))
  | 0x98 => some (.vdqnt (V.ofWord w))
  | 0x99 => some (.vbcast (V.ofWord w))
  | 0x9A =>
    match (field w 0 5).toNat with
    | 0 => some (.vmov (V.ofWord w))
    | 1 | 2 => some (.vmovFrom (V.ofWord w))
    | 3 | 4 => some (.vmovTo (V.ofWord w))
    | _ => none
  | 0x9B => some (.vext (V.ofWord w))
  | 0x9C => some (.vins (V.ofWord w))
  | 0x9D => some (.vredsum (V.ofWord w))
  | 0x9E => some (.vredmax (V.ofWord w))
  | 0x9F => some (.vredmin (V.ofWord w))
  | 0xA0 => some (.vargmax (V.ofWord w))
  | 0xA1 => some (.vargmin (V.ofWord w))
  | 0xA2 => some (.vscan (V.ofWord w))
  | 0xA3 => some (.vtrn (V.ofWord w))
  | 0xA4 => some (.vshf (V.ofWord w))
  | 0xA5 => some (.vpermr (V.ofWord w))
  | 0xA6 => some (.vbaddq (V.ofWord w))
  | 0xA7 => some (.vrng (V.ofWord w))
  | 0xA8 => some (.vmlog (V.ofWord w))
  | _ => some (.unassignedMajorOpcode w)

/-- The majors 0xC0 to 0xCF: the matrix unit (05 R107). -/
def decodeMatrix (w : Word) : Nat → Option Instr
  | 0xC0 =>
    match (field w 8 4).toNat with
    | 0 => some (.mma (X.ofWord w))
    | _ => none
  | 0xC1 =>
    match (field w 8 4).toNat with
    | 0 => some (.mmaz (X.ofWord w))
    | _ => none
  | 0xC2 =>
    match (field w 8 4).toNat with
    | 0 => some (.mmau (X.ofWord w))
    | _ => none
  | 0xC3 =>
    match (field w 8 4).toNat with
    | 0 => some (.amld (X.ofWord w))
    | 1 => some (.amldStat (X.ofWord w))
    | _ => none
  | 0xC4 =>
    match (field w 8 4).toNat with
    | 0 => some (.amst (X.ofWord w))
    | _ => none
  | 0xC5 =>
    match (field w 8 4).toNat with
    | 0 => some (.amz (X.ofWord w))
    | _ => none
  | 0xC6 =>
    match (field w 8 4).toNat with
    | 0 => some (.mhint (X.ofWord w))
    | _ => none
  | 0xC7 =>
    match (field w 8 4).toNat with
    | 0 => some (.msync (X.ofWord w))
    | _ => none
  | _ => some (.unassignedMajorOpcode w)

/-- The majors 0xD0 to 0xFF: barriers, bells and the privileged instructions (05 R108). -/
def decodeSystem (w : Word) : Nat → Option Instr
  | 0xD0 =>
    if field w 0 16 == 0 then match (field w 16 5).toNat with
    | 0 => some (.binit (SR.ofWord w))
    | 1 => some (.breg (SR.ofWord w))
    | 2 => some (.barv (SR.ofWord w))
    | 3 => some (.barw (SR.ofWord w))
    | 4 => some (.barvw (SR.ofWord w))
    | 5 => some (.bdrop (SR.ofWord w))
    | 6 => some (.btest (SR.ofWord w))
    | _ => none
    else none
  | 0xD1 =>
    match (field w 24 2).toNat with
    | 0 => some (.trap (SI.ofWord w))
    | 1 => some (.brk (SI.ofWord w))
    | 2 => some (.exit (SI.ofWord w))
    | 3 => some (.yield (SI.ofWord w))
    | _ => none
  | 0xD2 =>
    if field w 0 16 == 0 then match (field w 16 5).toNat with
    | 0 => some (.snapr (SR.ofWord w))
    | _ => none
    else none
  | 0xD3 =>
    match (field w 24 2).toNat with
    | 0 => some (.bells (SI.ofWord w))
    | 1 => some (.bellw (SI.ofWord w))
    | _ => none
  | 0xE0 =>
    if field w 0 16 == 0 then match (field w 16 5).toNat with
    | 0 => some (.ctxld (SR.ofWord w))
    | _ => none
    else none
  | 0xE1 =>
    if field w 0 16 == 0 then match (field w 16 5).toNat with
    | 0 => some (.ctxst (SR.ofWord w))
    | _ => none
    else none
  | 0xE2 =>
    if field w 0 16 == 0 then match (field w 16 5).toNat with
    | 0 => some (.tlbinv (SR.ofWord w))
    | _ => none
    else none
  | 0xE3 =>
    match (field w 24 2).toNat with
    | 0 => some (.mwrr (SI.ofWord w))
    | _ => none
  | _ => some (.unassignedMajorOpcode w)

/-- The instruction that a word holds. -/
def decode (w : Word) : Option Instr :=
  let m := majorOf w
  if m < 0x30 then decodeControl w m else
  if m < 0x40 then decodeMemory w m else
  if m < 0x70 then decodeTiles w m else
  if m < 0x80 then decodePort w m else
  if m < 0xC0 then decodeVector w m else
  if m < 0xD0 then decodeMatrix w m else
  decodeSystem w m

/-- The word of an instruction of the SR family (05 R91, R99). -/
def SR.toWord (o : SR) (major : Nat) (fn : Nat) : Word :=
  place o.sync.wait 56 ||| place o.sync.sig 48 ||| place (BitVec.ofNat 8 major) 40 |||
    place o.sd 35 ||| place o.sa 30 ||| place o.sb 25 ||| place o.pg 22 ||| place (BitVec.ofBool o.pn) 21 ||| place (BitVec.ofNat 5 fn) 16

/-- The word of an instruction of the SI family (05 R91, R99). -/
def SI.toWord (o : SI) (major : Nat) (fn : Nat) : Word :=
  place o.sync.wait 56 ||| place o.sync.sig 48 ||| place (BitVec.ofNat 8 major) 40 |||
    place o.sd 35 ||| place o.sa 30 ||| place o.pg 27 ||| place (BitVec.ofBool o.pn) 26 ||| place (BitVec.ofNat 2 fn) 24 ||| place o.imm24 0

/-- The word of an instruction of the LI family (05 R91, R99). -/
def LI.toWord (o : LI) (major : Nat) (fn : Nat) : Word :=
  place o.sync.wait 56 ||| place o.sync.sig 48 ||| place (BitVec.ofNat 8 major) 40 |||
    place o.sd 35 ||| place (BitVec.ofNat 3 fn) 32 ||| place o.imm32 0

/-- The word of an instruction of the BR family (05 R91, R99). -/
def BR.toWord (o : BR) (major : Nat) (fn : Nat) : Word :=
  place o.sync.wait 56 ||| place o.sync.sig 48 ||| place (BitVec.ofNat 8 major) 40 |||
    place o.pg 37 ||| place (BitVec.ofBool o.pn) 36 ||| place o.sa 31 ||| place (BitVec.ofNat 3 fn) 28 ||| place o.off28 0

/-- The word of an instruction of the M family (05 R91, R99). -/
def M.toWord (o : M) (major : Nat) : Word :=
  place o.sync.wait 56 ||| place o.sync.sig 48 ||| place (BitVec.ofNat 8 major) 40 |||
    place o.sd 35 ||| place o.sa 30 ||| place o.pg 27 ||| place (BitVec.ofBool o.pn) 26 ||| place o.size 24 ||| place o.ac 21 ||| place o.scope 18 ||| place o.off18 0

/-- The word of an instruction of the T family (05 R91, R99). -/
def T.toWord (o : T) (major : Nat) : Word :=
  place o.sync.wait 56 ||| place o.sync.sig 48 ||| place (BitVec.ofNat 8 major) 40 |||
    place o.t 34 ||| place o.sa 29 ||| place o.sb 24 ||| place o.h 20 ||| place o.ac 17 ||| place o.pg 14 ||| place (BitVec.ofBool o.pn) 13 ||| place o.mode 0

/-- The word of an instruction of the V family (05 R91, R99). -/
def V.toWord (o : V) (major : Nat) : Word :=
  place o.sync.wait 56 ||| place o.sync.sig 48 ||| place (BitVec.ofNat 8 major) 40 |||
    place o.vd 34 ||| place o.va 28 ||| place o.vb 22 ||| place o.vc 16 ||| place o.h 12 ||| place o.m 9 ||| place o.fmt 5 ||| place o.fn 0

/-- The word of an instruction of the X family (05 R91, R99). -/
def X.toWord (o : X) (major : Nat) (fn : Nat) : Word :=
  place o.sync.wait 56 ||| place o.sync.sig 48 ||| place (BitVec.ofNat 8 major) 40 |||
    place o.ta 34 ||| place o.tb 28 ||| place o.ha 24 ||| place o.hb 20 ||| place o.unf 16 ||| place o.fmt 12 ||| place (BitVec.ofNat 4 fn) 8 ||| place o.ctl 0

/-- The word of an instruction of the N family (05 R91, R99). -/
def N.toWord (o : N) (major : Nat) (fn : Nat) : Word :=
  place o.sync.wait 56 ||| place o.sync.sig 48 ||| place (BitVec.ofNat 8 major) 40 |||
    place o.sa 35 ||| place o.sb 30 ||| place o.sc 25 ||| place o.vd 19 ||| place o.scope 16 ||| place (BitVec.ofNat 5 fn) 11 ||| place o.ctl 0

/-- The word of an instruction. The row of unassigned major opcodes carries its own word; the other events have none. -/
def encode : Instr → Word
  | .nop y => place y.wait 56 ||| place y.sig 48
  | .add o => o.toWord 0x01 0
  | .sub o => o.toWord 0x01 1
  | .mul o => o.toWord 0x01 2
  | .div o => o.toWord 0x01 3
  | .divu o => o.toWord 0x01 4
  | .rem o => o.toWord 0x01 5
  | .remu o => o.toWord 0x01 6
  | .and_ o => o.toWord 0x01 8
  | .or_ o => o.toWord 0x01 9
  | .xor_ o => o.toWord 0x01 10
  | .shl o => o.toWord 0x01 12
  | .shr o => o.toWord 0x01 13
  | .sra o => o.toWord 0x01 14
  | .slt o => o.toWord 0x01 16
  | .sltu o => o.toWord 0x01 17
  | .min o => o.toWord 0x01 18
  | .minu o => o.toWord 0x01 19
  | .max o => o.toWord 0x01 20
  | .maxu o => o.toWord 0x01 21
  | .clz o => o.toWord 0x01 24
  | .ctz o => o.toWord 0x01 25
  | .popc o => o.toWord 0x01 26
  | .addi o => o.toWord 0x02 0
  | .muli o => o.toWord 0x02 1
  | .divi o => o.toWord 0x02 2
  | .remi o => o.toWord 0x02 3
  | .divui o => o.toWord 0x03 0
  | .remui o => o.toWord 0x03 1
  | .slti o => o.toWord 0x03 2
  | .sltui o => o.toWord 0x03 3
  | .andi o => o.toWord 0x04 0
  | .ori o => o.toWord 0x04 1
  | .xori o => o.toWord 0x04 2
  | .shli o => o.toWord 0x05 0
  | .shri o => o.toWord 0x05 1
  | .srai o => o.toWord 0x05 2
  | .li o => o.toWord 0x08 0
  | .lui o => o.toWord 0x08 1
  | .lea o => o.toWord 0x08 2
  | .sel o => o.toWord 0x09 0
  | .pcmp c o => o.toWord 0x0A (match c with | .eq => 0 | .ne => 1 | .lt => 2 | .ge => 3 | .ltu => 4 | .geu => 5)
  | .pand o => o.toWord 0x0B 0
  | .por o => o.toWord 0x0B 1
  | .pnot o => o.toWord 0x0B 2
  | .b o => o.toWord 0x10 0
  | .call o => o.toWord 0x10 1
  | .ret o => o.toWord 0x10 2
  | .loop o => o.toWord 0x10 3
  | .rotset o => o.toWord 0x11 0
  | .csrr o => o.toWord 0x18 0
  | .csrw o => o.toWord 0x18 1
  | .csrs o => o.toWord 0x18 2
  | .csrc o => o.toWord 0x18 3
  | .slip o => o.toWord 0x19 0
  | .qsync o => o.toWord 0x19 1
  | .shp o => o.toWord 0x1A 0
  | .shpx f o => o.toWord 0x1B (match f with | .vrows => 0 | .vcols => 1 | .rows => 2 | .stride => 3)
  | .feat o => o.toWord 0x1D 0
  | .bells o => o.toWord 0xD3 0
  | .bellw o => o.toWord 0xD3 1
  | .trap o => o.toWord 0xD1 0
  | .brk o => o.toWord 0xD1 1
  | .exit o => o.toWord 0xD1 2
  | .yield o => o.toWord 0xD1 3
  | .snapr o => o.toWord 0xD2 0
  | .ld o => o.toWord 0x30
  | .ldu o => o.toWord 0x31
  | .st o => o.toWord 0x32
  | .lda o => o.toWord 0x33
  | .stl o => o.toWord 0x34
  | .amo o => o.toWord 0x35
  | .amocas o => o.toWord 0x36
  | .red o => o.toWord 0x37
  | .fence o => o.toWord 0x38
  | .waitv o => o.toWord 0x39
  | .dcwb o => o.toWord 0x3A
  | .dcinv o => o.toWord 0x3B
  | .xlat o => o.toWord 0x3C
  | .migr o => o.toWord 0x3D
  | .halloc o => o.toWord 0x3E
  | .hfree o => o.toWord 0x3F
  | .tlbinv o => o.toWord 0xE2 0
  | .ctxst o => o.toWord 0xE1 0
  | .ctxld o => o.toWord 0xE0 0
  | .mwrr o => o.toWord 0xE3 0
  | .binit o => o.toWord 0xD0 0
  | .breg o => o.toWord 0xD0 1
  | .barv o => o.toWord 0xD0 2
  | .barw o => o.toWord 0xD0 3
  | .barvw o => o.toWord 0xD0 4
  | .bdrop o => o.toWord 0xD0 5
  | .btest o => o.toWord 0xD0 6
  | .tld o => o.toWord 0x40
  | .tldx o => o.toWord 0x4A
  | .tldv o => o.toWord 0x41
  | .vldb o => o.toWord 0x4B
  | .tgath o => o.toWord 0x42
  | .vgath o => o.toWord 0x43
  | .tfill o => o.toWord 0x44
  | .tcpy o => o.toWord 0x45
  | .vldt o => o.toWord 0x46
  | .unfcfg o => o.toWord 0x47
  | .pft o => o.toWord 0x48
  | .tstat o => o.toWord 0x49
  | .tst o => o.toWord 0x60
  | .tstv o => o.toWord 0x61
  | .tscat o => o.toWord 0x62
  | .vstt o => o.toWord 0x63
  | .trel o => o.toWord 0x64
  | .vadd o => o.toWord 0x80
  | .vsub o => o.toWord 0x81
  | .vmul o => o.toWord 0x82
  | .vfma o => o.toWord 0x83
  | .vfms o => o.toWord 0x84
  | .vmin o => o.toWord 0x85
  | .vmax o => o.toWord 0x86
  | .vabs o => o.toWord 0x87
  | .vneg o => o.toWord 0x88
  | .vrcp o => o.toWord 0x89
  | .vrsq o => o.toWord 0x8A
  | .vsqrt o => o.toWord 0x8B
  | .vexp2 o => o.toWord 0x8C
  | .vlog2 o => o.toWord 0x8D
  | .vcmp o => o.toWord 0x8E
  | .vselm o => o.toWord 0x8F
  | .vand o => o.toWord 0x90
  | .vor o => o.toWord 0x91
  | .vxor o => o.toWord 0x92
  | .vnot o => o.toWord 0x93
  | .vshl o => o.toWord 0x94
  | .vshr o => o.toWord 0x95
  | .vcvt o => o.toWord 0x96
  | .vqnt o => o.toWord 0x97
  | .vdqnt o => o.toWord 0x98
  | .vbcast o => o.toWord 0x99
  | .vmov o => o.toWord 0x9A
  | .vmovFrom o => o.toWord 0x9A
  | .vmovTo o => o.toWord 0x9A
  | .vext o => o.toWord 0x9B
  | .vins o => o.toWord 0x9C
  | .vredsum o => o.toWord 0x9D
  | .vredmax o => o.toWord 0x9E
  | .vredmin o => o.toWord 0x9F
  | .vargmax o => o.toWord 0xA0
  | .vargmin o => o.toWord 0xA1
  | .vscan o => o.toWord 0xA2
  | .vtrn o => o.toWord 0xA3
  | .vshf o => o.toWord 0xA4
  | .vpermr o => o.toWord 0xA5
  | .vbaddq o => o.toWord 0xA6
  | .vrng o => o.toWord 0xA7
  | .vmlog o => o.toWord 0xA8
  | .mma o => o.toWord 0xC0 0
  | .mmaz o => o.toWord 0xC1 0
  | .mmau o => o.toWord 0xC2 0
  | .amld o => o.toWord 0xC3 0
  | .amldStat o => o.toWord 0xC3 1
  | .amst o => o.toWord 0xC4 0
  | .amz o => o.toWord 0xC5 0
  | .mhint o => o.toWord 0xC6 0
  | .msync o => o.toWord 0xC7 0
  | .rstv o => o.toWord 0x70 0
  | .rstvRel o => o.toWord 0x70 1
  | .vexp o => o.toWord 0x71 0
  | .cname o => o.toWord 0x72 0
  | .amsg o => o.toWord 0x73 0
  | .mcst o => o.toWord 0x74 0
  | .redst o => o.toWord 0x75 0
  | .cpy o => o.toWord 0x76 0
  | .cpyw o => o.toWord 0x76 1
  | .taskq o => o.toWord 0x77 0
  | .taskdec o => o.toWord 0x77 1
  | .tend o => o.toWord 0x77 2
  | .qsnap o => o.toWord 0x77 3
  | .fcall o => o.toWord 0x78 0
  | .fwait o => o.toWord 0x78 1
  | .fpoll o => o.toWord 0x78 2
  | .fdone o => o.toWord 0x78 3
  | .flink o => o.toWord 0x78 4
  | .fcancel o => o.toWord 0x78 5
  | .adref o => o.toWord 0x79 0
  | .launch o => o.toWord 0x7A 0
  | .graphgo o => o.toWord 0x7B 0
  | .hring o => o.toWord 0x7C 0
  | .unassignedMajorOpcode w => w
  | .queueIssue _ _ | .engineCompletion _ _ | .pageFaultAnswer _ _ | .trapDecision _ | .watchdogExpiry _
    | .exitTakesEffect _ | .tendTakesEffect _ | .bankSwitch _ | .cohortSave _ | .saveDone _ | .cohortRestore _
    | .cohortMigration _ _ _ | .cohortBind _ _ _ | .standingBind _ _ _ | .launchRecordArrival _
    | .launchCompletion _ | .launchDoorbell _ | .graphDoorbell _ | .nodeLaunch _ | .nodeCopy _ | .nodeWaitOnWord _
    | .nodeSignalWord _ | .nodeConditional _ | .nodeHostRingDrain _ | .nodeEnd _ | .graphWaitTimeout _
    | .hostRingTimeRule _ | .matrixGrant _ | .matrixCompletion _ | .levelStep _ | .mhintHoldExpiry _
    | .taskDequeue _ | .stealAttempt _ | .runListRefill _ | .taskDecrementArrival _ | .counterSettingArrival _
    | .registerStoreArrival _ | .busyRetry _ | .deferredDelivery _ | .activeMessageArrival _ | .remoteLoad _
    | .remoteStore _ | .remoteAtomic _ | .blockReduction _ | .copyComplete _ | .redPoisonTrap _ | .waitvReread _
    | .barrierWaitEnd _ | .resolveOk _ _ | .resolveErr _ _ | .resolveOutcome _ | .remoteResolve _
    | .futureDeadline _ | .futureResolution _ | .adapterLoadDone _ _ _ | .sandboxViolation _ _ | .pageMigration _
    | .packetReceive _ _ | .ackReceive _ _ | .nakReceive _ _ | .replayDone _ | .laneFailure _ _ | .linkTrained _ _
    | .retrainTimeout _ | .trainingRequest _ | .detourInstall _ _ | .keyPhaseSwitch _ | .retireReceive _
    | .partitionDissolve _ | .hostSnoop _ _ | .hostAtomic _ _ _ _ | .patrolScrub _ _ _ | .recessStart _
    | .recessEnd _ _ | .powerWindow _ _ | .coldReset _ | .warmReset _ | .traceTailFlush _ | .sample _
    | .triggerArm _ _ | .freeze _ | .thaw _ | .mcbStatusClear _ _ | .registerWindowWrite _ _
    | .hostMemoryAccess _ _ | .toolCoreAccess _ _ | .creditReceive _ _ _ _ | .waitOnWordReread _
    | .hostLinkLoss _ _ | .dieToDieLinkEvent _ _ | .podFormation _ _ _ _ | .clockStepUp | .firmwareSwitch
    | .debugHoldEnter | .keyset | .keyerase | .tool | .adapter | .handler | .binding | .terminate | .stop
    | .release | .sampleConfig | .service | .update | .attest | .debugHoldExit | .lockstepMismatch
    | .securityBlockFault => 0

/-- What the decoder reads from an instruction of the opcode table whose bits are w: the table gives no row any bits,
so the word is w and every bit above nbits is zero (05 R91). -/
def decodeTableWord (nbits w : Nat) : Option Instr := decode (BitVec.ofNat 64 (w % 2 ^ nbits))

end Sys2Proof
end

