-- ==== Sys2Proof/Machine/Turn.lean ====
section
/-! DEFINITION. A turn of the control unit: the decode checks of 05 R95, the issue conditions of 02 R41 that hold for it,
the guard (05 R97), the SIG byte, the watchdog of 02 R46, and the routing of words by MAJOR (05 R96). -/

namespace Sys2Proof.Machine

/-! ## Features and declared uses (05 R95 step 3; 28 R502) -/

/-- A bench; an unlisted one is as after package reset. -/
def State.bench (s : State) (n : Nat) : Bench :=
  match s.benches.find? (·.num == n) with
  | some b => b
  | none => Bench.reset n

/-- A bench is replaced. -/
def State.setBench (s : State) (b : Bench) : State := { s with benches := b :: s.benches.filter (·.num != b.num) }

/-- The bench of a tile core (10 R220). -/
def Ctx.benchNumber (c : Ctx) : Nat := c.coord.cluster.toNat * 8 + c.coord.core.toNat / 8

/-- A quay core's coordinate (01 R16). -/
def Ctx.isQuay (c : Ctx) : Bool := c.coord.cluster == 24

/-- The feature mask of a context's core: its bench's, and for a quay core all but features 0 to 2 (01 R23; 28 R502). -/
def State.featuresOf (s : State) (c : Ctx) : Word := if c.isQuay then 0xF8 else (s.bench c.benchNumber).features

/-- What an instruction needs of its core and of the image header. -/
structure Needs where
  features : List Nat := []
  acc : Bool := false
  chan : Bool := false

/-- The needs of a vector instruction that rounds: feature 7 for mode SR (28 R502). -/
def roundNeeds (o : V) : Needs := if field o.fn 0 3 == 4 then { features := [7] } else {}

/-- The needs of a transcendental. -/
def transNeeds (o : V) : Needs := if field o.fn 0 3 == 4 then { features := [3, 7] } else { features := [3] }

/-- The needs of an MMA-family instruction. -/
def mmaNeeds (o : X) : Needs :=
  { features := [0] ++ (if o.fmt == 0xD || o.fmt == 0xE then [1] else []) ++ (if o.unf != 0 then [2] else []), acc := true }

/-- The features and declared uses that an instruction needs (28 R502; 10 R238; 08 R196). -/
def needsOf : Instr → Needs
  | .mma o | .mmaz o | .mmau o => mmaNeeds o
  | .amld _ | .amldStat _ | .amst _ | .amz _ | .msync _ => { features := [0], acc := true }
  | .vrcp o | .vrsq o | .vsqrt o | .vexp2 o | .vlog2 o => transNeeds o
  | .vrng _ => { features := [4] }
  | .vmovFrom _ | .vmovTo _ => { features := [5], chan := true }
  | .vadd o | .vsub o | .vmul o | .vfma o | .vfms o | .vcvt o | .vdqnt o | .vqnt o | .vscan o | .vbaddq o => roundNeeds o
  | _ => {}

/-- The first feature of a list that a mask lacks. -/
def lacking (mask : Word) (fs : List Nat) : Option Nat := fs.find? fun n => !bit mask n

/-- The feature or use that the current context lacks for an instruction, with the CODE of its trap: the feature's number,
and for an undeclared use the number of the feature it is a use of, 0 for accumulators and 5 for channels (05 R95 step 3; 26 R476). -/
def State.lacks (s : State) (n : Needs) : Option (BitVec 16) :=
  match lacking (s.featuresOf s.cx) n.features with
  | some f => some (BitVec.ofNat 16 f)
  | none => if n.acc && !s.cx.hasAcc then some 0 else if n.chan && !s.cx.hasChan then some 5 else none

/-- The instruction lies in the majors 0xE0 to 0xEF (05 R95, R108). -/
def privileged : Instr → Bool
  | .ctxld _ | .ctxst _ | .tlbinv _ | .mwrr _ => true
  | _ => false

/-- A trap of the control unit at the instruction it has met. -/
def State.cuTrap (s : State) (cause : BitVec 7) (code : BitVec 16 := 0) : Trap :=
  { cause := cause, queue := 0, iaddr := s.cx.pc, code := code }

/-- The decode checks of 05 R95 on an instruction, in order: the trap of the first that fails. -/
def State.decodeTrap (s : State) (i : Instr) : Option Trap :=
  if privileged i && !s.cx.priv then some (s.cuTrap 0x04)
  else
    match s.lacks (needsOf i) with
    | some code => some (s.cuTrap 0x03 code)
    | none =>
      if !i.fieldsOk then some (s.cuTrap 0x02)
      else if !(i.sync.elim true Sync.legal) then some (s.cuTrap 0x05)
      else none

/-- Majors that the opcode map assigns (05 R102 to R108). -/
def majorAssigned (m : Nat) : Bool :=
  (m ≤ 5) || (8 ≤ m && m ≤ 0xB) || m == 0x10 || m == 0x11 || (0x18 ≤ m && m ≤ 0x1B) || m == 0x1D || (0x30 ≤ m && m ≤ 0x4B) ||
    (0x60 ≤ m && m ≤ 0x64) || (0x70 ≤ m && m ≤ 0x7C) || (0x80 ≤ m && m ≤ 0xA8) || (0xC0 ≤ m && m ≤ 0xC7) ||
    (0xD0 ≤ m && m ≤ 0xD3) || (0xE0 ≤ m && m ≤ 0xE3)

/-- The needs of a word whose function code is not assigned: its MAJOR names the instruction (05 R105, R107), and the MMA family's
format and slot add theirs (28 R502). -/
def wordNeeds (w : Word) : Needs :=
  let m := majorOf w
  if 0xC0 ≤ m && m ≤ 0xC2 then mmaNeeds (X.ofWord w)
  else if 0xC3 ≤ m && m ≤ 0xC7 && m != 0xC6 then { features := [0], acc := true }
  else if 0x89 ≤ m && m ≤ 0x8D then { features := [3] }
  else if m == 0xA7 then { features := [4] }
  else {}

/-- The trap of a word that decodes to no instruction (05 R95): 0x01, 0x04, 0x03 or 0x02. -/
def State.wordTrap (s : State) (w : Word) : Trap :=
  let m := majorOf w
  let sys := 0xE0 ≤ m && m ≤ 0xEF
  if !majorAssigned m && !(sys && !s.cx.priv) then s.cuTrap 0x01
  else if sys && !s.cx.priv then s.cuTrap 0x04
  else
    match s.lacks (wordNeeds w) with
    | some code => s.cuTrap 0x03 code
    | none => s.cuTrap 0x02

/-! ## The watchdog (02 R46) -/

/-- An operation of the context is in flight. -/
def Ctx.inFlight (c : Ctx) : Bool :=
  c.lq.issued && !c.lq.rstart || c.sq.issued && !c.sq.rstart || !c.pending.isEmpty || c.mq.issued && !c.mq.rstart ||
    !c.mqDone.isEmpty || !c.handed.isEmpty

/-- A register is held by an open expectation. -/
def Ctx.heldByExpect (c : Ctx) (n : BitVec 6) : Bool := (c.hold n).held && (c.hold n).kind == 2

/-- A tile operand. -/
def tileOp (n : BitVec 6) (r : Role) : Oper := ⟨true, n, r⟩

/-- A register operand. -/
def regOp (n : BitVec 6) (r : Role) : Oper := ⟨false, n, r⟩

/-- Operand vb: a tile when fn[3] is set, else a register (08 R177). -/
def operB (o : V) : Oper := if bit o.fn 3 then tileOp o.vb .read else regOp o.vb .read

/-- The register in mode[5:0] of the T family. -/
def modeReg (o : T) : Oper := regOp (field o.mode 0 6) .read

/-- The tiles and vector registers of an engine instruction, in operand order (16 R322). -/
def opersOf : Instr → List Oper
  | .tld o | .tldx o | .tfill o | .tcpy o | .tstat o => [tileOp o.t .fill]
  | .tgath o | .vstt o => [tileOp o.t .fill, modeReg o]
  | .tldv o | .vldb o => [regOp o.t .load]
  | .vgath o => [regOp o.t .load, modeReg o]
  | .vldt o => [regOp o.t .load, tileOp (field o.mode 0 6) .read]
  | .tst o | .trel o => [tileOp o.t .leave]
  | .tscat o => [tileOp o.t .leave, modeReg o]
  | .tstv o => [regOp o.t .read]
  | .vadd o | .vsub o | .vmul o | .vmin o | .vmax o => [regOp o.vd .write, regOp o.va .read, operB o]
  | .vfma o | .vfms o => [regOp o.vd .write, regOp o.va .read, operB o, regOp o.vc .read]
  | .vabs o | .vneg o | .vrcp o | .vrsq o | .vsqrt o | .vexp2 o | .vlog2 o | .vnot o | .vcvt o | .vqnt o | .vdqnt o
  | .vbcast o | .vmov o | .vredsum o | .vredmax o | .vredmin o | .vscan o | .vtrn o | .vshf o => [regOp o.vd .write, regOp o.va .read]
  | .vcmp o => [regOp o.va .read, operB o]
  | .vselm o | .vand o | .vor o | .vxor o | .vext o | .vpermr o | .vbaddq o =>
    [regOp o.vd .write, regOp o.va .read, regOp o.vb .read]
  | .vshl o | .vshr o => [regOp o.vd .write, regOp o.va .read] ++ (if bit o.fn 0 then [] else [regOp o.vb .read])
  | .vins o => [regOp o.vd .both, regOp o.va .read]
  | .vargmax o | .vargmin o =>
    [regOp o.vd (if bit o.fn 1 then .both else .write), regOp o.va .read, regOp o.vc (if bit o.fn 1 then .both else .write)]
  | .vmovFrom o | .vrng o => [regOp o.vd .write]
  | .vmovTo o => [regOp o.va .read]
  | .mma o | .mmaz o | .mmau o => [tileOp o.ta .read, tileOp o.tb .read]
  | .amld o | .amldStat o => [regOp o.ta .load]
  | .amst o => [tileOp o.ta .fill]
  | .rstv o | .rstvRel o => [regOp o.vd .read]
  | .vexp o => [regOp o.vd .load]
  | _ => []

/-- The operand is read by a reader of 07 R151 or 03 R61. -/
def Oper.reads (p : Oper) : Bool := p.role == .read || p.role == .both

/-- The two operands name one tile or one register. -/
def Oper.same (p q : Oper) : Bool := p.isTile == q.isTile && p.n == q.n

/-- The operands that READERS counts: an instruction is one reader of a tile or register, however often it names it (07 R151, R152;
03 R61). -/
def readsOnce : List Oper → List Oper
  | [] => []
  | p :: ps => if p.reads && !(ps.any fun q => q.reads && q.same p) then p :: readsOnce ps else readsOnce ps

/-- The vector registers among them. -/
def vregsOf (i : Instr) : List (BitVec 6) := ((opersOf i).filter fun p => !p.isTile).map Oper.n

/-- A bell that an open expectation will ring: who waits for it waits on the hold that VEXP opened (02 R46; 17 R363). -/
def Ctx.bellOutside (c : Ctx) (b : BitVec 5) : Bool := !c.canTake b && c.expects.any fun x => x.ring == b

/-- A queue's head waits on an event outside the core: an expectation, a future, or in service, as TEND, for expectations to close (02 R46; 16
R341). -/
def Ctx.headOutside (c : Ctx) (q : EQueue) : Bool :=
  match q.entries with
  | [] => false
  | e :: _ => (vregsOf e.instr).any c.heldByExpect || c.bellOutside (e.instr.sync.getD Sync.plain).takes ||
      (match e.instr with
       | .fwait _ => true
       | .tend _ => q.issued && !c.expects.isEmpty
       | _ => false)

/-- The control unit waits on an event outside the core: a barrier, or an expectation's close (02 R46). -/
def Ctx.cuOutside (c : Ctx) : Bool :=
  match c.outside with
  | .none => false
  | .barrier => true
  | .bell b => c.bellOutside b
  | .drain => !c.expects.isEmpty

/-- Some party of the context waits on an event outside the core. -/
def Ctx.waitsOutside (c : Ctx) : Bool :=
  c.cuOutside || c.headOutside c.lq || c.headOutside c.sq || c.headOutside c.aq || c.headOutside c.mq || c.headOutside c.nq

/-- The first queue that holds an entry, in the order of 02 R46, with its head's address. -/
def Ctx.firstQueue (c : Ctx) : Option (Nat × Word) :=
  let at_ (q : EQueue) (n : Nat) : Option (Nat × Word) := q.entries.head?.map fun e => (n, e.iaddr)
  at_ c.lq 1 <|> at_ c.sq 2 <|> at_ c.aq 3 <|> at_ c.mq 4 <|> at_ c.nq 5

/-- The trap of the watchdog: the control unit where its own instruction is held, else the first queue with an entry
(02 R46). -/
def Ctx.watchdogTrap (c : Ctx) : Trap :=
  match c.held == some true, c.firstQueue with
  | false, some (q, a) => { cause := 0x42, queue := q, iaddr := a }
  | _, _ => { cause := 0x42, queue := 0, iaddr := c.pc }

/-- The watchdog limit in cycles; 0 disables it. -/
def Ctx.wdogLimit (c : Ctx) : Nat := c.qwdog.toNat * 1024

/-- The control unit executed or forwarded an instruction, or a queue issued, in the cycle under way. -/
def Ctx.progressed (c : Ctx) : Bool :=
  c.lastTurn == some c.now || [c.lq, c.sq, c.aq, c.mq, c.nq].any fun q => q.last == some c.now

/-- The watchdog's count after the cycle under way: zero where something executed, issued or is in flight, one more where nothing waits
outside the core (02 R46). A stopped context's control unit waits for its debugger (27 R491). -/
def Ctx.wdogNext (c : Ctx) : Nat :=
  if c.progressed || c.inFlight then 0 else if c.waitsOutside || c.stopped then c.wdog else c.wdog + 1

/-- The count has reached the limit of QWDOG. -/
def Ctx.wdogOver (c : Ctx) : Bool := c.wdogLimit != 0 && decide (c.wdogLimit ≤ c.wdogNext) && decide (c.wdog < c.wdogNext)

/-- The watchdog of the current context, which runs, at the end of a cycle (02 R46). -/
def State.watchdog (s : State) : State :=
  let s1 : State := { s with cx := { s.cx with wdog := s.cx.wdogNext } }
  if s.cx.wdogOver then s1.takeTrap s.cx.watchdogTrap else s1

/-- A turn in which the control unit neither executes nor forwards. cuHeld: its own instruction is held, not the depth of a queue
(02 R46). -/
def State.stalled (s : State) (cuHeld : Bool) : State :=
  { s with cx := { s.cx with held := some cuHeld, outside := if cuHeld then s.cx.outside else .none } }

/-! ## Turns -/

/-- How a control-unit instruction ends. -/
inductive Done where
  /-- It has executed; the program counter is as given. -/
  | next (s : State) (pc : Word)
  /-- It waits and will execute from the start; the flag says that its own condition holds it. -/
  | wait (s : State)
  /-- It traps or takes a page fault before any effect, and executes again on resume. -/
  | stop (s : State)
  /-- It has executed and stops the context. -/
  | last (s : State)

/-- The STALL condition: at least that many cycles since the last event (05 R92). -/
def stallMet (now : Nat) (last : Option Nat) (stall : Nat) : Bool :=
  match last with
  | none => true
  | some l => l + stall ≤ now

/-- The WAIT byte's conditions for the control unit (05 R92; 02 R41). -/
def Ctx.mayTurn (c : Ctx) (y : Sync) : Bool := stallMet c.now c.lastTurn y.stall && c.canTake y.takes

/-- The bells of an executed control-unit instruction: the take at issue, the ring at acceptance and completion, which are
one for the control unit (02 R42). -/
def Ctx.settleBells (c : Ctx) (y : Sync) : Ctx := ((c.take y.takes).ring (if y.kind == 0 then 0 else y.rings))

/-- What every executed turn leaves: no wait, the watchdog at zero, the turn's cycle. -/
def Ctx.turned (c : Ctx) : Ctx := { c with lastTurn := some c.now, wdog := 0, outside := .none, held := none, watch := none }

/-- The control unit's own instruction waits for its WAIT byte (05 R92). -/
def State.notYet (s : State) (y : Sync) : State :=
  ({ s with cx := { s.cx with outside := if s.cx.canTake y.takes then .none else .bell y.takes } } : State).stalled true

/-- The end of an executed instruction at a program counter. -/
def State.finish (s : State) (y : Sync) (pc : Word) : State := { s with cx := { (s.cx.settleBells y).turned with pc := pc } }

/-- The address of the next word. -/
def State.after (s : State) : Word := s.cx.pc + 8

/-- A turn of the control unit: decode checks, WAIT byte, guard, effect, SIG byte, program counter (05 R91 to R97). TRAP and BRK, whose trap
lets the stream go on behind them, take their WAIT bell and ring their SIG bell (06 R143; log entry 34). -/
def State.turn (s : State) (i : Instr) (guard : Bool) (body : State → Done) : State :=
  match s.decodeTrap i with
  | some t => s.takeTrap t
  | none =>
    let y := i.sync.getD Sync.plain
    if !s.cx.mayTurn y then s.notYet y
    else if !guard then s.finish y s.after
    else
      match body s with
      | .next s1 pc => s1.finish y pc
      | .wait s1 => s1.stalled true
      | .stop s1 => s1
      | .last s1 => { s1 with cx := (s1.cx.settleBells y).turned }

/-- The turn as exec answers it: traps and waits are next states too. -/
def State.run (s : State) (i : Instr) (guard : Bool) (body : State → Done) : Host.Outcome State Fault Refusal :=
  .next (s.turn i guard body)

/-- A body that changes the context and goes on to the next word. -/
def State.set (s : State) (c : Ctx) : Done := .next { s with cx := c } s.after

/-- A body that traps. -/
def State.stopTrap (s : State) (cause : BitVec 7) (va : Word := 0) : Done :=
  .stop (s.takeTrap { s.cuTrap cause with va := va })

/-- A body that waits, for what 02 R46 asks. -/
def State.waitFor (s : State) (x : OutsideWait) : Done := .wait { s with cx := { s.cx with outside := x } }

/-- A body whose access fails. -/
def State.stopFail (s : State) (f : Fail) : Done := .stop (s.takeFail 0 s.cx.pc f)

/-- UNASSIGNED_MAJOR_OPCODE, and every word without an instruction (05 R95, R109). -/
def State.badWord (s : State) (w : Word) : State := s.takeTrap (s.wordTrap w)

/-- The row UNASSIGNED_MAJOR_OPCODE: the control unit meets the word (05 R109). -/
def execUnassignedMajorOpcode (w : Word) (s : State) : Host.Outcome State Fault Refusal := .next (s.badWord w)

end Sys2Proof.Machine
end

