-- ==== Sys2Proof/Machine/Scalar.lean ====
section
/-! DEFINITION. Integer and address arithmetic, selection and predicates: 06 R127 to R133. -/

namespace Sys2Proof.Machine

/-- The low bits of imm24 as the immediate operand: sign-extended to 64 bits (06 R128). -/
def immOf (o : SI) : Word := o.imm24.signExtend 64

/-- DIV: signed, truncated towards zero, all ones by zero, and −2^63 by −1 unchanged (06 R127). -/
def divS (a b : Word) : Word := if b == 0 then BitVec.allOnes 64 else BitVec.sdiv a b

/-- REM: a − b DIV(a, b); a by zero (06 R127). -/
def remS (a b : Word) : Word := if b == 0 then a else BitVec.srem a b

/-- DIVU (06 R127). -/
def divU (a b : Word) : Word := if b == 0 then BitVec.allOnes 64 else a / b

/-- REMU (06 R127). -/
def remU (a b : Word) : Word := if b == 0 then a else a % b

/-- One if the condition holds (06 R127). -/
def truth (b : Bool) : Word := if b then 1 else 0

/-- The shift amount, bits [5:0] (06 R127). -/
def amount (b : Word) : Nat := (field b 0 6).toNat

/-- Zero bits above the highest one of the low n bits. -/
def leadingZeros (a : Word) : Nat → Nat
  | 0 => 0
  | n + 1 => if bit a n then 0 else 1 + leadingZeros a n

/-- Zero bits below the lowest one, starting at bit 64 − n. -/
def trailingZeros (a : Word) : Nat → Nat
  | 0 => 0
  | n + 1 => if bit a (63 - n) then 0 else 1 + trailingZeros a n

/-- One bits among the low n. -/
def oneBits (a : Word) : Nat → Nat
  | 0 => 0
  | n + 1 => (bit a n).toNat + oneBits a n

/-- A register form with two operands (06 R127). -/
def regForm (i : Instr) (o : SR) (f : Word → Word → Word) (s : State) : Host.Outcome State Fault Refusal :=
  s.run i (s.cx.guard o.pg o.pn) fun s => s.set (s.cx.setSreg o.sd (f (s.cx.sreg o.sa) (s.cx.sreg o.sb)))

/-- An immediate form (06 R128). -/
def immForm (i : Instr) (o : SI) (f : Word → Word → Word) (s : State) : Host.Outcome State Fault Refusal :=
  s.run i (s.cx.guard o.pg o.pn) fun s => s.set (s.cx.setSreg o.sd (f (s.cx.sreg o.sa) (immOf o)))

/-- ADD. -/
def execAdd (o : SR) (s : State) := regForm (.add o) o (· + ·) s
/-- SUB. -/
def execSub (o : SR) (s : State) := regForm (.sub o) o (· - ·) s
/-- MUL. -/
def execMul (o : SR) (s : State) := regForm (.mul o) o (· * ·) s
/-- DIV. -/
def execDiv (o : SR) (s : State) := regForm (.div o) o divS s
/-- DIVU. -/
def execDivu (o : SR) (s : State) := regForm (.divu o) o divU s
/-- REM. -/
def execRem (o : SR) (s : State) := regForm (.rem o) o remS s
/-- REMU. -/
def execRemu (o : SR) (s : State) := regForm (.remu o) o remU s
/-- AND. -/
def execAnd (o : SR) (s : State) := regForm (.and_ o) o (· &&& ·) s
/-- OR. -/
def execOr (o : SR) (s : State) := regForm (.or_ o) o (· ||| ·) s
/-- XOR. -/
def execXor (o : SR) (s : State) := regForm (.xor_ o) o (· ^^^ ·) s
/-- SHL. -/
def execShl (o : SR) (s : State) := regForm (.shl o) o (fun a b => a <<< amount b) s
/-- SHR. -/
def execShr (o : SR) (s : State) := regForm (.shr o) o (fun a b => a >>> amount b) s
/-- SRA. -/
def execSra (o : SR) (s : State) := regForm (.sra o) o (fun a b => a.sshiftRight (amount b)) s
/-- SLT. -/
def execSlt (o : SR) (s : State) := regForm (.slt o) o (fun a b => truth (a.slt b)) s
/-- SLTU. -/
def execSltu (o : SR) (s : State) := regForm (.sltu o) o (fun a b => truth (a.ult b)) s
/-- MIN. -/
def execMin (o : SR) (s : State) := regForm (.min o) o (fun a b => if a.slt b then a else b) s
/-- MINU. -/
def execMinu (o : SR) (s : State) := regForm (.minu o) o (fun a b => if a.ult b then a else b) s
/-- MAX. -/
def execMax (o : SR) (s : State) := regForm (.max o) o (fun a b => if a.slt b then b else a) s
/-- MAXU. -/
def execMaxu (o : SR) (s : State) := regForm (.maxu o) o (fun a b => if a.ult b then b else a) s
/-- CLZ. -/
def execClz (o : SR) (s : State) := regForm (.clz o) o (fun a _ => BitVec.ofNat 64 (leadingZeros a 64)) s
/-- CTZ. -/
def execCtz (o : SR) (s : State) := regForm (.ctz o) o (fun a _ => BitVec.ofNat 64 (trailingZeros a 64)) s
/-- POPC. -/
def execPopc (o : SR) (s : State) := regForm (.popc o) o (fun a _ => BitVec.ofNat 64 (oneBits a 64)) s
/-- ADDI. -/
def execAddi (o : SI) (s : State) := immForm (.addi o) o (· + ·) s
/-- MULI. -/
def execMuli (o : SI) (s : State) := immForm (.muli o) o (· * ·) s
/-- DIVI. -/
def execDivi (o : SI) (s : State) := immForm (.divi o) o divS s
/-- REMI. -/
def execRemi (o : SI) (s : State) := immForm (.remi o) o remS s
/-- DIVUI. -/
def execDivui (o : SI) (s : State) := immForm (.divui o) o divU s
/-- REMUI. -/
def execRemui (o : SI) (s : State) := immForm (.remui o) o remU s
/-- SLTI. -/
def execSlti (o : SI) (s : State) := immForm (.slti o) o (fun a b => truth (a.slt b)) s
/-- SLTUI. -/
def execSltui (o : SI) (s : State) := immForm (.sltui o) o (fun a b => truth (a.ult b)) s
/-- ANDI. -/
def execAndi (o : SI) (s : State) := immForm (.andi o) o (· &&& ·) s
/-- ORI. -/
def execOri (o : SI) (s : State) := immForm (.ori o) o (· ||| ·) s
/-- XORI. -/
def execXori (o : SI) (s : State) := immForm (.xori o) o (· ^^^ ·) s
/-- SHLI. -/
def execShli (o : SI) (s : State) := immForm (.shli o) o (fun a b => a <<< amount b) s
/-- SHRI. -/
def execShri (o : SI) (s : State) := immForm (.shri o) o (fun a b => a >>> amount b) s
/-- SRAI. -/
def execSrai (o : SI) (s : State) := immForm (.srai o) o (fun a b => a.sshiftRight (amount b)) s

/-- LI writes sign-extended imm32 (06 R129). -/
def execLi (o : LI) (s : State) : Host.Outcome State Fault Refusal :=
  s.run (.li o) true fun s => s.set (s.cx.setSreg o.sd (o.imm32.signExtend 64))

/-- LUI writes the high word and keeps the low one (06 R129). -/
def execLui (o : LI) (s : State) : Host.Outcome State Fault Refusal :=
  s.run (.lui o) true fun s => s.set (s.cx.setSreg o.sd (o.imm32 ++ field (s.cx.sreg o.sd) 0 32))

/-- LEA writes the instruction's own address + sign-extended imm32 (06 R129). -/
def execLea (o : LI) (s : State) : Host.Outcome State Fault Refusal :=
  s.run (.lea o) true fun s => s.set (s.cx.setSreg o.sd (s.cx.pc + o.imm32.signExtend 64))

/-- SEL (06 R130). -/
def execSel (o : SR) (s : State) : Host.Outcome State Fault Refusal :=
  s.run (.sel o) true fun s =>
    s.set (s.cx.setSreg o.sd (if s.cx.guard o.pg o.pn then s.cx.sreg o.sa else s.cx.sreg o.sb))

/-- A condition of PCMP (06 R131). -/
def condHolds (c : PCond) (a b : Word) : Bool :=
  match c with
  | .eq => a == b
  | .ne => a != b
  | .lt => a.slt b
  | .ge => !a.slt b
  | .ltu => a.ult b
  | .geu => !a.ult b

/-- PCMP (06 R131). -/
def execPcmp (c : PCond) (o : SR) (s : State) : Host.Outcome State Fault Refusal :=
  s.run (.pcmp c o) (s.cx.guard o.pg o.pn) fun s =>
    s.set (s.cx.setPreg (field o.sd 0 3) (condHolds c (s.cx.sreg o.sa) (s.cx.sreg o.sb)))

/-- A predicate operation (06 R132). -/
def predForm (i : Instr) (o : SR) (f : Bool → Bool → Bool) (s : State) : Host.Outcome State Fault Refusal :=
  s.run i (s.cx.guard o.pg o.pn) fun s =>
    s.set (s.cx.setPreg (field o.sd 0 3) (f (s.cx.preg (field o.sa 0 3)) (s.cx.preg (field o.sb 0 3))))

/-- PAND. -/
def execPand (o : SR) (s : State) := predForm (.pand o) o (· && ·) s
/-- POR. -/
def execPor (o : SR) (s : State) := predForm (.por o) o (· || ·) s
/-- PNOT. -/
def execPnot (o : SR) (s : State) := predForm (.pnot o) o (fun a _ => !a) s

end Sys2Proof.Machine
end

