-- ==== Sys2Proof/Machine/Control.lean ====
section
/-! DEFINITION. Control transfer, CSRs, queue control, shapes, bells and the trapping instructions: 06 R125, R126, R134 to
R144; 03 R57 to R67; 14 R317; 28 R503. -/

namespace Sys2Proof.Machine

/-! ## Branches and loops (06 R134 to R136) -/

/-- The target of a word offset (05 R99). -/
def State.target (s : State) (off : BitVec 28) : Word := s.cx.pc + (off.signExtend 64 <<< 3)

/-- B. -/
def execB (o : BR) (s : State) : Host.Outcome State Fault Refusal :=
  s.run (.b o) (s.cx.guard o.pg o.pn) fun s => .next s (s.target o.off28)

/-- CALL writes the return address to s31. -/
def execCall (o : BR) (s : State) : Host.Outcome State Fault Refusal :=
  s.run (.call o) (s.cx.guard o.pg o.pn) fun s => .next { s with cx := s.cx.setSreg 31 s.after } (s.target o.off28)

/-- RET; a target that is not a multiple of 8 traps with cause 0x24 (05 R91). -/
def execRet (o : BR) (s : State) : Host.Outcome State Fault Refusal :=
  s.run (.ret o) (s.cx.guard o.pg o.pn) fun s =>
    let t := s.cx.sreg o.sa
    if field t 0 3 == 0 then .next s t else s.stopTrap 0x24 t

/-- The bases after a LOOP that branches back (03 R64). -/
def Rot.advance (r : Rot) : Rot :=
  { r with vbase := if r.vw == 0 then r.vbase else BitVec.ofNat 5 ((r.vbase.toNat + r.vw.toNat - 1) % r.vw.toNat),
           pbase := if r.pw == 0 then r.pbase else BitVec.ofNat 2 ((r.pbase.toNat + r.pw.toNat - 1) % r.pw.toNat) }

/-- LOOP (06 R135). -/
def execLoop (o : BR) (s : State) : Host.Outcome State Fault Refusal :=
  s.run (.loop o) (s.cx.guard o.pg o.pn) fun s =>
    if 2 ≤ s.cx.lcnt.toNat then
      .next { s with cx := { s.cx with rot := s.cx.rot.advance, lcnt := s.cx.lcnt - 1 } } (s.target o.off28)
    else .next { s with cx := { s.cx with lcnt := 0 } } s.after

/-- ROTSET (06 R136); its limits are legal-field checks. -/
def execRotset (o : SI) (s : State) : Host.Outcome State Fault Refusal :=
  s.run (.rotset o) (s.cx.guard o.pg o.pn) fun s =>
    s.set { s.cx with rot := { vw := field o.imm24 0 6, vbase := 0, pw := field o.imm24 8 3, pbase := 0 } }

/-! ## CSRs (03 R66) -/

/-- CTX. -/
def Ctx.ctxWord (c : Ctx) : Word := bitAt c.priv 15 ||| bitAt c.sealed 14 ||| bitAt c.bank 13 ||| bitAt c.schk 0

/-- SLIPD. -/
def Ctx.slipWord (c : Ctx) : Word :=
  place c.slipd[4] 32 ||| place c.slipd[3] 24 ||| place c.slipd[2] 16 ||| place c.slipd[1] 8 ||| place c.slipd[0] 0

/-- COHORT. -/
def Ctx.cohortWord (c : Ctx) : Word := place c.cohort 32 ||| at' c.nmem 0

/-- Eight bells as a word: CSR 0x240 + k (03 R62). -/
def Ctx.bellWord (c : Ctx) (k : Nat) : Word :=
  (List.range 8).foldl (fun w i => w ||| place (c.bells.toList.getD (8 * k + i) 0) (8 * i)) 0

/-- Word w of a tile's entry (03 R59). -/
def Tile.word (t : Tile) (w : Nat) : Word :=
  match w with
  | 0 => t.word0
  | 1 => t.word1
  | 2 => t.shape.word0
  | _ => t.shape.word1

/-- SEAL (14 R317). -/
def State.sealWord (s : State) : Word :=
  let c := s.cx
  let live := c.sealed && (s.keys.any fun k => k.slot == c.keyslot && k.live)
  bitAt live 40 ||| at' (if c.sealed then c.keyslot else 0) 32 ||| place c.savectr 0

/-- The operands of an entry with the epochs they recorded. -/
def Entry.opers (e : Entry) : List (Oper × BitVec 8) := if e.isVoid then [] else (opersOf e.instr).zip e.epochs

/-- Readers in a queue of a tile or register, counted against an epoch (07 R152; 03 R61). -/
def EQueue.readersAt (q : EQueue) (isTile : Bool) (n : BitVec 6) (ep : BitVec 8) : Nat :=
  (q.entries.filter fun x => x.opers.any fun p => p.1.isTile == isTile && p.1.reads && p.1.n == n && p.2 == ep).length

/-- Readers of a register against an epoch, in every queue but one (03 R61). -/
def Ctx.othersAt (c : Ctx) (own : Nat) (n : BitVec 6) (ep : BitVec 8) : Nat :=
  (([(1, c.lq), (2, c.sq), (3, c.aq), (4, c.mq), (5, c.nq)].filter fun x => x.1 != own).map fun x => x.2.readersAt false n ep).sum

/-- The number of the queue that holds the setter of a register's epoch: LQ, MQ or NQ (03 R61). -/
def Ctx.setterOf (c : Ctx) (n : BitVec 6) (ep : BitVec 8) : Nat :=
  let sets (q : EQueue) : Bool := q.entries.any fun x => x.opers.any fun p => !p.1.isTile && p.1.role == .load && p.1.n == n && p.2 == ep
  if sets c.lq then 1 else if sets c.mq then 4 else 5

/-- The queue of a hold's kind; none has set one. -/
def holdQueue (k : BitVec 3) : Nat := if k == 1 then 1 else if k == 2 then 5 else if k == 3 then 4 else 0

/-- READERS as CSR 0x200 + n shows it: the readers of the completed epoch in other queues than the setter's that follows it, and with none
forwarded, than the newest setter's (03 R61; log entry 47). -/
def Ctx.holdWord (c : Ctx) (n : BitVec 6) : Word :=
  let h := c.hold n
  let own := if h.fepoch != h.cepoch then c.setterOf n (h.cepoch + 1) else holdQueue h.kind
  let inAq := c.pending.filter fun v => match v.2 with | .regRead r => r == n | _ => false
  ({ h with readers := BitVec.ofNat 8 (c.othersAt own n h.cepoch + inAq.length) } : Hold).word

/-- A CSR's value; none where the number is not listed (03 R66; 14 R317; 28 R503). -/
def State.csr (s : State) (n : Nat) : Option Word :=
  let c := s.cx
  if n == 0x000 then some c.ctxWord
  else if n == 0x001 then some (place c.flags 0)
  else if n == 0x002 then some c.rot.word
  else if n == 0x003 then some c.lcnt
  else if n == 0x004 then some c.slipWord
  else if n == 0x005 then some (place c.qwdog 0)
  else if n == 0x006 then some c.srkey
  else if n == 0x007 then some c.srctr
  else if n == 0x010 then some c.coord.word
  else if n == 0x011 then some c.cohortWord
  else if n == 0x012 then some c.launch
  else if n == 0x013 then some (s.featuresOf c)
  else if n == 0x014 then some (BitVec.ofNat 64 s.ns)
  else if n == 0x015 then some c.cycle
  else if 0x200 ≤ n && n ≤ 0x23F then some (c.holdWord (BitVec.ofNat 6 (n - 0x200)))
  else if 0x240 ≤ n && n ≤ 0x243 then some (c.bellWord (n - 0x240))
  else if 0x300 ≤ n && n ≤ 0x31F then
    let h := c.shape (BitVec.ofNat 4 ((n - 0x300) / 2))
    some (if n % 2 == 0 then h.word0 else h.word1)
  else if 0x400 ≤ n && n ≤ 0x4FF then some ((c.tile (BitVec.ofNat 6 ((n - 0x400) / 4))).word (n % 4))
  else if n == 0xC00 then some s.sealWord
  else if n == 0xC80 then some (Config.mailboxRead s.free)
  else none

/-- The new region of a descriptor lies inside the declared extent of its buffer (03 R60). -/
def Ctx.regionOk (c : Ctx) (w : Word) : Bool :=
  (field w 38 18).toNat + (field w 20 18).toNat ≤ (if bit w 61 then c.wbext else c.abext)

/-- A write to word 0 of a tile's entry: the new context, or the cause (03 R60). -/
def Ctx.writeTile (c : Ctx) (n : BitVec 6) (w : Word) : Except (BitVec 7) Ctx :=
  let t := c.tile n
  if (field w 38 18).toNat % 256 != 0 || 196608 < (field w 20 18).toNat then .error 0x02
  else if t.state != .empty || t.fepoch != t.cepoch || t.readers != 0 || !c.regionOk w then .error 0x40
  else .ok (c.modTile n fun t => { t with wb := bit w 61, base := field w 38 18, extent := field w 20 18 })

/-- A write to a CSR: the new context, or the cause of an illegal value. Read-only fields keep their values (03 R66). -/
def Ctx.writeCsr (c : Ctx) (n : Nat) (w : Word) : Except (BitVec 7) Ctx :=
  if n == 0x000 then .ok { c with schk := bit w 0 }
  else if n == 0x001 then .ok { c with flags := field w 0 6 }
  else if n == 0x002 then
    let r : Rot := { vw := field w 8 6, vbase := field w 0 5, pw := field w 24 3, pbase := field w 16 2 }
    if r.vw.toNat ≤ 32 && r.pw.toNat ≤ 4 && (r.vbase == 0 || r.vbase.toNat < r.vw.toNat) &&
        (r.pbase == 0 || r.pbase.toNat < r.pw.toNat) then .ok { c with rot := r }
    else .error 0x02
  else if n == 0x003 then .ok { c with lcnt := w }
  else if n == 0x005 then .ok { c with qwdog := field w 0 32 }
  else if n == 0x006 then .ok { c with srkey := w }
  else if n == 0x007 then .ok { c with srctr := w }
  else if 0x400 ≤ n && n ≤ 0x4FF && n % 4 == 0 then c.writeTile (BitVec.ofNat 6 ((n - 0x400) / 4)) w
  else .ok c

/-- The CSR number of an instruction. -/
def csrNumber (o : SI) : Nat := (field o.imm24 0 12).toNat

/-- The access checks of a CSR instruction, then a body with the old value (03 R66). -/
def State.withCsr (s : State) (n : Nat) (k : Word → Done) : Done :=
  if 0xC00 ≤ n && !s.cx.priv then s.stopTrap 0x04
  else
    match s.csr n with
    | none => s.stopTrap 0x02
    | some old => k old

/-- A read of a CSR without storage of its own advances the free counter. -/
def State.noteCsr (s : State) (n : Nat) : State := if n == 0xC80 then { s with free := s.free + 1 } else s

/-- A write of a CSR after its old value is known, with s[sd] taking the old value (06 R137). -/
def State.putCsr (s : State) (o : SI) (n : Nat) (old new : Word) : Done :=
  match s.cx.writeCsr n new with
  | .error c => s.stopTrap c
  | .ok c => .next { (s.noteCsr n) with cx := c.setSreg o.sd old } s.after

/-- A command block submitted through CSR 0xC80 (28 R503, R504): it is read in the context's address space and queued; a
fault on it is precise (log entry 10). -/
def State.submitCommand (s : State) (o : SI) (old : Word) : Done :=
  match s.access (some 0) (s.cx.sreg o.sa).toNat 64 .load true with
  | .fail f => s.stopFail f
  | .ok s1 gs =>
    if segsPoisoned s1.poison gs then s.stopFail ⟨0x25, s.cx.sreg o.sa, .load, false⟩
    else
      .next { s1 with commands := s1.commands ++ [⟨readSegs s1.mem gs, s.cx.space⟩], free := s.free + 1,
                      cx := s1.cx.setSreg o.sd old } s.after

/-- CSRR (06 R137). -/
def execCsrr (o : SI) (s : State) : Host.Outcome State Fault Refusal :=
  s.run (.csrr o) (s.cx.guard o.pg o.pn) fun s =>
    s.withCsr (csrNumber o) fun old => .next { (s.noteCsr (csrNumber o)) with cx := s.cx.setSreg o.sd old } s.after

/-- CSRW (06 R137). -/
def execCsrw (o : SI) (s : State) : Host.Outcome State Fault Refusal :=
  s.run (.csrw o) (s.cx.guard o.pg o.pn) fun s =>
    s.withCsr (csrNumber o) fun old =>
      if csrNumber o == 0xC80 then s.submitCommand o old else s.putCsr o (csrNumber o) old (s.cx.sreg o.sa)

/-- CSRS (06 R137). -/
def execCsrs (o : SI) (s : State) : Host.Outcome State Fault Refusal :=
  s.run (.csrs o) (s.cx.guard o.pg o.pn) fun s =>
    s.withCsr (csrNumber o) fun old => s.putCsr o (csrNumber o) old (old ||| s.cx.sreg o.sa)

/-- CSRC (06 R137). -/
def execCsrc (o : SI) (s : State) : Host.Outcome State Fault Refusal :=
  s.run (.csrc o) (s.cx.guard o.pg o.pn) fun s =>
    s.withCsr (csrNumber o) fun old => s.putCsr o (csrNumber o) old (old &&& ~~~s.cx.sreg o.sa)

/-! ## Queue control (06 R125, R126; 16 R325) -/

/-- The queue of a code. -/
def queueOf (n : Nat) : Queue :=
  match n with
  | 0 => .lq
  | 1 => .sq
  | 2 => .aq
  | 3 => .mq
  | _ => .nq

/-- A queue is empty and every operation issued from it has completed (06 R125, R126). -/
def Ctx.quiet (c : Ctx) (q : Queue) : Bool :=
  (c.queue q).entries.isEmpty &&
    match q with
    | .lq | .sq => true
    | .aq => c.pending.isEmpty
    | .mq => c.mqDone.isEmpty
    | .nq => c.handed.isEmpty && c.expects.isEmpty

/-- Every queue is (02 R37). -/
def Ctx.allQuiet (c : Ctx) : Bool := c.quiet .lq && c.quiet .sq && c.quiet .aq && c.quiet .mq && c.quiet .nq

/-- The first index of queue q's segment: the sum of the depths before it (16 R321). -/
def segStart (d : Vector (BitVec 8) 5) (q : Nat) : Nat := ((d.toList.take q).map BitVec.toNat).sum

/-- Every queue that a mask names is quiet. -/
def Ctx.quietMask (c : Ctx) (m : BitVec 24) : Bool := (List.range 5).all fun i => !bit m i || c.quiet (queueOf i)

/-- QSYNC (06 R126). -/
def execQsync (o : SI) (s : State) : Host.Outcome State Fault Refusal :=
  s.run (.qsync o) (s.cx.guard o.pg o.pn) fun s => if s.cx.quietMask o.imm24 then .next s s.after else s.waitFor .drain

/-! ## Shapes (06 R138, R139) -/

/-- SHP (06 R138). -/
def execShp (o : SR) (s : State) : Host.Outcome State Fault Refusal :=
  s.run (.shp o) (s.cx.guard o.pg o.pn) fun s =>
    let a := s.cx.sreg o.sa
    let b := s.cx.sreg o.sb
    let h := Shape.ofWords a b
    if field a 56 2 != 0 || b != (field b 0 48).signExtend 64 || !h.legal then s.stopTrap 0x11
    else s.set (s.cx.setShape (field o.sd 0 4) h)

/-- The slot with one field set to the exact value x, if x is permitted (06 R139). -/
def Shape.setField (h : Shape) (f : ShpxField) (x : Int) : Option Shape :=
  match f with
  | .vrows => if 0 ≤ x && x ≤ h.rows.toNat then some { h with vrows := BitVec.ofInt 12 x } else none
  | .vcols => if 0 ≤ x && x ≤ 65535 then some { h with vcols := BitVec.ofInt 16 x } else none
  | .rows => if 1 ≤ x && h.vrows.toNat ≤ x && x ≤ 4095 then some { h with rows := BitVec.ofInt 12 x } else none
  | .stride => if -(2 ^ 47) ≤ x && x < 2 ^ 47 then some { h with stride := BitVec.ofInt 48 x } else none

/-- SHPX (06 R139). -/
def execShpx (c : ShpxField) (o : SI) (s : State) : Host.Outcome State Fault Refusal :=
  s.run (.shpx c o) (s.cx.guard o.pg o.pn) fun s =>
    let n : BitVec 4 := field o.sd 0 4
    match (s.cx.shape n).setField c ((s.cx.sreg o.sa).toInt + o.imm24.toInt) with
    | none => s.stopTrap 0x11
    | some h => s.set (s.cx.setShape n h)

/-! ## Bells, features, NOP (06 R140 to R142) -/

/-- The bell that BELLS and BELLW name. -/
def bellOf (o : SI) : BitVec 5 := field o.imm24 0 5

/-- BELLS. -/
def execBells (o : SI) (s : State) : Host.Outcome State Fault Refusal :=
  s.run (.bells o) (s.cx.guard o.pg o.pn) fun s => s.set (s.cx.ring (bellOf o))

/-- BELLW. -/
def execBellw (o : SI) (s : State) : Host.Outcome State Fault Refusal :=
  s.run (.bellw o) (s.cx.guard o.pg o.pn) fun s =>
    if (s.cx.take o.sync.takes).canTake (bellOf o) then s.set (s.cx.take (bellOf o)) else s.waitFor (.bell (bellOf o))

/-- FEAT (06 R141). -/
def execFeat (o : SI) (s : State) : Host.Outcome State Fault Refusal :=
  s.run (.feat o) (s.cx.guard o.pg o.pn) fun s =>
    s.set (s.cx.setSreg o.sd (truth (bit (s.featuresOf s.cx) (field o.imm24 0 8).toNat)))

/-- NOP (06 R142). -/
def execNop (o : Sync) (s : State) : Host.Outcome State Fault Refusal := s.run (.nop o) true fun s => .next s s.after

/-! ## TRAP and BRK (06 R143) -/

/-- A deliberate trap with a code. -/
def codeTrap (i : Instr) (o : SI) (cause : BitVec 7) (s : State) : Host.Outcome State Fault Refusal :=
  s.run i (s.cx.guard o.pg o.pn) fun s => .last (s.takeTrap (s.cuTrap cause (field o.imm24 0 16)))

/-- TRAP. -/
def execTrap (o : SI) (s : State) := codeTrap (.trap o) o 0x07 s

end Sys2Proof.Machine
end

