-- ==== Sys2Proof/Machine/Debug.lean ====
section
/-! DEFINITION. Trace records, triggers, samples, stops, the freeze signal and debug hold: chapter 27. -/

namespace Sys2Proof.Machine

/-! ## Trace rings (27 R487) -/

/-- The code of an activation's cause and its routing tag (27 R487). -/
def Ctx.route (c : Ctx) : Nat × Word :=
  match c.cause with
  | .launch => (0, c.launch)
  | .task r => (1, r)
  | .message t => (2, t)

/-- A trace record of a context (27 R487). -/
def State.traceRecord (s : State) (c : Ctx) (kind : Nat) (data : Word) : List Byte :=
  wordBytes c.coord.word ++ leBytes 4 c.cohort.toNat ++ [BitVec.ofNat 8 kind, BitVec.ofNat 8 c.route.1, 0, 0] ++ wordBytes c.actno ++
    wordBytes c.route.2 ++ wordBytes c.entry ++ leBytes 8 c.started ++ leBytes 8 s.ns ++
    wordBytes (if c.sealed then 0 else data)

/-- The key of a ring's address: host or device physical. -/
def State.physKey (s : State) (host : Bool) (a : Nat) : Nat := if host then hostKey a else devKey s.node a

/-- Bytes of a trace ring are written at their home (12 R250). -/
def State.tracePut (s : State) (host : Bool) (a : Nat) (bs : List Byte) : State := s.homeWrite [(s.physKey host a, bs.length)] bs

/-- A record appended to a trace ring; a full ring drops and counts it, as does one in host memory during debug hold, which lets no request pass (27
R493; log entry 53); a disabled one takes nothing. -/
def State.traceWrite (s : State) (ring : BitVec 4) (bs : List Byte) : State :=
  let r := s.traces[ring.toNat]'(by omega)
  let size := 2 ^ r.log2
  if !r.en then s
  else if (r.tail - r.head).toNat == size || (r.host && s.debugHold) then
    { s with traces := s.traces.set ring.toNat { r with dropcnt := if r.dropcnt == BitVec.allOnes 32 then r.dropcnt else r.dropcnt + 1 } (by omega) }
  else
    { s.tracePut r.host (r.base + 64 * (r.tail.toNat % size)) bs with
        traces := s.traces.set ring.toNat { r with tail := r.tail + 1 } (by omega) }

/-! ## Triggers (27 R489, R490) -/

/-- A coordinate agrees with a filter in every masked bit. -/
def agrees (coord value mask : Word) : Bool := ((coord ^^^ value) >>> 34) &&& (mask &&& 0x3FFFFFFF) == 0

/-- A context's coordinate does. -/
def inScope (c : Ctx) (value mask : Word) : Bool := agrees c.coord.word value mask

/-- A context's happening of a kind. -/
def State.happening (s : State) (c : Ctx) (kind : Nat) (data : Word) (held : Bool) : Happening :=
  { kind := kind, coord := c.coord.word, entry := c.entry, sealed := c.sealed, held := held, record := s.traceRecord c kind data }

/-- A trigger that is armed or traces. -/
def Trigger.watches (t : Trigger) : Bool := t.state == .armed || t.state == .tracing

/-- A happening of this cycle, which its end evaluates where a trigger watches. -/
def State.happens (s : State) (h : Happening) : State :=
  if s.triggers.toList.any Trigger.watches then { s with happened := s.happened ++ [h] } else s

/-- An event of kind 1, 2, 4 or 5. -/
def State.event (s : State) (c : Ctx) (kind : Nat) (data : Word) : State := s.happens (s.happening c kind data false)

/-- A condition of a trigger matches a happening: the kind and the entry address. -/
def matchesEvent (k : BitVec 3) (entry : Word) (h : Happening) : Bool := k.toNat == h.kind && (entry == 0 || entry == h.entry)

/-- A happening is the start event of an armed trigger; one that a breakpoint holds back, of a trigger with BRKPT alone. -/
def Trigger.startsAt (t : Trigger) (h : Happening) : Bool :=
  t.state == .armed && agrees h.coord t.tfilt t.tfilt && matchesEvent t.startk t.tstart h && (!h.held || t.brkpt)

/-- A trigger at the end of a cycle: what it becomes, and the records that it writes, by their kinds and happenings (27 R490). -/
def Trigger.ofCycle (t : Trigger) (hs : List Happening) : Trigger × List (Nat × Happening) :=
  let start := hs.find? t.startsAt
  if t.state == .tracing || start.isSome then
    let mine := hs.filter fun h => agrees h.coord t.tfilt t.tfilt && !h.held
    let stop := if t.stopk == 0 then none else mine.find? (matchesEvent t.stopk t.tstop)
    ({ t with state := if stop.isSome then .done else .tracing },
      start.toList.map (6, ·) ++ mine.map (fun h => (h.kind, h)) ++ stop.toList.map (7, ·))
  else (t, [])

/-- A sealed context writes records of kinds 1, 2 and 5 alone (27 R487). -/
def mayTrace (isSealed : Bool) (kind : Nat) : Bool := !isSealed || kind == 1 || kind == 2 || kind == 5

/-- The record of a kind for a happening; those of kinds 6 and 7 have DATA zero. -/
def Happening.recordOf (h : Happening) (kind : Nat) : List Byte :=
  if kind == h.kind then h.record else (h.record.set 12 (BitVec.ofNat 8 kind)).take 56 ++ List.replicate 8 0

/-- The n-th trigger evaluates the cycle. -/
def State.settleTrigger (s : State) (n : Fin 8) : State :=
  let (t, ks) := (s.triggers[n]).ofCycle s.happened
  (ks.filter fun x => mayTrace x.2.sealed x.1).foldl (fun s x => s.traceWrite t.ring (x.2.recordOf x.1))
    { s with triggers := s.triggers.set n t }

/-- The triggers evaluate the happenings of the cycle (27 R490). -/
def State.settleTriggers (s : State) : State :=
  if s.happened.isEmpty then s else { (List.finRange 8).foldl State.settleTrigger s with happened := [] }

/-- An event of a kind is the start event of a trigger with BRKPT (27 R489). -/
def State.breaksAt (s : State) (c : Ctx) (kind : Nat) : Bool :=
  s.triggers.toList.any fun t => t.brkpt && t.startsAt (s.happening c kind 0 false)

/-- An event within the current context's activation; as the start event of a trigger with BRKPT it also stops the context, where a stop
lands (27 R489, R491). -/
def State.stoppingEvent (s : State) (kind : Nat) (data : Word) : State :=
  let s1 := s.event s.cx kind data
  if s.breaksAt s.cx kind then { s1 with cx := { s1.cx with stopped := true } } else s1

/-- A trigger with BRKPT matches the start of an activation of a context (27 R489, R491). -/
def State.breaks (s : State) (c : Ctx) : Bool := s.breaksAt c 1

/-- BRK: the trap, and the event of kind 4 with the PC (06 R143; 27 R487; log entry 19). -/
def execBrk (o : SI) (s : State) : Host.Outcome State Fault Refusal :=
  s.run (.brk o) (s.cx.guard o.pg o.pn) fun s =>
    .last ((s.stoppingEvent 4 s.cx.pc).takeTrap (s.cuTrap 0x08 (field o.imm24 0 16)))

/-! ## Activations (02 R31; 27 R486) -/

/-- An activation of the current context starts: ACTNO, its cause, entry and time, state running, and the trace event. A
matching breakpoint stops the context instead, with its own record and that of a stop (27 R487, R491). -/
def State.startActivation (s : State) (cause : ActCause) (entry : Word) : State × Bool :=
  let c := { s.cx with cause := cause, entry := entry, started := s.ns, actno := s.cx.actno + 1 }
  if s.breaks c then
    let s1 := (s.happens (s.happening c 1 0 true)).event c 4 entry
    (({ s1 with cx := { s1.cx with stopped := true } } : State).event s1.cx 5 0, false)
  else
    let c := { c.activated with pc := entry, wdog := 0 }
    (({ s with cx := c } : State).event c 1 0, true)

/-- A stop in force names the context (27 R491; 28 R505). -/
def Stop.names (p : Stop) (c : Ctx) : Bool :=
  match p.kind with
  | 0 => place c.cohort 0 == p.value &&& 0xFFFFFFFF
  | 1 => c.launch == p.value
  | _ => inScope c p.value p.mask

/-- Some stop in force names the context. -/
def State.isStopped (s : State) (c : Ctx) : Bool := c.stopped || s.stops.any (·.names c)

/-- The current context becomes idle at the end of an activation; a stop in force lands there (16 R341; 27 R491). -/
def State.becomeIdle (s : State) : State :=
  let c := { s.cx with life := .idle, idleSince := s.time, idleAt := s.cx.now, stealFails := 0, stealPrev := false, outside := .none }
  if s.isStopped c then ({ s with cx := { c with stopped := true } } : State).event c 5 0 else { s with cx := c }

/-! ## The events of chapter 27 -/

/-- The tail of a ring with pending records is written to TAILADDR (27 R487), but not to host memory during debug hold (R493). -/
def State.flushTail (s : State) (ring : Fin 16) : State :=
  let r := s.traces[ring]
  if r.en && r.shown != r.tail && !(r.host && s.debugHold) then
    { s.tracePut r.host r.tailAddr (leBytes 8 r.tail.toNat) with traces := s.traces.set ring { r with shown := r.tail } }
  else s

/-- TRACE_TAIL_FLUSH. -/
def execTraceTailFlush (ring : Nat) (s : State) : Host.Outcome State Fault Refusal :=
  .next (if h : ring < 16 then s.flushTail ⟨ring, h⟩ else s)

/-- A record of kind 3 for a running context of a sampled address space whose CYCLE is a multiple of PERIOD (27 R488). -/
def State.sample (s : State) (x : Ctx) : State :=
  match s.samplings.find? (fun p => p.asid == x.asid) with
  | some p =>
    if x.life == .running && p.period != 0 && x.cycle.toNat % p.period == 0 && mayTrace x.sealed 3 then
      s.traceWrite p.ring (s.traceRecord x 3 x.pc)
    else s
  | none => s

/-- SAMPLE. -/
def execSample (c : CtxRef) (s : State) : Host.Outcome State Fault Refusal :=
  .next (match s.findCtx c with
    | none => s
    | some x => s.sample x)

/-- What the trace machinery does by itself at the end of a cycle: the samples that are due, and the tails (27 R487, R488). -/
def State.traceCycle (s : State) : State :=
  (List.finRange 16).foldl State.flushTail
    ((s.ctxs.filter fun c => !s.isFrozen c).foldl State.sample s)

/-- The fields of TCTL that software writes (27 R489). -/
def Trigger.ofCtl (t : Trigger) (w : Word) : Trigger :=
  { t with startk := field w 58 3, stopk := field w 55 3, brkpt := bit w 54, ring := field w 50 4,
           state := if bit w 63 then (if field w 58 3 == (0 : BitVec 3) then .tracing else .armed) else .idle }

/-- TRIGGER_ARM: a write of TCTL arms or disarms a trigger; a start condition of 0 starts on arming (27 R489). The record of
kind 6 names no context: its fields are zero but for the times. -/
def State.writeTctl (s : State) (n : Fin 8) (w : Word) : State :=
  let t := (s.triggers[n]).ofCtl w
  let s1 := { s with triggers := s.triggers.set n t }
  if t.state == .tracing then s1.traceWrite t.ring (s1.traceRecord Ctx.reset 6 0) else s1

/-- TRIGGER_ARM. -/
def execTriggerArm (n : Nat) (value : Word) (s : State) : Host.Outcome State Fault Refusal :=
  .next (if h : n < 8 then s.writeTctl ⟨n, h⟩ value else s)

/-- FREEZE: accepted only in debug hold (27 R493). -/
def execFreeze (domains : BitVec 5) (s : State) : Host.Outcome State Fault Refusal :=
  .next (if s.debugHold then { s with frozen := s.frozen ||| domains } else s)

/-- THAW: the clocks restart with no state changed (27 R493). -/
def execThaw (domains : BitVec 5) (s : State) : Host.Outcome State Fault Refusal :=
  .next { s with frozen := s.frozen &&& ~~~domains }

/-- DEBUG_HOLD_ENTER: every host line that the device caches is surrendered, then no request is made (27 R493). -/
def execDebugHoldEnter (s : State) : Host.Outcome State Fault Refusal :=
  .next { s with debugHold := true, lines := s.lines.filter fun d => !isHost (d.line * 128) }

/-- DEBUG_HOLD_EXIT; a frozen device stays in debug hold (27 R493). -/
def execDebugHoldExit (s : State) : Host.Outcome State Fault Refusal :=
  .next (if s.frozen == 0 then { s with debugHold := false } else s)

end Sys2Proof.Machine
end

