-- ==== Sys2Proof/Machine/MemOrder.lean ====
section
/-! DEFINITION. Instruction fetch, scalar loads and stores, atomics, FENCE, WAITV and cache-line operations: 06 R123, R145 to
R148; 12 R264 to R273. Every access takes effect at once, one permitted outcome of the memory model (log entry 1). -/

namespace Sys2Proof.Machine

/-! ## Instruction fetch (06 R123) -/

/-- The word at the program counter, through the control TLB. -/
def State.fetch (s : State) : Except Fail (State × Word) :=
  match s.access (some 0) s.cx.pc.toNat 8 .fetch false with
  | .fail f => .error f
  | .ok s1 gs =>
    if segsPoisoned s1.poison gs then .error ⟨0x25, s.cx.pc, .fetch, false⟩
    else .ok (s1, BitVec.ofNat 64 (leNat (readSegs s1.mem gs)))

/-! ## Scalar accesses (06 R145) -/

/-- The bytes of a size code (05 R99). -/
def sizeBytes (z : BitVec 2) : Nat := 2 ^ z.toNat

/-- The effective address, exact (06 R145). -/
def State.ea (s : State) (o : M) : Int := (s.cx.sreg o.sa).toNat + o.off18.toInt

/-- The checks of a scalar access in the order of 06 R145: the address range, alignment, extent and translation. -/
def State.scalar (s : State) (a : Int) (bytes : Nat) (k : Access) : Ranged :=
  let bad (c : BitVec 7) : Ranged := .fail ⟨c, BitVec.ofInt 64 a, k, false⟩
  if a < 0 || 2 ^ 64 - 1 < a then bad 0x22
  else if a % bytes != 0 then bad 0x24
  else s.access (some 0) a bytes k false

/-- The first key of a run list. -/
def firstKey (gs : List Seg) : Nat := (gs.headD (0, 0)).1

/-- A scalar read: its checks, poison, then a body with the value as a number. -/
def State.withLoad (s : State) (a : Int) (bytes : Nat) (body : State → Nat → Done) : Done :=
  match s.scalar a bytes .load with
  | .fail f => s.stopFail f
  | .ok s1 gs =>
    if segsPoisoned s1.poison gs then s.stopFail ⟨0x25, BitVec.ofInt 64 a, .load, false⟩
    else body (s1.noteRead s.ownSharer (firstKey gs)) (leNat (readSegs s1.mem gs))

/-- A number of the low bytes of a word, sign-extended. -/
def signBytes (bytes x : Nat) : Word :=
  BitVec.ofInt 64 (if x < 2 ^ (8 * bytes - 1) then (x : Int) else (x : Int) - 2 ^ (8 * bytes))

/-- A load into s[sd]. -/
def loadForm (i : Instr) (o : M) (signed : Bool) (s : State) : Host.Outcome State Fault Refusal :=
  s.run i (s.cx.guard o.pg o.pn) fun s =>
    s.withLoad (s.ea o) (sizeBytes o.size) fun s1 x =>
      s1.set (s1.cx.setSreg o.sd (if signed then signBytes (sizeBytes o.size) x else BitVec.ofNat 64 x))

/-- A scalar store of low bytes of a word. -/
def State.withStore (s : State) (a : Int) (bytes : Nat) (x : Word) : Done :=
  match s.scalar a bytes .store with
  | .fail f => s.stopFail f
  | .ok s1 gs =>
    let s2 := (s1.noteWrite s.ownSharer (firstKey gs)).askStores gs (leBytes bytes x.toNat)
    .next { s2 with mem := writeSegs s2.mem gs (leBytes bytes x.toNat) } s.after

/-- A store of s[sd]. -/
def storeForm (i : Instr) (o : M) (s : State) : Host.Outcome State Fault Refusal :=
  s.run i (s.cx.guard o.pg o.pn) fun s => s.withStore (s.ea o) (sizeBytes o.size) (s.cx.sreg o.sd)

/-- LD (06 R145). -/
def execLd (o : M) (s : State) := loadForm (.ld o) o true s
/-- LDU (06 R145). -/
def execLdu (o : M) (s : State) := loadForm (.ldu o) o false s
/-- ST (06 R145). -/
def execSt (o : M) (s : State) := storeForm (.st o) o s
/-- LDA reads like LD, as an acquire (12 R265). -/
def execLda (o : M) (s : State) := loadForm (.lda o) o true s
/-- STL writes like ST, as a release (12 R265). -/
def execStl (o : M) (s : State) := storeForm (.stl o) o s

/-! ## Atomics (12 R266 to R270) -/

/-- The operand width of an atomic's size field. -/
def atomicBits (z : BitVec 2) : Nat := if z == 2 then 32 else 64

/-- The two's-complement value of w bits. -/
def asInt (w x : Nat) : Int := if x < 2 ^ (w - 1) then (x : Int) else (x : Int) - 2 ^ w

/-- The AMO and RED operations on w bits (12 R266). -/
def atomicOp (op : BitVec 4) (w old x : Nat) : Nat :=
  match op.toNat with
  | 0 => (old + x) % 2 ^ w
  | 1 => old &&& x
  | 2 => old ||| x
  | 3 => old ^^^ x
  | 4 => if asInt w x < asInt w old then x else old
  | 5 => Nat.min old x
  | 6 => if asInt w old < asInt w x then x else old
  | 7 => Nat.max old x
  | 8 => x
  | _ => (addFp32 (FFmt.fp32.value old) (FFmt.fp32.value x)).code

/-- The operation is `.fadd` (12 R266). -/
def isFadd (op : BitVec 4) : Bool := op == 9

/-- An atomic met a poisoned line: the record of the place that executed it, for a requester's work (12 R270). A line on another package is
logged there, outside this model's package. -/
def State.poisonRecord (s : State) (k : Nat) (atHome : Bool) (info : Word) : State :=
  if !isHost k && keyNode k != s.node then s
  else s.machineCheck (if atHome then homeBank k else s.cx.coreNumber)
    { sev := 2, cls := 0x73, synd := 0, addr := some (k % 2 ^ 52 / 128 * 128), info := some info }

/-- The record of an atomic of the current context. -/
def State.poisonCheck (s : State) (k : Nat) (atHome : Bool) : State := s.poisonRecord k atHome (s.cx.mcInfo s.cx.item 0)

/-- The request for an atomic on another package's line (12 R252; 23 R454), in the layout of log entry 13: 0xF is a compare-and-swap. -/
def State.askAtomic (s : State) (gs : List Seg) (op : BitVec 4) (double : Bool) (x y : Word) : State :=
  (s.remotePieces gs).foldl (fun s g => s.ask 0x10 g (place op 0 ||| bitAt double 8) x y []) s

/-- An AMO-class access, ask being its request to another package: read, combine, write, indivisibly; body takes the old value. new answers none to write nothing. A poisoned line traps
with every state but the bank's record as before (00 R8). fadd: the operation adds in floating point (27 R495). -/
def State.withAtomic (s : State) (a : Word) (z : BitVec 2) (fadd : Bool) (ask : State → List Seg → State) (new : Nat → Option Nat) (body : State → Nat → Done) : Done :=
  match s.scalar a.toNat (atomicBits z / 8) .rmw with
  | .fail f => s.stopFail f
  | .ok s1 gs =>
    if segsPoisoned s1.poison gs then
      .stop ((s.poisonCheck (firstKey gs) (s.cacheable (firstKey gs) == false)).takeTrap
        { s.cuTrap 0x25 with va := a, mc := true, code := 0x73 })
    else
      let old := leNat (readSegs s1.mem gs)
      let s2 := ask (s1.noteWrite s.ownSharer (firstKey gs)) gs
      body (match new old with
        | none => s2
        | some x => { s2 with mem := writeSegs s2.mem gs (leBytes (atomicBits z / 8) x) }.noteIf fadd gs) old

/-- AMO (12 R266); with sd = s0 the operand is 0 and the old value is discarded. -/
def execAmo (o : M) (s : State) : Host.Outcome State Fault Refusal :=
  s.run (.amo o) (s.cx.guard o.pg o.pn) fun s =>
    let w := atomicBits o.size
    let op : BitVec 4 := field o.off18 14 4
    s.withAtomic (s.cx.sreg o.sa) o.size (isFadd op) (fun s1 gs => s1.askAtomic gs op (w == 64) (s.cx.sreg o.sd) 0)
      (fun old => some (atomicOp op w old ((s.cx.sreg o.sd).toNat % 2 ^ w)))
      fun s1 old => s1.set (s1.cx.setSreg o.sd (signBytes (w / 8) old))

/-- AMOCAS (12 R267). -/
def execAmocas (o : M) (s : State) : Host.Outcome State Fault Refusal :=
  s.run (.amocas o) (s.cx.guard o.pg o.pn) fun s =>
    let w := atomicBits o.size
    s.withAtomic (s.cx.sreg o.sa) o.size false (fun s1 gs => s1.askAtomic gs 0xF (w == 64) (s.cx.sreg o.sd) (s.cx.sreg (o.sd + 1)))
      (fun old => if old == (s.cx.sreg o.sd).toNat % 2 ^ w then some ((s.cx.sreg (o.sd + 1)).toNat % 2 ^ w) else none)
      fun s1 old => s1.set (s1.cx.setSreg o.sd (signBytes (w / 8) old))

/-- RED (12 R268): the update without a value, at the home slice after any copy is recalled. A poisoned line traps at the
next boundary (12 R270). -/
def execRed (o : M) (s : State) : Host.Outcome State Fault Refusal :=
  s.run (.red o) (s.cx.guard o.pg o.pn) fun s =>
    let w := atomicBits o.size
    let a := s.cx.sreg o.sa
    match s.scalar a.toNat (w / 8) .rmw with
    | .fail f => s.stopFail f
    | .ok s1 gs =>
      if segsPoisoned s1.poison gs then
        let t : Trap := { s1.cuTrap 0x25 with va := a, mc := true, code := 0x73 }
        let s2 := s1.poisonCheck (firstKey gs) true
        .next { s2 with cx := { s2.cx with after := s2.cx.after ++ [t.record s.after] } } s.after
      else
        let old := leNat (readSegs s1.mem gs)
        let s2 := (s1.noteRecall (firstKey gs)).askAtomic gs (field o.off18 14 4) (w == 64) (s.cx.sreg o.sd) 0
        let new := atomicOp (field o.off18 14 4) w old ((s.cx.sreg o.sd).toNat % 2 ^ w)
        .next ({ s2 with mem := writeSegs s2.mem gs (leBytes (w / 8) new) }.noteIf (isFadd (field o.off18 14 4)) gs) s.after

/-- A trap that waits for the boundary is taken there, the control stream going on at that boundary on resume (12 R270;
17 R361; 23 R457, R459). -/
def State.takeAfter (s : State) : State :=
  match s.cx.after with
  | [] => s
  | r :: rest => { s with cx := { s.cx with after := rest, life := .trapped, trap := some { r with pc := s.cx.pc } } }

/-- RED_POISON_TRAP: the context traps at its boundary once the outcome is known (12 R270). -/
def execRedPoisonTrap (c : CtxRef) (s : State) : Host.Outcome State Fault Refusal :=
  .next (match s.focus c with
    | some s1 => if s1.cx.life == .running then s1.takeAfter else s
    | none => s)

/-! ## FENCE, WAITV, DCWB, DCINV (12 R271 to R273) -/

/-- FENCE: accesses are already in order, so nothing remains to do (12 R271; log entry 1). -/
def execFence (o : M) (s : State) : Host.Outcome State Fault Refusal :=
  s.run (.fence o) (s.cx.guard o.pg o.pn) fun s => .next s s.after

/-- The bytes of the lines under runs. -/
def State.lineBytes (s : State) (gs : List Seg) : List Byte := (segsLines gs).flatMap fun k => Memory.read s.mem k 128

/-- The core's own L1 holds a line (12 R250). -/
def State.inL1 (s : State) (c : Ctx) (k : Nat) : Bool :=
  s.lines.any fun d => d.line == lineOf k && d.l1s.contains (c.coord.cluster.toNat * 64 + c.coord.core.toNat)

/-- A read of a location as it is found: its bytes, and those of its lines. -/
def State.glance (s : State) (gs : List Seg) : Glance := ⟨readSegs s.mem gs, s.lineBytes gs⟩

/-- The watched location is to be read again: a write has taken its line from the core's L1 or changed it since, or no L1 can hold it and 1,024
cycles have passed (12 R272). -/
def State.rereads (s : State) (c : Ctx) (w : Watch) : Bool :=
  if w.away then decide (w.last + 1024 ≤ c.now) else s.lineBytes w.segs != w.seen || !(segsLines w.segs).all (s.inL1 c)

/-- The start of a cycle finds which locations are to be read again in it, and what that read finds: a write of the cycle itself is for the next
one (12 R272). -/
def State.lookAgain (s : State) (c : Ctx) : Ctx :=
  { c with watch := c.watch.map fun w => { w with again := if s.rereads c w then some (s.glance w.segs) else none } }

/-- What a WAITV that has read its location watches from then on. -/
def State.watched (s : State) (gs : List Seg) (g : Glance) : Watch :=
  { pc := s.cx.pc, segs := gs, away := !s.cacheable (firstKey gs), seen := g.lines, again := none, last := s.cx.now }

/-- A WAITV's read of its runs: an acquire, until the value equals s[sd]. -/
def State.waitvRead (s : State) (o : M) (gs : List Seg) (g : Glance) : Done :=
  if segsPoisoned s.poison gs then s.stopFail ⟨0x25, BitVec.ofInt 64 (s.ea o), .load, false⟩
  else
    let s1 := s.noteRead s.ownSharer (firstKey gs)
    if leNat g.bytes == (s.cx.sreg o.sd).toNat % 2 ^ (8 * sizeBytes o.size) then .next s1 s1.after
    else .wait { s1 with cx := { s1.cx with watch := some (s1.watched gs g), outside := .none } }

/-- A location of another package is read again by a remote load, where its node can be reached and its port takes the request (12 R251, R272). -/
def State.rereadAway (s : State) (o : M) (w : Watch) (g : Glance) : Done :=
  if w.segs.any fun x => s.remote x.1 && !s.reachable (keyNode x.1) then s.stopFail ⟨0x58, BitVec.ofInt 64 (s.ea o), .load, false⟩
  else if s.linkRoom w.segs then (s.askLoads w.segs).waitvRead o w.segs g
  else .wait s

/-- WAITV: the first read translates and may fault; from then on the location is read again only as 12 R272 says. -/
def waitvBody (o : M) (s : State) : Done :=
  match s.cx.watch.filter (·.pc == s.cx.pc) with
  | some w =>
    match w.again with
    | some g => s.rereadAway o w g
    | none => .wait s
  | none =>
    match s.scalar (s.ea o) (sizeBytes o.size) .load with
    | .fail f => s.stopFail f
    | .ok s1 gs => if segsPoisoned s1.poison gs then s.stopFail ⟨0x25, BitVec.ofInt 64 (s.ea o), .load, false⟩ else s1.waitvRead o gs (s1.glance gs)

/-- WAITV. -/
def execWaitv (o : M) (s : State) : Host.Outcome State Fault Refusal :=
  s.run (.waitv o) (s.cx.guard o.pg o.pn) (waitvBody o)

/-- WAITV_REREAD: a context that waits in a WAITV reads once more (12 R272). -/
def execWaitvReread (c : CtxRef) (s : State) : Host.Outcome State Fault Refusal :=
  .next (match s.focus c with
    | none => s
    | some s1 =>
      if s1.cx.life != .running then s
      else match s1.fetch with
        | .error _ => s
        | .ok (s2, w) =>
          match decode w with
          | some (.waitv o) => s2.turn (.waitv o) (s2.cx.guard o.pg o.pn) (waitvBody o)
          | _ => s)

/-- The line of a cache operation is reached: its checks, then a change of the directory. -/
def lineForm (i : Instr) (o : M) (k : Access) (f : State → Nat → State) (s : State) : Host.Outcome State Fault Refusal :=
  s.run i (s.cx.guard o.pg o.pn) fun s =>
    match s.scalar (s.ea o) 1 k with
    | .fail f => s.stopFail f
    | .ok s1 gs => .next (if isScratch (firstKey gs) then s1 else f s1 (firstKey gs)) s.after

/-- The operation's scope reaches the copy that memory or host memory lacks: from `.die` on for a device line, from `.sys` on for a host line
(12 R273). -/
def reachesL2 (scope : BitVec 3) (k : Nat) : Bool := if isHost k then 5 ≤ scope.toNat else 3 ≤ scope.toNat

/-- The core's own L1 holds the line's dirty data. -/
def State.dirtyHere (s : State) (d : LineDir) : Bool :=
  d.l1s.contains (s.cacheOf s.ownSharer) && d.owner == s.ownSharer && (d.state == .m || d.state == .o)

/-- A line's entry after the core's L1 has written its dirty data to L2, and L2 its own where the scope reaches it; the copies stay (12 R273). -/
def State.cleaned (s : State) (scope : BitVec 3) (k : Nat) (d : LineDir) : LineDir :=
  let d1 := if s.dirtyHere d then { d with state := if d.state == .m then .e else .s, inL2 := true } else d
  if reachesL2 scope k then { d1 with inL2 := false } else d1

/-- A line's entry after its copy has left the core's own L1; the cluster is no sharer once none of its L1s holds the line. -/
def State.dropped (s : State) (d : LineDir) : LineDir :=
  let l1s := d.l1s.filter (· != s.cacheOf s.ownSharer)
  { d with l1s := l1s, sharers := if l1s.any (fun c => c / 64 == s.ownSharer) then d.sharers else d.sharers &&& ~~~(1#26 <<< s.ownSharer) }

/-- DCWB's change of the directory: dirty data reaches the level that the scope names, and the line stays (12 R273). -/
def State.writeBack (s : State) (scope : BitVec 3) (k : Nat) : State :=
  { s with lines := s.lines.map fun d => if d.line == lineOf k then s.cleaned scope k d else d }

/-- DCINV's: the dirty data is written back, then the line leaves the core's L1, and L2 where the scope reaches it (12 R273). -/
def State.invalidate (s : State) (scope : BitVec 3) (k : Nat) : State :=
  { s with lines := (s.lines.map fun d => if d.line == lineOf k then s.dropped (s.cleaned scope k d) else d).filter fun d =>
      d.sharers != 0 || d.inL2 }

/-- DCWB (12 R273). -/
def execDcwb (o : M) (s : State) := lineForm (.dcwb o) o .load (fun s k => s.writeBack o.scope k) s
/-- DCINV (12 R273). -/
def execDcinv (o : M) (s : State) := lineForm (.dcinv o) o .store (fun s k => s.invalidate o.scope k) s

end Sys2Proof.Machine
end

