-- ==== Sys2Proof/Machine/Pages.lean ====
section
/-! DEFINITION. XLAT, MIGR, HALLOC, HFREE and TLBINV, page-fault answers and page migration: chapter 13. -/

namespace Sys2Proof.Machine

/-! ## XLAT (13 R293) -/

/-- The SIZE code of a page. -/
def sizeCode (size : Nat) : Nat := if size == 0x10000 then 0 else if size == 2 ^ 21 then 1 else 2

/-- The cause that an access of a kind would take at a leaf; none is the kind `.any`. -/
def State.probeCause (s : State) (l : Leaf) (va : Nat) (k : Option Access) : BitVec 7 :=
  let base : Option (BitVec 7) := match k with
    | some k => leafCause l.entry k
    | none => if field l.entry 60 3 == (5 : BitVec 3) then some 0x25 else none
  match base with
  | some c => c
  | none => if !isHost (s.leafKey l va) && !s.reachable (keyNode (s.leafKey l va)) then 0x58 else 0

/-- The result for a leaf (13 R293); FRAME and NODE read zero in an unprivileged context. -/
def State.probeLeaf (s : State) (l : Leaf) (va : Nat) (k : Option Access) : Word :=
  let key := s.leafKey l va
  let frame := if s.cx.priv then at' (key % 2 ^ 52 / 65536) 16 ||| at' (if isHost key then 0 else keyNode key) 7 else 0
  bitAt true 63 ||| place (field l.entry 60 3) 60 ||| at' (sizeCode l.size) 58 ||| place (field l.entry 55 3) 55 |||
    bitAt (bit l.entry 58) 54 ||| frame ||| place (s.probeCause l va k) 0

/-- XLAT's result for an address (13 R293). In windows 0x8 to 0xB the fields that the rule does not name, SIZE, RWX, NC and FRAME, read zero
(log entry 45). -/
def State.probe (s : State) (a : Int) (k : Option Access) : Word :=
  match s.placeOf a 1 false with
  | .bad c0 =>
    let c : BitVec 7 := if k.isNone && c0 == 0x21 then 0 else c0
    if 8 ≤ a / 2 ^ 60 && a / 2 ^ 60 ≤ 0xB then
      bitAt true 63 ||| at' 7 60 ||| (if s.cx.priv then at' s.node 7 else 0) ||| place c 0
    else place c 0
  | .scratch _ => bitAt true 63 ||| at' 7 60 ||| (if s.cx.priv then at' s.node 7 else 0)
  | .virt =>
    match s.tlbHit 0 s.cx.asid a.toNat with
    | some l => s.probeLeaf l a.toNat k
    | none =>
      match s.walkTable s.cx.root a.toNat with
      | .leaf l => s.probeLeaf l a.toNat k
      | .absent | .malformed => place (0x20 : BitVec 7) 0

/-- The access kind that XLAT's size field names; none for `.any`. -/
def probeKind (z : BitVec 2) : Option Access :=
  if z == 0 then some .load else if z == 1 then some .store else if z == 2 then some .fetch else none

/-- XLAT (13 R293). -/
def execXlat (o : M) (s : State) : Host.Outcome State Fault Refusal :=
  s.run (.xlat o) (s.cx.guard o.pg o.pn) fun s => s.set (s.cx.setSreg o.sd (s.probe (s.ea o) (probeKind o.size)))

/-! ## Migration (13 R281, R282, R294) -/

/-- A page of HBM4E or LPDDR that software pinned (13 R282). -/
def State.pinnedPage (s : State) (e : Word) : Bool :=
  (field e 60 3).toNat ≤ 1 && s.pinned.contains (field e 16 36).toNat

/-- A page that a request names is moved unless it is poisoned or pinned, unless the migration under way has this destination, and unless
the request is queued already (13 R282, R294). -/
def State.requestMigration (s : State) (l : Leaf) (tier : Nat) : State :=
  if field l.entry 60 3 == (5 : BitVec 3) || s.pinnedPage l.entry || s.moving.any (fun m => m.pte == l.pte && m.tier == tier) ||
      s.migrations.contains (l.pte, tier) then s
  else { s with migrations := s.migrations ++ [(l.pte, tier)] }

/-- The pages that overlap a range of window 0x0 are requested, unmapped ones skipped. -/
def State.requestRange (s : State) (tier : Nat) (va len : Nat) : Nat → State
  | 0 => s
  | fuel + 1 =>
    if len == 0 then s
    else
      let step := min len (65536 - va % 65536)
      let s1 := match s.walkTable s.cx.root va with
        | .leaf l => s.requestMigration l tier
        | .absent | .malformed => s
      s1.requestRange tier (va + step) (len - step) fuel

/-- MIGR (13 R294): its checks, then the request is queued. -/
def execMigr (o : M) (s : State) : Host.Outcome State Fault Refusal :=
  s.run (.migr o) (s.cx.guard o.pg o.pn) fun s =>
    let len := min (s.cx.sreg o.sd).toNat (2 ^ 30)
    let a := s.ea o
    if len == 0 then .next s s.after
    else match s.placeOf a len false with
      | .bad c => if c == 0x21 then .next s s.after else s.stopFail ⟨c, BitVec.ofInt 64 a, .load, false⟩
      | .scratch _ => .next s s.after
      | .virt => .next (s.requestRange (if o.size == 1 then 1 else 0) a.toNat len (len / 65536 + 2)) s.after

/-- Cells copied from one run to another of n bytes (13 R281). -/
def copyCells (m : List Host.Cell) (src dst n : Nat) : List Host.Cell :=
  let within (k base : Nat) : Bool := decide (base ≤ k) && decide (k < base + n)
  ((m.filter fun c => within c.1 src).foldl (fun a c => Memory.set a (c.1 - src + dst) c.2) (m.filter fun c => !within c.1 dst))

/-- The poison of a run carried to another. -/
def copyPoison (p : List Nat) (src dst n : Nat) : List Nat :=
  let within (l base : Nat) : Bool := decide (base ≤ l * 128) && decide (l * 128 < base + n)
  (p.filter fun l => !within l dst) ++ (p.filter fun l => within l src).map fun l => (l * 128 - src + dst) / 128

/-- A run copied to another by the copy engines, poison included; every copy of the destination's lines is recalled (12 R250). -/
def State.copyRange (s : State) (src dst n : Nat) : State :=
  { s with mem := copyCells s.mem src dst n, poison := copyPoison s.poison src dst n
           lines := s.lines.filter fun d => !(decide (dst ≤ d.line * 128) && decide (d.line * 128 < dst + n)) }

/-- Translations of a leaf entry leave every cache. -/
def State.dropPte (s : State) (pte : Nat) : State := { s with tlbs := s.tlbs.filter fun e => e.pte != pte }

/-- The state of a context whose page-fault lines are all answered: trapped where a trap waits, else running, or inactive
where another context of the core runs (13 R288, R289; 06 R120). -/
def State.ready (s : State) (c : Ctx) : Ctx :=
  if !c.faultRec.isEmpty || c.life != .faulted then c
  else if c.trap.isSome then { c with life := .trapped }
  else if s.ctxs.any (fun x => x.sameCore c && x.life == .running) then { c with life := .inactive }
  else { c with life := .running }

/-- The lines of a context's fault record on a page are answered. -/
def State.answerCtx (s : State) (pte : Nat) (c : Ctx) : Ctx :=
  let answered (l : FaultLine) : Bool := match s.walkTable c.root l.vaddr.toNat with
    | .leaf x => x.pte == pte
    | .absent | .malformed => false
  if c.faultRec.any answered then s.ready { c with faultRec := c.faultRec.filter fun l => !answered l } else c

/-- Lines of fault records on a page are answered, context by context (13 R281 step 5, R289). -/
def State.answerPage (s : State) (pte : Nat) : State :=
  (s.ctxs.map Ctx.ref).foldl (fun s r => s.modCtx r (s.answerCtx pte)) s

/-- The place of a byte after its page has moved. -/
def Moving.follow (m : Moving) (new k : Nat) : Nat := if m.old ≤ k && k < m.old + m.size then k - m.old + new else k

/-- What names a byte of a page by its place in memory names it in the new frame: barrier units and registrations (18 R366, R370), and the
locations that WAITV watches. -/
def State.followPage (s : State) (m : Moving) (new : Nat) : State :=
  let place := m.follow new
  let watch (w : Watch) : Watch := { w with segs := w.segs.map fun g => (place g.1, g.2) }
  ({ s with units := s.units.map (fun u => { u with key := place u.key }), meetings := s.meetings.map (fun u => { u with key := place u.key }),
            dir := s.dir.map (fun d => { d with regs := d.regs.map fun r => (r.1, place r.2) })
            guests := s.guests.map fun g => { g with regs := g.regs.map fun r => (r.1, place r.2) } } : State).mapCtxs fun c =>
    { c with watch := c.watch.map watch }

/-- A write to a frame that its page translated to is outstanding: block updates of REDST, and stores and atomics of other packages that have
arrived (13 R281 step 2). -/
def State.writesTo (s : State) (base size : Nat) : Bool :=
  let within (k n : Nat) : Bool := decide (base < k + n) && decide (k < base + size)
  (s.blocks.any fun b => b.keys.any (within · 1)) || s.flights.any fun f => match f.load with
    | .store pa bs => within (devKey s.node pa) bs.length
    | .atomic pa _ double _ _ => within (devKey s.node pa) (if double then 8 else 4)
    | .arrival _ _ | .load _ _ | .packet _ _ _ _ => false

/-- The key of the new frame: device memory, or host memory (13 R278). -/
def Moving.new (m : Moving) (node : Nat) : Nat := if m.tier == 2 then hostKey (m.frame * 65536) else devKey node (m.frame * 65536)

/-- Steps 3 to 5 of a migration (13 R281): the frame is copied, poison included, the new entry is installed at its home (12 R250), translations
leave, and the faults taken on the page are answered. -/
def State.endMigration (s : State) (m : Moving) : State :=
  let e := BitVec.ofNat 64 (leNat (Memory.read s.mem m.pte 8))
  let new := m.new s.node
  let e1 := putField (putField e 60 (BitVec.ofNat 3 m.tier)) 16 (BitVec.ofNat 36 m.frame)
  let s1 := (s.copyRange m.old new m.size).homeWrite [(m.pte, 8)] (wordBytes e1)
  let s2 := { s1 with migrations := s.migrations.erase (m.pte, m.tier), moving := s.moving.erase m }
  ((s2.followPage m new).dropPte m.pte).answerPage m.pte

/-- Step 1 of a migration (13 R281): the leaf is marked migrating and its translations leave; NODE reads zero meanwhile (log entry 50). -/
def State.beginMigration (s : State) (m : Moving) (e : Word) : State :=
  let e1 := putField (putField e 60 (4 : BitVec 3)) 7 (0 : BitVec 9)
  ({ s.homeWrite [(m.pte, 8)] (wordBytes e1) with moving := s.moving ++ [m] } : State).dropPte m.pte

/-- PAGE_MIGRATION (13 R281): the first time it begins a migration; while one of the page is under way, it ends that one once no write to the
old frame is outstanding, and a request for another tier waits (13 R282). m.leaf is the physical address of the leaf entry. A pinned page
does not move, no page moves to a retired frame (01 R22), and there is no tier beyond host memory (13 R278). -/
def execPageMigration (m : Migration) (s : State) : Host.Outcome State Fault Refusal :=
  let k := devKey s.node m.leaf
  let e := BitVec.ofNat 64 (leNat (Memory.read s.mem k 8))
  let res := (field e 60 3).toNat
  let size := if m.size == 0 then 0x10000 else if m.size == 1 then 2 ^ 21 else 2 ^ 30
  let retired := m.tier ≤ 1 && s.retiredFrames.any fun g => decide (m.frame ≤ g) && decide (g < m.frame + size / 65536)
  .next (
    match s.moving.find? (·.pte == k) with
    | some x =>
      if x.tier != m.tier then { s with migrations := if s.migrations.contains (k, m.tier) then s.migrations else s.migrations ++ [(k, m.tier)] }
      else if s.writesTo x.old x.size then s
      else s.endMigration x
    | none =>
      if !bit e 63 || !bit e 59 || s.leafMalformed e size || m.frame * 65536 % size != 0 || retired || 3 ≤ m.tier || 4 ≤ res || s.pinnedPage e then s
      else s.beginMigration ⟨k, s.leafKey ⟨k, size, e⟩ 0, size, m.frame, m.tier⟩ e)

/-! ## Page-fault answers (13 R287 to R289) -/

/-- Page-table entries written by the management core, at physical addresses and at their homes (12 R250); the faulted access translates afresh, so their translations leave
(13 R281 step 4, R289). -/
def State.writeEntries (s : State) (es : List (Nat × Word)) : State :=
  es.foldl (fun s e => (s.homeWrite [(devKey s.node e.1, 8)] (wordBytes e.2)).dropPte (devKey s.node e.1)) s

/-- The oldest line of a context's fault record is answered; a line without a mapping becomes a trap with cause 0x20. -/
def State.answerLine (s : State) (c : Ctx) (ok : Bool) : Ctx :=
  match c.faultRec with
  | [] => c
  | l :: rest =>
    let t : Trap := { cause := l.cause, queue := l.queue, iaddr := l.iaddr, va := l.vaddr }
    s.ready { c with faultRec := rest, trap := if ok || c.trap.isSome then c.trap else some (t.record c.pc) }

/-- The granules without a mapping that still have none. -/
def State.stillUnmapped (s : State) : State :=
  { s with unmapped := s.unmapped.filter fun x => x.1.root.any fun r => match s.walkTable r (x.2 * 65536) with
    | .leaf _ => false
    | .absent | .malformed => true }

/-- PAGE_FAULT_ANSWER (13 R287, R288). A mapping is installed too where no context waits for it but a device agent does: its operation goes on by
itself. An agent's address without a mapping is noted, and the operation then settles as its rule says of a fault (16 R508; 19 R510; 23 R463). -/
def execPageFaultAnswer (c : CtxRef) (a : FaultAnswer) (s : State) : Host.Outcome State Fault Refusal :=
  .next (match a with
    | .mapped es => let s1 := (s.writeEntries es).stillUnmapped; s1.modCtx c fun x => s1.answerLine x true
    | .unanswerable => s.modCtx c fun x => s.answerLine x false
    | .agentUnanswerable asid root a => { s with unmapped := (⟨asid, some root⟩, a.toNat / 65536) :: s.unmapped })

/-! ## The heap allocator (13 R290, R291, R295, R296) -/

/-- The bytes of a block of a class. -/
def blockSize (cls : Nat) : Nat := 64 * 2 ^ cls

/-- The smallest class whose blocks hold n bytes, n ≤ 2^21. -/
def classOf (n : Nat) : Nat := (List.range 16).findIdx fun c => decide (n ≤ blockSize c)

/-- The offset of a heap's first chunk: chunks lie at multiples of 2 MiB, so that every block is aligned to its size (13 R290). -/
def firstChunk (base : Nat) : Nat := (2 ^ 21 - base % 2 ^ 21) % 2 ^ 21

/-- The heap of the current context's address space; HEAPBASE 0 binds none (21 R409). -/
def State.heap (s : State) : Option Heap :=
  if s.cx.heapBase == 0 then none
  else some ((s.heaps.find? fun h => h.space == s.cx.space).getD
    { space := s.cx.space, base := s.cx.heapBase, size := s.cx.heapSize, carved := firstChunk s.cx.heapBase, chunks := [], free := [] })

/-- The heap's state is kept. -/
def State.putHeap (s : State) (h : Heap) : State := { s with heaps := h :: s.heaps.filter fun x => x.space != h.space }

/-- A block handed out: marked in its chunk. -/
def Heap.use (h : Heap) (a : Nat) (fresh : Nat) : Heap :=
  { h with chunks := h.chunks.map fun c =>
      if c.offset ≤ a && a < c.offset + 2 ^ 21 then { c with used := a :: c.used, fresh := c.fresh + fresh } else c }

/-- A poisoned line lies in a chunk of the heap's pages. -/
def State.chunkPoisoned (s : State) (h : Heap) (off : Nat) : Bool :=
  match s.agentAccess h.space (BitVec.ofNat 64 (h.base + off)) (2 ^ 21) .store with
  | .ok _ gs => segsPoisoned s.poison gs
  | .fail f => f.cause == 0x25

/-- The next chunk is carved for a class; chunks that meet poison, or for which the allocator's own check fails as injected, are set aside and logged
(13 R291; 26 R480). -/
def State.carve (s : State) (h : Heap) (cls : Nat) : Nat → State × Option Heap
  | 0 => (s, none)
  | fuel + 1 =>
    if h.size < h.carved + 2 ^ 21 then (s.putHeap h, none)
    else if s.injected 1830 || s.chunkPoisoned h h.carved then
      ((s.clearInj 1830).machineCheck 1830 { sev := 2, cls := 0x79, synd := 0, addr := none, info := none }).carve
        { h with carved := h.carved + 2 ^ 21 } cls fuel
    else (s, some { h with carved := h.carved + 2 ^ 21, chunks := h.chunks ++ [⟨h.carved, cls, 0, []⟩] })

/-- A block of a class, from the released ones, a chunk with blocks never handed out, or a new chunk; none when the heap is
exhausted. -/
def State.alloc (s : State) (h : Heap) (cls : Nat) : State × Option Nat :=
  match h.free.find? (·.1 == cls) with
  | some (c, a) => (s.putHeap ({ h with free := h.free.erase (c, a) }.use a 0), some (h.base + a))
  | none =>
    let fresh (h : Heap) : Option Nat :=
      (h.chunks.find? fun c => c.cls == cls && decide ((c.fresh + 1) * blockSize cls ≤ 2 ^ 21)).map fun c =>
        c.offset + c.fresh * blockSize cls
    match fresh h with
    | some a => (s.putHeap (h.use a 1), some (h.base + a))
    | none =>
      match s.carve h cls (h.size / 2 ^ 21 + 1) with
      | (s1, none) => (s1, none)
      | (s1, some h1) =>
        match fresh h1 with
        | some a => (s1.putHeap (h1.use a 1), some (h.base + a))
        | none => (s1, none)

/-- HALLOC (13 R295). -/
def execHalloc (o : M) (s : State) : Host.Outcome State Fault Refusal :=
  s.run (.halloc o) (s.cx.guard o.pg o.pn) fun s =>
    let n := (s.cx.sreg o.sa).toNat
    let answer (s : State) (a st : Nat) : Done :=
      s.set ((s.cx.setSreg o.sd (BitVec.ofNat 64 a)).setSreg (o.sd + 1) (BitVec.ofNat 64 st))
    match s.heap with
    | none => answer s 0 4
    | some h =>
      if n == 0 then answer s 0 2
      else if 2 ^ 21 < n then answer s 0 3
      else match s.alloc h (classOf n) with
        | (s1, some a) => answer s1 a 0
        | (s1, none) => answer s1 0 1

/-- HFREE (13 R296). -/
def execHfree (o : M) (s : State) : Host.Outcome State Fault Refusal :=
  s.run (.hfree o) (s.cx.guard o.pg o.pn) fun s =>
    let a := (s.cx.sreg o.sa).toNat
    let answer (s : State) (st : Nat) : Done := s.set (s.cx.setSreg o.sd (BitVec.ofNat 64 st))
    if a == 0 then answer s 0
    else match s.heap with
      | none => answer s 2
      | some h =>
        if a < h.base || h.base + h.size ≤ a then answer s 2
        else match h.chunks.find? (fun c => c.used.contains (a - h.base)) with
          | none => answer s 1
          | some c =>
            let off := a - h.base
            let h1 := { h with free := (c.cls, off) :: h.free,
                               chunks := h.chunks.map fun x => if x == c then { x with used := x.used.erase off } else x }
            answer (s.putHeap h1) 0

/-! ## TLBINV (13 R297) -/

/-- An entry that a control word and an address name. -/
def tlbMatches (w a : Word) (e : TlbEntry) : Bool :=
  if field w 0 3 == (0 : BitVec 3) then
    e.asid == field w 48 16 && decide (e.vbase ≤ a.toNat) && decide (a.toNat < e.vbase + e.size)
  else if field w 0 3 == (1 : BitVec 3) then e.asid == field w 48 16
  else true

/-- A cache that the scope of a control word reaches: a core's own four, or from `.die` on those of the copy engines too (numbers 4 and up). -/
def State.tlbInScope (s : State) (w : Word) (e : TlbEntry) : Bool :=
  match (field w 3 3).toNat with
  | 0 => e.cache < 4 && e.cluster == s.cx.coord.cluster.toNat && e.core == s.cx.coord.core.toNat
  | 1 | 2 => e.cache < 4 && e.cluster == s.cx.coord.cluster.toNat
  | _ => true

/-- Accesses translated before are outstanding in a scope: the block updates of REDST, which copy engines translate (13 R297). -/
def State.translatedWaits (s : State) (w : Word) : Bool := 3 ≤ (field w 3 3).toNat && !s.blocks.isEmpty

/-- A context that a scope holds. -/
def State.ctxInScope (s : State) (w : Word) (c : Ctx) : Bool :=
  match (field w 3 3).toNat with
  | 0 => c.sameCore s.cx
  | 1 | 2 => c.coord.cluster == s.cx.coord.cluster
  | _ => true

/-- TLBINV (13 R297). A WAITV of the scope translates its location anew at its next read. -/
def execTlbinv (o : SR) (s : State) : Host.Outcome State Fault Refusal :=
  s.run (.tlbinv o) (s.cx.guard o.pg o.pn) fun s =>
    let w := s.cx.sreg o.sb
    if field w 6 42 != 0 || 3 ≤ (field w 0 3).toNat then s.stopTrap 0x02
    else if s.translatedWaits w then .wait s
    else
      let s1 := { s with tlbs := s.tlbs.filter fun e => !(s.tlbInScope w e && tlbMatches w (s.cx.sreg o.sa) e) }
      let s2 := s1.mapCtxs fun c => if s.ctxInScope w c then { c with watch := none } else c
      .next s2 s2.after

end Sys2Proof.Machine
end

