-- ==== Sys2Proof/Machine/Names.lean ====
section
/-! DEFINITION. Cohort names and the cohort directory: 17 R343 to R346. -/

namespace Sys2Proof.Machine

/-- HOME of a name. -/
def nameHome (n : BitVec 32) : Nat := (field n 23 9).toNat

/-- SLOT of a name. -/
def nameSlot (n : BitVec 32) : Nat := (field n 8 15).toNat

/-- The value names a cohort (17 R343). -/
def namesCohort (n : BitVec 32) : Bool := nameHome n < 320 && nameSlot n != 0

/-- A name of its three fields. -/
def mkName (home slot : Nat) (gen : BitVec 8) : BitVec 32 := (BitVec.ofNat 9 home) ++ (BitVec.ofNat 15 slot) ++ gen

/-- The directory entry of a slot; a slot never allocated has none. -/
def State.dirSlot (s : State) (slot : Nat) : Option DirEntry := s.dir.find? fun d => nameSlot d.name == slot

/-- What a name is at its home (17 R343, R346). -/
inductive Named where
  | current (d : DirEntry)
  | retired (d : Option DirEntry)
  | stale
  | invalid
deriving DecidableEq, Repr

/-- What a name whose home is this node is. -/
def State.lookup (s : State) (n : BitVec 32) : Named :=
  if !namesCohort n || !s.inPod (nameHome n) then .invalid
  else
    match s.dirSlot (nameSlot n) with
    | none => if field n 0 8 == (0 : BitVec 8) then .retired none else .stale
    | some d =>
      if field d.name 0 8 != field n 0 8 then .stale
      else match d.state with
        | .free | .exited => .retired (some d)
        | _ => .current d

/-- The registrations at barriers that a home keeps beside a name, or that came with a cohort of another home (18 R370). -/
def State.regsOf (s : State) (n : BitVec 32) : List (Nat × Nat) :=
  match s.dir.find? (·.name == n) with
  | some d => d.regs
  | none => ((s.guests.find? (·.name == n)).map Guest.regs).getD []

/-- A directory entry is replaced. -/
def State.putDir (s : State) (d : DirEntry) : State :=
  { s with dir := d :: s.dir.filter fun x => nameSlot x.name != nameSlot d.name }

/-- The directory entry of a name that is not stale is changed. -/
def State.modDir (s : State) (n : BitVec 32) (f : DirEntry → DirEntry) : State :=
  { s with dir := s.dir.map fun d => if d.name == n then f d else d }

/-- The registrations of a cohort are changed. -/
def State.modRegs (s : State) (n : BitVec 32) (f : List (Nat × Nat) → List (Nat × Nat)) : State :=
  { s.modDir n fun d => { d with regs := f d.regs } with
      guests := s.guests.map fun g => if g.name == n then { g with regs := f g.regs } else g }

/-- The directory entry whose current name this is. -/
def State.dirOf (s : State) (n : BitVec 32) : Option DirEntry := s.dir.find? (·.name == n)

/-- The slot is in use. -/
def State.slotUsed (s : State) (slot : Nat) : Bool :=
  match s.dirSlot slot with
  | none => false
  | some d => d.state != .free

/-- The next free slot after one, in increasing order with wrap (17 R344). -/
def State.nextSlot (s : State) (slot : Nat) : Nat → Option Nat
  | 0 => none
  | fuel + 1 =>
    let k := if slot == 32767 then 1 else slot + 1
    if s.slotUsed k then s.nextSlot k fuel else some k

/-- Free directory slots. -/
def State.freeSlots (s : State) : Nat := 32767 - (s.dir.filter fun d => d.state != .free).length

/-- A name is allocated: the next free slot, its generation incremented, and the entry pending (17 R344, R345). The deferred
list holds 64 entries (log entry 11). -/
def State.allocName (s : State) (stage : BitVec 4) (nmem number : Nat) (launch : Word) : State × Option (BitVec 32) :=
  match s.nextSlot s.lastSlot (s.dir.length + 1) with
  | none => (s, none)
  | some slot =>
    let gen : BitVec 8 := match s.dirSlot slot with
      | none => 1
      | some d => field d.name 0 8 + 1
    let n := mkName s.node slot gen
    ({ s.putDir { name := n, state := .pending, stage := stage, nmem := nmem, draining := false, live := BitVec.ofNat 64 (2 ^ nmem - 1),
                  launch := launch, node := 0, cluster := 0, defcap := 64, defhead := 0, defring := Config.deferRing slot, deferred := [], regs := [], number := number } with
        lastSlot := slot }, some n)

/-- A name is retired: its slot returns to free and keeps its generation (17 R346). -/
def State.retireName (s : State) (n : BitVec 32) : State :=
  s.modDir n fun d => { d with state := .free, stage := 0, live := 0, draining := false, deferred := [], regs := [], nmem := 0 }

/-- Member m has not exited. -/
def DirEntry.lives (d : DirEntry) (m : Nat) : Bool := bit d.live m

end Sys2Proof.Machine
end

