-- ==== Sys2Proof/Machine/Barriers.lean ====
section
/-! DEFINITION. Barriers: blocks, units, phases, registration and the seven instructions of chapter 18. -/

namespace Sys2Proof.Machine

/-! ## Blocks (18 R365, R367) -/

/-- A block's 64 bytes. -/
def Barrier.bytes (b : Barrier) : List Byte :=
  leBytes 4 b.exp ++ leBytes 4 b.arr ++ leBytes 4 b.base ++ leBytes 4 b.phase ++
    [b.scope.setWidth 8, BitVec.ofNat 8 (b.init.toNat + 2 * b.wantsUnit.toNat + 4 * b.bound.toNat + 8 * b.dissolved.toNat), 0, 0] ++
    leBytes 4 b.owner.toNat ++ leBytes 4 b.regcount ++ List.replicate 36 0

/-- The block that 64 bytes hold. -/
def Barrier.ofBytes (bs : List Byte) : Barrier :=
  let fl := bs.getD 17 0
  { exp := recNat bs 0 4, arr := recNat bs 4 4, base := recNat bs 8 4, phase := recNat bs 12 4, scope := (bs.getD 16 0).setWidth 3,
    init := bit fl 0, wantsUnit := bit fl 1, bound := bit fl 2, dissolved := bit fl 3, owner := BitVec.ofNat 32 (recNat bs 20 4),
    regcount := recNat bs 24 4 }

/-- The 64 bytes of an initialised block obey 18 R365 and R368: every drop of the current phase arrived in it, so EXP is at most BASE and
ARR together. -/
def blockOk (bs : List Byte) : Bool :=
  let b := Barrier.ofBytes bs
  let small (x : Nat) : Bool := decide (x ≤ 1048575)
  small b.exp && small b.arr && small b.base && small b.regcount && recZero bs 18 2 && recZero bs 28 36 &&
    field (bs.getD 16 0) 3 5 == (0 : BitVec 5) && field (bs.getD 17 0) 4 4 == (0 : BitVec 4) &&
    (b.wantsUnit || b.owner == 0) && (b.dissolved || (1 ≤ b.base && b.arr < b.exp && decide (b.exp ≤ b.base + b.arr)))

/-! ## Phases (18 R368, R369) -/

/-- One arrival: the barrier after it and the phase arrived in. -/
def Barrier.arrive (b : Barrier) : Barrier × Nat :=
  let n := b.arr + 1
  (if n == b.exp then { b with phase := (b.phase + 1) % 2 ^ 32, arr := 0, exp := b.base } else { b with arr := n }, b.phase)

/-- Carried arrivals complete further phases. -/
def Barrier.carry (b : Barrier) : Nat → Barrier
  | 0 => b
  | fuel + 1 =>
    if b.exp ≤ b.arr && b.exp != 0 then
      ({ b with phase := (b.phase + 1) % 2 ^ 32, arr := b.arr - b.exp, exp := b.base } : Barrier).carry fuel
    else b

/-- The reduction of one drop, whose party arrived in phase p. -/
def Barrier.reduce (b : Barrier) (p : Nat) : Barrier := { b with base := b.base - 1, exp := if p != b.phase then b.exp - 1 else b.exp }

/-- The drops of a cycle, after its arrivals: the reductions, and then the end of the barrier or the phases that carried arrivals
complete. -/
def Barrier.settle (b : Barrier) (drops : List Nat) : Barrier :=
  if drops.isEmpty then b
  else
    let b1 := drops.foldl Barrier.reduce b
    if b1.base == 0 then { b1 with dissolved := true } else b1.carry (b1.arr + 1)

/-- Phase p has completed. -/
def Barrier.completed (b : Barrier) (p : Nat) : Bool :=
  let d := (b.phase + 2 ^ 32 - p % 2 ^ 32) % 2 ^ 32
  1 ≤ d && d < 2 ^ 31

/-! ## Where a barrier is served (18 R366) -/

/-- The unit that holds the barrier of a block. -/
def State.unitOf (s : State) (k : Nat) : Option BarrierUnit := s.units.find? (·.key == k)

/-- A unit is free in a cluster. -/
def State.unitFree (s : State) (cluster : Nat) : Bool := (s.units.filter (·.cluster == cluster)).length < 256

/-- The cluster whose units may serve a UNIT barrier: that of its owner's resident members; none for a quay core's barriers. -/
def State.unitCluster (s : State) (owner : BitVec 32) : Option Nat :=
  match s.ctxs.find? fun c => c.cohort == owner && c.resident with
  | none => none
  | some c => if c.isQuay then none else some c.coord.cluster.toNat

/-- The cluster with a free unit that a UNIT barrier without one binds to at its next operation. -/
def State.unitFor (s : State) (b : Barrier) : Option Nat :=
  match s.unitCluster b.owner with
  | none => none
  | some c => if b.wantsUnit && !b.dissolved && s.unitFree c then some c else none

/-- A block's bytes are written at their home (12 R250). -/
def State.putBlock (s : State) (k : Nat) (b : Barrier) : State := s.homeWrite [(k, b.bytes.length)] b.bytes

/-- A barrier is bound to a unit of a cluster. -/
def State.bindUnit (s : State) (c k : Nat) (b : Barrier) : State :=
  let b1 := { b with bound := true }
  { s.putBlock k b1 with units := ⟨c, k, b1⟩ :: s.units }

/-- The block is kept: in its unit while BOUND, else in memory, where a UNIT barrier first tries a free unit of its owner's cluster. A unit
whose barrier dissolves writes it back and is free. -/
def State.keepBarrier (s : State) (k : Nat) (b : Barrier) : State :=
  let rest := s.units.filter (·.key != k)
  let home : Barrier := { b with bound := false }
  match s.unitOf k with
  | some u =>
    if b.dissolved then { s.putBlock k home with units := rest }
    else { s with units := { u with block := b } :: rest }
  | none =>
    match s.unitFor b with
    | some c => s.bindUnit c k b
    | none => s.putBlock k home

/-- An operation that changes nothing still tries to bind a UNIT barrier. -/
def State.rebind (s : State) (k : Nat) (b : Barrier) : State :=
  match s.unitOf k, s.unitFor b with
  | none, some c => s.bindUnit c k b
  | _, _ => s

/-- Every unit that a cohort owns writes its barrier back and is free (18 R366). -/
def State.releaseUnits (s : State) (owner : BitVec 32) : State :=
  s.units.foldl (fun s u =>
    if u.block.owner == owner then
      { s.putBlock u.key { u.block with bound := false } with units := s.units.filter (·.key != u.key) }
    else s) s

/-! ## The checks of 18 R372 -/

/-- Steps 1 to 4 on a handle, then a body with the block's key; it answers none where step 5 fails, and the state is then as before (00 R8).
A block that a unit holds is not read in memory. -/
def State.withHandle (s : State) (a : Word) (body : State → Nat → Option Done) : Done :=
  if field a 0 6 != (0 : BitVec 6) then s.stopTrap 0x24 a
  else
    match s.access (some 0) a.toNat 64 .rmw true with
    | .fail f => s.stopFail f
    | .ok s1 gs =>
      let k := firstKey gs
      if isHost k then s.stopTrap 0x60
      else if (s1.unitOf k).isNone && segsPoisoned s1.poison gs then
        .stop ((s.poisonCheck k true).takeTrap { s.cuTrap 0x25 with va := a, mc := true, code := 0x73 })
      else (body s1 k).getD (s.stopTrap 0x60)

/-- The barrier of a key as it stands: its unit's, or what its block holds; none where the block holds no barrier, or breaks R365 or R368. -/
def State.barrierAt (s : State) (k : Nat) : Option Barrier :=
  match s.unitOf k with
  | some u => some u.block
  | none =>
    let bs := Memory.read s.mem k 64
    if (Barrier.ofBytes bs).init && blockOk bs then some (Barrier.ofBytes bs) else none

/-- The barrier as the cycle under way found it: a reader of that cycle sees no completion of it, and none arrives at a block that was
initialised in it (18 R378). -/
def State.foundAs (s : State) (k : Nat) (b : Barrier) : Barrier :=
  match s.meetings.find? (·.key == k) with
  | some m => m.found
  | none => b

/-- An operation of this cycle on a barrier that stood as b leaves it as b1, with drops to take at the cycle's end (18 R368). -/
def State.operate (s : State) (k : Nat) (b b1 : Barrier) (drops : List Nat) : State :=
  let before := (s.meetings.find? (·.key == k)).elim [] Meeting.drops
  let s1 : State := { s with meetings := ⟨k, s.foundAs k b, before ++ drops⟩ :: s.meetings.filter (·.key != k) }
  s1.keepBarrier k b1

/-- The drops that wait for the end of the cycle at a barrier. -/
def State.dropsAt (s : State) (k : Nat) : List Nat := (s.meetings.find? (·.key == k)).elim [] Meeting.drops

/-- The end of a cycle at every barrier that it reached: the drops are taken (18 R368, R378). -/
def State.settleBarriers (s : State) : State :=
  let s1 := s.meetings.foldl (fun s m =>
    match m.drops.isEmpty, s.barrierAt m.key with
    | false, some b => s.keepBarrier m.key (b.settle m.drops)
    | _, _ => s) s
  { s1 with meetings := [] }

/-- Step 5 for every instruction but BINIT and BTEST: the barrier as it stands, and as the cycle found it. -/
def State.withBarrier (s : State) (a : Word) (body : State → Nat → Barrier → Barrier → Option Done) : Done :=
  s.withHandle a fun s k =>
    match s.barrierAt k with
    | none => none
    | some b =>
      let v := s.foundAs k b
      if !v.init || (b.wantsUnit && b.owner != s.cx.cohort) then none else body s k b v

/-! ## Registration (18 R370) -/

/-- The current member is registered at a barrier. -/
def State.registered (s : State) (k : Nat) : Bool := (s.regsOf s.cx.cohort).contains (s.cx.coord.member.toNat, k)

/-- The cohort's registrations are at 64 barriers, none of them this one. -/
def State.tooMany (s : State) (k : Nat) : Bool := 64 ≤ (((s.regsOf s.cx.cohort).map Prod.snd).eraseDups.erase k).length

/-- The current member's registration at a barrier begins. -/
def State.register (s : State) (k : Nat) : State := s.modRegs s.cx.cohort (· ++ [(s.cx.coord.member.toNat, k)])

/-- A member's registration at a barrier ends. -/
def State.unregister (s : State) (n : BitVec 32) (m k : Nat) : State := s.modRegs n fun rs => rs.filter (· != (m, k))

/-- The implicit arrive-and-drop of a member at one barrier: the state, and whether it lowered nothing (18 R370). A block that breaks R365 or
R368, or that holds an uncorrectable error, which is logged, is left as it is (18 R367). -/
def State.implicitDrop (s : State) (n : BitVec 32) (m k : Nat) : State × Bool :=
  let s1 := s.unregister n m k
  if (s1.unitOf k).isNone && s1.poison.contains (k / 128) then (s1.poisonCheck k true, true)
  else
    match s1.barrierAt k with
    | none => (s1, true)
    | some b =>
      let b0 := { b with regcount := b.regcount - 1 }
      if b.dissolved then (s1.operate k b b0 [], true)
      else
        let (b1, p) := b0.arrive
        if b.base ≤ (s1.dropsAt k).length + 1 && b0.regcount != 0 then (s1.operate k b b1 [], true)
        else (s1.operate k b b1 [p], false)

/-- The implicit drops of a member at each barrier where it is registered, and how many lowered nothing (02 R37). -/
def State.implicitDrops (s : State) (n : BitVec 32) (m : Nat) : State × Nat :=
  ((s.regsOf n).filter (·.1 == m)).foldl (fun (a : State × Nat) r =>
    let (s1, z) := a.1.implicitDrop n m r.2
    (s1, a.2 + z.toNat)) (s, 0)

/-! ## The instructions (18 R373 to R377) -/

/-- The fields of a set-up word that must hold (18 R373). -/
def setupOk (w : Word) : Bool :=
  field w 32 32 == (0 : BitVec 32) && field w 27 4 == (0 : BitVec 4) && field w 20 4 == (0 : BitVec 4) &&
    field w 0 20 != (0 : BitVec 20) && (!bit w 31 || (field w 24 3).toNat ≤ 2)

/-- The block that BINIT writes. -/
def Barrier.setup (w : Word) (owner : BitVec 32) : Barrier :=
  let n := (field w 0 20).toNat
  { exp := n, arr := 0, base := n, phase := 0, scope := field w 24 3, init := true, wantsUnit := bit w 31, bound := false,
    dissolved := false, owner := if bit w 31 then owner else 0, regcount := 0 }

/-- What BINIT meets at a block, with the cycle's drops taken: nothing initialised, or a barrier. A broken block fails (18 R367). -/
inductive Found where
  | broken
  | none
  | barrier (b : Barrier)

/-- The block of a key, as BINIT meets it. -/
def State.foundFor (s : State) (k : Nat) : Found :=
  match s.barrierAt k with
  | some b => .barrier (b.settle (s.dropsAt k))
  | none => if (Barrier.ofBytes (Memory.read s.mem k 64)).init then .broken else .none

/-- The block holds a barrier in use: not dissolved, with arrivals or registrations; or one that breaks R365 or R368. -/
def State.inUse (s : State) (k : Nat) : Bool :=
  match s.foundFor k with
  | .broken => true
  | .none => false
  | .barrier b => !b.dissolved && (b.arr != 0 || b.regcount != 0)

/-- The block begins a barrier: what the cycle found there stays what its other operations meet where it held none, or a dissolved one
(18 R378). -/
def State.beginBarrier (s : State) (k : Nat) (b : Barrier) : State :=
  let old : Barrier := match s.barrierAt k with
    | some b => b
    | none => { b with init := false }
  let v := s.foundAs k old
  let s1 : State := { s with units := s.units.filter (·.key != k)
                             meetings := ⟨k, if v.init && !v.dissolved then b else v, []⟩ :: s.meetings.filter (·.key != k) }
  s1.keepBarrier k b

/-- BINIT (18 R373). -/
def execBinit (o : SR) (s : State) : Host.Outcome State Fault Refusal :=
  s.run (.binit o) (s.cx.guard o.pg o.pn) fun s =>
    s.withHandle (s.cx.sreg o.sa) fun s k =>
      let w := s.cx.sreg o.sb
      if !setupOk w || s.inUse k then none
      else
        let s1 := s.beginBarrier k (Barrier.setup w s.cx.cohort)
        some <| s1.set (s1.cx.setSreg o.sd (if (s1.unitOf k).isSome then 0 else 1))

/-- BREG (18 R374). -/
def execBreg (o : SR) (s : State) : Host.Outcome State Fault Refusal :=
  s.run (.breg o) (s.cx.guard o.pg o.pn) fun s =>
    s.withBarrier (s.cx.sreg o.sa) fun s k b v =>
      if v.dissolved || s.registered k || s.tooMany k then none
      else
        let s1 := (s.register k).operate k b { b with regcount := b.regcount + 1 } []
        some (.next s1 s1.after)

/-- BARV (18 R375). -/
def execBarv (o : SR) (s : State) : Host.Outcome State Fault Refusal :=
  s.run (.barv o) (s.cx.guard o.pg o.pn) fun s =>
    s.withBarrier (s.cx.sreg o.sa) fun s k b v =>
      if v.dissolved then none
      else
        let s1 := s.operate k b b.arrive.1 []
        some <| s1.set (s1.cx.setSreg o.sd (BitVec.ofNat 64 b.arrive.2))

/-- A wait of the control unit on a barrier (02 R46; 18 R376). -/
def State.barrierWait (s : State) : Done := s.waitFor .barrier

/-- BARW (18 R376). -/
def barwBody (o : SR) (s : State) : Done :=
  s.withBarrier (s.cx.sreg o.sa) fun s k b v =>
    if v.completed (field (s.cx.sreg o.sb) 0 32).toNat then some (.next (s.rebind k b) s.after)
    else if v.dissolved then none
    else some (s.rebind k b).barrierWait

/-- BARW. -/
def execBarw (o : SR) (s : State) : Host.Outcome State Fault Refusal :=
  s.run (.barw o) (s.cx.guard o.pg o.pn) (barwBody o)

/-- BARVW (18 R376). -/
def barvwBody (o : SR) (s : State) : Done :=
  s.withBarrier (s.cx.sreg o.sa) fun s k b v =>
    let w := s.cx.sreg o.sd
    if bit w 63 then
      if v.dissolved then none
      else
        let s1 := s.operate k b b.arrive.1 []
        some ({ s1 with cx := s1.cx.setSreg o.sd (BitVec.ofNat 64 b.arrive.2) } : State).barrierWait
    else if v.completed (field w 0 32).toNat then
      some ((s.rebind k b).set (s.cx.setSreg o.sd ((w &&& 0xFFFFFFFF) ||| bitAt true 63)))
    else if v.dissolved then none
    else some (s.rebind k b).barrierWait

/-- BARVW. -/
def execBarvw (o : SR) (s : State) : Host.Outcome State Fault Refusal :=
  s.run (.barvw o) (s.cx.guard o.pg o.pn) (barvwBody o)

/-- BDROP (18 R375). -/
def execBdrop (o : SR) (s : State) : Host.Outcome State Fault Refusal :=
  s.run (.bdrop o) (s.cx.guard o.pg o.pn) fun s =>
    s.withBarrier (s.cx.sreg o.sa) fun s k b v =>
      if v.dissolved then none
      else
        let b0 := if s.registered k then { b with regcount := b.regcount - 1 } else b
        let (b1, p) := b0.arrive
        let s1 := (s.unregister s.cx.cohort s.cx.coord.member.toNat k).operate k b b1 [p]
        some <| s1.set (s1.cx.setSreg o.sd (BitVec.ofNat 64 p))

/-- BTEST's result (18 R377). -/
def Barrier.report (b : Barrier) (p : Nat) : Word :=
  bitAt (b.completed p) 63 ||| at' (if b.dissolved then 2 else 1) 61 ||| at' b.arr 41 ||| at' b.exp 21 ||| at' (b.phase % 2 ^ 21) 0

/-- BTEST (18 R377). -/
def execBtest (o : SR) (s : State) : Host.Outcome State Fault Refusal :=
  s.run (.btest o) (s.cx.guard o.pg o.pn) fun s =>
    s.withHandle (s.cx.sreg o.sa) fun s k =>
      match s.foundFor k with
      | .broken => none
      | .none => some (s.set (s.cx.setSreg o.sd 0))
      | .barrier b0 =>
        let b := s.foundAs k b0
        if !b.init then some (s.set (s.cx.setSreg o.sd 0))
        else if b.wantsUnit && b.owner != s.cx.cohort then none
        else some (s.set (s.cx.setSreg o.sd (b.report (field (s.cx.sreg o.sb) 0 32).toNat)))

/-- BARRIER_WAIT_END: a context that waits in BARW or BARVW looks at its barrier again (18 R376). -/
def execBarrierWaitEnd (c : CtxRef) (s : State) : Host.Outcome State Fault Refusal :=
  .next (match s.focus c with
    | none => s
    | some s1 =>
      if s1.cx.life != .running then s
      else match s1.fetch with
        | .error _ => s
        | .ok (s2, w) =>
          match decode w with
          | some (.barw o) => s2.turn (.barw o) (s2.cx.guard o.pg o.pn) (barwBody o)
          | some (.barvw o) => s2.turn (.barvw o) (s2.cx.guard o.pg o.pn) (barvwBody o)
          | _ => s)

end Sys2Proof.Machine
end

