-- ==== Sys2Proof/Machine/Vector.lean ====
section
/-! DEFINITION. The results of the elementwise, conversion, compare, mask and move instructions of the vector engine
(08 R176 to R202), as data: which bits of which rows are written, with which tag, masks and flags. -/

namespace Sys2Proof.Machine

/-- Bits written to one row of a register. -/
structure RowOut where
  reg : BitVec 6
  row : Nat
  sel : Nat
  data : Nat
deriving DecidableEq, Repr

/-- Bits written to one row of a mask. -/
structure MaskOut where
  m : BitVec 3
  row : Nat
  sel : Nat
  data : Nat
deriving DecidableEq, Repr

/-- Everything a vector-engine instruction does to registers, masks, channels and flags. takes: the channel buffer whose
oldest entry it removes (true: vnext); send: the entry it appends to a neighbour's buffer (true: to the next member). -/
structure AqOut where
  rows : List RowOut
  tags : List (BitVec 6 × BitVec 4)
  masks : List MaskOut
  flags : Flags
  takes : Option Bool
  send : Option (Bool × VReg × BitVec 4)
deriving DecidableEq, Repr

/-- No effect. -/
def AqOut.none : AqOut := ⟨[], [], [], 0, .none, .none⟩

/-- What an instruction of the V family reads at issue: its context, its captured shape and values, the elements of its
tile operand in the instruction's format, and that operand's own format. -/
structure AqIn where
  c : Ctx
  o : V
  h : Shape
  opa : Word
  opb : Word
  key : Word
  tile : BitVec 4 → Nat → Nat → Nat
  tileFmt : BitVec 4

/-- The causes of a check that fails at issue: 0x10 or 0x11 (08 R180). -/
abbrev AqResult := Except (BitVec 7) AqOut

/-- Format tag mismatch. -/
def badTag : BitVec 7 := 0x10
/-- Invalid shape. -/
def badShape : BitVec 7 := 0x11

/-- Mask m0 reads as all ones (03 R56). -/
def mreg (c : Ctx) (i : BitVec 3) : Mask := if i == 0 then BitVec.allOnes 4096 else c.m[i.toNat]

/-- The tag of a vector register. -/
def vtag (c : Ctx) (r : BitVec 6) : BitVec 4 := c.tags[r.toNat]

/-- A vector register. -/
def vreg (c : Ctx) (r : BitVec 6) : VReg := c.v[r.toNat]

/-- An instruction whose shape has no extent writes the tags of its destinations and computes nothing (03 R58; 08 R179). -/
def AqOut.within (r : AqOut) (h : Shape) : AqOut := if h.isEmpty then { r with rows := [], masks := [], flags := 0 } else r

/-- The shape use rules of a register operand in format f (03 R58; 08 R176), then the instruction's own limits. -/
def needShape (h : Shape) (f : BitVec 4) (limits : Bool) (r : AqOut) : AqResult :=
  if h.regSide && h.fits f && limits then .ok (r.within h) else .error badShape

/-- The format checks, then the rest in the format found. -/
def withFormat (nm : BitVec 4) (tags : List (BitVec 4)) (accepts : BitVec 4 → Bool) (k : BitVec 4 → AqResult) : AqResult :=
  match formatOf nm tags accepts with
  | none => .error badTag
  | some f => k f

/-- The rounding mode of element (i, j), under SR with the random value of its position (04 R81). -/
def AqIn.mode (x : AqIn) (i j : Nat) : Mode :=
  Mode.ofField (field x.o.fn 0 3).toNat (srValue x.key x.opa (512 * i + j))

/-- Operand vb: a tile when fn[3] is set (08 R177), in the instruction's format. -/
def AqIn.elemB (x : AqIn) (f : BitVec 4) (i j : Nat) : Nat :=
  if bit x.o.fn 3 then x.tile f i j else regElem f (vreg x.c x.o.vb) i j

/-- The tags of va and of vb when it is a register. -/
def AqIn.tagsAB (x : AqIn) : List (BitVec 4) :=
  vtag x.c x.o.va :: (if bit x.o.fn 3 then [] else [vtag x.c x.o.vb])

/-- A tile operand with a format of its own must have the instruction's, whether that comes from a tag, from fmt or from the shape: R177
speaks of the first alone (log entry 47). -/
def AqIn.tileAgrees (x : AqIn) (f : BitVec 4) : Bool := !bit x.o.fn 3 || x.tileFmt == 0 || x.tileFmt == f

/-- A result computed element by element over the write set of one destination register. -/
def elementwise (x : AqIn) (f : BitVec 4) (reg : BitVec 6) (elem : Nat → Nat → Rounded) : AqOut :=
  let m := mreg x.c x.o.m
  let rows := (List.range x.h.vrows.toNat).map fun i =>
    (i, packRow (fmtWidth f) (fun j => if inSet x.h f m i j then some (elem i j) else none) (x.h.cols f))
  { AqOut.none with
    rows := rows.map fun p => ⟨reg, p.1, p.2.sel, p.2.data⟩, tags := [(reg, f)],
    flags := rows.foldl (fun a p => a ||| p.2.flags) 0 }

/-- A result moved row by row: the selected bits of src, and zero in the trailing bytes of a block format. -/
def moved (x : AqIn) (f : BitVec 4) (reg : BitVec 6) (p : Nat → Nat → Bool) (src : Nat → Nat) : AqOut :=
  { AqOut.none with
    rows := (List.range 8).map fun i =>
      let sel := moveBits x.h f (p i) i
      ⟨reg, i, sel ||| trailBits f, src i &&& sel⟩,
    tags := [(reg, f)] }

/-- The bits of mask m in a row. -/
def AqIn.maskBit (x : AqIn) (i j : Nat) : Bool := (mreg x.c x.o.m).getLsbD (512 * i + j)

/-! ## Arithmetic (08 R188, R189) -/

/-- The operations of 08 R188. -/
inductive ArithOp where | add | sub | mul | fma | fms
deriving DecidableEq, Repr

/-- The exact result on integers. -/
def arithInt : ArithOp → Int → Int → Int → Int
  | .add, a, b, _ => a + b
  | .sub, a, b, _ => a - b
  | .mul, a, b, _ => a * b
  | .fma, a, b, c => a * b + c
  | .fms, a, b, c => a * b - c

/-- The exact result on floating values, with the flags of an invalid operation. In VFMA and VFMS a NaN addend returns NaN without NV, also
beside 0 × ∞ (04 R72, R82; log entry 47). -/
def arithFloat (op : ArithOp) (rdn : Bool) (a b c : FVal) : FVal × Flags :=
  match op with
  | .add => addExact rdn a b
  | .sub => addExact rdn a b.negate
  | .mul => mulExact a b
  | .fma => let (p, fl) := mulExact a b
            if c.isNan then (.nan, 0) else let (z, g) := addExact rdn p c; (z, fl ||| g)
  | .fms => let (p, fl) := mulExact a b
            if c.isNan then (.nan, 0) else let (z, g) := addExact rdn p c.negate; (z, fl ||| g)

/-- One element of 08 R188. -/
def arithElem (op : ArithOp) (f : BitVec 4) (sat : Bool) (mode : Mode) (a b c : Nat) : Rounded :=
  if isInteger f then
    let z := arithInt op (intValue f a) (intValue f b) (intValue f c)
    if sat then satInt f z else ⟨intCode f z, 0⟩
  else
    let (z, fl) := arithFloat op (mode == .rdn) (elemValue f a) (elemValue f b) (elemValue f c)
    let r := roundTo (ffmt f) z mode sat
    ⟨r.code, r.flags ||| fl⟩

/-- VADD, VSUB, VMUL, VFMA, VFMS (08 R188). -/
def arith (op : ArithOp) (x : AqIn) : AqResult :=
  let three := op == .fma || op == .fms
  withFormat (named x.o.fmt x.h) (x.tagsAB ++ (if three then [vtag x.c x.o.vc] else [])) isNumeric fun f =>
    if !x.tileAgrees f then .error badTag else
    needShape x.h f true (elementwise x f x.o.vd fun i j =>
      arithElem op f (bit x.o.fn 4) (x.mode i j) (regElem f (vreg x.c x.o.va) i j) (x.elemB f i j)
        (if three then regElem f (vreg x.c x.o.vc) i j else 0))

/-- a ranks below b as VMIN and VMAX compare them; neither is NaN (08 R189). -/
def elemBelow (f : BitVec 4) (a b : Nat) : Bool :=
  if isInteger f then decide (intValue f a < intValue f b) else (elemValue f a).below (elemValue f b)

/-- The code is a NaN of its format. -/
def elemNan (f : BitVec 4) (a : Nat) : Bool := isFloat f && (elemValue f a).isNan

/-- The larger or the smaller of two elements (08 R189; 04 R83). -/
def pick (max : Bool) (f : BitVec 4) (a b : Nat) : Nat :=
  if elemNan f a || elemNan f b then (ffmt f).nanCode
  else if elemBelow f a b then (if max then b else a) else (if max then a else b)

/-- VMIN and VMAX (08 R189). -/
def minMax (max : Bool) (x : AqIn) : AqResult :=
  withFormat (named x.o.fmt x.h) x.tagsAB isNumeric fun f =>
    if !x.tileAgrees f then .error badTag else
    needShape x.h f true (elementwise x f x.o.vd fun i j =>
      ⟨pick max f (regElem f (vreg x.c x.o.va) i j) (x.elemB f i j), 0⟩)

/-- One element of VABS or VNEG (08 R189). -/
def absNegElem (neg : Bool) (f : BitVec 4) (sat : Bool) (a : Nat) : Rounded :=
  if isFloat f then
    if elemNan f a then ⟨(ffmt f).nanCode, 0⟩
    else
      let mag := a % 2 ^ (fmtWidth f - 1)
      ⟨if neg && !a.testBit (fmtWidth f - 1) then 2 ^ (fmtWidth f - 1) + mag else mag, 0⟩
  else
    let v := intValue f a
    let z := if neg then -v else (if v < 0 then -v else v)
    if sat then satInt f z else ⟨intCode f z, 0⟩

/-- VABS and VNEG (08 R189). -/
def absNeg (neg : Bool) (x : AqIn) : AqResult :=
  withFormat (named x.o.fmt x.h) [vtag x.c x.o.va] isNumeric fun f =>
    needShape x.h f true (elementwise x f x.o.vd fun i j =>
      absNegElem neg f (bit x.o.fn 4) (regElem f (vreg x.c x.o.va) i j))

/-! ## Compare, select and masks (08 R190 to R192) -/

/-- The conditions of VCMP (05 R106; 08 R190). -/
def compareElem (cond : Nat) (f : BitVec 4) (a b : Nat) : Bool :=
  let un := elemNan f a || elemNan f b
  let lt := !un && (elemValue f a).lt (elemValue f b)
  let gt := !un && (elemValue f b).lt (elemValue f a)
  match cond with
  | 0 => !un && !lt && !gt
  | 1 => un || lt || gt
  | 2 => lt
  | 3 => !un && !gt
  | 4 => gt
  | 5 => !un && !lt
  | 6 => un
  | _ => !un

/-- VCMP (08 R190). -/
def vcmpOut (x : AqIn) : AqResult :=
  withFormat (named x.o.fmt x.h) x.tagsAB isNumeric fun f =>
    if !x.tileAgrees f then .error badTag else
    needShape x.h f true
      { AqOut.none with masks := (List.range x.h.vrows.toNat).map fun i =>
          let r := packRow 1 (fun j => if inSet x.h f (mreg x.c x.o.m) i j then
            some ⟨(if compareElem (field x.o.fn 0 3).toNat f (regElem f (vreg x.c x.o.va) i j) (x.elemB f i j) then 1 else 0), 0⟩
            else none) (x.h.cols f)
          ⟨field x.o.vd 0 3, i, r.sel, r.data⟩ }

/-- VSELM (08 R191): the mask is an operand, and every valid element is written. -/
def vselmOut (x : AqIn) : AqResult :=
  withFormat (named x.o.fmt x.h) [vtag x.c x.o.va, vtag x.c x.o.vb] acceptsAny fun f =>
    needShape x.h f true (moved x f x.o.vd (fun _ _ => true) fun i =>
      let a := moveBits x.h f (x.maskBit i) i
      (rowOf (vreg x.c x.o.va) i &&& a) ||| (rowOf (vreg x.c x.o.vb) i &&& (moveBits x.h f (fun _ => true) i ^^^ a)))

/-- VMLOG (08 R192): all 4,096 bits. -/
def vmlogOut (x : AqIn) : AqResult :=
  let a := mreg x.c (field x.o.va 0 3)
  let b := mreg x.c (field x.o.vb 0 3)
  let r : Mask := match x.o.fn.toNat with
    | 0 => a &&& b
    | 1 => a ||| b
    | 2 => a ^^^ b
    | 3 => a &&& ~~~b
    | _ => ~~~a
  .ok { AqOut.none with masks := (List.range 8).map fun i => ⟨field x.o.vd 0 3, i, 2 ^ 512 - 1, maskRowOf r i⟩ }

/-! ## Logical operations and shifts (08 R193, R194) -/

/-- VAND, VOR, VXOR and VNOT (08 R193): op acts on whole rows. -/
def logical (two : Bool) (op : Nat → Nat → Nat) (x : AqIn) : AqResult :=
  withFormat (named x.o.fmt x.h) (vtag x.c x.o.va :: (if two then [vtag x.c x.o.vb] else [])) acceptsAny fun f =>
    needShape x.h f true (moved x f x.o.vd x.maskBit fun i => op (rowOf (vreg x.c x.o.va) i) (rowOf (vreg x.c x.o.vb) i))

/-- The bits of a row inverted. -/
def notRow (a : Nat) : Nat := 2 ^ 2048 - 1 - a

/-- One element of VSHL: a * 2^s, clamped or modulo 2^w (08 R194). -/
def shlElem (f : BitVec 4) (sat : Bool) (a s : Nat) : Rounded :=
  let z := intValue f a * 2 ^ s
  if sat then satInt f z else ⟨intCode f z, 0⟩

/-- One element of VSHR: floor (a / 2^s), half added first when rounding (08 R194). -/
def shrElem (f : BitVec 4) (rnd : Bool) (a s : Nat) : Rounded :=
  let v := intValue f a
  ⟨intCode f ((if rnd && 1 ≤ s then v + 2 ^ (s - 1) else v) / 2 ^ s), 0⟩

/-- VSHL and VSHR: the amount is the element of vb, or the immediate vc (08 R194). -/
def shift (elem : BitVec 4 → Nat → Nat → Rounded) (x : AqIn) : AqResult :=
  let imm := bit x.o.fn 0
  withFormat (named x.o.fmt x.h) (vtag x.c x.o.va :: (if imm then [] else [vtag x.c x.o.vb])) acceptsInteger fun f =>
    needShape x.h f true (elementwise x f x.o.vd fun i j =>
      elem f (regElem f (vreg x.c x.o.va) i j) (if imm then x.o.vc.toNat else regElem f (vreg x.c x.o.vb) i j))

/-! ## Moves and element access (08 R195 to R199) -/

/-- VMOV in its register form (08 R195). -/
def vmovOut (x : AqIn) : AqResult :=
  withFormat (named x.o.fmt x.h) [vtag x.c x.o.va] acceptsAny fun f =>
    needShape x.h f true (moved x f x.o.vd x.maskBit fun i => rowOf (vreg x.c x.o.va) i)

/-- A whole register written with a tag, the trailing bytes of a block format as zero (03 R53). -/
def wholeReg (reg : BitVec 6) (d : VReg) (tag : BitVec 4) : AqOut :=
  { AqOut.none with
    rows := (List.range 8).map fun i => ⟨reg, i, 2 ^ 2048 - 1, rowOf d i &&& (2 ^ 2048 - 1 - trailBits tag)⟩, tags := [(reg, tag)] }

/-- VMOV from a channel (08 R196), whose buffer holds an entry when the instruction issues. -/
def vmovFromOut (x : AqIn) : AqResult :=
  let next := x.o.fn == 2
  match (if next then x.c.vnext else x.c.vprev) with
  | [] => .ok AqOut.none
  | e :: _ =>
    if x.o.fmt != 0 && x.o.fmt != e.tag then .error badTag
    else .ok { wholeReg x.o.vd e.data e.tag with takes := some next }

/-- VMOV to a channel (08 R196). -/
def vmovToOut (x : AqIn) : AqResult :=
  let t := vtag x.c x.o.va
  if x.o.fmt != 0 && x.o.fmt != t then .error badTag
  else .ok { AqOut.none with send := some (x.o.fn == 4, vreg x.c x.o.va, t) }

/-- The position {vb, vc} of VBCAST and VINS: row and column (08 R197). -/
def posOf (o : V) : Nat × Nat := (o.vb.toNat / 8, o.vb.toNat % 8 * 64 + o.vc.toNat)

/-- A row with one element, or one block, at every position. -/
def spread (f : BitVec 4) (row col : Nat) : Nat :=
  if isBlock f then (packRow (8 * blockBytes f) (fun _ => some ⟨blockOf f row (col / 32), 0⟩) (fmtElems f / 32)).data
  else (packRow (fmtWidth f) (fun _ => some ⟨elemOf (fmtWidth f) row col, 0⟩) (fmtElems f)).data

/-- VBCAST of an element, fn 0, or of a row, fn 1 (08 R197). -/
def vbcastOut (x : AqIn) : AqResult :=
  withFormat (named x.o.fmt x.h) [vtag x.c x.o.va] acceptsAny fun f =>
    let a := vreg x.c x.o.va
    if x.o.fn == 1 then
      needShape x.h f true (moved x f x.o.vd x.maskBit fun _ => rowOf a (x.o.vb.toNat % 8))
    else
      let (r, col) := posOf x.o
      needShape x.h f (decide (col < fmtElems f) && (!isBlock f || col % 32 == 0))
        (moved x f x.o.vd x.maskBit fun _ => spread f (rowOf a r) col)

/-- The bits of a row that elements or blocks occupy. -/
def spanBits (f : BitVec 4) : Nat :=
  if isBlock f then 8 * blockBytes f * (fmtElems f / 32) else 2048

/-- The position of column k in bits of a row; k is a multiple of 32 in a block format. -/
def colBits (f : BitVec 4) (k : Nat) : Nat := if isBlock f then 8 * blockBytes f * (k / 32) else fmtWidth f * k

/-- Row i of a register as an instruction reads it at positions that it names itself: FILL beyond the valid extent, excluded as zero (03
R58). -/
def AqIn.filledRow (x : AqIn) (f : BitVec 4) (v : VReg) (i : Nat) : Nat :=
  let keep := moveBits x.h f (fun _ => true) i
  let fill := spread f (if isBlock f then fillBlock x.h.fill else x.h.fillElem f) 0
  (rowOf v i &&& keep) ||| (fill &&& ((2 ^ spanBits f - 1) ^^^ keep))

/-- VEXT (08 R198): a window of the concatenation of va and vb. -/
def vextOut (x : AqIn) : AqResult :=
  withFormat (named x.o.fmt x.h) [vtag x.c x.o.va, vtag x.c x.o.vb] acceptsAny fun f =>
    let k := 8 * x.o.vc.toNat + (field x.o.fn 0 3).toNat
    needShape x.h f (decide (k < fmtElems f) && (!isBlock f || k % 32 == 0))
      (moved x f x.o.vd x.maskBit fun i =>
        let n := 2 ^ spanBits f
        (x.filledRow f (vreg x.c x.o.va) i + x.filledRow f (vreg x.c x.o.vb) i * n) / 2 ^ colBits f k % n)

/-- VINS (08 R199): Elem(va, 0, 0) at a position of vd. -/
def vinsOut (x : AqIn) : AqResult :=
  let f := vtag x.c x.o.va
  let (r, col) := posOf x.o
  if vtag x.c x.o.vd != f then .error badTag
  else if fmtElems f ≤ col || (isBlock f && col % 32 != 0) then .error badShape
  else
    let w := if isBlock f then 8 * blockBytes f else fmtWidth f
    let sel := (2 ^ w - 1) * 2 ^ colBits f col
    .ok { AqOut.none with
      rows := (List.range 8).map fun i =>
        if i = r then ⟨x.o.vd, i, sel ||| trailBits f, rowOf (vreg x.c x.o.va) 0 % 2 ^ w * 2 ^ colBits f col⟩
        else ⟨x.o.vd, i, trailBits f, 0⟩,
      tags := [(x.o.vd, f)] }

/-! ## Conversion and quantisation (08 R200 to R202) -/

/-- VCVT (08 R200). -/
def vcvtOut (x : AqIn) : AqResult :=
  let src := vtag x.c x.o.va
  let dst := x.o.fmt
  let es := fmtElems src
  let ed := fmtElems dst
  let p := x.o.vc.toNat
  if !isNumeric src || (x.h.fmt != 0 && x.h.fmt != dst) then .error badTag
  else
    let col (j : Nat) : Option Nat :=
      if ed ≤ es then (if j + p * ed < es then some (j + p * ed) else none)
      else if p * es ≤ j && j - p * es < es then some (j - p * es) else none
    let m := mreg x.c x.o.m
    let rows := (List.range x.h.vrows.toNat).map fun i =>
      (i, packRow (fmtWidth dst) (fun j =>
        if inSet x.h dst m i j then
          (col j).map fun c => convert dst (elemValue src (regElem src (vreg x.c x.o.va) i c)) (x.mode i j)
        else none) (x.h.cols dst))
    needShape x.h dst (decide (p * min es ed < max es ed))
      { AqOut.none with rows := rows.map fun q => ⟨x.o.vd, q.1, q.2.sel, q.2.data⟩, tags := [(x.o.vd, dst)],
                        flags := rows.foldl (fun a q => a ||| q.2.flags) 0 }

/-- Block q of row i, of the source values of the columns in the write set, when it holds one (08 R201). -/
def vqntBlock (x : AqIn) (src : BitVec 4) (p i q : Nat) : Option Rounded :=
  let dst := x.o.fmt
  let bs := fmtElems src / 32
  let m := mreg x.c x.o.m
  if p * bs ≤ q && q < (p + 1) * bs && (List.range 32).any (fun j => inSet x.h dst m i (32 * q + j)) then
    let v := (List.range 32).map fun j =>
      if inSet x.h dst m i (32 * q + j) then
        elemValue src (regElem src (vreg x.c x.o.va) i (32 * (q - p * bs) + j)) else .zero false
    let b := quantise dst v (fun j => x.mode i (32 * q + j))
    some ⟨b.bytes, b.flags⟩
  else none

/-- VQNT (08 R201). -/
def vqntOut (x : AqIn) : AqResult :=
  let src := vtag x.c x.o.va
  let dst := x.o.fmt
  let bs := fmtElems src / 32
  let n := fmtElems dst / 32
  let p := x.o.vc.toNat
  if !isNumeric src || (x.h.fmt != 0 && x.h.fmt != dst) then .error badTag
  else
    let rows := (List.range 8).map fun i => (i, packRow (8 * blockBytes dst) (vqntBlock x src p i) n)
    needShape x.h dst (decide (p < max 1 ((n + bs - 1) / bs)))
      { AqOut.none with rows := rows.map fun q => ⟨x.o.vd, q.1, q.2.sel ||| trailBits dst, q.2.data⟩,
                        tags := [(x.o.vd, dst)], flags := rows.foldl (fun a q => a ||| q.2.flags) 0 }

/-- VDQNT (08 R202). -/
def vdqntOut (x : AqIn) : AqResult :=
  let src := vtag x.c x.o.va
  let dst := x.o.fmt
  let ed := fmtElems dst
  let p := x.o.vc.toNat
  if !isBlock src || (x.h.fmt != 0 && x.h.fmt != dst) then .error badTag
  else
    let m := mreg x.c x.o.m
    let inside := (List.range x.h.vrows.toNat).all fun i =>
      (List.range (x.h.cols dst)).all fun j => !inSet x.h dst m i j || decide (p * ed + j < fmtElems src)
    needShape x.h dst inside (elementwise x dst x.o.vd fun i j =>
      convert dst (rowValue src (rowOf (vreg x.c x.o.va) i) (p * ed + j)) (x.mode i j))

end Sys2Proof.Machine
end

