-- ==== Sys2Proof/Machine/Reduce.lean ====
section
/-! DEFINITION. The results of the reductions, scans, rearrangements, the transcendental unit, the random generator and
block add-and-requantise (09 R203 to R219). -/

namespace Sys2Proof.Machine

/-- One level of the pairwise tree (04 R90): absent operands pass their partner through. -/
def pairUp {α : Type} (comb : α → α → α × Flags) : List (Option α) → List (Option α) × Flags
  | [] => ([], 0)
  | [a] => ([a], 0)
  | a :: b :: r =>
    let (rest, fl) := pairUp comb r
    match a, b with
    | some x, some y => let (z, g) := comb x y; (some z :: rest, fl ||| g)
    | some x, none => (some x :: rest, fl)
    | none, y => (y :: rest, fl)

/-- n levels of the pairwise tree over 2^n leaves (04 R90). -/
def tree {α : Type} (comb : α → α → α × Flags) : Nat → List (Option α) → Option α × Flags
  | 0, l => (l.headD none, 0)
  | n + 1, l =>
    let (l', fl) := pairUp comb l
    let (r, g) := tree comb n l'
    (r, fl ||| g)

/-- A leaf of va (09 R203). -/
def isLeaf (x : AqIn) (f : BitVec 4) (i j : Nat) : Bool := inSet x.h f (mreg x.c x.o.m) i j

/-- FILL is a value, not excluded (03 R58). -/
def fillPresent (h : Shape) : Bool := h.fill != 3

/-- The leaves of row i: elements, FILL beyond VCOLS, or absent (04 R90). -/
def rowLeaves (x : AqIn) (f : BitVec 4) (i : Nat) : List (Option Nat) :=
  (List.range (fmtElems f)).map fun j =>
    if isLeaf x f i j then some (regElem f (vreg x.c x.o.va) i j)
    else if x.h.cols f ≤ j && fillPresent x.h then some (x.h.fillElem f) else none

/-- The leaves of column j over rows 0 to 7 (09 R206). -/
def colLeaves (x : AqIn) (f : BitVec 4) (j : Nat) : List (Option Nat) :=
  (List.range 8).map fun i =>
    if isLeaf x f i j then some (regElem f (vreg x.c x.o.va) i j)
    else if x.h.vrows.toNat ≤ i && fillPresent x.h then some (x.h.fillElem f) else none

/-- A shape of zero extent, through which an instruction computes nothing (03 R58). -/
def Shape.isVoid (h : Shape) : Bool := h.vrows == 0 || h.vcols == 0

/-- The results of a reduction by axis, as (flat position, result): `.row`, `.all`, `.col` (09 R206). Through a shape of zero extent there is
none, since 03 R58 goes before the empty result of R206 (log entry 47). -/
def reduce {α : Type} (x : AqIn) (f : BitVec 4) (leaf : Nat → α) (comb : α → α → α × Flags) : List (Nat × Option α × Flags) :=
  let levels := Nat.log2 (fmtElems f)
  let row (i : Nat) := tree comb levels ((rowLeaves x f i).map (Option.map leaf))
  if x.h.isVoid then []
  else match x.o.fn.toNat with
  | 0 => (List.range x.h.vrows.toNat).map fun i => (i, row i)
  | 1 =>
    let rows := (List.range 8).map fun i =>
      if i < x.h.vrows.toNat then row i
      else (if fillPresent x.h then some (leaf (x.h.fillElem f)) else none, 0)
    let (r, fl) := tree comb 3 (rows.map Prod.fst)
    [(0, r, rows.foldl (fun a p => a ||| p.2) fl)]
  | _ => (List.range (x.h.cols f)).map fun j => (j, tree comb 3 ((colLeaves x f j).map (Option.map leaf)))

/-- Results at flat positions of format d in register reg (09 R203). -/
def atFlat (d : BitVec 4) (reg : BitVec 6) (rs : List (Nat × Nat)) : List RowOut :=
  let e := fmtElems d
  rs.map fun p => ⟨reg, p.1 / e, (2 ^ fmtWidth d - 1) * 2 ^ (fmtWidth d * (p.1 % e)), p.2 % 2 ^ fmtWidth d * 2 ^ (fmtWidth d * (p.1 % e))⟩

/-- Combine of floating sums (04 R90). -/
def combineFp32 (x y : FVal) : FVal × Flags :=
  let r := addFp32 x y
  (FFmt.fp32.value r.code, r.flags)

/-- VREDSUM (09 R206). -/
def vredsumOut (x : AqIn) : AqResult :=
  withFormat (named x.o.fmt x.h) [vtag x.c x.o.va] isNumeric fun f =>
    let d : BitVec 4 := if isFloat f then 8 else if isInt f then 4 else 7
    let rs : List (Nat × Rounded) :=
      if isFloat f then (reduce x f (elemValue f) combineFp32).map fun p =>
        (p.1, ⟨(roundTo FFmt.fp32 (p.2.1.getD (.zero false)) .rne).code, p.2.2⟩)
      else (reduce x f (intValue f) (fun a b => (a + b, 0))).map fun p => (p.1, satInt d (p.2.1.getD 0))
    needShape x.h f true
      { AqOut.none with rows := atFlat d x.o.vd (rs.map fun p => (p.1, p.2.code)), tags := [(x.o.vd, d)],
                        flags := rs.foldl (fun a p => a ||| p.2.flags) 0 }

/-- A NaN code replaced by the canonical one (04 R72). -/
def canonical (f : BitVec 4) (a : Nat) : Nat := if elemNan f a then (ffmt f).nanCode else a

/-- The identity of a maximum or minimum (09 R207). -/
def pickIdentity (max : Bool) (f : BitVec 4) : Nat := fillCode f (if max then 1 else 2)

/-- VREDMAX and VREDMIN (09 R207). -/
def vredpickOut (max : Bool) (x : AqIn) : AqResult :=
  withFormat (named x.o.fmt x.h) [vtag x.c x.o.va] isNumeric fun f =>
    let rs := (reduce x f id (fun a b => (pick max f a b, 0))).map fun p =>
      (p.1, canonical f (p.2.1.getD (pickIdentity max f)))
    needShape x.h f true { AqOut.none with rows := atFlat f x.o.vd rs, tags := [(x.o.vd, f)] }

/-- a ranks strictly above b: NaN lies below every number in both instructions (09 R209). -/
def ranksAbove (max : Bool) (f : BitVec 4) (a b : Nat) : Bool :=
  if elemNan f a then false
  else if elemNan f b then true
  else if max then elemBelow f b a else elemBelow f a b

/-- The best of candidates in order: value and coordinate, the first of equals (09 R209). -/
def bestOf (max : Bool) (f : BitVec 4) : Option (Nat × Nat) → List (Nat × Nat) → Option (Nat × Nat)
  | b, [] => b
  | none, c :: r => bestOf max f (some c) r
  | some b, c :: r => bestOf max f (some (if ranksAbove max f c.1 b.1 then c else b)) r

/-- Leaves of row i with their coordinates (09 R209). -/
def argLeaves (x : AqIn) (f : BitVec 4) (i : Nat) : List (Nat × Nat) :=
  (List.range (x.h.cols f)).filterMap fun j =>
    if isLeaf x f i j then some (regElem f (vreg x.c x.o.va) i j, i * 65536 + j) else none

/-- One result of VARGMAX or VARGMIN: value, coordinate and flags (09 R210); first is the coordinate of an all-NaN result
without a carry. -/
def argResult (max : Bool) (f : BitVec 4) (carry : Option (Nat × Nat)) (first : Nat) (leaves : List (Nat × Nat)) :
    Nat × Nat × Flags :=
  match leaves, carry with
  | [], none => (if isFloat f then (ffmt f).nanCode else 0, 0xFFFFFFFF, 0)
  | [], some c => (c.1, c.2, 0)
  | _, _ =>
    match bestOf max f carry leaves with
    | none => (0, 0, 0)
    | some b =>
      if elemNan f b.1 then ((ffmt f).nanCode, (carry.map Prod.snd).getD first, fNV) else (b.1, b.2, 0)

/-- VARGMAX and VARGMIN (09 R209, R210). A shape of zero extent gives no result (03 R58; log entry 47). -/
def vargOut (max : Bool) (x : AqIn) : AqResult :=
  let carry := bit x.o.fn 1
  let tags := vtag x.c x.o.va :: (if carry then [vtag x.c x.o.vd] else [])
  if carry && vtag x.c x.o.vc != 7 then .error badTag
  else
    withFormat (named x.o.fmt x.h) tags isNumeric fun f =>
      let carried (i : Nat) : Option (Nat × Nat) :=
        if carry then some (regElem f (vreg x.c x.o.vd) 0 i, regElem 7 (vreg x.c x.o.vc) 0 i) else none
      let rs : List (Nat × Nat × Nat × Flags) :=
        if x.h.isVoid then []
        else if bit x.o.fn 0 then
          [(0, argResult max f (carried 0) 0 ((List.range x.h.vrows.toNat).flatMap (argLeaves x f)))]
        else (List.range x.h.vrows.toNat).map fun i => (i, argResult max f (carried i) (i * 65536) (argLeaves x f i))
      needShape x.h f (x.o.vd != x.o.vc)
        { AqOut.none with
          rows := atFlat f x.o.vd (rs.map fun p => (p.1, p.2.1)) ++ atFlat 7 x.o.vc (rs.map fun p => (p.1, p.2.2.1)),
          tags := [(x.o.vd, f), (x.o.vc, 7)], flags := rs.foldl (fun a p => a ||| p.2.2.2) 0 }

/-- One level of the doubling pattern: every position with the one d places to its left (09 R211). -/
def scanLevel {α : Type} (comb : α → α → α × Flags) (d : Nat) (l : List (Option α)) : List (Option α) × Flags :=
  let z : List (Option α × Flags) := ((List.replicate d none ++ l).zip l).map fun (p : Option α × Option α) =>
    match p.1, p.2 with
    | some a, some b => let (r, fl) := comb a b; (some r, fl)
    | some a, none => (some a, (0 : Flags))
    | none, b => (b, 0)
  (z.map Prod.fst, z.foldl (fun a p => a ||| p.2) 0)

/-- n levels, d doubling from 1. -/
def scanLevels {α : Type} (comb : α → α → α × Flags) : Nat → Nat → List (Option α) → List (Option α) × Flags
  | 0, _, l => (l, 0)
  | n + 1, d, l =>
    let (l', fl) := scanLevel comb d l
    let (r, g) := scanLevels comb n (2 * d) l'
    (r, fl ||| g)

/-- The prefix results of row i, exclusive when xsum. -/
def scanRow {α : Type} (x : AqIn) (f : BitVec 4) (leaf : Nat → α) (comb : α → α → α × Flags) (xsum : Bool) (i : Nat) :
    List (Option α) × Flags :=
  let l := (List.range (fmtElems f)).map fun j =>
    if isLeaf x f i j then some (leaf (regElem f (vreg x.c x.o.va) i j)) else none
  let (r, fl) := scanLevels comb (Nat.log2 (fmtElems f)) 1 l
  (if xsum then none :: r else r, fl)

/-- VSCAN (09 R211). -/
def vscanOut (x : AqIn) : AqResult :=
  withFormat (named x.o.fmt x.h) [vtag x.c x.o.va] isNumeric fun f =>
    let kind := (field x.o.fn 3 2).toNat
    let rowResults (i : Nat) : List Rounded × Flags :=
      if 2 ≤ kind then
        let (r, fl) := scanRow x f id (fun a b => (pick (kind == 2) f a b, 0)) false i
        (r.map fun y => ⟨(y.map (canonical f)).getD (pickIdentity (kind == 2) f), 0⟩, fl)
      else if isFloat f then
        let (r, fl) := scanRow x f (elemValue f) combineFp32 (kind == 1) i
        (r.zipIdx.map fun y => match y.1 with | none => ⟨0, 0⟩ | some v => roundTo (ffmt f) v (x.mode i y.2), fl)
      else
        let (r, fl) := scanRow x f (intValue f) (fun a b => (a + b, 0)) (kind == 1) i
        (r.map fun y => satInt f (y.getD 0), fl)
    let rows : List (Nat × RowAcc × Flags) := (List.range x.h.vrows.toNat).map fun i =>
      let (r, fl) := rowResults i
      let a := packRow (fmtWidth f) (fun j => if isLeaf x f i j then some (r.getD j ⟨0, 0⟩) else none) (x.h.cols f)
      (i, a, if a.sel = 0 then 0 else fl ||| a.flags)
    needShape x.h f true
      { AqOut.none with rows := rows.map fun p => ⟨x.o.vd, p.1, p.2.1.sel, p.2.1.data⟩, tags := [(x.o.vd, f)],
                        flags := rows.foldl (fun a p => a ||| p.2.2) 0 }

/-- VTRN (09 R212). -/
def vtrnOut (x : AqIn) : AqResult :=
  withFormat (named x.o.fmt x.h) [vtag x.c x.o.va] acceptsBytes fun f =>
    needShape x.h f true (elementwise x f x.o.vd fun i j => ⟨regElem f (vreg x.c x.o.va) (j % 8) (j / 8 * 8 + i), 0⟩)

/-- VSHF (09 R213), in whole blocks for a block format. -/
def vshfOut (x : AqIn) : AqResult :=
  withFormat (named x.o.fmt x.h) [vtag x.c x.o.va] acceptsAny fun f =>
    let k := 8 * x.o.vc.toNat + (field x.o.fn 0 3).toNat
    let unit := if isBlock f then 32 else 1
    let w := if isBlock f then 8 * blockBytes f else fmtWidth f
    let n := fmtElems f / unit
    let d := k / unit
    let fill := if isBlock f then fillBlock x.h.fill else x.h.fillElem f
    let src (row j : Nat) : Nat :=
      match (field x.o.fn 3 2).toNat with
      | 0 => if d ≤ j then elemOf w row (j - d) else fill
      | 1 => if j + d < n then elemOf w row (j + d) else fill
      | 2 => elemOf w row ((j + n - d) % n)
      | _ => elemOf w row ((j + d) % n)
    needShape x.h f (decide (k < fmtElems f) && k % unit == 0)
      (moved x f x.o.vd x.maskBit fun i => (packRow w (fun j => some ⟨src (rowOf (vreg x.c x.o.va) i) j, 0⟩) n).data)

/-- Element (r, c) of va at a position that VPERMR names: FILL beyond the valid extent (03 R58; 09 R214). -/
def AqIn.pickElem (x : AqIn) (f : BitVec 4) (r c : Nat) : Nat :=
  if inValid x.h f r c then regElem f (vreg x.c x.o.va) r c else x.h.fillElem f

/-- VPERMR (09 R214). -/
def vpermrOut (x : AqIn) : AqResult :=
  withFormat (named x.o.fmt x.h) [vtag x.c x.o.va] acceptsBytes fun f =>
    let it := vtag x.c x.o.vb
    let e := fmtElems f
    if !(isInteger it && fmtWidth it == fmtWidth f) then .error badTag
    else
      needShape x.h f true (elementwise x f x.o.vd fun i j =>
        let k := regElem it (vreg x.c x.o.vb) i j
        ⟨if x.o.fn == 0 then x.pickElem f i k else x.pickElem f (k / e) (k % e), 0⟩)

/-- VRCP, VRSQ, VSQRT, VEXP2 and VLOG2 (09 R215, R216). -/
def transOut (op : Trans) (x : AqIn) : AqResult :=
  withFormat (named x.o.fmt x.h) [vtag x.c x.o.va] acceptsTrans fun f =>
    needShape x.h f true (elementwise x f x.o.vd fun i j =>
      let (z, fl) := transExact op (elemValue f (regElem f (vreg x.c x.o.va) i j))
      let r := roundTo (ffmt f) z (x.mode i j)
      ⟨r.code, r.flags ||| fl⟩)

/-- VRNG (09 R218): opa is the key and opb the counter. -/
def vrngOut (x : AqIn) : AqResult :=
  let f := x.o.fmt
  needShape x.h f (x.h.fmt == 0 || (fmtWidth x.h.fmt == 32 && !isBlock x.h.fmt))
    (elementwise x f x.o.vd fun i j =>
      let w := (rngWord x.opa x.opb (512 * i + j)).toNat
      ⟨if f == 7 then w else (roundTo FFmt.fp32 (.fin false (2 * (w / 512) + 1) (-24) false) .rne).code, 0⟩)

/-- The sum of two blocks: FP32 sums under RNE, then requantised (09 R219). -/
def blockSum (f : BitVec 4) (a b : Nat) (mode : Nat → Mode) : Rounded :=
  let s := (List.range 32).map fun j => addFp32 (blockValue f a j) (blockValue f b j)
  let z := quantise f (s.map fun r => FFmt.fp32.value r.code) mode
  ⟨z.bytes, (s.foldl (fun g r => g ||| r.flags) z.flags) &&& ~~~fUF⟩

/-- Block q of row i of VBADDQ (09 R219). -/
def baddqBlock (x : AqIn) (f : BitVec 4) (i q : Nat) : Rounded :=
  blockSum f (blockOf f (rowOf (vreg x.c x.o.va) i) q) (blockOf f (rowOf (vreg x.c x.o.vb) i) q) fun j => x.mode i (32 * q + j)

/-- VBADDQ (09 R219). -/
def vbaddqOut (x : AqIn) : AqResult :=
  withFormat (named x.o.fmt x.h) [vtag x.c x.o.va, vtag x.c x.o.vb] isBlock fun f =>
    let m := mreg x.c x.o.m
    let rows := (List.range x.h.vrows.toNat).map fun i =>
      (i, packRow (8 * blockBytes f) (fun q => if inSet x.h f m i (32 * q) then some (baddqBlock x f i q) else none) (fmtElems f / 32))
    needShape x.h f (x.h.vcols == 0xFFFF || x.h.vcols.toNat % 32 == 0)
      { AqOut.none with
        rows := rows.map fun p => ⟨x.o.vd, p.1, if p.2.sel = 0 then 0 else p.2.sel ||| trailBits f, p.2.data⟩,
        tags := [(x.o.vd, f)], flags := rows.foldl (fun a p => a ||| p.2.flags) 0 }

/-! ## The vector engine as a whole -/

/-- The result of an AQ instruction, or the cause of the check it fails (08 R180). -/
def aqOut (i : Instr) (x : AqIn) : AqResult :=
  match i with
  | .vadd _ => arith .add x
  | .vsub _ => arith .sub x
  | .vmul _ => arith .mul x
  | .vfma _ => arith .fma x
  | .vfms _ => arith .fms x
  | .vmin _ => minMax false x
  | .vmax _ => minMax true x
  | .vabs _ => absNeg false x
  | .vneg _ => absNeg true x
  | .vrcp _ => transOut .rcp x
  | .vrsq _ => transOut .rsq x
  | .vsqrt _ => transOut .sqrt x
  | .vexp2 _ => transOut .exp2 x
  | .vlog2 _ => transOut .log2 x
  | .vcmp _ => vcmpOut x
  | .vselm _ => vselmOut x
  | .vand _ => logical true (· &&& ·) x
  | .vor _ => logical true (· ||| ·) x
  | .vxor _ => logical true (· ^^^ ·) x
  | .vnot _ => logical false (fun a _ => notRow a) x
  | .vshl o => shift (fun f => shlElem f (bit o.fn 2)) x
  | .vshr o => shift (fun f => shrElem f (bit o.fn 1)) x
  | .vcvt _ => vcvtOut x
  | .vqnt _ => vqntOut x
  | .vdqnt _ => vdqntOut x
  | .vbcast _ => vbcastOut x
  | .vmov _ => vmovOut x
  | .vmovFrom _ => vmovFromOut x
  | .vmovTo _ => vmovToOut x
  | .vext _ => vextOut x
  | .vins _ => vinsOut x
  | .vredsum _ => vredsumOut x
  | .vredmax _ => vredpickOut true x
  | .vredmin _ => vredpickOut false x
  | .vargmax _ => vargOut true x
  | .vargmin _ => vargOut false x
  | .vscan _ => vscanOut x
  | .vtrn _ => vtrnOut x
  | .vshf _ => vshfOut x
  | .vpermr _ => vpermrOut x
  | .vbaddq _ => vbaddqOut x
  | .vrng _ => vrngOut x
  | .vmlog _ => vmlogOut x
  | _ => .ok AqOut.none

/-- Occupancy, and the cycle after issue at which row i is visible (08 R181, R182). f is the format of the operands and v
is max(1, VROWS). -/
structure AqTiming where
  occupancy : Nat
  visible : Nat → Nat
  /-- Cycles per row of reading. -/
  rate : Nat

/-- The latency table (08 R182). VMLOG reads its masks whole in the cycle of issue (log entry 7). -/
def aqTiming (i : Instr) (f : BitVec 4) (v : Nat) : AqTiming :=
  let byRow (l : Nat) : AqTiming := ⟨v, fun i => i + l, 1⟩
  let whole (o l : Nat) : AqTiming := ⟨o, fun _ => l, 1⟩
  match i with
  | .vand _ | .vor _ | .vxor _ | .vnot _ | .vselm _ | .vmov _ | .vbcast _ | .vext _ => byRow 2
  | .vins _ => whole 1 2
  | .vmlog _ => ⟨1, fun _ => 2, 0⟩
  | .vmovFrom _ => ⟨8, fun i => i + 2, 1⟩
  | .vmovTo _ => whole 8 10
  | .vadd _ | .vsub _ => byRow (if isInteger f then 3 else 5)
  | .vmul _ | .vfma _ | .vfms _ => byRow (if isInteger f then 4 else 5)
  | .vmin _ | .vmax _ | .vabs _ | .vneg _ | .vshl _ | .vshr _ | .vcmp _ | .vshf _ => byRow 3
  | .vcvt _ | .vdqnt _ | .vpermr _ => byRow 4
  | .vqnt _ => byRow 8
  | .vrcp _ | .vrsq _ | .vsqrt _ | .vexp2 _ | .vlog2 _ =>
    let k := (fmtElems f + 31) / 32
    ⟨k * v, fun i => k * (i + 1) + 8, k⟩
  | .vredsum _ | .vredmax _ | .vredmin _ => whole v (v + 12)
  | .vargmax _ | .vargmin _ => whole v (v + 14)
  | .vscan _ | .vbaddq _ => byRow 10
  | .vtrn _ => whole 8 20
  | .vrng _ => byRow 12
  | _ => byRow 2

end Sys2Proof.Machine
end

