-- ==== Sys2Proof/Machine/Queues.lean ====
section
/-! DEFINITION. The engine queues: what an instruction captures when it is forwarded (02 R39, R43; 03 R61, R64; 16 R321 to
R323), the conditions under which a queue's head issues (02 R41), and what completion changes (02 R42). -/

namespace Sys2Proof.Machine

/-! ## Fields and physical names -/

/-- The operand fields of an engine instruction. -/
inductive Fields where
  | t (o : T)
  | v (o : V)
  | x (o : X)
  | n (o : N)
  | none
deriving DecidableEq, Repr

/-- The operand fields that an instruction carries, if it goes to a queue. -/
def fieldsOf : Instr → Fields
  | .tld o | .tldx o | .tldv o | .vldb o | .tgath o | .vgath o | .tfill o | .tcpy o | .vldt o | .unfcfg o | .pft o | .tstat o
  | .tst o | .tstv o | .tscat o | .vstt o | .trel o => .t o
  | .vadd o | .vsub o | .vmul o | .vfma o | .vfms o | .vmin o | .vmax o | .vabs o | .vneg o | .vrcp o | .vrsq o | .vsqrt o
  | .vexp2 o | .vlog2 o | .vcmp o | .vselm o | .vand o | .vor o | .vxor o | .vnot o | .vshl o | .vshr o | .vcvt o | .vqnt o
  | .vdqnt o | .vbcast o | .vmov o | .vmovFrom o | .vmovTo o | .vext o | .vins o | .vredsum o | .vredmax o | .vredmin o
  | .vargmax o | .vargmin o | .vscan o | .vtrn o | .vshf o | .vpermr o | .vbaddq o | .vrng o | .vmlog o => .v o
  | .mma o | .mmaz o | .mmau o | .amld o | .amldStat o | .amst o | .amz o | .mhint o | .msync o => .x o
  | .rstv o | .rstvRel o | .vexp o | .cname o | .amsg o | .mcst o | .redst o | .cpy o | .cpyw o | .taskq o | .taskdec o | .tend o
  | .qsnap o | .fcall o | .fwait o | .fpoll o | .fdone o | .flink o | .fcancel o | .adref o | .launch o | .graphgo o
  | .hring o => .n o
  | _ => .none

/-- The V fields with vd and va renamed. -/
def renDA (f : BitVec 6 → BitVec 6) (o : V) : V := { o with vd := f o.vd, va := f o.va }

/-- The V fields with vd, va and vb renamed. -/
def renDAB (f : BitVec 6 → BitVec 6) (o : V) : V := { o with vd := f o.vd, va := f o.va, vb := f o.vb }

/-- The V fields with vd, va and vb renamed, vb unless it is a tile. -/
def renDAT (f : BitVec 6 → BitVec 6) (o : V) : V := if bit o.fn 3 then renDA f o else renDAB f o

/-- The T fields with the register in mode[5:0] renamed. -/
def renMode (f : BitVec 6 → BitVec 6) (o : T) : T := { o with mode := field o.mode 6 2 ++ f (field o.mode 0 6) }

/-- The T fields with the register in t renamed. -/
def renT (f : BitVec 6 → BitVec 6) (o : T) : T := { o with t := f o.t }

/-- An engine instruction with its vector register fields renamed to physical numbers (03 R64; 16 R322). -/
def rename (f : BitVec 6 → BitVec 6) : Instr → Instr
  | .tldv o => .tldv (renT f o)
  | .vldb o => .vldb (renT f o)
  | .vldt o => .vldt (renT f o)
  | .tstv o => .tstv (renT f o)
  | .vgath o => .vgath (renMode f (renT f o))
  | .tgath o => .tgath (renMode f o)
  | .tscat o => .tscat (renMode f o)
  | .vstt o => .vstt (renMode f o)
  | .vadd o => .vadd (renDAT f o)
  | .vsub o => .vsub (renDAT f o)
  | .vmul o => .vmul (renDAT f o)
  | .vfma o => .vfma { renDAT f o with vc := f o.vc }
  | .vfms o => .vfms { renDAT f o with vc := f o.vc }
  | .vmin o => .vmin (renDAT f o)
  | .vmax o => .vmax (renDAT f o)
  | .vabs o => .vabs (renDA f o)
  | .vneg o => .vneg (renDA f o)
  | .vrcp o => .vrcp (renDA f o)
  | .vrsq o => .vrsq (renDA f o)
  | .vsqrt o => .vsqrt (renDA f o)
  | .vexp2 o => .vexp2 (renDA f o)
  | .vlog2 o => .vlog2 (renDA f o)
  | .vcmp o => .vcmp { renDAT f o with vd := o.vd }
  | .vselm o => .vselm (renDAB f o)
  | .vand o => .vand (renDAB f o)
  | .vor o => .vor (renDAB f o)
  | .vxor o => .vxor (renDAB f o)
  | .vnot o => .vnot (renDA f o)
  | .vshl o => .vshl (if bit o.fn 0 then renDA f o else renDAB f o)
  | .vshr o => .vshr (if bit o.fn 0 then renDA f o else renDAB f o)
  | .vcvt o => .vcvt (renDA f o)
  | .vqnt o => .vqnt (renDA f o)
  | .vdqnt o => .vdqnt (renDA f o)
  | .vbcast o => .vbcast (renDA f o)
  | .vmov o => .vmov (renDA f o)
  | .vmovFrom o => .vmovFrom { o with vd := f o.vd }
  | .vmovTo o => .vmovTo { o with va := f o.va }
  | .vext o => .vext (renDAB f o)
  | .vins o => .vins (renDA f o)
  | .vredsum o => .vredsum (renDA f o)
  | .vredmax o => .vredmax (renDA f o)
  | .vredmin o => .vredmin (renDA f o)
  | .vargmax o => .vargmax { renDA f o with vc := f o.vc }
  | .vargmin o => .vargmin { renDA f o with vc := f o.vc }
  | .vscan o => .vscan (renDA f o)
  | .vtrn o => .vtrn (renDA f o)
  | .vshf o => .vshf (renDA f o)
  | .vpermr o => .vpermr (renDAB f o)
  | .vbaddq o => .vbaddq (renDAB f o)
  | .vrng o => .vrng { o with vd := f o.vd }
  | .amld o => .amld { o with ta := f o.ta }
  | .amldStat o => .amldStat { o with ta := f o.ta }
  | .rstv o => .rstv { o with vd := f o.vd }
  | .rstvRel o => .rstvRel { o with vd := f o.vd }
  | .vexp o => .vexp { o with vd := f o.vd }
  | i => i

/-! ## Captures (16 R322, R323) -/

/-- The instruction rounds under SR: it captures SRCTR and advances it (03 R67; 04 R81). -/
def usesSr (i : Instr) : Bool := (needsOf i).features.contains 7

/-- The bytes of captured payload: shapes and slots other than h0 and f0, or s[sc] (16 R322). -/
def payloadBytes (i : Instr) : Nat :=
  match fieldsOf i with
  | .t o => if o.h == 0 then 0 else 16
  | .v o => if o.h == 0 then 0 else 16
  | .x o => 16 * ((o.ha != 0).toNat + (o.hb != 0).toNat + (o.unf != 0).toNat)
  | .n o => if o.sc == 0 then 0 else 8
  | .none => 0

/-- The entries of the queue half that an instruction needs (16 R323). -/
def entriesFor (i : Instr) (isVoid : Bool) : Nat := if isVoid then 1 else 1 + (payloadBytes i + 23) / 24

/-- The entries that a queued instruction holds. -/
def Entry.size (e : Entry) : Nat := entriesFor e.instr e.isVoid

/-- COUNT of a queue (16 R326). -/
def EQueue.count (q : EQueue) : Nat := (q.entries.map Entry.size).sum

/-! ## SLIP (06 R125; 16 R325) -/

/-- The depths with one replaced, and that queue and the later ones at the starts of their segments; a depth that stays moves nothing (16 R325). -/
def Ctx.setDepth (c : Ctx) (q : Fin 5) (n : BitVec 8) : Ctx :=
  let d := c.slipd.set q n
  let move (k : Nat) (x : EQueue) : EQueue := if q.val ≤ k then { x with head := segStart d k } else x
  if c.slipd[q] == n then c
  else { c with slipd := d, lq := move 0 c.lq, sq := move 1 c.sq, aq := move 2 c.aq, mq := move 3 c.mq, nq := move 4 c.nq }

/-- The queue that SLIP names, in a legal instruction. -/
def slipQueue (o : SI) : Fin 5 := Fin.ofNat 5 (field o.imm24 0 3).toNat

/-- The entries that a change of queue q's depth moves (16 R325). -/
def Ctx.toMove (c : Ctx) (q : Nat) : Nat :=
  (([(1, c.sq), (2, c.aq), (3, c.mq), (4, c.nq)].filter fun x => decide (q < x.1)).map fun x => x.2.count).sum

/-- The last cycle of the move that a SLIP of queue q makes: one cycle for each entry, from its first (16 R325). -/
def Ctx.slipEnd (c : Ctx) (q : Nat) : Nat :=
  match c.slip with
  | some x => if x.live && x.queue == q then x.until_ else c.now + (c.toMove q - 1)
  | none => c.now + (c.toMove q - 1)

/-- A SLIP moves the entries of a queue in this cycle: the queue does not issue (16 R325). -/
def Ctx.moving (c : Ctx) (q : Queue) : Bool :=
  match c.slip with
  | some x => decide (x.queue + 1 < queueCode q) && decide (c.now ≤ x.until_)
  | none => false

/-- SLIP (06 R125; 16 R325): the limit, the wait, the move, the new depth at its end. -/
def execSlip (o : SI) (s : State) : Host.Outcome State Fault Refusal :=
  s.run (.slip o) (s.cx.guard o.pg o.pn) fun s =>
    let n : BitVec 8 := field o.imm24 8 8
    let q := slipQueue o
    if 256 < segStart (s.cx.slipd.set q n) 5 then s.stopTrap 0x41
    else if !s.cx.quiet (queueOf q.val) then s.waitFor .drain
    else if s.cx.slipd[q] == n then .next s s.after
    else
      let e := s.cx.slipEnd q.val
      let at_ (live : Bool) (c : Ctx) : Ctx := { c with slip := some ⟨q.val, e, live⟩ }
      if e ≤ s.cx.now then s.set (at_ false (s.cx.setDepth q n)) else .wait { s with cx := { at_ true s.cx with outside := .none } }

/-! ## What forwarding captures (16 R322) -/

/-- The shapes that an instruction captures (16 R322). -/
def Ctx.shapesOf (c : Ctx) : Instr → List Shape
  | .unfcfg _ | .trel _ => []
  | .mma o | .mmaz o | .mmau o => [c.shape o.ha, c.shape o.hb]
  | .amst o => [c.shape o.ha]
  | i =>
    match fieldsOf i with
    | .t o => [c.shape o.h]
    | .v o => [c.shape o.h]
    | .x _ | .n _ | .none => []

/-- The unfolding slot that an instruction captures. -/
def Ctx.slotOf (c : Ctx) (i : Instr) : Unfold :=
  match fieldsOf i with
  | .x o => c.f[o.unf.toNat]'(by omega)
  | _ => Unfold.reset

/-- OPA, OPB and the third captured value (16 R322). An address of the T family that passes 2^64 - 1 carries a one in the
third, since A is exact (07 R154, R156). SRKEY is captured beside SRCTR for an instruction that rounds stochastically: R81 and R322 capture SRCTR
alone (log entry 47). -/
def Ctx.valuesOf (c : Ctx) (i : Instr) : Word × Word × Word :=
  match i, fieldsOf i with
  | .tfill _, .t o => (c.sreg o.sa, 0, 0)
  | .vldt _, .t o => (c.sreg o.sa, c.sreg o.sb, 0)
  | .tstat _, _ | .vstt _, _ | .unfcfg _, _ | .trel _, _ => (0, 0, 0)
  | _, .t o =>
    let a := (c.sreg o.sa).toNat + (c.sreg o.sb).toNat
    (BitVec.ofNat 64 a, 0, BitVec.ofNat 64 (a / 2 ^ 64))
  | .vrng _, .v o => (c.sreg (field o.va 0 5), c.sreg (field o.vb 0 5), 0)
  | _, .v _ => (if usesSr i then c.srctr else 0, 0, c.srkey)
  | _, .n o => (c.sreg o.sa, c.sreg o.sb, c.sreg o.sc)
  | _, _ => (0, 0, 0)

/-- The epoch that an operand records at forwarding: the one it opens, or the one current (02 R43; 03 R61). -/
def Ctx.epochOf (c : Ctx) (p : Oper) : BitVec 8 :=
  let e := if p.isTile then (c.tile p.n).fepoch else (c.hold p.n).fepoch
  match p.role with
  | .fill | .load => e + 1
  | .read | .leave | .write | .both => e

/-- The entry of an instruction, with what forwarding captures. -/
def Ctx.entryOf (c : Ctx) (i : Instr) (isVoid : Bool) : Entry :=
  let p := rename c.physV i
  let v := c.valuesOf i
  let ops := opersOf p
  { instr := p, isVoid := isVoid
    opa := if isVoid then 0 else v.1
    opb := if isVoid then 0 else v.2.1
    opc := if isVoid then 0 else v.2.2
    epochs := if isVoid then [] else ops.map c.epochOf
    shapes := if isVoid then [] else c.shapesOf i
    unf := c.slotOf i
    fills := if isVoid then [] else (ops.filter fun p => p.isTile && (p.role == .read || p.role == .leave)).map fun p => (c.tile p.n).shape
    schk := c.schk, iaddr := c.pc, born := c.now }

/-- The kind of hold that an instruction sets (03 R61). -/
def holdKind : Instr → BitVec 3
  | .vexp _ => 2
  | .amld _ | .amldStat _ => 3
  | _ => 1

/-- What forwarding an operand changes: epochs, the fill shape and the hold's kind (02 R43; 03 R61; 07 R153). -/
def Ctx.noteOper (c : Ctx) (e : Entry) (p : Oper) : Ctx :=
  match p.isTile, p.role with
  | true, .fill => c.modTile p.n fun t => { t with fepoch := t.fepoch + 1, shape := e.shapes.headD Shape.reset }
  | false, .load => c.modHold p.n fun h => { h with fepoch := h.fepoch + 1, kind := holdKind e.instr }
  | _, _ => c

/-- The epoch of a tile's current fill: the one under way, or the last one completed (03 R59). -/
def Tile.current (t : Tile) : BitVec 8 := if t.state == .filling then t.cepoch + 1 else t.cepoch

/-- A forwarded reader is counted where it was forwarded against the tile's current fill, or the register's completed epoch (07 R152; 03 R59,
R61). -/
def Ctx.noteReader (c : Ctx) (p : Oper) : Ctx :=
  if p.isTile then c.modTile p.n fun t => if t.fepoch == t.current then { t with readers := t.readers + 1 } else t
  else c.modHold p.n fun h => if h.fepoch == h.cepoch then { h with readers := h.readers + 1 } else h

/-- What forwarding an instruction changes in its context: the operands', SRCTR, and the queue. -/
def Ctx.enqueue (c : Ctx) (q : Queue) (e : Entry) : Ctx :=
  let c1 := if e.isVoid then c else
    (opersOf e.instr).foldl (fun c p => c.noteOper e p)
      ((readsOnce (opersOf e.instr)).foldl Ctx.noteReader (if usesSr e.instr then { c with srctr := c.srctr + 512 } else c))
  c1.setQueue q { c1.queue q with entries := (c1.queue q).entries ++ [e] }

/-! ## Forwarding (02 R40, R43; 05 R95, R97; 16 R323) -/

/-- A fill would put its tile's forward epoch 128 fills ahead (02 R43). -/
def Ctx.farAhead (c : Ctx) (e : Entry) : Bool :=
  (opersOf e.instr).any fun p => p.role == .fill && 128 ≤ ((c.tile p.n).fepoch + 1 - (c.tile p.n).cepoch).toNat

/-- The control unit has handed the instruction to its queue. -/
def State.forwarded (s : State) (q : Queue) (e : Entry) : State :=
  { s with cx := { (s.cx.enqueue q e).turned with pc := s.after } }

/-- A turn that forwards an instruction to a queue: the decode checks, room in the queue, the instruction's own checks, the
captures. apply is what the instruction changes at forwarding itself. -/
def State.forwardTurn (s : State) (q : Queue) (i : Instr) (guard : Bool) (check : State → Entry → Option Trap)
    (apply : State → State) : State :=
  match s.decodeTrap i with
  | some t => s.takeTrap t
  | none =>
    let n := entriesFor i (!guard)
    let e := s.cx.entryOf i (!guard)
    if s.cx.depth q < n then s.takeTrap (s.cuTrap 0x41)
    else if s.cx.depth q < (s.cx.queue q).count + n then s.stalled false
    else if !guard then s.forwarded q e
    else
      match check s e with
      | some t => s.takeTrap t
      | none => if s.cx.farAhead e then s.stalled false else (apply s).forwarded q e

/-- The turn as exec answers it. -/
def State.forward (s : State) (q : Queue) (i : Instr) (guard : Bool) (check : State → Entry → Option Trap) :
    Host.Outcome State Fault Refusal :=
  .next (s.forwardTurn q i guard check id)

/-! ## Issue conditions (02 R41, R43, R45; 03 R61; 07 R152) -/

/-- The entries of a queue that have not issued. -/
def EQueue.waiting (q : EQueue) : List Entry := if q.issued then q.entries.tail else q.entries

/-- Every entry of a context that has not issued. -/
def Ctx.unissued (c : Ctx) : List Entry :=
  c.lq.waiting ++ c.sq.waiting ++ c.aq.waiting ++ c.mq.waiting ++ c.nq.waiting

/-- Readers of tile n against the epoch ep that were forwarded after the cycle born and have not issued: a leave does not wait for them
(02 R41; 07 R152). -/
def Ctx.lateTileReaders (c : Ctx) (n : BitVec 6) (ep : BitVec 8) (born : Nat) : Nat :=
  (c.unissued.filter fun x => decide (born < x.born) && x.opers.any fun p => p.1.isTile && p.1.role == .read && p.1.n == n && p.2 == ep).length

/-- A leave of the tile's epoch was forwarded before the cycle born (07 R152). -/
def Ctx.leftBefore (c : Ctx) (n : BitVec 6) (ep : BitVec 8) (born : Nat) : Bool :=
  c.sq.entries.any fun x => decide (x.born < born) && x.opers.any fun p => p.1.role == .leave && p.1.n == n && p.2 == ep

/-- The tile conditions of an operand. -/
def Ctx.tileOk (c : Ctx) (e : Entry) (p : Oper) (ep : BitVec 8) : Bool :=
  let t := c.tile p.n
  match p.role with
  | .fill => t.state == .empty && t.cepoch + 1 == ep
  | .leave => t.state == .ready && t.cepoch == ep && t.readers.toNat ≤ c.lateTileReaders p.n ep e.born
  | _ => t.state == .ready && t.cepoch == ep && !c.leftBefore p.n ep e.born

/-- An AQ instruction forwarded before the setter of the next epoch writes register n and has not completed, with whatever rows (03 R61). -/
def Ctx.aqWrites (c : Ctx) (n : BitVec 6) : Bool :=
  (c.aq.waiting.any fun x => x.opers.any fun p =>
    !p.1.isTile && (p.1.role == .write || p.1.role == .both) && p.1.n == n && p.2 == (c.hold n).cepoch) ||
  c.pending.any fun v => match v.2 with
    | .row r _ _ _ => r == n
    | .tag r _ => r == n
    | .wrote r => r == n
    | _ => false

/-- The register conditions of an operand: a hold-setter follows the previous epoch, its readers and earlier AQ writes; any
other operand follows the hold that it recorded (02 R43; 03 R61). The setter's own read of the register, as an index, is of its own queue and
does not hold it. -/
def Ctx.regOk (c : Ctx) (e : Entry) (p : Oper) (ep : BitVec 8) : Bool :=
  let h := c.hold p.n
  let own := (e.opers.any fun q => !q.1.isTile && q.1.reads && q.1.n == p.n && q.2 == h.cepoch).toNat
  match p.role with
  | .load => h.cepoch + 1 == ep && decide (h.readers.toNat ≤ own) && !c.aqWrites p.n
  | _ => h.cepoch == ep

/-- An operation of the cycle under way has changed what an operand waits for, so that it issues in a later one (02 R45): the end of a read
matters to what waits for readers alone. -/
def Ctx.tooFresh (c : Ctx) (p : Oper) : Bool :=
  c.fresh.any fun x => x.same p && (x.role == .fill || x.role == .leave || x.role == .load || p.role == .leave || p.role == .load)

/-- Every tile and register condition of a queue's head. -/
def Ctx.opersOk (c : Ctx) (e : Entry) : Bool :=
  e.opers.all fun p => !c.tooFresh p.1 && if p.1.isTile then c.tileOk e p.1 p.2 else c.regOk e p.1 p.2

/-! ## Completion (02 R42; 07 R151, R152; 03 R61) -/

/-- Entries that have not issued and read a tile or register against an epoch (07 R152; 03 R61). -/
def Ctx.readersAt (c : Ctx) (isTile : Bool) (n : BitVec 6) (ep : BitVec 8) : Nat :=
  (c.unissued.filter fun x => x.opers.any fun p => p.1.isTile == isTile && p.1.reads && p.1.n == n && p.2 == ep).length

/-- A fill of a tile completes: the tile is ready, and READERS counts the readers of its epoch (07 R151, R152). -/
def Ctx.fillDone (c : Ctx) (n : BitVec 6) (ep : BitVec 8) : Ctx :=
  c.modTile n fun t => { t with state := .ready, cepoch := ep, rpv := false, rpoint := 0, readers := BitVec.ofNat 8 (c.readersAt true n ep) }

/-- The hold of an epoch clears, and READERS counts the readers of that epoch (03 R61). -/
def Ctx.holdDone (c : Ctx) (n : BitVec 6) (ep : BitVec 8) : Ctx :=
  c.modHold n fun h => { h with cepoch := ep, rpv := false, rpoint := 0, readers := BitVec.ofNat 8 (c.readersAt false n ep) }

/-- An operand's tile or hold has changed in the cycle under way. -/
def Ctx.freshen (c : Ctx) (p : Oper) : Ctx := { c with fresh := p :: c.fresh }

/-- An operand's reader has finished reading. -/
def Ctx.finishOper (c0 : Ctx) (p : Oper) : Ctx :=
  let c := c0.freshen p
  match p.isTile, p.role with
  | true, .read => c.modTile p.n fun t => { t with readers := t.readers - 1 }
  | false, .read | false, .both => c.modHold p.n fun h => { h with readers := h.readers - 1 }
  | _, _ => c

/-- What completion does to an operand with its epoch: a filled tile is ready, a left one empty, a loaded register free. -/
def Ctx.completeOper (c0 : Ctx) (p : Oper) (ep : BitVec 8) : Ctx :=
  let c := c0.freshen p
  match p.isTile, p.role with
  | true, .fill => c.fillDone p.n ep
  | true, .leave => c.modTile p.n fun t => { t with state := .empty, rpv := false, rpoint := 0 }
  | false, .load => c.holdDone p.n ep
  | _, _ => c.finishOper p

/-- An instruction's SIG byte rings its bell at completion (05 R93). -/
def Ctx.ringDone (c : Ctx) (e : Entry) : Ctx :=
  let y := e.instr.sync.getD Sync.plain
  if y.kind == 1 then c.ring y.rings else c

/-- And at acceptance. -/
def Ctx.ringTaken (c : Ctx) (e : Entry) : Ctx :=
  let y := e.instr.sync.getD Sync.plain
  if y.kind == 2 then c.ring y.rings else c

/-- The head of a queue retires: it leaves the queue, and the head index moves past its entries (16 R321, R324). -/
def Ctx.retire (c : Ctx) (q : Queue) : Ctx :=
  let x := c.queue q
  match x.entries with
  | [] => c
  | e :: rest =>
    let b := segStart c.slipd (queueCode q - 1)
    c.setQueue q { x with entries := rest, issued := false, rstart := false, moved := none, gone := some c.now,
                          head := b + (x.head - b + e.size) % (max 1 (c.depth q)) }

/-- An operation of LQ or SQ, or a register or accumulator move of MQ, completes. -/
def Ctx.complete (c : Ctx) (q : Queue) (e : Entry) : Ctx :=
  ((e.opers.foldl (fun c p => c.completeOper p.1 p.2) c).ringDone e).retire q

/-- A head issues: its bell is taken, its `sigi` bell rings, and the cycle is noted (02 R41, R42; 05 R92). -/
def Ctx.accept (c : Ctx) (q : Queue) (e : Entry) : Ctx :=
  let c1 := (c.take (e.instr.sync.getD Sync.plain).takes).ringTaken e
  c1.setQueue q { c1.queue q with issued := true, last := some c.now }

end Sys2Proof.Machine
end

