-- ==== Sys2Proof/Machine/Tiles.lean ====
section
/-! DEFINITION. The load engine and the store engine: forwarding checks, row-wise transfers, gathers and scatters with their
restart points, and the seventeen instructions of chapter 07. -/

namespace Sys2Proof.Machine

/-! ## Geometry (07 R153, R154, R162 to R174) -/

/-- The shape slot that the entry captured. -/
def Entry.own (e : Entry) : Shape := e.shapes.headD Shape.reset

/-- The fill shape of the entry's tile operand. -/
def Entry.fill (e : Entry) : Shape := e.fills.headD Shape.reset

/-- The shape of a transfer: a leave's is effective, VLDT's is its own with the pair's format, any other's its own
(07 R153, R168); none where the formats differ. -/
def Entry.xferShape (e : Entry) : Option Shape :=
  match e.instr with
  | .tst _ | .tscat _ => e.own.effective e.fill
  | .vldt _ => (e.own.effective e.fill).map fun s => { e.own with fmt := s.fmt }
  | _ => some e.own

/-- The bytes of an element: 4, 2, or 1 (07 R156). -/
def elemBytes (f : BitVec 4) : Nat := if isBlock f then 1 else fmtBytesOf f

/-- Rows or indices of a transfer, and the bytes of each (07 R162 to R166). -/
structure Span where
  rows : Nat
  bytes : Nat
deriving DecidableEq, Repr

/-- The rows and bytes of a transfer of a shape. -/
def spanOf (i : Instr) (h : Shape) : Span :=
  let vr := h.vrows.toNat
  let vb := h.vb
  if vr == 0 || vb == 0 then ⟨0, 0⟩
  else
    match i with
    | .tldx _ => ⟨h.cols h.fmt, vr * elemBytes h.fmt⟩
    | .vldb _ => ⟨1, vb⟩
    | .vgath _ => ⟨vr * h.cols h.fmt, elemBytes h.fmt⟩
    | _ => ⟨vr, vb⟩

/-- A as forwarding captured it, exact (07 R154). -/
def Entry.base (e : Entry) : Int := e.opa.toNat + e.opc.toNat * 2 ^ 64

/-- The instruction addresses memory row by row (07 R162). -/
def rowWise : Instr → Bool
  | .tld _ | .tldx _ | .tldv _ | .vldb _ | .tcpy _ | .tst _ | .tstv _ => true
  | _ => false

/-- The step from row to row: the shape's STRIDE, none for VLDB, which loads one row. -/
def stepOf (i : Instr) (h : Shape) : Int :=
  match i with
  | .vldb _ => 0
  | _ => h.step

/-! ## Forwarding checks (07 R155, R156) -/

/-- The use rules of a shape slot in a format, with the column limits (03 R58; 07 R154). -/
def Shape.useOk (h : Shape) (f : BitVec 4) : Bool := h.fits f && ({ h with fmt := f } : Shape).colsAligned

/-- The instruction uses its shape on the register side. -/
def regSided : Instr → Bool
  | .tldv _ | .vldb _ | .vgath _ | .vldt _ | .tstv _ | .vstt _ => true
  | _ => false

/-- The tile that the instruction fills or leaves, or reads. -/
def Entry.tileNumber (e : Entry) : Option (BitVec 6) := ((opersOf e.instr).find? Oper.isTile).map Oper.n

/-- Formats and counts that single instructions accept (07 R163, R165, R166, R168). A count above 512 traps at forwarding, where R165 names no
point (log entry 34). -/
def formLimits (e : Entry) (h : Shape) : Bool :=
  let w := fmtWidth h.fmt
  match e.instr with
  | .tldx _ => h.fmt != 0 && !isBlock h.fmt && w != 4
  | .vgath _ => !isBlock h.fmt && w != 4 && decide (h.vrows.toNat * h.cols h.fmt ≤ 512)
  | .tfill _ => !isBlock h.fmt
  | .tgath _ | .tscat _ => decide (h.vrows.toNat ≤ 512)
  | .vldt _ => e.opb.toNat % (if isBlock h.fmt then blockBytes h.fmt else elemBytes h.fmt) == 0
  | _ => true

/-- Steps 1 and 2 of 07 R155 and the shape part of R153: the cause of the first that fails. -/
def State.shapeCheck (s : State) (e : Entry) : Option (BitVec 7) :=
  let own := e.own
  let f := if own.fmt != 0 then own.fmt else e.fill.fmt
  let tile := e.tileNumber.map s.cx.tile
  let abOnly := match e.instr with
    | .tst _ | .tscat _ | .vstt _ => tile.any Tile.wb
    | _ => false
  let extentOk := regSided e.instr && !(match e.instr with | .vstt _ => true | _ => false) ||
    tile.all fun t => decide (own.rows.toNat * own.rowbytes.toNat ≤ t.extent.toNat)
  let rowsEqual := match e.instr with
    | .tst _ | .tscat _ => own.rowbytes == e.fill.rowbytes
    | _ => true
  if abOnly then some 0x40
  else if !own.useOk (if e.fills.isEmpty then own.fmt else f) || (regSided e.instr && !own.regSide) || !extentOk || !rowsEqual then some 0x11
  else
    match e.xferShape with
    | none => some 0x10
    | some h => if formLimits e h && h.colsAligned then none else some 0x11

/-- The extent of a row-wise transfer, first byte and length (07 R156). -/
def extentOf (a : Int) (st : Int) (p : Span) : Int × Nat :=
  let last := a + ((p.rows : Int) - 1) * st
  (min a last, ((max a last) - (min a last)).toNat + p.bytes)

/-- A or STRIDE is no multiple of the element's byte size (07 R156). -/
def misaligned (a : Int) (h : Shape) : Bool := a % elemBytes h.fmt != 0 || h.step % elemBytes h.fmt != 0

/-- The checks of a memory extent that forwarding makes: windows and limits, then alignment (07 R156). -/
def State.extentCheck (s : State) (i : Instr) (a : Int) (h : Shape) : Option (BitVec 7) :=
  let p := spanOf i h
  if p.rows == 0 then none
  else
    let (f, len) := extentOf a (stepOf i h) p
    match s.placeOf f len false with
    | .bad c => if c != 0x21 then some c else if misaligned a h then some 0x24 else none
    | _ => if misaligned a h then some 0x24 else none

/-- The forwarding checks of a load-engine or store-engine instruction, in the order of 07 R155. TCPY's own check of its window comes after
them, where R167 names no order (log entry 34). -/
def State.tileCheck (s : State) (e : Entry) : Option Trap :=
  match s.shapeCheck e with
  | some c => some (s.cuTrap c)
  | none =>
    let h := e.xferShape.getD e.own
    let bad (c : BitVec 7) : Option Trap := some { s.cuTrap c with va := e.opa }
    match (if rowWise e.instr then s.extentCheck e.instr e.base h else none) with
    | some c => bad c
    | none =>
      match e.instr with
      | .tcpy _ => if 0x8 ≤ e.base / 2 ^ 60 && e.base / 2 ^ 60 ≤ 0xB then none else bad 0x21
      | _ => none

/-! ## Moving rows (07 R158, R162; 13 R284) -/

/-- The walk that a stream TLB starts for the page after the one just translated; it sets A and raises no fault (13 R284). -/
def State.prefetch (s : State) (cache : Nat) (va : Nat) (up : Bool) : State :=
  match s.tlbHit cache s.cx.asid va with
  | none => s
  | some l =>
    let b := va / l.size * l.size
    let next := if up then b + l.size else b - 1
    if (!up && b == 0) || 2 ^ 57 ≤ next || (s.tlbHit cache s.cx.asid next).isSome then s
    else
      match s.walkTable s.cx.root next with
      | .leaf n => (s.putPte n .load).tlbFill cache s.cx.asid next { n with entry := withAD n.entry .load }
      | .absent | .malformed => s

/-- The translation cache that serves an instruction (13 R283): 1 load stream, 2 weight stream, 3 store stream. -/
def State.cacheFor (s : State) (e : Entry) : Nat :=
  match e.instr with
  | .tst _ | .tstv _ | .tscat _ => 3
  | _ => if (e.tileNumber.map s.cx.tile).any Tile.wb then 2 else 1

/-- A row or element at an address is translated; row-wise instructions then prefetch in the direction of their STRIDE, a load of one row too
(13 R284). -/
def State.reach (s : State) (e : Entry) (a : Int) (len : Nat) (k : Access) : Except Fail (State × List Seg) :=
  match s.access (some (s.cacheFor e)) a len k false with
  | .fail f => .error f
  | .ok s1 gs => .ok (if rowWise e.instr && (gs.all fun g => !isScratch g.1) then
      s1.prefetch (s.cacheFor e) (a.toNat + (if 0 ≤ e.own.step then len - 1 else 0)) (decide (0 ≤ e.own.step)) else s1, gs)

/-- The instruction's hint keeps its lines out of L1 (07 R157). -/
def streams : Instr → Bool
  | .tld o | .tldx o | .tldv o | .vldb o | .tst o | .tstv o => field o.mode 0 2 == (1 : BitVec 2)
  | _ => false

/-- Bytes loaded from an address, poison met there failing the row. -/
def State.loadRow (s : State) (e : Entry) (a : Int) (len : Nat) : Except Fail (State × List Byte) :=
  match s.reach e a len .load with
  | .error f => .error f
  | .ok (s1, gs) =>
    if segsPoisoned s1.poison gs then .error ⟨0x25, BitVec.ofInt 64 a, .load, false⟩
    else
      .ok (if streams e.instr then s1 else (segsLines gs).foldl (fun s k => s.noteRead s.ownSharer k) s1, readSegs s1.mem gs)

/-- Bytes stored at an address. -/
def State.storeRow (s : State) (e : Entry) (a : Int) (bs : List Byte) : Except Fail (State × List Seg) :=
  match s.reach e a bs.length .store with
  | .error f => .error f
  | .ok (s1, gs) =>
    let s2 := ((segsLines gs).foldl (fun s k => s.noteWrite s.ownSharer k) s1).askStores gs bs
    .ok ({ s2 with mem := writeSegs s2.mem gs bs }, gs)

/-- The key of a byte of a tile. -/
def Ctx.tileKey (c : Ctx) (t : Tile) (off : Nat) : Nat :=
  scratchKey c.coord.cluster.toNat c.coord.core.toNat t.wb.toNat ((if t.wb then c.wbOrigin else c.abOrigin) + t.base.toNat + off)

/-- Bytes of a tile are written. -/
def State.putTile (s : State) (n : BitVec 6) (off : Nat) (bs : List Byte) : State :=
  { s with mem := Memory.write s.mem (s.cx.tileKey (s.cx.tile n) off) bs }

/-- Bytes of a tile are read. -/
def State.getTile (s : State) (n : BitVec 6) (off len : Nat) : List Byte :=
  Memory.read s.mem (s.cx.tileKey (s.cx.tile n) off) len

/-- Bytes of a register at an offset are written. -/
def putBytes (v : VReg) (off : Nat) (bs : List Byte) : VReg :=
  let sel : VReg := BitVec.ofNat 16384 ((2 ^ (8 * bs.length) - 1) * 2 ^ (8 * off))
  (v &&& ~~~sel) ||| (BitVec.ofNat 16384 (leNat bs * 2 ^ (8 * off)) &&& sel)

/-- Bytes of a register row are written from its start, the trailing bytes of a block format cleared (03 R53). -/
def Ctx.putRow (c : Ctx) (r : BitVec 6) (f : BitVec 4) (i off : Nat) (bs : List Byte) : Ctx :=
  let v := putBytes (c.vreg r) (256 * i + off) bs
  let trail : VReg := BitVec.ofNat 16384 (trailBits f * 2 ^ (2048 * i))
  c.setV r (v &&& ~~~trail) (c.vtag r)

/-- Bytes of a register row. -/
def Ctx.getRow (c : Ctx) (r : BitVec 6) (i len : Nat) : List Byte := leBytes len (rowOf (c.vreg r) i)

/-- Index k of an index register, signed for INT32 (07 R165). -/
def Ctx.index (c : Ctx) (r : BitVec 6) (k : Nat) : Int :=
  let x := regElem 4 (c.vreg r) (k / 64) (k % 64)
  if c.vtag r == 4 then intValue 4 x else x

/-- The address of index k, step bytes apart: its extent is checked, then the alignment of A and STRIDE (07 R156, R159). -/
def State.gathered (s : State) (e : Entry) (r : BitVec 6) (k : Nat) (step : Int) (h : Shape) (len : Nat) : Except Fail Int :=
  let a := e.base + s.cx.index r k * step
  let bad (c : BitVec 7) : Except Fail Int := .error ⟨c, BitVec.ofInt 64 a, .load, false⟩
  match s.placeOf a len false with
  | .bad c => if c != 0x21 then bad c else if misaligned e.base h then bad 0x24 else .ok a
  | _ => if misaligned e.base h then bad 0x24 else .ok a

/-- The bytes of a row of VLDT: tile elements within the fill's valid extent, FILL elsewhere (07 R168). -/
def State.vldtRow (s : State) (e : Entry) (n : BitVec 6) (h : Shape) (i : Nat) : List Byte :=
  let f := h.fmt
  let fs := { e.fill with fmt := f }
  let r := e.opa.toNat + i
  let inRow := decide (r < fs.vrows.toNat)
  let row := if inRow then leNat (s.getTile n (r * fs.rowbytes.toNat) fs.rowbytes.toNat) else 0
  if isBlock f then
    let w := 8 * blockBytes f
    let q0 := e.opb.toNat / blockBytes f
    let pick (q : Nat) : Nat := if inRow && e.fill.brought f (32 * (q0 + q)) then elemOf w row (q0 + q) else fillBlock fs.fill
    leBytes h.vb ((List.range (h.cols f / 32)).foldl (fun a q => a + pick q * 2 ^ (w * q)) 0)
  else
    let w := fmtWidth f
    let c0 := e.opb.toNat * 8 / w
    let pick (j : Nat) : Nat := if inRow && e.fill.brought f (c0 + j) then elemOf w row (c0 + j) else fs.fillElem f
    leBytes h.vb ((List.range (h.cols f)).foldl (fun a j => a + pick j * 2 ^ (w * j)) 0)

/-- The bytes of a row of TFILL: the low bits of the value in every valid element (07 R166). -/
def fillRow (h : Shape) (x : Word) : List Byte :=
  let w := fmtWidth h.fmt
  leBytes h.vb ((List.range (h.cols h.fmt)).foldl (fun a j => a + x.toNat % 2 ^ w * 2 ^ (w * j)) 0)

/-- Row or index i of a transfer: the state after it and the runs of memory it stored to, or the failure (07 R162 to R174). -/
def State.moveRow (s : State) (e : Entry) (h : Shape) (i : Nat) : Except Fail (State × List Seg) :=
  let p := spanOf e.instr h
  let ma : Int := e.base + i * stepOf e.instr h
  let rb := h.rowbytes.toNat
  let plain (s : State) : Except Fail (State × List Seg) := .ok (s, [])
  match e.instr with
  | .tld o | .tcpy o => do
    let (s1, bs) ← s.loadRow e ma p.bytes
    plain (s1.putTile o.t (i * rb) bs)
  | .tldx o => do
    let (s1, bs) ← s.loadRow e ma p.bytes
    let w := elemBytes h.fmt
    plain ((List.range h.vrows.toNat).foldl (fun s k => s.putTile o.t (k * rb + i * w) ((bs.drop (k * w)).take w)) s1)
  | .tldv o => do
    let (s1, bs) ← s.loadRow e ma p.bytes
    plain { s1 with cx := s1.cx.putRow o.t h.fmt i 0 bs }
  | .vldb o => do
    let (s1, bs) ← s.loadRow e ma p.bytes
    plain { s1 with cx := (List.range h.vrows.toNat).foldl (fun c r => c.putRow o.t h.fmt r 0 bs) s1.cx }
  | .tgath o => do
    let a ← s.gathered e (field o.mode 0 6) i h.step h p.bytes
    let (s1, bs) ← s.loadRow e a p.bytes
    plain (s1.putTile o.t (i * rb) bs)
  | .vgath o => do
    let w := elemBytes h.fmt
    let a ← s.gathered e (field o.mode 0 6) i w h w
    let (s1, bs) ← s.loadRow e a w
    plain { s1 with cx := s1.cx.putRow o.t h.fmt (i / h.cols h.fmt) (i % h.cols h.fmt * w) bs }
  | .tfill o => plain (s.putTile o.t (i * rb) (fillRow h e.opa))
  | .vldt o => plain { s with cx := s.cx.putRow o.t h.fmt i 0 (s.vldtRow e (field o.mode 0 6) h i) }
  | .tst o => s.storeRow e ma (s.getTile o.t (i * rb) p.bytes)
  | .tstv o => s.storeRow e ma (s.cx.getRow o.t i p.bytes)
  | .tscat o => do
    let a ← s.gathered e (field o.mode 0 6) i h.step h p.bytes
    s.storeRow e a (s.getTile o.t (i * rb) p.bytes)
  | .vstt o => plain (s.putTile o.t (i * rb) (s.cx.getRow (field o.mode 0 6) i p.bytes))
  | _ => plain s

/-- Rows from i for n rows: the state, the runs stored, and the row and failure where it stops. -/
def State.moveRows (s : State) (e : Entry) (h : Shape) (i : Nat) (gs : List Seg) : Nat → State × List Seg × Option (Nat × Fail)
  | 0 => (s, gs, none)
  | n + 1 =>
    match s.moveRow e h i with
    | .error f => (s, gs, some (i, f))
    | .ok (s1, g) => s1.moveRows e h (i + 1) (gs ++ g) n

/-! ## Issue, restart and completion (07 R151, R158, R159, R161) -/

/-- The tag of a register that the instruction reads does not fit (07 R161). -/
def Ctx.tagBad (c : Ctx) (e : Entry) (h : Shape) : Bool :=
  let index (r : BitVec 6) : Bool := c.vtag r != 4 && c.vtag r != 7
  let source (r : BitVec 6) : Bool := h.fmt != 0 && c.vtag r != h.fmt
  match e.instr with
  | .tgath o | .vgath o | .tscat o => index (field o.mode 0 6)
  | .tstv o => source o.t
  | .vstt o => source (field o.mode 0 6)
  | _ => false

/-- Where an operation records its restart point: the tile it fills or leaves, else the register (07 R158). -/
def Ctx.setPoint (c : Ctx) (e : Entry) (v : Bool) (k : Nat) : Ctx :=
  let x := BitVec.ofNat 19 k
  match (opersOf e.instr).find? (fun p => p.isTile && p.role != .read), opersOf e.instr with
  | some p, _ => c.modTile p.n fun t => { t with rpv := v, rpoint := x }
  | none, p :: _ => c.modHold p.n fun h => { h with rpv := v, rpoint := x }
  | none, [] => c

/-- The restart point that an operation has recorded; 0 where none is. -/
def Ctx.point (c : Ctx) (e : Entry) : Nat :=
  match (opersOf e.instr).find? (fun p => p.isTile && p.role != .read), opersOf e.instr with
  | some p, _ => if (c.tile p.n).rpv then (c.tile p.n).rpoint.toNat else 0
  | none, p :: _ => if (c.hold p.n).rpv then (c.hold p.n).rpoint.toNat else 0
  | none, [] => 0

/-- An operation that has ended leaves no restart point of its own; a register's RPOINT that records arrivals stays (07 R158; 17 R349). -/
def Ctx.clearPoint (c : Ctx) (e : Entry) : Ctx :=
  match (opersOf e.instr).find? (fun p => p.isTile && p.role != .read), opersOf e.instr with
  | some p, _ => if (c.tile p.n).rpv then c.setPoint e false 0 else c
  | none, p :: _ => if (c.hold p.n).rpv then c.setPoint e false 0 else c
  | none, [] => c

/-- The operation at the head of LQ or SQ stops with a restart point and its context traps or faults (07 R158; 02 R47). -/
def State.stopAt (s : State) (q : Queue) (e : Entry) (k : Nat) (f : Fail) : State :=
  let c := s.cx.setPoint e true k
  let c1 := c.setQueue q { c.queue q with issued := true, rstart := true, moved := none }
  ({ s with cx := c1 } : State).takeFail (queueCode q) e.iaddr f

/-- The row or index at which the operation at a queue's head goes on. -/
def Ctx.reached (c : Ctx) (q : Queue) (e : Entry) : Nat := (c.queue q).moved.getD (c.point e)

/-- The rows that a transfer moves in this cycle, of those left: the model's schedule may end it sooner (log entry 4). -/
def State.spanNow (s : State) (left : Nat) (whole : Bool) : State × Nat :=
  match s.spans with
  | [] => (s, left)
  | n :: rest => if whole || left == 0 then (s, left) else ({ s with spans := rest }, min n left)

/-- The operation at a queue's head has moved k rows and goes on in a later cycle. -/
def Ctx.pauseXfer (c : Ctx) (q : Queue) (k : Nat) : Ctx :=
  c.setQueue q { c.queue q with issued := true, rstart := false, moved := some k }

/-- The transfer at a queue's head runs from where it stands (07 R162, R165): it ends, it goes on later, or it stops where a row fails.
A tag is checked where nothing has moved (07 R159, R161). A poisoned line that the instruction has by now written whole is clean (12 R270). whole: to
its end, whatever the schedule. -/
def State.transfer (s0 : State) (q : Queue) (e : Entry) (whole : Bool := false) : State :=
  let h := e.xferShape.getD e.own
  let p := spanOf e.instr h
  let k := s0.cx.reached q e
  if k == 0 && s0.cx.tagBad e h then s0.stopAt q e 0 ⟨0x10, 0, .load, false⟩
  else
    let (s, n) := s0.spanNow (p.rows - k) whole
    let (s1, gs, r) := s.moveRows e h k [] n
    let laid := (if k == 0 then [] else (s0.cx.queue q).laid) ++ gs
    let s2 := { s1 with poison := clearPoison s1.poison laid }
    let keep (c : Ctx) : Ctx := c.setQueue q { c.queue q with laid := laid.filter (segPoisoned s2.poison) }
    match r with
    | none =>
      if k + n < p.rows then { s2 with cx := (keep s2.cx).pauseXfer q (k + n) }
      else
        let c := s2.cx.clearPoint e
        { s2 with cx := c.setQueue q { c.queue q with issued := true, rstart := false, moved := none, laid := [] } }
    | some (i, f) => ({ s2 with cx := keep s2.cx } : State).stopAt q e i f

/-- The instruction completes at issue (07 R169, R170, R171, R175). -/
def atOnce (e : Entry) : Bool :=
  e.isVoid || match e.instr with
    | .pft _ | .unfcfg _ | .tstat _ | .trel _ => true
    | _ => false

/-- A tile operand's change of state at issue; the fill that starts is the current one, whose readers READERS counts (07 R151, R152; 03 R59). -/
def Ctx.beginOper (c : Ctx) (p : Oper) : Ctx :=
  match p.role with
  | .fill => c.modTile p.n fun t =>
    { t with state := .filling, rpv := false, rpoint := 0, readers := BitVec.ofNat 8 (c.readersAt true p.n (t.cepoch + 1)) }
  | .leave => c.modTile p.n fun t => { t with state := .draining, rpv := false, rpoint := 0 }
  | _ => c

/-- The tag that a register load leaves (07 R161). -/
def Ctx.tagLoaded (c : Ctx) (e : Entry) : Ctx :=
  match e.instr with
  | .tldv o | .vldb o | .vgath o | .vldt o => c.setV o.t (c.vreg o.t) (e.xferShape.getD e.own).fmt
  | _ => c

/-- The operation at the head of LQ or SQ completes (02 R42). -/
def Ctx.completeXfer (c : Ctx) (q : Queue) (e : Entry) : Ctx := (if e.isVoid then c else c.tagLoaded e).complete q e

/-- The head of LQ or SQ issues (02 R41, R42). -/
def State.issueXfer (s : State) (q : Queue) (e : Entry) : State :=
  let c := s.cx.accept q e
  if atOnce e then { s with cx := c.completeXfer q e }
  else ({ s with cx := (opersOf e.instr).foldl Ctx.beginOper c } : State).transfer q e

/-! ## The instructions -/

/-- Forwarding to the load engine. -/
def forwardLoad (i : Instr) (o : T) (s : State) : Host.Outcome State Fault Refusal :=
  s.forward .lq i (s.cx.guard o.pg o.pn) State.tileCheck

/-- Forwarding to the store engine. -/
def forwardStore (i : Instr) (o : T) (s : State) : Host.Outcome State Fault Refusal :=
  s.forward .sq i (s.cx.guard o.pg o.pn) State.tileCheck

/-- Forwarding without a check of its own (07 R169, R170, R175). -/
def noCheck (_ : State) (_ : Entry) : Option Trap := none

/-- TLD (07 R163). -/
def execTld (o : T) (s : State) := forwardLoad (.tld o) o s
/-- TLDX (07 R163). -/
def execTldx (o : T) (s : State) := forwardLoad (.tldx o) o s
/-- TLDV (07 R164). -/
def execTldv (o : T) (s : State) := forwardLoad (.tldv o) o s
/-- VLDB (07 R164). -/
def execVldb (o : T) (s : State) := forwardLoad (.vldb o) o s
/-- TGATH (07 R165). -/
def execTgath (o : T) (s : State) := forwardLoad (.tgath o) o s
/-- VGATH (07 R165). -/
def execVgath (o : T) (s : State) := forwardLoad (.vgath o) o s
/-- TFILL (07 R166). -/
def execTfill (o : T) (s : State) := forwardLoad (.tfill o) o s
/-- TCPY (07 R167). -/
def execTcpy (o : T) (s : State) := forwardLoad (.tcpy o) o s
/-- VLDT (07 R168). -/
def execVldt (o : T) (s : State) := forwardLoad (.vldt o) o s
/-- TSTAT (07 R169). -/
def execTstat (o : T) (s : State) := forwardLoad (.tstat o) o s
/-- PFT (07 R170): nothing is checked after decode. -/
def execPft (o : T) (s : State) : Host.Outcome State Fault Refusal :=
  s.forward .lq (.pft o) (s.cx.guard o.pg o.pn) noCheck

/-- The words of UNFCFG set a legal slot (07 R171); bits that the slot reserves have no effect (00 R5). -/
def unfoldCheck (o : T) (s : State) (_ : Entry) : Option Trap :=
  if (Unfold.ofWords (s.cx.sreg o.sa) (s.cx.sreg o.sb)).legal then none else some (s.cuTrap 0x11)

/-- The slot that UNFCFG sets, at forwarding. -/
def setUnfold (o : T) (s : State) : State :=
  { s with cx := { s.cx with f := s.cx.f.set (field o.t 0 4 : BitVec 4).toNat (Unfold.ofWords (s.cx.sreg o.sa) (s.cx.sreg o.sb)) (by omega) } }

/-- UNFCFG (07 R171): the slot changes at forwarding, and the entry carries the sync clauses. -/
def execUnfcfg (o : T) (s : State) : Host.Outcome State Fault Refusal :=
  .next (s.forwardTurn .lq (.unfcfg o) (s.cx.guard o.pg o.pn) (unfoldCheck o) (setUnfold o))

/-- TST (07 R172). -/
def execTst (o : T) (s : State) := forwardStore (.tst o) o s
/-- TSTV (07 R172). -/
def execTstv (o : T) (s : State) := forwardStore (.tstv o) o s
/-- TSCAT (07 R173). -/
def execTscat (o : T) (s : State) := forwardStore (.tscat o) o s
/-- VSTT (07 R174). -/
def execVstt (o : T) (s : State) := forwardStore (.vstt o) o s
/-- TREL (07 R175): it moves nothing, and its buffer may be either. -/
def execTrel (o : T) (s : State) : Host.Outcome State Fault Refusal :=
  s.forward .sq (.trel o) (s.cx.guard o.pg o.pn) noCheck

end Sys2Proof.Machine
end

