-- ==== Sys2Proof/Machine/VectorQueue.lean ====
section
/-! DEFINITION. The vector engine's queue: the tile operand (08 R177), the checks at issue (08 R180), timing, visibility and
the stall-count check (08 R181 to R185), channels (03 R63), and the forwarding of the forty-three AQ instructions. -/

namespace Sys2Proof.Machine

/-! ## Forwarding (08 R177, R180) -/

/-- The checks of a tile operand at forwarding: its buffer, and both checks of 07 R153, ROWBYTES before the formats as R155 has them for
transfers (log entry 47). -/
def vectorCheck (s : State) (e : Entry) : Option Trap :=
  match (opersOf e.instr).find? Oper.isTile with
  | none => none
  | some p =>
    if (s.cx.tile p.n).wb then some (s.cuTrap 0x40)
    else if e.own.rowbytes != e.fill.rowbytes then some (s.cuTrap 0x11)
    else if (e.own.effective e.fill).isNone then some (s.cuTrap 0x10)
    else none

/-- Forwarding to the vector engine; the V family has no guard (05 R99). -/
def forwardVector (i : Instr) (s : State) : Host.Outcome State Fault Refusal := s.forward .aq i true vectorCheck

/-! ## Channels (03 R63) -/

/-- The member on the channel's far side: the next one, or the previous; none where it has exited (08 R196). -/
def State.neighbour (s : State) (c : Ctx) (next : Bool) : Option Ctx :=
  let m := c.coord.member.toNat
  let k := if c.nmem == 0 then 0 else if next then (m + 1) % c.nmem else (m + c.nmem - 1) % c.nmem
  (s.findCtx ⟨c.cohort, k⟩).filter fun x => x.life != .exited

/-- Entries on their way from a context to one side. -/
def Ctx.sending (c : Ctx) (next : Bool) : Nat :=
  (c.pending.filter fun p => match p.2 with
    | .send n _ _ => n == next
    | _ => false).length

/-- The engine condition of AQ: the engine is free, and a channel that is named has an entry or room (02 R41; 03 R63). An entry that has
issued and is not readable yet takes a place of the buffer (log entry 47). -/
def State.aqReady (s : State) (e : Entry) : Bool :=
  decide (s.cx.aqFree ≤ s.cx.now) &&
    match e.instr with
    | .vmovFrom o => !(if o.fn == 1 then s.cx.vprev else s.cx.vnext).isEmpty
    | .vmovTo o =>
      let next := o.fn == 4
      match s.neighbour s.cx next with
      | none => true
      | some x => decide ((if next then x.vprev else x.vnext).length + s.cx.sending next < 4)
    | _ => true

/-- An entry reaches the neighbour's buffer. -/
def State.deliverChannel (s : State) (c : Ctx) (next : Bool) (x : ChanEntry) : State :=
  match s.neighbour c next with
  | none => s
  | some n => s.modCtx n.ref fun y => if next then { y with vprev := y.vprev ++ [x] } else { y with vnext := y.vnext ++ [x] }

/-! ## Visibility (08 R181 to R185) -/

/-- A row of bits replaced in a register. -/
def setRowBits (v : VReg) (row : Nat) (sel data : BitVec 2048) : VReg :=
  putField v (2048 * row) ((field v (2048 * row) 2048 &&& ~~~sel) ||| (data &&& sel))

/-- A row of bits replaced in a mask. -/
def setMaskBits (m : Mask) (row : Nat) (sel data : BitVec 512) : Mask :=
  putField m (512 * row) ((field m (512 * row) 512 &&& ~~~sel) ||| (data &&& sel))

/-- The result is data of a register or mask. -/
def Visible.isData : Visible → Bool
  | .row _ _ _ _ | .tag _ _ | .maskRow _ _ _ _ => true
  | .flags _ | .ring _ | .send _ _ _ | .tileRead _ | .regRead _ | .wrote _ => false

/-- The result is an entry for a channel. -/
def Visible.isSend : Visible → Bool
  | .send _ _ _ => true
  | .row _ _ _ _ | .tag _ _ | .maskRow _ _ _ _ | .flags _ | .ring _ | .tileRead _ | .regRead _ | .wrote _ => false

/-- A result takes effect in its own context. -/
def Ctx.show (c : Ctx) (x : Visible) : Ctx :=
  match x with
  | .row r i sel d => c.setV r (setRowBits (c.vreg r) i sel d) (c.vtag r)
  | .tag r t => c.setV r (c.vreg r) t
  | .maskRow m i sel d => c.setM m (setMaskBits (c.mreg m) i sel d)
  | .flags f => { c with flags := c.flags ||| f }
  | .ring b => c.ring b
  | .tileRead t => c.finishOper (tileOp t .read)
  | .regRead r => c.finishOper (regOp r .read)
  | .wrote r => c.freshen (regOp r .write)
  | .send _ _ _ => c

/-- Results enter the list in the order of their visibility, those of one cycle in the order of issue (08 R184). -/
def addPending (l : List (Nat × Visible)) (x : Nat × Visible) : List (Nat × Visible) :=
  match l with
  | [] => [x]
  | y :: r => if x.1 < y.1 then x :: l else y :: addPending r x

/-- Register and mask data due by a cycle are written. -/
def Ctx.showData (c : Ctx) (t : Nat) : Ctx :=
  let due (x : Nat × Visible) : Bool := decide (x.1 ≤ t) && x.2.isData
  (c.pending.filter due).foldl (fun c x => c.show x.2) { c with pending := c.pending.filter fun x => !due x }

/-- Channel entries of the current context that are readable from a cycle on reach their buffers (08 R182, R196). -/
def State.showSends (s : State) (t : Nat) : State :=
  let due (x : Nat × Visible) : Bool := decide (x.1 ≤ t) && x.2.isSend
  let c := s.cx
  (c.pending.filter due).foldl (fun s x => match x.2 with
    | .send next d t => s.deliverChannel s.cx next ⟨d, t⟩
    | _ => s) { s with cx := { c with pending := c.pending.filter fun x => !due x } }

/-- What a cycle shows from its start: register, mask and channel data. -/
def State.showNow (s : State) (t : Nat) : State := ({ s with cx := s.cx.showData t } : State).showSends t

/-- The rest due by a cycle takes effect at its end: reads that are over, flags, bells. -/
def Ctx.showRest (c : Ctx) (t : Nat) : Ctx :=
  let due (x : Nat × Visible) : Bool := decide (x.1 ≤ t) && !x.2.isData && !x.2.isSend
  (c.pending.filter due).foldl (fun c x => c.show x.2) { c with pending := c.pending.filter fun x => !due x }

/-- What an instruction that issues in cycle t reads: each row as it stands when it is read (08 R181), register rows at r cycles per
row and mask rows at k. -/
def Ctx.readView (c : Ctx) (t k r : Nat) : Ctx :=
  (c.pending.filter fun x => match x.2 with
    | .row _ i _ _ => decide (x.1 ≤ t + r * i)
    | .maskRow _ i _ _ => decide (x.1 ≤ t + k * i)
    | _ => false).foldl (fun c x => c.show x.2) c

/-! ## Issue (08 R177, R180) -/

/-- The elements of a tile operand; beyond the fill's valid extent its FILL (08 R177). -/
def State.tileElems (s : State) (e : Entry) (n : BitVec 6) : BitVec 4 → Nat → Nat → Nat :=
  let fs := e.fill
  let rows := (List.range (min 8 e.own.rows.toNat)).map fun i => leNat (s.getTile n (i * e.own.rowbytes.toNat) e.own.rowbytes.toNat)
  fun f i j => if i < fs.vrows.toNat && fs.brought f j then elemOf (fmtWidth f) (rows.getD i 0) j else fs.fillElem f

/-- The V fields of an entry. -/
def Entry.vFields (e : Entry) : Option V :=
  match fieldsOf e.instr with
  | .v o => some o
  | _ => none

/-- What an AQ instruction reads at issue, its registers as in the given view. -/
def State.aqIn (s : State) (c : Ctx) (e : Entry) (o : V) : AqIn :=
  let tile := (opersOf e.instr).find? Oper.isTile
  { c := c, o := o, h := e.own, opa := e.opa, opb := e.opb, key := e.opc
    tile := match tile with
      | some p => s.tileElems e p.n
      | none => fun _ _ _ => 0
    tileFmt := match tile with
      | some _ => ((e.own.effective e.fill).getD e.own).fmt
      | none => 0 }

/-- The format whose latencies an instruction takes: the format of its first operand register, or its named one (08 R182). -/
def aqFormat (c : Ctx) (o : V) (h : Shape) : BitVec 4 := if named o.fmt h != 0 then named o.fmt h else c.vtag o.va

/-- The shape whose VROWS time an instruction: its own, or with a tile operand the effective one (07 R153; 08 R177, R181). -/
def Entry.timingShape (e : Entry) : Shape := if (opersOf e.instr).any Oper.isTile then (e.own.effective e.fill).getD e.own else e.own

/-- The rows that an instruction works on (08 R181). -/
def aqRows (i : Instr) (h : Shape) : Nat :=
  match i with
  | .vtrn _ | .vmovFrom _ | .vmovTo _ | .vmlog _ => 8
  | _ => max 1 (min 8 h.vrows.toNat)

/-- Cycles per row at which register rows are read, at k cycles per row of work: VBCAST and VINS read theirs in the cycle of issue (08
R181, R197, R199). -/
def readRate (i : Instr) (k : Nat) : Nat :=
  match i with
  | .vbcast _ | .vins _ => 0
  | _ => k

/-- The register rows that an instruction reads: VBCAST its source row, VINS row 0 of va and the row that it changes, VPERMR `.all` every
row, and any other the rows that it works on (08 R181, R197, R199; 09 R214). -/
def readsRow (i : Instr) (o : V) (h : Shape) (reg : BitVec 6) (row : Nat) : Bool :=
  match i with
  | .vbcast _ => row == (if o.fn == 1 then o.vb.toNat % 8 else (posOf o).1)
  | .vins _ => (reg == o.va && row == 0) || (reg == o.vd && row == (posOf o).1)
  | .vpermr _ => bit o.fn 0 || decide (row < aqRows i h)
  | _ => decide (row < aqRows i h)

/-- The last row of a register operand that is read, in rows of the reading rate (07 R152; 03 R61). -/
def lastRead (i : Instr) (o : V) (h : Shape) : Nat :=
  match i with
  | .vpermr _ => if bit o.fn 0 then 7 else aqRows i h - 1
  | _ => aqRows i h - 1

/-- The last valid row of a tile operand (07 R153; 08 R177). -/
def Entry.lastTileRow (e : Entry) : Nat := aqRows e.instr e.timingShape - 1

/-- The results of an instruction that works on v rows, with the cycle of each, in order, and the cycle of completion. A row of which no bit is
written is no result, nor is a mask row of m0 (08 R176; 03 R56); trailing bytes of rows beyond the last come with it. A register's tag is
written with each row of its data, and with the first row's timing where no row is written (03 R55; 08 R179). A row past the effective VROWS,
which a tile operand's fill can leave in the write set, comes with the last (log entry 47). -/
def timed (out : AqOut) (t : AqTiming) (v c : Nat) : List (Nat × Visible) × Nat :=
  let at_ (i : Nat) : Nat := c + t.visible (min i (v - 1))
  let written := out.rows.filter fun r => r.sel != 0
  let rows := written.map fun r => (at_ r.row, Visible.row r.reg r.row (BitVec.ofNat 2048 r.sel) (BitVec.ofNat 2048 r.data))
  let masks := (out.masks.filter fun m => m.m != 0 && m.sel != 0).map fun m =>
    (at_ m.row, Visible.maskRow m.m m.row (BitVec.ofNat 512 m.sel) (BitVec.ofNat 512 m.data))
  let tags := out.tags.flatMap fun g =>
    let rs := (written.filter (·.reg == g.1)).map fun r => (at_ r.row, Visible.tag g.1 g.2)
    if rs.isEmpty then [(at_ 0, Visible.tag g.1 g.2)] else rs
  let sends := match out.send with
    | some (n, d, g) => [(at_ 0, Visible.send n d g)]
    | none => []
  let all := tags ++ rows ++ masks ++ sends
  (all, all.foldl (fun a x => max a x.1) (at_ (v - 1)))

/-- Masks that an instruction reads. -/
def masksOf (i : Instr) (o : V) : List (BitVec 3) :=
  match i with
  | .vmlog _ => [field o.va 0 3, field o.vb 0 3]
  | .vmovFrom _ | .vmovTo _ | .vins _ => []
  | _ => [o.m]

/-- The stall-count check (08 R183): a read before a pending write's visibility, or a write no later than one. -/
def Ctx.stallFails (c : Ctx) (e : Entry) (o : V) (t : AqTiming) (new : List (Nat × Visible)) : Bool :=
  let now := c.now
  let n := aqRows e.instr e.timingShape
  let rate := readRate e.instr t.rate
  let regs := ((opersOf e.instr).filter fun p => !p.isTile && p.reads).map Oper.n
  let ms := masksOf e.instr o
  c.pending.any fun x => match x.2 with
    | .row r i _ _ =>
      (regs.contains r && readsRow e.instr o e.own r i && decide (now + rate * i < x.1)) ||
        new.any fun y => match y.2 with
          | .row r2 i2 _ _ => r2 == r && i2 == i && decide (y.1 ≤ x.1)
          | _ => false
    | .maskRow m i _ _ =>
      (ms.contains m && decide (i < n) && decide (now + t.rate * i < x.1)) ||
        new.any fun y => match y.2 with
          | .maskRow m2 i2 _ _ => m2 == m && i2 == i && decide (y.1 ≤ x.1)
          | _ => false
    | _ => false

/-- A channel's oldest entry is taken. -/
def Ctx.takeChannel (c : Ctx) (t : Option Bool) : Ctx :=
  match t with
  | none => c
  | some true => { c with vnext := c.vnext.tail }
  | some false => { c with vprev := c.vprev.tail }

/-- The head of AQ issues, or a check that fails traps in its place, taking and ringing nothing (08 R180 to R184). -/
def State.issueVector (s : State) (e : Entry) : State :=
  if e.isVoid then { s with cx := ((s.cx.accept .aq e).ringDone e).retire .aq }
  else
    match e.vFields with
    | none => s
    | some o =>
      let v := aqRows e.instr e.timingShape
      let t := aqTiming e.instr (aqFormat s.cx o e.own) v
      let trap (c : BitVec 7) : State := s.takeTrap { cause := c, queue := 3, iaddr := e.iaddr }
      match aqOut e.instr (s.aqIn (s.cx.readView s.cx.now t.rate (readRate e.instr t.rate)) e o) with
      | .error c => trap c
      | .ok out =>
        let (vis, done) := timed out t v s.cx.now
        if e.schk && s.cx.stallFails e o t vis then trap 0x06
        else
          let c := ((s.cx.accept .aq e).retire .aq).takeChannel out.takes
          let y := e.instr.sync.getD Sync.plain
          let reads : List (Nat × Visible) := (readsOnce (opersOf e.instr)).map fun p =>
            if p.isTile then (s.cx.now + t.rate * e.lastTileRow, Visible.tileRead p.n)
            else (s.cx.now + readRate e.instr t.rate * lastRead e.instr o e.timingShape, Visible.regRead p.n)
          let last : List (Nat × Visible) := (done, Visible.flags out.flags) :: out.tags.map (fun g => (done, Visible.wrote g.1)) ++ (if y.kind == 1 then [(done, Visible.ring y.rings)] else [])
          { s with cx := { c with pending := (vis ++ reads ++ last).foldl addPending c.pending, aqFree := s.cx.now + t.occupancy } }

/-! ## The instructions -/

/-- VADD (08 R188). -/
def execVadd (o : V) (s : State) := forwardVector (.vadd o) s
/-- VSUB (08 R188). -/
def execVsub (o : V) (s : State) := forwardVector (.vsub o) s
/-- VMUL (08 R188). -/
def execVmul (o : V) (s : State) := forwardVector (.vmul o) s
/-- VFMA (08 R188). -/
def execVfma (o : V) (s : State) := forwardVector (.vfma o) s
/-- VFMS (08 R188). -/
def execVfms (o : V) (s : State) := forwardVector (.vfms o) s
/-- VMIN (08 R189). -/
def execVmin (o : V) (s : State) := forwardVector (.vmin o) s
/-- VMAX (08 R189). -/
def execVmax (o : V) (s : State) := forwardVector (.vmax o) s
/-- VABS (08 R189). -/
def execVabs (o : V) (s : State) := forwardVector (.vabs o) s
/-- VNEG (08 R189). -/
def execVneg (o : V) (s : State) := forwardVector (.vneg o) s
/-- VRCP (09 R215). -/
def execVrcp (o : V) (s : State) := forwardVector (.vrcp o) s
/-- VRSQ (09 R215). -/
def execVrsq (o : V) (s : State) := forwardVector (.vrsq o) s
/-- VSQRT (09 R215). -/
def execVsqrt (o : V) (s : State) := forwardVector (.vsqrt o) s
/-- VEXP2 (09 R215). -/
def execVexp2 (o : V) (s : State) := forwardVector (.vexp2 o) s
/-- VLOG2 (09 R215). -/
def execVlog2 (o : V) (s : State) := forwardVector (.vlog2 o) s
/-- VCMP (08 R190). -/
def execVcmp (o : V) (s : State) := forwardVector (.vcmp o) s
/-- VSELM (08 R191). -/
def execVselm (o : V) (s : State) := forwardVector (.vselm o) s
/-- VAND (08 R193). -/
def execVand (o : V) (s : State) := forwardVector (.vand o) s
/-- VOR (08 R193). -/
def execVor (o : V) (s : State) := forwardVector (.vor o) s
/-- VXOR (08 R193). -/
def execVxor (o : V) (s : State) := forwardVector (.vxor o) s
/-- VNOT (08 R193). -/
def execVnot (o : V) (s : State) := forwardVector (.vnot o) s
/-- VSHL (08 R194). -/
def execVshl (o : V) (s : State) := forwardVector (.vshl o) s
/-- VSHR (08 R194). -/
def execVshr (o : V) (s : State) := forwardVector (.vshr o) s
/-- VCVT (08 R200). -/
def execVcvt (o : V) (s : State) := forwardVector (.vcvt o) s
/-- VQNT (08 R201). -/
def execVqnt (o : V) (s : State) := forwardVector (.vqnt o) s
/-- VDQNT (08 R202). -/
def execVdqnt (o : V) (s : State) := forwardVector (.vdqnt o) s
/-- VBCAST (08 R197). -/
def execVbcast (o : V) (s : State) := forwardVector (.vbcast o) s
/-- VMOV (08 R195). -/
def execVmov (o : V) (s : State) := forwardVector (.vmov o) s
/-- VMOV_FROM_CHANNEL (08 R196). -/
def execVmovFrom (o : V) (s : State) := forwardVector (.vmovFrom o) s
/-- VMOV_TO_CHANNEL (08 R196). -/
def execVmovTo (o : V) (s : State) := forwardVector (.vmovTo o) s
/-- VEXT (08 R198). -/
def execVext (o : V) (s : State) := forwardVector (.vext o) s
/-- VINS (08 R199). -/
def execVins (o : V) (s : State) := forwardVector (.vins o) s
/-- VREDSUM (09 R206). -/
def execVredsum (o : V) (s : State) := forwardVector (.vredsum o) s
/-- VREDMAX (09 R207). -/
def execVredmax (o : V) (s : State) := forwardVector (.vredmax o) s
/-- VREDMIN (09 R207). -/
def execVredmin (o : V) (s : State) := forwardVector (.vredmin o) s
/-- VARGMAX (09 R210). -/
def execVargmax (o : V) (s : State) := forwardVector (.vargmax o) s
/-- VARGMIN (09 R210). -/
def execVargmin (o : V) (s : State) := forwardVector (.vargmin o) s
/-- VSCAN (09 R211). -/
def execVscan (o : V) (s : State) := forwardVector (.vscan o) s
/-- VTRN (09 R212). -/
def execVtrn (o : V) (s : State) := forwardVector (.vtrn o) s
/-- VSHF (09 R213). -/
def execVshf (o : V) (s : State) := forwardVector (.vshf o) s
/-- VPERMR (09 R214). -/
def execVpermr (o : V) (s : State) := forwardVector (.vpermr o) s
/-- VBADDQ (09 R219). -/
def execVbaddq (o : V) (s : State) := forwardVector (.vbaddq o) s
/-- VRNG (09 R218). -/
def execVrng (o : V) (s : State) := forwardVector (.vrng o) s
/-- VMLOG (08 R192). -/
def execVmlog (o : V) (s : State) := forwardVector (.vmlog o) s

end Sys2Proof.Machine
end

