-- ==== Sys2Proof/Machine/Matrix.lean ====
section
/-! DEFINITION. The bench matrix unit: operands and products (10 R228 to R232; 04 R87, R88), arbitration (10 R222, R223), the
level (10 R234), the checksum (10 R235, R236), restart points (10 R237), and the nine MQ instructions with MWRR. -/

namespace Sys2Proof.Machine

/-! ## Operands of a tile product (10 R229 to R232) -/

/-- A matrix command as its entry fixes it: formats, extents, origins, and how A and B are read. -/
structure Product where
  fa : BitVec 4
  fb : BitVec 4
  m : Nat
  n : Nat
  k : Int
  kb : Int
  ra : Nat
  ca : Nat
  rb : Nat
  cb : Nat
  bt : Bool
  mix : Bool
  unfolded : Bool
deriving DecidableEq, Repr

/-- The X fields of an entry. -/
def Entry.xFields (e : Entry) : Option X :=
  match fieldsOf e.instr with
  | .x o => some o
  | _ => none

/-- The formats that a matrix command accepts for A (10 R232). -/
def acceptsA (i : Instr) (f : BitVec 4) : Bool :=
  match i with
  | .mmau _ => f == 5
  | _ => f == 2 || (9 ≤ f.toNat && f.toNat ≤ 0xE)

/-- The instruction is a matrix command. -/
def isCommand : Instr → Bool
  | .mma _ | .mmaz _ | .mmau _ => true
  | _ => false

/-- The format of A: the fmt field, or the fill's FMT (10 R232). -/
def formatA (o : X) (fill : Shape) : BitVec 4 := if o.fmt != 0 then o.fmt else fill.fmt

/-- The columns that a window spans: VCOLS, or the elements in ROWBYTES less col0 (10 R229). -/
def windowCols (h : Shape) (f : BitVec 4) (col : Nat) : Int :=
  if h.vcols == 0xFFFF then (elemsIn f h.rowbytes.toNat : Int) - col else h.vcols.toNat

/-- row0 of a matrix operand's window. -/
def Shape.row0 (h : Shape) : Nat := (field h.stride 0 24).toNat

/-- col0 of a matrix operand's window. -/
def Shape.col0 (h : Shape) : Nat := (field h.stride 24 24).toNat

/-- The product that an entry describes, in a format of A. -/
def productOf (e : Entry) (o : X) (fa : BitVec 4) : Product :=
  let ha := e.own
  let hb := e.shapes.getD 1 Shape.reset
  let mix := bit o.ctl 1
  let fb : BitVec 4 := match e.instr with
    | .mmau _ => 2
    | _ => if mix && (fa == 0xB || fa == 0xC) then 0x17 - fa.toNat else fa
  let unfolded := o.unf != 0 && e.unf.layout != 0
  let bt := bit o.ctl 0
  let nb := windowCols hb fb hb.col0
  { fa := fa, fb := fb, m := ha.vrows.toNat
    n := if bt then hb.vrows.toNat else nb.toNat
    k := if unfolded && ha.vcols == 0xFFFF then ((e.unf.kh.toNat * e.unf.kw.toNat * e.unf.c.toNat : Nat) : Int) - ha.col0
         else windowCols ha fa ha.col0
    kb := if bt then nb else hb.vrows.toNat
    ra := ha.row0, ca := ha.col0, rb := hb.row0, cb := hb.col0
    bt := bt, mix := mix, unfolded := unfolded }

/-- An operand's own shape checks: the use rules, the tile's extent, ROWBYTES and the window's origin (07 R155; 10 R229).
The VCOLS of an unfolded A counts virtual columns, which ROWBYTES does not bound (10 R230). -/
def operandOk (h fill : Shape) (t : Tile) (f : BitVec 4) (unfolded : Bool) (w : Int) : Bool :=
  (if unfolded then { h with vcols := 0xFFFF } else h : Shape).useOk f && decide (h.rows.toNat * h.rowbytes.toNat ≤ t.extent.toNat) && h.rowbytes == fill.rowbytes && !bit h.stride 47 &&
    decide (0 ≤ w)

/-- The limits of a matrix command (10 R230, R231). -/
def Product.within (p : Product) (u : Unfold) (ta : Tile) : Bool :=
  decide (p.m ≤ 128) && decide (p.n ≤ 128) && decide (0 ≤ p.k) && decide (p.k ≤ 65536) && p.k == p.kb &&
    (!isBlock p.fa || (p.bt && p.ca % 32 == 0 && p.cb % 32 == 0 && p.k % 32 == 0 && !p.unfolded)) &&
    (!p.unfolded || decide (u.ih.toNat * u.iw.toNat * u.c.toNat * fmtWidth p.fa ≤ 8 * ta.extent.toNat))

/-- The forwarding checks of a matrix command, in the order of 07 R155 (10 R231, R232). The limits of R231 are those of the formats of R232's
table; an A in any other format meets the shape rules of its own format, then cause 0x10. -/
def commandCheck (s : State) (e : Entry) : Option Trap :=
  match e.xFields with
  | none => none
  | some o =>
    let ta := s.cx.tile o.ta
    let tb := s.cx.tile o.tb
    let fillA := e.fills.headD Shape.reset
    let fillB := e.fills.getD 1 Shape.reset
    let fa := formatA o fillA
    let known := acceptsA e.instr fa
    let p := productOf e o fa
    let hb := e.shapes.getD 1 Shape.reset
    let wa := if p.unfolded then p.k else windowCols e.own p.fa p.ca
    if ta.wb || !tb.wb then some (s.cuTrap 0x40)
    else if !(operandOk e.own fillA ta p.fa p.unfolded wa && operandOk hb fillB tb p.fb false (windowCols hb p.fb p.cb) && (!known || p.within e.unf ta)) then
      some (s.cuTrap 0x11)
    else if !known || (p.mix && fa != 0xB && fa != 0xC) || (fillA.fmt != 0 && fillA.fmt != fa) || (fillB.fmt != 0 && fillB.fmt != p.fb) then
      some (s.cuTrap 0x10)
    else none

/-! ## The partition (10 R225) -/

/-- Element (i, j) of C as 32 bits. -/
def accElem (p : Partition) (i j : Nat) : Nat := (field p (32 * (128 * i + j)) 32).toNat

/-- Every element (i, j) with i < m and j < n replaced, with the flags of all (10 R228). -/
def mapAcc (p : Partition) (m n : Nat) (f : Nat → Nat → Rounded) : Partition × Flags :=
  let row (i : Nat) : BitVec 4096 × Flags :=
    let rs := (List.range n).map (f i)
    let new := (rs.foldr (fun r a => a * 2 ^ 32 + r.code % 2 ^ 32) 0)
    let old := field p (4096 * i) 4096
    (if n == 0 then old else (old &&& ~~~((BitVec.allOnes 4096) >>> (4096 - 32 * n))) ||| BitVec.ofNat 4096 new,
      rs.foldl (fun a r => a ||| r.flags) 0)
  (List.range m).foldl (fun a i => (putField a.1 (4096 * i) (row i).1, a.2 ||| (row i).2)) (p, 0)

/-- The value of an element in the partition's kind. -/
def accValue (int : Bool) (code : Nat) : FVal := if int then elemValue 4 code else FFmt.fp32.value code

/-! ## Chunks (04 R87, R88; 10 R228) -/

/-- An element of a product's operand, as the exact value. -/
abbrev Elems := Nat → Nat → FVal

/-- The elements of a tile through its fill shape: row r, column c (10 R229). The valid extent of a fill without a format is VCOLS bytes of a
row (07 R154), whatever format the command reads (log entry 47). -/
def State.tileValues (s : State) (n : BitVec 6) (f : BitVec 4) (fill : Shape) (rows : Nat) (r0 : Nat) : Elems :=
  let fs : Shape := { fill with fmt := f }
  let rb := fill.rowbytes.toNat
  let data := (List.range rows).map fun i => leNat (s.getTile n ((r0 + i) * rb) rb)
  let outside := if isBlock f then blockValue f (fillBlock fs.fill) 0 else elemValue f (fs.fillElem f)
  fun r c => if r < fs.vrows.toNat && fill.brought f c then rowValue f (data.getD (r - r0) 0) c else outside

/-- The elements of the virtual matrix of an unfolded tile (07 R171; 10 R230). -/
def State.unfoldedValues (s : State) (n : BitVec 6) (f : BitVec 4) (u : Unfold) : Elems :=
  let w := fmtWidth f
  let size := u.ih.toNat * u.iw.toNat * u.c.toNat
  let data := leNat (s.getTile n 0 ((size * w + 7) / 8))
  let kh := u.kh.toNat
  let kw := u.kw.toNat
  let cc := u.c.toNat
  let ow := u.outW.toNat
  fun m k =>
    if u.outH.toNat * ow ≤ m || kh * kw * cc ≤ k then elemValue f 0
    else
      let r := if u.layout == 1 then k / cc else k % (kh * kw)
      let c := if u.layout == 1 then k % cc else k / (kh * kw)
      let y : Int := m / ow * u.sh.toNat + (r / kw) * u.dh.toNat - u.pt.toNat
      let x : Int := m % ow * u.sw.toNat + (r % kw) * u.dw.toNat - u.pl.toNat
      if 0 ≤ y && y < u.ih.toNat && 0 ≤ x && x < u.iw.toNat then
        let at_ := if u.layout == 1 then (y.toNat * u.iw.toNat + x.toNat) * cc + c else (c * u.ih.toNat + y.toNat) * u.iw.toNat + x.toNat
        elemValue f (elemOf w data at_)
      else elemValue f 0

/-- A of a product, by row i < M and column k. -/
def State.operandA (s : State) (e : Entry) (o : X) (p : Product) : Elems :=
  let v := if p.unfolded then s.unfoldedValues o.ta p.fa e.unf else s.tileValues o.ta p.fa (e.fills.headD Shape.reset) p.m p.ra
  fun i k => v (p.ra + i) (p.ca + k)

/-- B of a product, by row k and column j < N. -/
def State.operandB (s : State) (e : Entry) (o : X) (p : Product) : Elems :=
  let v := s.tileValues o.tb p.fb (e.fills.getD 1 Shape.reset) (if p.bt then p.n else p.kb.toNat) p.rb
  fun k j => if p.bt then v (p.rb + j) (p.cb + k) else v (p.rb + k) (p.cb + j)

/-- The exact sum of products of one chunk, and NV for 0 × ∞ or infinities of both signs (04 R87), which a NaN elsewhere in the chunk does not
hide (log entry 47). -/
def chunkSum (xs : List (FVal × FVal)) : FVal × Flags :=
  let ps := xs.map fun x => mulExact x.1 x.2
  let nv := ps.any fun p => p.2 != 0
  let isInf (n : Bool) : FVal × Flags → Bool := fun p => match p.1 with
    | .inf a => a == n
    | _ => false
  if nv || (ps.any (isInf true) && ps.any (isInf false)) then (.nan, fNV)
  else
    match ps with
    | [] => (.zero false, 0)
    | p :: r => (r.foldl (fun a q => (addExact false a q.1).1) p.1, 0)

/-- One chunk added to one element: floating (04 R87) or integer (04 R88). -/
def addChunk (int : Bool) (old : Nat) (xs : List (FVal × FVal)) : Rounded :=
  let (z, fl) := chunkSum xs
  if int then clampInt 4 (addExact false (elemValue 4 old) z).1
  else
    let r := roundTo FFmt.fp32 z .rne
    let t := addFp32 (FFmt.fp32.value old) (FFmt.fp32.value r.code)
    ⟨t.code, fl ||| r.flags ||| t.flags⟩

/-- The chunks of a product. -/
def Product.chunks (p : Product) : Nat := (p.k.toNat + 31) / 32

/-- Integer operand formats (10 R232). -/
def Product.int (p : Product) : Bool := p.fa == 2 || p.fa == 5

/-- Chunk c of a product added to the partition. -/
def Product.add (p : Product) (a b : Elems) (acc : Partition) (c : Nat) : Partition × Flags :=
  let n := min 32 (p.k.toNat - 32 * c)
  mapAcc acc p.m p.n fun i j =>
    addChunk p.int (accElem acc i j) ((List.range n).map fun d => (a i (32 * c + d), b (32 * c + d) j))

/-- Chunks c to d - 1 added to the current context's partition, their flags to ACCSTAT (10 R228, R239). -/
def State.addChunks (s : State) (e : Entry) (o : X) (c d : Nat) : State :=
  let p := productOf e o (formatA o (e.fills.headD Shape.reset))
  let a := s.operandA e o p
  let b := s.operandB e o p
  let (acc, fl) := (List.range (d - c)).foldl (fun (x : Partition × Flags) i =>
    let (y, f) := p.add a b x.1 (c + i)
    (y, x.2 ||| f)) (s.cx.acc, 0)
  { s with cx := { s.cx with acc := acc, accstat := { s.cx.accstat with flags := s.cx.accstat.flags ||| fl } } }

/-! ## The running column checksum (10 R235) -/

/-- The exact sum of values. -/
def FVal.sum (xs : List FVal) : FVal := xs.foldl (fun a x => (addExact false a x).1) (.zero false)

/-- The magnitude of a value. -/
def FVal.abs : FVal → FVal
  | .nan => .nan
  | .inf _ => .inf false
  | .fin _ m e s => .fin false m e s

/-- The k of chunk c. -/
def Product.chunkKs (p : Product) (c : Nat) : List Nat := (List.range (min 32 (p.k.toNat - 32 * c))).map (32 * c + ·)

/-- Column j of chunk c is checked: no operand of it is a NaN or an infinity. -/
def Product.columnChecked (p : Product) (a b : Elems) (c j : Nat) : Bool :=
  (p.chunkKs c).all fun k => !(b k j).notFinite && (List.range p.m).all fun i => !(a i k).notFinite

/-- Column j of chunk c mismatches. A sum of A that rounds to no finite value makes no mismatch, since R235 has it that no fault-free unit ever
fails (log entry 22). -/
def Product.columnFails (p : Product) (a b : Elems) (c j : Nat) : Bool :=
  let ks := p.chunkKs c
  let is := List.range p.m
  let sumA (k : Nat) : FVal :=
    let x := FVal.sum (is.map fun i => a i k)
    if p.int then x else FFmt.fp32.value (roundTo FFmt.fp32 x .rne).code
  let lhs := FVal.sum (is.map fun i => FVal.sum (ks.map fun k => (mulExact (a i k) (b k j)).1))
  let rhs := FVal.sum (ks.map fun k => (mulExact (sumA k) (b k j)).1)
  let mag := FVal.sum (ks.map fun k => (mulExact (FVal.sum (is.map fun i => (a i k).abs)) (b k j).abs).1)
  let tol := if p.int then .zero false else mag.shift (-23)
  !rhs.notFinite && tol.lt (addExact false lhs rhs.negate).1.abs

/-- A checked column of chunk c mismatches, or some column is checked and the check is to fail as injected. -/
def State.chunkFails (s : State) (e : Entry) (o : X) (c : Nat) (inj : Bool) : Bool :=
  let p := productOf e o (formatA o (e.fills.headD Shape.reset))
  let a := s.operandA e o p
  let b := s.operandB e o p
  (List.range p.n).any fun j => p.columnChecked a b c j && (inj || p.columnFails a b c j)

/-! ## Time and the level (10 R233, R234) -/

/-- n cycles in units of State.time. -/
def State.cycles (s : State) (n : Nat) : Nat := n * clockPeriod s.clock

/-- T, the cycles of one chunk (10 R233). -/
def Product.rate (p : Product) (u : Unfold) : Nat :=
  let t := if isBlock p.fa then 4 else if fmtWidth p.fa == 8 then 8 else 16
  if !p.unfolded || (u.layout == 1 && u.c.toNat % 32 == 0) then t else 2 * t

/-- The level after the last fetch of a granted command: the hold of 64 cycles or of a hint, or the fall that `.down` asked
for (10 R234). -/
def State.holdLevel (s : State) (b : Bench) (f : Nat) : Bench :=
  let start := if b.down then f + s.cycles 17
    else match b.hint with
      | some h => max f (h + s.cycles 4096) + s.cycles 80
      | none => f + s.cycles 80
  { b with level := 8, rising := false, stepAt := start }

/-- The level while the unit is held until busyUntil: it rises to 8 in the filler cycles, and holds from there (10 R234). -/
def State.fetchLevel (s : State) (b : Bench) : Bench :=
  if b.level == 8 then s.holdLevel b (b.busyUntil - s.cycles 1) else { b with rising := true, stepAt := s.time + s.cycles 16 }

/-- One step of the level that is due (10 R234). -/
def State.levelStep (s : State) (b : Bench) : Bench :=
  if b.stepAt == 0 then b
  else if b.rising then
    let l := min 8 (b.level + 1)
    if l == 8 then
      if b.stepAt < b.busyUntil then s.holdLevel b (b.busyUntil - s.cycles 1)
      else { b with level := 8, rising := false, stepAt := (b.hint.getD b.stepAt) + s.cycles (4096 + 80) }
    else { b with level := l, stepAt := b.stepAt + s.cycles 16 }
  else if b.level ≤ 1 then { b with level := 0, stepAt := 0, hint := none }
  else { b with level := b.level - 1, stepAt := b.stepAt + s.cycles 16, hint := none }

/-- The steps of the level that are due by now, at most n of them. -/
def State.levelSteps (s : State) (b : Bench) : Nat → Bench
  | 0 => b
  | n + 1 => if b.stepAt != 0 && b.stepAt ≤ s.time then s.levelSteps (s.levelStep b) n else b

/-- MHINT's change of the level (10 R234, R243). -/
def State.hintLevel (s : State) (b : Bench) (down : Bool) : Bench :=
  let fetching := decide (s.time < b.busyUntil)
  let b1 := { b with hint := if down then none else some s.time, down := down && fetching }
  if fetching then (if b1.rising then b1 else s.holdLevel b1 (b1.busyUntil - s.cycles 1))
  else if down then { b1 with rising := false, stepAt := if b.level == 0 then 0 else s.time + s.cycles 16 }
  else if b.level == 8 then { b1 with rising := false, stepAt := s.time + s.cycles (4096 + 80) }
  else { b1 with rising := true, stepAt := s.time + s.cycles 16 }

/-- Level steps that are due are taken. -/
def State.runLevels (s : State) : State := { s with benches := s.benches.map fun b => s.levelSteps b 20 }

/-! ## Arbitration (10 R222, R223) -/

/-- The core that the arbiter grants among those that present, and the bench after it. The arbiter makes one grant in a cycle, also where the
command granted has no chunk and holds the unit for none (log entry 32). -/
def Bench.pick (b : Bench) (present : List Nat) : Nat → Option (Nat × Bench)
  | 0 => present.head?.map fun k => (k, b)
  | fuel + 1 =>
    if b.visiting < 8 then
      let w := (b.roundWeights.toList.getD b.visiting 0).toNat
      if present.contains b.visiting && b.share < w then some (b.visiting, { b with share := b.share + 1 })
      else ({ b with visiting := b.visiting + 1, share := 0 } : Bench).pick present fuel
    else
      let b1 := { b with visiting := 0, share := 0, roundWeights := b.weights }
      if present.any (fun k => b.weights.toList.getD k 0 != 0) then b1.pick present fuel
      else present.head?.map fun k => (k, b1)

/-- The command at a context's MQ that it presents: the head when it is a matrix command that every other condition lets
issue, or one that stopped at a chunk boundary (10 R222, R237). -/
def Ctx.presents (c : Ctx) : Option Entry :=
  match c.mq.entries with
  | [] => none
  | e :: _ =>
    if c.life != .running || e.isVoid || !isCommand e.instr || c.now ≤ e.born || c.moving .mq then none
    else if c.mq.issued then (if c.mq.rstart then some e else none)
    else if c.mq.last == some c.now || c.mq.gone == some c.now then none
    else
      let y := e.instr.sync.getD Sync.plain
      if stallMet c.now c.mq.last y.stall && c.canTake y.takes && c.opersOk e then some e else none

/-- The contexts of a bench that present a command, by core within the bench, lowest first. -/
def State.presenting (s : State) (n : Nat) : List (Nat × CtxRef) :=
  (List.range 8).filterMap fun k =>
    (s.ctxs.find? fun c => !c.isQuay && c.benchNumber == n && c.coord.core.toNat % 8 == k && c.presents.isSome).map fun c => (k, c.ref)

/-- A zero partition of a kind, with bits [5:0] and CKF of ACCSTAT cleared (10 R232, R242). -/
def Ctx.clearAcc (c : Ctx) (int : Bool) : Ctx :=
  { c with acc := 0, accstat := { c.accstat with int := int, ckf := false, flags := 0 } }

/-- A matrix command has read its tiles (07 R152). -/
def Ctx.readDone (c : Ctx) (e : Entry) : Ctx := (readsOnce (opersOf e.instr)).foldl Ctx.finishOper c

/-- The current context's command is granted (10 R222, R232 to R234, R237): the kind is checked, MMAZ clears, and the unit
is held from the first fetch, after the filler cycles, to the last. A command without a chunk completes at its grant. -/
def State.grant (s : State) (b : Bench) (e : Entry) (o : X) : State :=
  let p := productOf e o (formatA o (e.fills.headD Shape.reset))
  let again := s.cx.mq.issued
  let zeroes := match e.instr with
    | .mmaz _ => true
    | _ => false
  if !again && !zeroes && s.cx.accstat.int != p.int then
    s.takeTrap { cause := 0x10, queue := 4, iaddr := e.iaddr }
  else
    let c0 := if again then { s.cx with mq := { s.cx.mq with rstart := false } } else s.cx.accept .mq e
    let c1 := if zeroes && !again then c0.clearAcc p.int else c0
    let n := p.chunks - (if again then c1.accstat.rchunk.toNat else 0)
    let first := s.time + s.cycles ((8 - b.level) * 16)
    if n == 0 then { s with cx := ((c1.readDone e).ringDone e).retire .mq }.setBench b
    else
      let last := first + s.cycles (n * p.rate e.unf - 1)
      let b1 := s.fetchLevel { b with busyUntil := last + s.cycles 1, hint := none, down := false }
      { s with cx := { c1 with mqFirst := first, mqLast := last } }.setBench b1

/-- A bench with the weights of another time: a round that begins takes those that stood at the cycle's start (10 R223; 02 R45). -/
def Bench.weighted (b : Bench) (w : Vector (BitVec 4) 8) : Bench := { b with weights := w }

/-- One round of the arbiter where the unit is free, among the commands and the weights that stood at the cycle's start (snap; 02 R45); a
cycle in which no core presents starts a new round. The level's steps that are due come first (10 R234). -/
def State.arbitrate (s snap : State) (n : Nat) : State :=
  let b := (s.levelSteps (s.bench n) 20).weighted (snap.bench n).weights
  let new := (s.bench n).weights
  if s.time < b.busyUntil then s
  else
    let ps := (snap.presenting n).filter fun p => (s.findCtx p.2).any fun c => c.presents.isSome && !s.isFrozen c
    if ps.isEmpty then
      if s.benches.any (·.num == n) then s.setBench (({ b with visiting := 0, share := 0, roundWeights := b.weights } : Bench).weighted new) else s
    else
      match b.pick (ps.map Prod.fst) 20 with
      | none => s
      | some (k, b1) =>
        match ps.find? (·.1 == k) with
        | none => s
        | some (_, r) =>
          match s.focus r with
          | none => s
          | some s1 =>
            match s1.cx.presents with
            | none => s
            | some e =>
              match e.xFields with
              | none => s
              | some o => s1.grant (b1.weighted new) e o

/-! ## The end of a fetch, completion and the checksum (10 R233 to R237) -/

/-- MQ's head has recorded the chunk at which it continues. -/
def Ctx.stopProduct (c : Ctx) (k : Nat) (ckf : Bool) : Ctx :=
  { c with mq := { c.mq with rstart := true },
           accstat := { c.accstat with rpv := true, rchunk := BitVec.ofNat 12 k, ckf := c.accstat.ckf || ckf } }

/-- The bank of a bench (26 R480). -/
def benchBank (n : Nat) : Nat := 1560 + n

/-- The chunk at which the command at MQ's head began this fetch. -/
def Ctx.firstChunk (c : Ctx) : Nat := if c.accstat.rpv then c.accstat.rchunk.toNat else 0

/-- n chunks from c are checked and added; one whose checksum fails stops the command there and traps it with cause 0x12 (10 R235, R236): at the
last fetch cycle that the grant planned, to which the unit is held, whichever chunk failed (log entry 32). The
answer says whether every chunk passed. -/
def State.runChunks (s : State) (e : Entry) (o : X) (c : Nat) : Nat → State × Bool
  | 0 => (s, true)
  | n + 1 =>
    let bank := benchBank s.cx.benchNumber
    let inj := s.injected bank
    if s.chunkFails e o c inj then
      let s1 := if inj then s.clearInj bank else s
      let s2 := { s1 with cx := s1.cx.stopProduct c true }
      let s3 := s2.machineCheck bank { sev := 2, cls := 0x76, synd := BitVec.ofNat 16 c, addr := none, info := some (s2.cx.mcInfo s2.cx.item 4) }
      (s3.takeTrap { cause := 0x12, queue := 4, iaddr := e.iaddr, code := 0x76, info := BitVec.ofNat 64 c, mc := true }, false)
    else (s.addChunks e o c (c + 1)).runChunks e o (c + 1) n

/-- The last fetch cycle of MQ's head has passed: its chunks are added, its tiles are read, it leaves the queue, and it
completes 18 cycles later (10 R233). -/
def State.endFetch (s : State) (e : Entry) (o : X) : State :=
  let p := productOf e o (formatA o (e.fills.headD Shape.reset))
  let c := s.cx.firstChunk
  match s.runChunks e o c (p.chunks - c) with
  | (s1, false) => s1
  | (s1, true) =>
    let y := e.instr.sync.getD Sync.plain
    { s1 with cx := { ((s1.cx.readDone e).retire .mq) with mqDone := s1.cx.mqDone ++ [(s1.cx.mqLast + s.cycles 18, if y.kind == 1 then y.rings else 0)],
                                                           accstat := { s1.cx.accstat with rpv := false } } }

/-- A stop of the context meets a granted command: the chunk in progress is added and checked, and the next is recorded (10 R237); in its
filler cycles none is in progress, and the level falls as from an idle unit. The unit is free once the chunk has been fetched. -/
def State.haltProduct (s : State) : State :=
  match s.cx.mq.entries with
  | [] => s
  | e :: _ =>
    match e.xFields with
    | none => s
    | some o =>
      if !s.cx.mq.issued || s.cx.mq.rstart || e.isVoid || !isCommand e.instr then s
      else
        let p := productOf e o (formatA o (e.fills.headD Shape.reset))
        let c := s.cx.firstChunk
        let b := s.bench s.cx.benchNumber
        if s.time < s.cx.mqFirst then
          ({ s with cx := s.cx.stopProduct c false } : State).setBench
            { b with busyUntil := s.time + s.cycles 1, rising := false, stepAt := if b.level == 0 then 0 else s.time + s.cycles 80 }
        else
          let t := s.cycles (p.rate e.unf)
          let n := 1 + (s.time - s.cx.mqFirst) / t
          if p.chunks ≤ c + n then s.endFetch e o
          else
            match s.runChunks e o c n with
            | (s1, false) => s1
            | (s1, true) =>
              let free := s.cx.mqFirst + n * t
              ({ s1 with cx := s1.cx.stopProduct (c + n) false } : State).setBench (s.holdLevel { b with busyUntil := free } (free - s.cycles 1))

/-- Matrix commands whose last chunk is in C by a time complete. -/
def Ctx.productsDone (c : Ctx) (t : Nat) : Ctx :=
  let due := c.mqDone.filter (·.1 ≤ t)
  due.foldl (fun c x => c.ring x.2)
    { c with mqDone := c.mqDone.filter fun x => !decide (x.1 ≤ t), mqEnded := if due.isEmpty then c.mqEnded else some c.now }

/-! ## Joins (10 R225, R240 to R244) -/

/-- AMLD's data: eight rows and the tag, with the flags of the conversion (10 R240). -/
def Ctx.amldData (c : Ctx) (o : X) : VReg × BitVec 4 × Flags :=
  let g := (field o.ctl 0 4).toNat
  let half := (bit o.ctl 4).toNat
  let f : BitVec 4 := if o.fmt != 0 then o.fmt else if c.accstat.int then 4 else 8
  let row (r : Nat) : Nat × Flags :=
    if f == 9 || f == 0xA then
      let rs := (List.range 128).map fun j => roundTo (ffmt f) (FFmt.fp32.value (accElem c.acc (8 * g + r) j)) .rne
      (rs.foldr (fun x a => a * 2 ^ 16 + x.code) 0, rs.foldl (fun a x => a ||| x.flags) 0)
    else ((field c.acc (32 * (128 * (8 * g + r) + 64 * half)) 2048).toNat, 0)
  let rows := (List.range 8).map row
  (BitVec.ofNat 16384 (rows.foldr (fun x a => a * 2 ^ 2048 + x.1) 0), f, rows.foldl (fun a x => a ||| x.2) 0)

/-- AMLD's format suits the partition's kind (10 R240). -/
def Ctx.amldOk (c : Ctx) (o : X) : Bool := o.fmt == 0 || (o.fmt == 4) == c.accstat.int

/-- The format that AMST stores (10 R241). -/
def Ctx.amstFormat (c : Ctx) (e : Entry) (o : X) : BitVec 4 :=
  if o.fmt != 0 then o.fmt else if e.own.fmt != 0 then e.own.fmt else if c.accstat.int then 4 else 8

/-- The formats that AMST stores at all. -/
def amstFmt (f : BitVec 4) : Bool := (2 ≤ f.toNat && f.toNat ≤ 4) || (8 ≤ f.toNat && f.toNat ≤ 0xC)

/-- AMST's checks at forwarding (10 R241): the buffer, the shape and its window, the formats. -/
def amstCheck (s : State) (e : Entry) : Option Trap :=
  match e.xFields with
  | none => none
  | some o =>
    let t := s.cx.tile o.ta
    let h := e.own
    let f := if o.fmt != 0 then o.fmt else h.fmt
    let g : BitVec 4 := if f != 0 then f else 8
    let cols := h.cols g
    if t.wb then some (s.cuTrap 0x40)
    else if !h.useOk g || t.extent.toNat < h.rows.toNat * h.rowbytes.toNat || bit h.stride 47 ||
        128 < h.row0 + h.vrows.toNat || 128 < h.col0 + cols then some (s.cuTrap 0x11)
    else if (o.fmt != 0 && h.fmt != 0 && o.fmt != h.fmt) || (f != 0 && !amstFmt f) then some (s.cuTrap 0x10)
    else none

/-- Row i of what AMST writes: its bytes and flags (10 R241). -/
def Ctx.amstRow (c : Ctx) (e : Entry) (f : BitVec 4) (i : Nat) : List Byte × Flags :=
  let h := e.own
  let n := h.cols f
  let w := fmtWidth f
  let rs := (List.range n).map fun j =>
    let x := accElem c.acc (h.row0 + i) (h.col0 + j)
    if c.accstat.int then convert f (elemValue 4 x) .rne else roundTo (ffmt f) (FFmt.fp32.value x) .rne
  (leBytes (n * w / 8) (rs.foldr (fun r a => a * 2 ^ w + r.code % 2 ^ w) 0), rs.foldl (fun a r => a ||| r.flags) 0)

/-- Flags of AMLD and AMST reach ACCSTAT. -/
def Ctx.accFlags (c : Ctx) (f : Flags) : Ctx := { c with accstat := { c.accstat with flags := c.accstat.flags ||| f } }

/-- A join, or another operation at MQ's head, completes (10 R240 to R242). -/
def State.endJoin (s : State) (e : Entry) (o : X) : State :=
  match e.instr with
  | .amld _ =>
    let (v, t, f) := s.cx.amldData o
    { s with cx := ((s.cx.setV o.ta v t).accFlags f).complete .mq e }
  | .amldStat _ =>
    let v := putField (s.cx.vreg o.ta) 0 s.cx.accstat.word
    { s with cx := (s.cx.setV o.ta v 7).complete .mq e }
  | .amst _ =>
    let f := s.cx.amstFormat e o
    let n := if e.own.cols f == 0 then 0 else e.own.vrows.toNat
    let s1 := (List.range n).foldl (fun s i => s.putTile o.ta (i * e.own.rowbytes.toNat) (s.cx.amstRow e f i).1) s
    let fl := (List.range n).foldl (fun a i => a ||| (s.cx.amstRow e f i).2) (0 : Flags)
    { s1 with cx := (s1.cx.accFlags fl).complete .mq e }
  | .amz o => { s with cx := (s.cx.clearAcc (o.fmt == 4)).complete .mq e }
  | _ => { s with cx := s.cx.complete .mq e }

/-- The cycles from issue to completion of what is not a matrix command; AMST writes 256 bytes of a row in each (10 R240 to R244). -/
def joinCycles (e : Entry) : Nat :=
  match e.instr with
  | .amld _ | .amldStat _ => 9
  | .amz _ => 4
  | .amst o =>
    let f := named o.fmt e.own
    let g : BitVec 4 := if f != 0 then f else 8
    max 1 (e.own.vrows.toNat * ((spanBytes g (e.own.cols g) + 255) / 256))
  | _ => 0

/-- The operation waits for every earlier MQ instruction to complete (10 R225, R243, R244). -/
def isJoin : Instr → Bool
  | .mhint _ => false
  | _ => true

/-- The partition's SRAM returns an uncorrectable error to AMLD or AMST, as injected: nothing is written, the error is logged as contained, and
the instruction traps (10 R226). -/
def State.partitionError (s : State) (e : Entry) : State :=
  let bank := benchBank s.cx.benchNumber
  let s1 := (s.clearInj bank).machineCheck bank { sev := 2, cls := 0x71, synd := 0, addr := none, info := some (s.cx.mcInfo s.cx.item 4) }
  s1.takeTrap { cause := 0x25, queue := 4, iaddr := e.iaddr, code := 0x71, mc := true }

/-- The head of MQ, which is no matrix command, issues; a kind that does not suit it traps (10 R240, R241). -/
def State.issueJoin (s : State) (e : Entry) : State :=
  let trap : State := s.takeTrap { cause := 0x10, queue := 4, iaddr := e.iaddr }
  let bank := benchBank s.cx.benchNumber
  let go (s : State) : State :=
    { s with cx := { (s.cx.accept .mq e) with mqFirst := s.time, mqLast := s.time + s.cycles (joinCycles e) } }
  if e.isVoid then { s with cx := (s.cx.accept .mq e).complete .mq e }
  else
    match e.instr with
    | .amld o => if !s.cx.amldOk o then trap else if s.injected bank then s.partitionError e else go s
    | .amst o =>
      let f := s.cx.amstFormat e o
      if (isInteger f) != s.cx.accstat.int then trap
      else if s.injected bank && !e.own.isEmpty then s.partitionError e
      else
        let s1 := go s
        { s1 with cx := s1.cx.beginOper (tileOp o.ta .fill) }
    | .mhint o =>
      let s1 := { s with cx := (s.cx.accept .mq e).complete .mq e }
      if s.cx.isQuay || !s.cx.hasAcc then s1
      else s1.setBench (s1.hintLevel (s1.levelSteps (s1.bench s1.cx.benchNumber) 20) (bit o.ctl 0))
    | .msync _ => { s with cx := (s.cx.accept .mq e).complete .mq e }
    | _ => go s

/-! ## The instructions -/

/-- Forwarding to the matrix queue; the X family has no guard (05 R99). -/
def forwardMatrix (i : Instr) (check : State → Entry → Option Trap) (s : State) : Host.Outcome State Fault Refusal :=
  s.forward .mq i true check

/-- MMA (10 R239). -/
def execMma (o : X) (s : State) := forwardMatrix (.mma o) commandCheck s
/-- MMAZ (10 R232, R239). -/
def execMmaz (o : X) (s : State) := forwardMatrix (.mmaz o) commandCheck s
/-- MMAU (10 R232, R239). -/
def execMmau (o : X) (s : State) := forwardMatrix (.mmau o) commandCheck s
/-- AMLD, data form (10 R240). -/
def execAmld (o : X) (s : State) := forwardMatrix (.amld o) noCheck s
/-- AMLD, status form (10 R240). -/
def execAmldStat (o : X) (s : State) := forwardMatrix (.amldStat o) noCheck s
/-- AMST (10 R241). -/
def execAmst (o : X) (s : State) := forwardMatrix (.amst o) amstCheck s
/-- AMZ (10 R242). -/
def execAmz (o : X) (s : State) := forwardMatrix (.amz o) noCheck s
/-- MHINT (10 R243). -/
def execMhint (o : X) (s : State) := forwardMatrix (.mhint o) noCheck s
/-- MSYNC (10 R244). -/
def execMsync (o : X) (s : State) := forwardMatrix (.msync o) noCheck s

/-- MWRR (10 R224): the weight of one core of a bench, from the next round. -/
def execMwrr (o : SI) (s : State) : Host.Outcome State Fault Refusal :=
  s.run (.mwrr o) (s.cx.guard o.pg o.pn) fun s =>
    let n := (s.cx.sreg o.sa).toNat
    if 191 < n then s.stopTrap 0x02
    else
      let b := s.bench n
      .next (s.setBench { b with weights := b.weights.set (field o.imm24 0 3 : BitVec 3).toNat (field o.imm24 8 4) (by omega) }) s.after

/-! ## The events of chapter 10 -/

/-- MATRIX_GRANT: the arbiter of a bench grants a command, if its unit is free (10 R222, R223). -/
def execMatrixGrant (bench : Nat) (s : State) : Host.Outcome State Fault Refusal :=
  .next (s.arbitrate s bench)

/-- MQ's head, a product in its last fetch cycle or past it, ends its fetch, and those whose 18 cycles are over complete (10 R233). -/
def State.productCompletion (s : State) : State :=
  let s1 := match s.cx.mq.entries with
    | e :: _ =>
      match e.xFields with
      | some o =>
        if s.cx.mq.issued && !s.cx.mq.rstart && !e.isVoid && isCommand e.instr && s.cx.mqLast ≤ s.time then s.endFetch e o else s
      | none => s
    | [] => s
  { s1 with cx := s1.cx.productsDone s1.time }

/-- MATRIX_COMPLETION: the product at a context's MQ ends its fetch once it is due, and those already fetched complete when they are (10
R233). -/
def execMatrixCompletion (c : CtxRef) (s : State) : Host.Outcome State Fault Refusal :=
  .next (match s.focus c with
    | none => s
    | some s1 => s1.productCompletion)

/-- LEVEL_STEP: the level's pending step is taken once it is due (10 R234). -/
def execLevelStep (bench : Nat) (s : State) : Host.Outcome State Fault Refusal :=
  let b := s.bench bench
  .next (if b.stepAt != 0 && b.stepAt ≤ s.time then s.setBench (s.levelStep b) else s)

/-- MHINT_HOLD_EXPIRY: 4,096 cycles after an `.up` without a grant its hold ends, and the idle rule applies from there (10 R234). -/
def execMhintHoldExpiry (bench : Nat) (s : State) : Host.Outcome State Fault Refusal :=
  let b := s.bench bench
  .next (match b.hint with
    | some h =>
      if h + s.cycles 4096 ≤ s.time && b.busyUntil ≤ s.time then
        s.setBench { b with hint := none, rising := false, stepAt := if b.level == 0 then 0 else h + s.cycles (4096 + 80) }
      else s
    | none => s)

end Sys2Proof.Machine
end

