-- ==== Sys2Proof/Machine/Ports.lean ====
section
/-! DEFINITION. The message port: how an NQ instruction is handed over and completes (16 R324, R338; 23 R457), packets
towards other nodes (23 R440 to R446), and where an operation's outcome goes (17 R361, R362; 16 R338). -/

namespace Sys2Proof.Machine

/-! ## Completion words (12 R262) -/

/-- A record that cannot be read or written is named in a log entry of the bank of its context's core; of a context that has gone, in that of the
management core, with this node as COORD (16 R508; 26 R483; log entry 42). -/
def State.logRecord (s : State) (c : Option Ctx) (item : Nat) : State :=
  match c with
  | none => s.machineCheck 1863 { sev := 2, cls := 0x79, synd := 0, addr := none, info := some (at' s.node 55 ||| at' item 31) }
  | some x => s.machineCheck x.coreNumber { sev := 2, cls := 0x79, synd := 0, addr := none, info := some (x.mcInfo item 0) }

/-- A record's bytes are written where no line of theirs is poisoned (26 R483): the state, or the cause. -/
def State.recordWrite (s : State) (sp : Space) (a : Word) (bs : List Byte) : Except (BitVec 7) State :=
  match s.agentAccess sp a bs.length .store with
  | .fail f => .error f.cause
  | .ok s1 gs => if segsPoisoned s1.poison gs then .error 0x25 else .ok (s1.homeWrite gs bs)

/-- A device write of bytes for a context; one that faults or meets a poisoned line is not made and is logged (16 R508; 26 R483). -/
def State.deviceWrite (s : State) (c : Option Ctx) (sp : Space) (a : Word) (bs : List Byte) (item : Nat) : State :=
  match s.recordWrite sp a bs with
  | .ok s1 => s1
  | .error _ => s.logRecord c item

/-- A failed access of a device agent is a page fault that the management core is still to answer, or waits for the host link (16 R508; 23
R463; 27 R493). -/
def State.openFault (s : State) (sp : Space) (f : Fail) : Bool :=
  f.cause == 0 || (f.cause == 0x20 && !s.unmapped.contains (sp, f.va.toNat / 65536))

/-- A device agent's access meets no page, which the management core is to answer while the operation waits (16 R508). -/
def State.absent (s : State) (sp : Space) (a : Word) (len : Nat) (k : Access) : Bool :=
  match s.agentAccess sp a len k with
  | .fail f => s.openFault sp f
  | .ok _ _ => false

/-- DONE, CAUSE and CODE of a status word (17 R362; 16 R338; 23 R459). -/
def statusWord (code : Nat) (cause : BitVec 7) : Word := bitAt true 63 ||| place cause 56 ||| at' code 0

/-- An operation of a context that was handed over completes: its bell rings (17 R361). -/
def State.completePort (s : State) (o : Origin) : State :=
  match o with
  | .ctx c _ serial _ ring _ => s.modCtx c fun x => ({ x with handed := x.handed.erase serial } : Ctx).ring ring
  | .none | .link _ _ | .node _ _ | .copy _ | .deferred => s

/-- The trap at the next boundary for a failure that no status word reports (17 R361; 23 R457, R459). va: the address that failed (26 R476). -/
def State.trapAfter (s : State) (o : Origin) (cause : BitVec 7) (info : Word) (va : Word := 0) : State :=
  match o with
  | .ctx c _ _ iaddr _ _ =>
    s.modCtx c fun x =>
      { x with after := x.after ++ [({ cause := cause, queue := 5, iaddr := iaddr, va := addressFor cause va, info := info } : Trap).record 0] }
  | .none | .link _ _ | .node _ _ | .copy _ | .deferred => s

/-! ## Future records (19 R400) -/

/-- The 32 bytes of a future record; state overrides the entry's where it is given. -/
def futureRecord (h : Word) (result : Nat) (state : Option Nat) (f : Option Future) : List Byte :=
  match f with
  | none => wordBytes h ++ leBytes 2 0 ++ [BitVec.ofNat 8 (0x80 + result)] ++ List.replicate 21 0
  | some x =>
    let st := state.getD (match x.state with | .free => 0 | .armed => 1 | .resolving => 2 | .resolved => 3)
    wordBytes h ++ [BitVec.ofNat 8 st, BitVec.ofNat 8 x.status, BitVec.ofNat 8 (0x80 + result),
      if x.link.isSome then BitVec.ofNat 8 (0x80 + x.code) else 0] ++ leBytes 2 x.count ++ [BitVec.ofNat 8 x.dropped.toNat, 0] ++
      leBytes 4 x.detail ++ leBytes 4 0 ++ leBytes 8 x.stampr

/-- The context that an operation came from. -/
def State.originCtx (s : State) (o : Origin) : Option Ctx :=
  match o with
  | .ctx c _ _ _ _ _ => s.findCtx c
  | .none | .link _ _ | .node _ _ | .copy _ | .deferred => none

/-- The handle of an entry of the future table (19 R379). -/
def State.handleOf (s : State) (f : Future) : Word := at' s.node 55 ||| at' f.index 37 ||| at' (f.gen % 8192) 24 ||| place f.key 0

/-- The entry of a handle that a linked decrement comes from: in use, or consumed since. -/
def State.linkedFuture (s : State) (h : Word) : Option Future :=
  (s.futures ++ s.consumed).find? fun f => f.state != .free && s.handleOf f == h

/-- An entry without a request: free, with its generation. -/
def Future.blank (i gen : Nat) : Future :=
  { index := i, state := .free, gen := gen, key := 0, launch := 0, space := ⟨0, none⟩, args := 0, narg := 0, repcap := 0, reply := 0,
    ring := 0, fbaddr := 0, fblen := 0, deadline := 0, status := 0, detail := 0, link := none, code := 0xF, count := 0, dropped := false,
    stampr := 0, adapter := none, await := .nothing, replies := [] }

/-- The linked decrement of a future has its code: the records that FLINKs name are written (19 R401), and a
future that resolves is resolved with it, or consumed where its launch has ended (R388, R403). -/
def State.linkDone (s : State) (h : Word) (code : Nat) : State :=
  match s.linkedFuture h with
  | none => s
  | some f =>
    let gone := s.consumed.contains f
    let g := if f.await == .sent then { f with code := code, replies := [], await := .nothing, state := .resolved } else { f with code := code, replies := [] }
    let ended := f.await == .sent && f.launch == 0
    let g1 := if ended then Future.blank f.index ((f.gen + 1) % 8192) else g
    f.replies.foldl (fun s r => s.deviceWrite (s.originCtx r.2.2.2) r.2.2.1 r.2.1 (futureRecord r.1 0 (if gone then some 4 else none) (some g)) 5)
      { s with futures := s.futures.map fun x => if x == f then g1 else x, consumed := s.consumed.erase f }

/-! ## Packets (23 R440 to R446, R451) -/

/-- A unit of a copy has been accepted by the package that it is for: its bytes are there, and copied (23 R463; 24 R471). -/
def State.landUnit (s : State) (x : Sent) : State :=
  match x.origin with
  | .copy num =>
    let n := x.payload.length
    { s.homeWrite [(devKey x.hdr.dest (field x.hdr.arg0 0 52).toNat, n)] x.payload true with
      copies := s.copies.map fun c => if c.num == num then { c with done := c.done + n, ahead := c.ahead - n } else c }
  | .none | .ctx _ _ _ _ _ _ | .link _ _ | .node _ _ | .deferred => s

/-- A unit of a copy cannot be delivered: its copy ends with the cause (23 R450, R453, R463). -/
def State.breakCopy (s : State) (num : Nat) (cause : BitVec 7) : State :=
  { s with copies := s.copies.map fun c => if c.num == num && c.broken == 0 then { c with broken := cause } else c }

/-- What a port answers to a packet. -/
inductive Carried where
  | gone (s : State)
  | waits
  | failed (cause : BitVec 7)

/-- A packet of this node, or in transit, goes to its port (23 R441 to R446): it fails where the route meets a port out of
service, and waits for a key, for credits of its class and channel, and for room in the replay buffer. -/
def State.carry (s : State) (h : MsgHeader) (payload : List Byte) (o : Origin) (vc : Bool) (dim : Nat) : Carried :=
  if !s.reachable h.dest then .failed 0x58
  else
    match s.portTo h.dest with
    | none => .failed 0x58
    | some n =>
      let p := s.portAt n
      let cr := 2 * h.cls.toNat + (s.nextVc n vc dim).toNat
      if p.state != .up || !p.keyed || !p.epochRoom || p.credits.toList.getD cr 0 < flitsOf payload.length ||
          1024 < p.held + flitsOf payload.length then .waits
      else .gone (s.setPort n (p.send h payload o cr))

/-- A flight begins. -/
def State.launchFlight (s : State) (l : Load) (o : Origin) (port : Nat := 0) : State :=
  { s with flights := s.flights ++ [{ load := l, origin := o, busy := 0, due := 0, away := false, parked := false, port := port }] }

/-- The answer to another node's message travels as a response packet, whose layout the manual leaves open (log entry 13): the
routing tag, the message's name, member, register and slot, the status word in ARG0, zero for a busy answer, and in ARG1 the cohort's location as
its home knows it, one more than its node (17 R347). -/
def State.respond (s : State) (n : Nat) (h : MsgHeader) (w : Word) (data : List Byte) (loc : Word := 0) : State :=
  s.launchFlight (.packet { h with dest := n, src := s.node, cls := 1, rel := false, scope := 0, len := data.length, arg0 := w,
                                   arg1 := loc, arg2 := 0, arg3 := 0 } data false 3) .none

/-- The header under which an arrival travels between nodes. -/
def Arrival.header (a : Arrival) (dest src : Nat) (bytes : List Byte) : MsgHeader :=
  let msg := a.kind == 4
  { dest := dest, src := src, cls := if msg && a.value ≤ 160 || a.kind == 2 || a.kind == 3 then 0 else 2, rel := a.rel, scope := a.scope
    len := if msg then a.value else if a.kind == 1 then 2048 else 0
    handler := if msg then a.record else if a.kind == 1 then builtIn 0x18 else if a.kind == 2 then builtIn 0x28 else builtIn 0x20
    name := a.name, member := a.member, reg := a.reg, slot := if msg then recNat bytes 22 2 else 0, tag := a.sender
    arg0 := if msg then recWord bytes 32 else if a.kind == 1 then place a.rows 0 ||| place a.tag 8 else a.record
    arg1 := if msg then recWord bytes 40 else if a.kind == 1 then a.stataddr else BitVec.ofNat 64 a.value
    arg2 := if msg then recWord bytes 48 else 0
    arg3 := if msg then recWord bytes 56 else 0 }

/-- The 64 bytes of a message header (23 R445). -/
def headerBytes (h : MsgHeader) : List Byte :=
  leBytes 2 h.dest ++ leBytes 2 h.src ++ [h.cls.setWidth 8, h.rel.toNat + 2 * h.scope.setWidth 8] ++ leBytes 2 h.len ++
    wordBytes h.handler ++ leBytes 4 h.name.toNat ++ [BitVec.ofNat 8 h.member, BitVec.ofNat 8 h.reg] ++ leBytes 2 h.slot ++
    wordBytes h.tag ++ wordBytes h.arg0 ++ wordBytes h.arg1 ++ wordBytes h.arg2 ++ wordBytes h.arg3

/-- The bytes that travel with an arrival. -/
def Arrival.payload (a : Arrival) (bytes : List Byte) : List Byte :=
  if a.kind == 1 then leBytes 2048 a.data.toNat else if a.kind == 4 then bytes.drop 64 else []

/-! ## Handing over (16 R324, R338; 23 R457) -/

/-- How the issue of an NQ instruction ends. -/
inductive Handed where
  /-- It is handed over and retires; the operation is under way or complete. -/
  | over (s : State)
  /-- It stays in service at the head of NQ. -/
  | waits (s : State)
  /-- It stays unissued at the head, to be tried again: an operation of its queue that it must follow is under way. -/
  | stays
  /-- A fault stops its context, with no effect, and it stays unissued at the head (00 R8). -/
  | fails (f : Fail)

/-- An NQ instruction's own effect at issue. -/
abbrev PortBody := State → Entry → N → Handed

/-- The bell that rings at completion. -/
def Entry.ringsDone (e : Entry) : BitVec 5 :=
  let y := e.instr.sync.getD Sync.plain
  if y.kind == 1 then y.rings else 0

/-- Where an instruction's status word or record goes: none where sc is s0 (16 R338; 17 R362; 19 R396; 21 R431). -/
def Entry.status (e : Entry) : Option Word :=
  match fieldsOf e.instr with
  | .n o => if o.sc == 0 then none else some e.opc
  | _ => none

/-- The origin of an operation that completes with its outcome, with the next serial number. -/
def State.originOf (s : State) (e : Entry) (status : Option Word) : Origin :=
  .ctx s.cx.ref s.cx.space s.serial e.iaddr e.ringsDone status

/-- The operation is under way until its outcome. -/
def State.handOver (s : State) : State :=
  { s with serial := s.serial + 1, cx := { s.cx with handed := s.cx.handed ++ [s.serial] } }

/-- The operation completes at its hand-over. -/
def State.ringNow (s : State) (e : Entry) : State := { s with cx := s.cx.ring e.ringsDone }

/-- The context that an origin names. -/
def Origin.sender : Origin → Option CtxRef
  | .ctx c _ _ _ _ _ => some c
  | .none | .link _ _ | .node _ _ | .copy _ | .deferred => Option.none

/-- Two ranges of addresses meet. -/
def rangesMeet (a n b m : Nat) : Bool := decide (a < b + m) && decide (b < a + n)

/-- Who issued a copy. -/
def Copy.sender (c : Copy) : Option CtxRef :=
  match c.serves with
  | .cpy o | .cpyw o _ _ _ => o.sender
  | .node _ _ => none

/-- The ranges that a copy writes: its destination, and the words of a CPYW. -/
def Copy.writes (c : Copy) : List (Nat × Nat) :=
  (c.dst.toNat, c.len) :: match c.serves with
    | .cpyw _ flag _ status => [(flag.toNat, 8), (status.toNat, 8)].filter fun x => x.1 != 0
    | .cpy _ | .node _ _ => []

/-- The ranges that a REDST whose blocks wait in queues updates or writes. -/
def Reduction.writes (r : Reduction) : List (Nat × Nat) :=
  (r.dests.map fun d => (d.toNat, r.len)) ++ if r.compl == 0 then [] else [(r.compl.toNat, 16)]

/-- A range meets one of a list. -/
def meetsAny (a n : Nat) (xs : List (Nat × Nat)) : Bool := xs.any fun x => rangesMeet a n x.1 x.2

/-- A copy or a REDST that the current context issued before is under way on a range: what it writes, or for a write what it reads too. Operations of
one queue on a common location keep their order (12 R256). -/
def State.copyBusy (s : State) (a : Word) (len : Nat) (writes : Bool) : Bool :=
  (s.copies.any fun c => c.sender == some s.cx.ref &&
    (meetsAny a.toNat len c.writes || (writes && rangesMeet a.toNat len c.src.toNat c.len))) ||
  s.reductions.any fun r => r.origin.sender == some s.cx.ref && meetsAny a.toNat len r.writes

/-- A read of the port at issue, in the context's address space. onlyVirt: a device agent's structure (12 R509). -/
def State.portRead (s : State) (a : Word) (len : Nat) (onlyVirt : Bool) (body : State → List Byte → Handed) : Handed :=
  if s.copyBusy a len false then .stays
  else match s.access none a.toNat len .load onlyVirt with
  | .fail f => .fails f
  | .ok s1 gs =>
    if segsPoisoned s1.poison gs then .fails ⟨0x25, a, .load, false⟩ else body s1 (readSegs s1.mem gs)

/-- A write of the port at issue. -/
def State.portWrite (s : State) (a : Word) (bs : List Byte) (onlyVirt : Bool) (body : State → Handed) : Handed :=
  if s.copyBusy a bs.length true then .stays
  else match s.access none a.toNat bs.length .store onlyVirt with
  | .fail f => .fails f
  | .ok s1 gs => body ((s1.homeWrite gs bs true).askStores gs bs)

/-- What the port writes later must be writable at issue: a fault leaves the instruction unissued (16 R338; 21 R431). -/
def State.portProbe (s : State) (a : Word) (len : Nat) (next : Handed) : Handed :=
  if s.copyBusy a len true then .stays
  else match s.access none a.toNat len .store true with
  | .fail f => .fails f
  | .ok _ _ => next

/-- A precise trap at forwarding. va: the operand that an address check refuses (26 R476). -/
def portTrap (s : State) (cause : BitVec 7) (va : Word := 0) : Option Trap := some { s.cuTrap cause with va := addressFor cause va }

/-- The address is a multiple. -/
def aligned (a : Word) (n : Nat) : Bool := a.toNat % n == 0

/-- The trap for operands that are not multiples of what each needs to be: the first of them. -/
def portMisaligned (s : State) (xs : List (Word × Nat)) : Option Trap :=
  match xs.find? fun x => !aligned x.1 x.2 with
  | some x => portTrap s 0x24 x.1
  | none => none

/-- The address lies in window 0x0. -/
def inVirtual (a : Word) : Bool := field a 60 4 == (0 : BitVec 4)

/-- Forwarding to NQ; the N family has no guard (05 R114). -/
def forwardPort (i : Instr) (check : State → Entry → Option Trap) (s : State) : Host.Outcome State Fault Refusal := s.forward .nq i true check

/-- The coordinate of an arrival's sender. -/
def State.arrivalOf (s : State) (e : Entry) (o : N) (kind : Nat) : Arrival :=
  { name := field e.opa 0 32, member := 0, reg := 0, rows := 0, tag := 0, kind := kind, rel := false, scope := o.scope, seq := 0,
    sender := s.cx.coord.word, stataddr := e.status.getD 0, stamp := 0, record := 0, value := 0, data := 0 }

end Sys2Proof.Machine
end

