-- ==== Sys2Proof/Machine/Tasks.lean ====
section
/-! DEFINITION. Tasks: the record (16 R327, R508), run lists (R330, R331), dequeue and steal (R332, R333), dependence counters
(R328, R329) and the instructions TASKQ, TASKDEC, TEND and QSNAP (R338 to R342). -/

namespace Sys2Proof.Machine

/-! ## The task record -/

/-- COMPL of a record takes bit 63 and a status, where it is non-zero and can be written (16 R327, R508). -/
def State.taskCompl (s : State) (c : Option Ctx) (sp : Space) (rec : Word) (status : Nat) : State :=
  match s.agentRead sp (rec + 24) 8 with
  | .error _ => s
  | .ok (s1, bs) =>
    let a := recWord bs 0
    if a == 0 then s1 else s1.deviceWrite c sp a (wordBytes (bitAt true 63 ||| at' status 0)) 2

/-- COMPL of a record lies on an absent page. -/
def State.complAbsent (s : State) (sp : Space) (rec : Word) : Bool :=
  match s.agentRead sp (rec + 24) 8 with
  | .error _ => false
  | .ok (s1, bs) => recWord bs 0 != 0 && s1.absent sp (recWord bs 0) 8 .store

/-- COMPL takes a status, once its page is present (16 R508). -/
def State.complLater (s : State) (c : Option Ctx) (sp : Space) (rec : Word) (status : Nat) : State :=
  if s.complAbsent sp rec then { s with owed := s.owed ++ [⟨c.map Ctx.ref, sp, rec, [], status⟩] } else s.taskCompl c sp rec status

/-- Device writes to fields of a record, at its home (12 R250): offsets and bytes. Where they fault none is made, the fault is logged and COMPL
reports its cause; the second result is that cause (16 R508). -/
def State.taskWrite (s : State) (c : Option Ctx) (sp : Space) (rec : Word) (ws : List (Nat × List Byte)) : State × Option (BitVec 7) :=
  match s.agentAccess sp rec 128 .store with
  | .fail f => (((s.logRecord c 2).complLater c sp rec (0x80 + f.cause.toNat)), some f.cause)
  | .ok s1 gs =>
    if segsPoisoned s1.poison gs then (((s.logRecord c 2).complLater c sp rec 0xA5), some 0x25)
    else (ws.foldl (fun s w => s.homeWrite [((gs.headD (0, 0)).1 + w.1, w.2.length)] w.2) s1, none)

/-- A task is settled: fields of its record, then COMPL with a status; with a page absent the whole of it waits (16 R327, R508). -/
def State.taskSettle (s : State) (c : Option Ctx) (sp : Space) (rec : Word) (ws : List (Nat × List Byte)) (status : Nat) : State :=
  if ws.isEmpty then s.complLater c sp rec status
  else if s.absent sp rec 128 .store || s.complAbsent sp rec then { s with owed := s.owed ++ [⟨c.map Ctx.ref, sp, rec, ws, status⟩] }
  else
    let (s1, bad) := s.taskWrite c sp rec ws
    if bad.isSome then s1 else s1.taskCompl c sp rec status

/-- Settlements that wait for a page are tried again (16 R508). -/
def State.settleOwed (s : State) : State :=
  s.owed.foldl (fun s x => s.taskSettle (x.ctx.bind s.findCtx) x.space x.record x.writes x.status) { s with owed := [] }

/-- A task ends: STATUS, STAMPC and then COMPL (16 R327, R341). -/
def State.taskEnd (s : State) (c : Option Ctx) (sp : Space) (rec : Word) (status : Nat) : State :=
  s.taskSettle c sp rec [(99, [BitVec.ofNat 8 status]), (88, leBytes 8 s.ns)] status

/-- A task fails without an activation: STATUS and COMPL (16 R329, R332, R336). -/
def State.taskFail (s : State) (c : Option Ctx) (sp : Space) (rec : Word) (status : Nat) : State :=
  s.taskSettle c sp rec [(99, [BitVec.ofNat 8 status])] status

/-- The task of the current context's activation, if it is one, ends with a status (16 R336, R341). -/
def State.endTask (s : State) (status : Nat) : State :=
  match s.cx.cause with
  | .task rec => if s.cx.life == .idle then s else s.taskEnd (some s.cx) s.cx.space rec status
  | .launch | .message _ => s

/-! ## Run lists (16 R330, R331) -/

/-- The fields of a run-list block that the device uses. -/
structure RunBlock where
  ring : Word
  size : Nat
  head : Nat
  tail : Nat
deriving DecidableEq, Repr

/-- Entries in the ring, which has room for SIZE of them whatever its counters say. -/
def RunBlock.count (b : RunBlock) : Nat := min ((b.tail + 2 ^ 64 - b.head) % 2 ^ 64) b.size

/-- The run-list block of a context. -/
def State.runBlockOf (s : State) (c : Ctx) : Option RunBlock :=
  match s.agentRead c.space c.runBlock 64 with
  | .error _ => none
  | .ok (_, bs) => some ⟨recWord bs 0, recNat bs 8 4, recNat bs 16 8, recNat bs 24 8⟩

/-- A counter of the run-list block is written. -/
def State.putRun (s : State) (c : Ctx) (off x : Nat) : State := s.agentPut c.space (c.runBlock + BitVec.ofNat 64 off) (BitVec.ofNat 64 x)

/-- A counter of the run-list block advances. -/
def State.bumpRun (s : State) (c : Ctx) (off : Nat) : State :=
  match s.agentRead c.space (c.runBlock + BitVec.ofNat 64 off) 8 with
  | .error _ => s
  | .ok (s1, bs) => s1.putRun c off (recNat bs 0 8 + 1)

/-- The address of a ring entry by its running number. -/
def RunBlock.slot (b : RunBlock) (n : Nat) : Word := b.ring + BitVec.ofNat 64 (8 * (n % max 1 b.size))

/-- One refill of the hardware list of the context that a reference names; none where the list is full or the ring empty. -/
def State.refillStep (s : State) (r : CtxRef) : Option State :=
  match s.findCtx r with
  | none => none
  | some c =>
    if 64 ≤ c.runList.length then none
    else
      match s.runBlockOf c with
      | none => none
      | some b =>
        if b.count == 0 then none
        else
          match s.agentRead c.space (b.slot b.head) 8 with
          | .error _ => none
          | .ok (s1, bs) =>
            some ((s1.modCtx r fun c => { c with runList := c.runList ++ [recWord bs 0] }).putRun c 16 ((b.head + 1) % 2 ^ 64))

/-- One refill, where there is one. -/
def State.refillOne (s : State) (r : CtxRef) : State := (s.refillStep r).getD s

/-- The hardware list takes what it can: refills are made wherever an entry is removed, enqueued or looked for (16 R331). -/
def State.refill (s : State) (r : CtxRef) : Nat → State
  | 0 => s
  | n + 1 => match s.refillStep r with
    | none => s
    | some s1 => s1.refill r n

/-- A record is appended to a context's run list; none where its ring is full. -/
def State.enqueue (s0 : State) (c0 : Ctx) (rec : Word) : Option State :=
  let s := s0.refill c0.ref 64
  let c := (s.findCtx c0.ref).getD c0
  match s.runBlockOf c with
  | none => if c.runList.length < 64 then some (s.modCtx c.ref fun c => { c with runList := c.runList ++ [rec] }) else none
  | some b =>
    if b.count == 0 && c.runList.length < 64 then some (s.modCtx c.ref fun c => { c with runList := c.runList ++ [rec] })
    else if b.size ≤ b.count + 64 then none
    else some ((s.agentPut c.space (b.slot b.tail) rec).putRun c 24 ((b.tail + 1) % 2 ^ 64))

/-- A task becomes queued at its home member: STATUS and STAMPQ. -/
def State.queueTask (s : State) (c : Ctx) (rec : Word) : Option State :=
  (s.enqueue c rec).map fun s1 =>
    (s1.taskWrite (some c) c.space rec [(99, [0x41]), (64, leBytes 8 s.ns)]).1

/-! ## Arrivals at the home member (16 R328, R339) -/

/-- What the place that decides an arrival answers (17 R352; 16 R328, R329). -/
inductive Answer where
  /-- The sender's code and cause. -/
  | settled (code : Nat) (cause : BitVec 7)
  /-- Busy: the sender's port retries (17 R353). -/
  | busy
  /-- It waits where it is: its record's page is absent. -/
  | hold
  /-- It waits for room in the run list's ring (16 R331). -/
  | full
deriving DecidableEq, Repr

/-- A record's counter lies in the home's declared AB (16 R327, R339). -/
def counterOk (c : Ctx) (off : Nat) : Bool := off % 4 == 0 && decide (off + 4 ≤ c.abext)

/-- The key of a counter. -/
def Ctx.counterKey (c : Ctx) (off : Nat) : Nat := scratchKey c.coord.cluster.toNat c.coord.core.toNat 0 (c.abOrigin + off)

/-- A counter setting or a task decrement at its home member. The counter of one that waits for the ring keeps its value meanwhile (log entry 53). -/
def State.taskArrival (s : State) (c : Ctx) (a : Arrival) : State × Answer :=
  if s.absent c.space a.record 128 .store then (s, .hold)
  else
    match s.agentRead c.space (a.record + 16) 4 with
    | .error cause => (s.logRecord (some c) 2, .settled 4 cause)
    | .ok (s1, bs) =>
      let off := recNat bs 0 4
      if !counterOk c off then (s1, .settled 4 0x61)
      else
        let k := c.counterKey off
        let setTo (x : Nat) : State := { s1 with mem := Memory.write s1.mem k (leBytes 4 x) }
        let reached : State × Answer :=
          match (setTo 0).queueTask c a.record with
          | none => (s, .full)
          | some s2 => (s2, .settled 1 0)
        if a.kind == 2 then (if a.value == 0 then reached else (setTo a.value, .settled 0 0))
        else
          let n := leNat (Memory.read s1.mem k 4)
          if n < a.value then (s1, .settled 2 0)
          else if n == a.value then reached
          else (setTo (n - a.value), .settled 0 0)

/-! ## The next activation (16 R332, R333) -/

/-- The current context may begin an activation: it is idle, no stop holds it, and no other context runs on its core. -/
def State.mayStart (s : State) : Bool :=
  s.cx.life == .idle && !s.isStopped s.cx && !s.others.any fun x => x.sameCore s.cx && x.life == .running

/-- How a dequeue ends. -/
inductive Dequeued where
  /-- The activation has begun, or the task has failed; the entry leaves its list. -/
  | taken (s : State)
  /-- The entry stays: its page is absent, or a breakpoint has stopped the context. -/
  | left (s : State)

/-- The current context dequeues the task of a record that heads a run list (16 R332, R508). -/
def State.dequeue (s : State) (rec : Word) : Dequeued :=
  let c := s.cx
  let sp := c.space
  if s.absent sp rec 128 .load || s.absent sp rec 128 .store then .left s
  else
    match s.agentRead sp rec 128 with
    | .error cause => .taken ((s.logRecord (some c) 2).taskFail (some c) sp rec (0x80 + cause.toNat))
    | .ok (s0, bs) =>
      let entry := recWord bs 0
      let slot := recNat bs 20 4
      if slot % 8 != 0 || c.abext < slot + 8 || entry.toNat % 8 != 0 then .taken (s0.taskFail (some c) sp rec 0xE1)
      else if s0.breaks { c with cause := .task rec, entry := entry } then .left (s0.startActivation (.task rec) entry).1
      else
        let s1 := { s0 with mem := Memory.write s0.mem (c.counterKey slot) (wordBytes rec) }
        let (s2, bad) := s1.taskWrite (some c) sp rec
          [(72, leBytes 8 (c.idleSince / 756)), (80, leBytes 8 s.ns), (100, leBytes 4 c.stealFails), (96, leBytes 2 c.coreNumber),
           (98, [BitVec.ofNat 8 c.coord.member.toNat]), (99, [0x42])]
        if bad.isSome then .taken s2 else .taken ((s2.bumpRun c 48).startActivation (.task rec) entry).1

/-- A message of the inbox begins an activation at its handler, unless a breakpoint stops the context (23 R455; 27 R491). -/
def State.startMessage (s : State) : State :=
  match s.cx.inbox with
  | [] => s
  | m :: rest =>
    let (s1, ok) := s.startActivation (.message (recWord m.bytes 24)) m.arr.record
    if ok then { s1 with cx := { s1.cx with inbox := rest, listTurn := true } } else s1

/-- The head of the current context's own run list is dequeued. -/
def State.startTask (s : State) : State :=
  match s.cx.runList with
  | [] => s
  | rec :: _ =>
    match s.dequeue rec with
    | .left s1 => s1
    | .taken s1 => ({ s1 with cx := { s1.cx with runList := s1.cx.runList.tail, listTurn := false } } : State).refill s1.cx.ref 64

/-- The current context chooses its next activation from its inbox and its run list. -/
def State.chooseNext (s : State) : State :=
  if !s.mayStart then s
  else
    let s1 := s.refill s.cx.ref 64
    if !s1.cx.inbox.isEmpty && (!s1.cx.listTurn || s1.cx.runList.isEmpty) then s1.startMessage
    else s1.startTask

/-- A steal attempt fails: the next one goes to the other neighbour. -/
def State.stealFailed (s : State) : State :=
  let c := s.cx
  ({ s with cx := { c with stealFails := c.stealFails + 1, stealPrev := !c.stealPrev } } : State).bumpRun c 32

/-- The current context, idle with nothing of its own, attempts a steal; one that cannot start an activation now fails in it, and the next attempt of one
that stays idle goes to the other neighbour (16 R333). A head record that cannot be read is dequeued as such (R508). -/
def State.steal (s : State) : State :=
  let c := s.cx
  if c.life != .idle || !c.inbox.isEmpty || !c.runList.isEmpty || c.nmem ≤ 1 then s
  else if !s.mayStart then s.stealFailed
  else
    let m := c.coord.member.toNat
    let r : CtxRef := ⟨c.cohort, if c.stealPrev then (m + c.nmem - 1) % c.nmem else (m + 1) % c.nmem⟩
    let s0 := s.refill r 64
    match s0.findCtx r with
    | none => s0.stealFailed
    | some v =>
      if !v.resident || s0.isStopped v then s0.stealFailed
      else
        match v.runList with
        | [] => s0.stealFailed
        | rec :: _ =>
          let other (s : State) : State := if s.cx.life == .idle then { s with cx := { s.cx with stealPrev := !c.stealPrev } } else s
          let take (s : State) : State := match s.dequeue rec with
            | .left s2 => s2
            | .taken s2 => other (((s2.modCtx r fun v => { v with runList := v.runList.tail }).refill r 64).bumpRun c 40)
          match s0.agentRead c.space (rec + 13) 1 with
          | .error _ => take s0
          | .ok (s1, bs) => if bit (bs.headD 0) 0 then s1.stealFailed else take s1

/-- TASK_DEQUEUE: an idle context chooses its next activation (16 R332). -/
def execTaskDequeue (c : CtxRef) (s : State) : Host.Outcome State Fault Refusal :=
  .next (match s.focus c with | none => s | some s1 => s1.chooseNext)

/-- STEAL_ATTEMPT (16 R333). -/
def execStealAttempt (c : CtxRef) (s : State) : Host.Outcome State Fault Refusal :=
  .next (match s.focus c with | none => s | some s1 => s1.steal)

/-- RUN_LIST_REFILL (16 R331). -/
def execRunListRefill (c : CtxRef) (s : State) : Host.Outcome State Fault Refusal := .next (s.refillOne c)

/-- The tasks still on an exiting context's run list fail: their home has gone (16 R336). -/
def State.orphanTasks (s : State) (c : Ctx) : State :=
  let s1 := s.refill c.ref 64
  match s1.findCtx c.ref with
  | none => s1
  | some x =>
    let s2 := x.runList.foldl (fun s rec => s.taskFail (some c) c.space rec 0xE2) s1
    match s2.runBlockOf c with
    | none => s2
    | some b =>
      (List.range b.count).foldl (fun s i =>
        match s.agentRead c.space (b.slot (b.head + i)) 8 with
        | .error _ => s
        | .ok (s1, bs) => s1.taskFail (some c) c.space (recWord bs 0) 0xE2) s2

/-! ## TASKQ and TASKDEC (16 R338 to R340) -/

/-- The checks at forwarding. -/
def taskCheck (dec : Bool) (_ : N) (s : State) (e : Entry) : Option Trap :=
  if !aligned e.opa 128 || !inVirtual e.opa then portTrap s 0x61
  else if 2 ^ 32 ≤ e.opb.toNat || (dec && e.opb == 0) then portTrap s 0x61
  else portMisaligned s [(e.opc, 8)]

/-- NMEM of a name, where this package knows it: from a member here, or from the directory while the name is current. -/
def State.nmemOf (s : State) (n : BitVec 32) : Option Nat :=
  match s.ctxs.find? (fun c => c.cohort == n && c.life != .exited) with
  | some c => some c.nmem
  | none =>
    if nameHome n != s.node then none
    else match s.lookup n with
      | .current d => some d.nmem
      | .retired _ | .stale | .invalid => none

/-- The declared AB of a member, where this package knows it: from its context, or from the image of the launch that a pending cohort belongs
to. -/
def State.abextOf (s : State) (name : BitVec 32) (member : Nat) : Option Nat :=
  match s.findCtx ⟨name, member⟩ with
  | some c => some c.abext
  | none => (s.launches.find? fun l => l.cohorts.any (·.name == name)).map fun l => l.image.abext

/-- The record names no cohort, no member of it, or a counter outside the home's declared AB (16 R339). What another node's directory holds
is not known here (log entry 14). -/
def State.recordBad (s : State) (name : BitVec 32) (member off : Nat) : Bool :=
  !namesCohort name || (s.nmemOf name).elim false (fun n => decide (n ≤ member)) || off % 4 != 0 ||
    (s.abextOf name member).elim false fun n => decide (n < off + 4)

/-- The message to the home. -/
def State.taskMessage (s : State) (e : Entry) (o : N) (bs : List Byte) (kind : Nat) : Arrival :=
  { s.arrivalOf e o kind with name := BitVec.ofNat 32 (recNat bs 8 4), member := recNat bs 12 1, rel := true, record := e.opa,
                              value := e.opb.toNat }

/-- An invalid record: the status word says so and the instruction completes; a fault of that write leaves it unissued (16 R338 to R340). -/
def State.invalidRecord (s : State) (e : Entry) : Handed :=
  match e.status with
  | none => .over (s.ringNow e)
  | some a => s.portWrite a (wordBytes (statusWord 4 0x61)) true fun s1 => .over (s1.ringNow e)

/-- TASKQ's issue. -/
def issueTaskq : PortBody := fun s e o =>
  s.portRead e.opa 128 true fun s1 bs =>
    let t := recNat bs 99 1
    let org := s1.originOf e e.status
    if (0x40 ≤ t && t ≤ 0x42) || s1.recordBad (BitVec.ofNat 32 (recNat bs 8 4)) (recNat bs 12 1) (recNat bs 16 4) then
      s1.invalidRecord e
    else
      s1.portWrite (e.opa + 64) (List.replicate 32 0 ++ [0xFF, 0xFF, bs.getD 98 0, 0x40] ++ List.replicate 28 0) true fun s2 =>
        .over ((s2.handOver).launchFlight (.arrival (s2.taskMessage e o bs 2) []) org)

/-- TASKDEC's issue: it completes at the hand-over (16 R340). -/
def issueTaskdec : PortBody := fun s e o =>
  s.portRead e.opa 128 true fun s1 bs =>
    if s1.recordBad (BitVec.ofNat 32 (recNat bs 8 4)) (recNat bs 12 1) (recNat bs 16 4) then
      s1.invalidRecord e
    else
      let org : Origin := .ctx s1.cx.ref s1.cx.space s1.serial e.iaddr 0 e.status
      .over ((({ s1 with serial := s1.serial + 1 } : State).launchFlight (.arrival (s1.taskMessage e o bs 3) []) org).ringNow e)

/-- TASKQ (16 R339). -/
def execTaskq (o : N) (s : State) := forwardPort (.taskq o) (taskCheck false o) s

/-- TASKDEC (16 R340). -/
def execTaskdec (o : N) (s : State) := forwardPort (.taskdec o) (taskCheck true o) s

/-! ## TEND (16 R341) -/

/-- TEND: after it nothing more is forwarded. -/
def execTend (o : N) (s : State) := forwardPort (.tend o) noCheck s

/-- TEND's issue: it stays in service until the rest of the context is quiet. -/
def issueTend : PortBody := fun s _ _ => .waits s

/-- The entry is TEND. -/
def Entry.isTend (e : Entry) : Bool := match e.instr with | .tend _ => true | _ => false

/-- TEND is in service at the head of NQ and every other operation of the context has completed (16 R341; 02 R37). -/
def Ctx.tendReady (c : Ctx) : Bool :=
  c.nq.issued && (c.nq.entries.head?.elim false Entry.isTend) && c.quiet .lq && c.quiet .sq && c.quiet .aq && c.quiet .mq &&
    c.handed.isEmpty && c.expects.isEmpty

/-- TEND's effect: the task's record, the retirement, and the context idle. -/
def State.tendEffect (s : State) : State :=
  match s.cx.nq.entries with
  | [] => s
  | e :: _ =>
    if !s.cx.tendReady || !s.cx.isRunning then s
    else
      let s0 := s.stoppingEvent 2 1
      let s1 := s0.endTask 0x01
      ({ s1 with cx := (s1.cx.ring e.ringsDone).retire .nq } : State).becomeIdle

/-- TEND_TAKES_EFFECT. -/
def execTendTakesEffect (c : CtxRef) (s : State) : Host.Outcome State Fault Refusal :=
  .next (match s.focus c with | none => s | some s1 => s1.tendEffect)

/-! ## QSNAP (16 R342) -/

/-- The check at forwarding. -/
def qsnapCheck (s : State) (e : Entry) : Option Trap := portMisaligned s [(e.opa, 8)]

/-- One queue's word: HEAD, TAIL, COUNT, depth, RSTART. -/
def Ctx.snapWord (c : Ctx) (q : Queue) (x : EQueue) : Word :=
  let b := segStart c.slipd (queueCode q - 1)
  let tail := b + (x.head - b + x.count) % max 1 (c.depth q)
  at' x.head 0 ||| at' tail 16 ||| at' x.count 32 ||| at' (c.depth q) 40 ||| bitAt x.rstart 48

/-- NQ without its head. -/
def Ctx.nqRest (c : Ctx) : EQueue := (c.retire .nq).nq

/-- The 64 bytes of QSNAP. -/
def State.qsnapBytes (s : State) : List Byte :=
  let c := s.cx
  let ring := (s.runBlockOf c).elim 0 RunBlock.count
  wordBytes (c.snapWord .lq c.lq) ++ wordBytes (c.snapWord .sq c.sq) ++ wordBytes (c.snapWord .aq c.aq) ++ wordBytes (c.snapWord .mq c.mq) ++
    wordBytes (c.snapWord .nq c.nqRest) ++ [BitVec.ofNat 8 c.runList.length] ++ List.replicate 7 0 ++ leBytes 8 ring ++ leBytes 8 s.ns

/-- QSNAP's issue. -/
def issueQsnap : PortBody := fun s e _ => s.portWrite e.opa s.qsnapBytes false fun s1 => .over (s1.ringNow e)

/-- QSNAP (16 R342). -/
def execQsnap (o : N) (s : State) := forwardPort (.qsnap o) qsnapCheck s

end Sys2Proof.Machine
end

