-- ==== Sys2Proof/Machine/Groups.lean ====
section
/-! DEFINITION. Arrivals addressed to cohort names: the basin and expectations (17 R349 to R351, R363), delivery of register
stores, task messages and active messages (17 R347, R348, R352, R353; 16 R329; 23 R455), and the instructions CNAME, VEXP, RSTV
and AMSG. -/

namespace Sys2Proof.Machine

/-! ## Expectations (17 R349, R351) -/

/-- A VEXP's expectation is open on a register. -/
def Ctx.expecting (c : Ctx) (r : BitVec 6) : Bool := c.expects.any (·.reg == r)

/-- The bits of x in each row that a mask names. -/
def inRows (rows : BitVec 8) (x : Nat) : VReg :=
  (List.range 8).foldl (fun (m : VReg) i => if bit rows i then m ||| (BitVec.ofNat 16384 x <<< (2048 * i)) else m) 0

/-- The rows that a mask names, of 2,048 bits each. -/
def rowBits (rows : BitVec 8) : VReg := inRows rows (2 ^ 2048 - 1)

/-- The expectation on a register closes: the tag, the hold, the bell (17 R351). -/
def Ctx.closeExpect (c : Ctx) (r : BitVec 6) : Ctx :=
  let h := c.hold r
  let tag : BitVec 4 := if bit h.rpoint 4 then 0 else field h.rpoint 0 4
  let ring := ((c.expects.find? (·.reg == r)).map Expect.ring).getD 0
  let n := BitVec.ofNat 8 (c.readersAt false r (h.cepoch + 1))
  let c1 := (c.setV r (c.vreg r) tag).modHold r fun h => { h with cepoch := h.cepoch + 1, readers := n }
  ({ c1 with expects := c1.expects.filter (·.reg != r) } : Ctx).ring ring

/-- RPOINT after one more arrival: the first one's tag, and whether two differ (17 R349). -/
def tagPoint (h : Hold) (tag : BitVec 4) : BitVec 19 :=
  if h.arrived == 0 then tag.setWidth 19
  else if field h.rpoint 0 4 != tag then h.rpoint ||| 16 else h.rpoint

/-- An arrival is applied to its register (17 R351), the trailing bytes of rows in a block format as zero (03 R53). -/
def Ctx.applyArrival (c : Ctx) (a : Arrival) : Ctx :=
  let r := BitVec.ofNat 6 a.reg
  let m := rowBits a.rows
  let c1 := c.setV r ((c.vreg r &&& ~~~m) ||| (a.data &&& m &&& ~~~inRows a.rows (trailBits a.tag))) (c.vtag r)
  let c2 := c1.modHold r fun h => { h with arrived := h.arrived + 1, rpoint := tagPoint h a.tag }
  if (c2.hold r).arrived == (c2.hold r).expect then c2.closeExpect r else c2

/-- Entries of a core's basin that this cycle counts as occupied: those held, and those freed in it (17 R350, R359). -/
def State.basinCount (s : State) (cluster core : Nat) : Nat :=
  (s.basins.filter fun b => b.cluster == cluster && b.core == core).length + s.freed.count (cluster, core)

/-- A basin entry is this context's for a register. -/
def BasinEntry.isFor (b : BasinEntry) (c : Ctx) (r : BitVec 6) : Bool :=
  b.arr.name == c.cohort && b.arr.member == c.coord.member.toNat && b.arr.reg == r.toNat

/-- VEXP takes up the basin's entries for its register, oldest first, until the count is reached (17 R363). -/
def State.takeBasin (s : State) (r : BitVec 6) : List BasinEntry → State
  | [] => s
  | b :: rest =>
    if b.isFor s.cx r && s.cx.expecting r then
      ({ s with cx := s.cx.applyArrival b.arr, basins := s.basins.erase b, freed := (b.cluster, b.core) :: s.freed } : State).takeBasin r rest
    else s.takeBasin r rest

/-- VEXP's issue: it retires at once, and completes at the close (17 R363). -/
def issueVexp : PortBody := fun s e o =>
  let c := s.cx.modHold o.vd fun h => { h with expect := e.opa.setWidth 8, arrived := 0, rpv := false, rpoint := 0 }
  let s1 := { s with cx := { c with expects := c.expects ++ [({ reg := o.vd, ring := e.ringsDone } : Expect)] } }
  .over (s1.takeBasin o.vd s1.basins)

/-- VEXP's check: 1 to 255 arrivals. -/
def vexpCheck (s : State) (e : Entry) : Option Trap := if 1 ≤ e.opa.toNat && e.opa.toNat ≤ 255 then none else portTrap s 0x54

/-- VEXP. -/
def execVexp (o : N) (s : State) := forwardPort (.vexp o) vexpCheck s

/-! ## Arrivals at a member (17 R352; 23 R455) -/

/-- The arrival with the next sequence number and the time. -/
def State.stamped (s : State) (a : Arrival) : State × Arrival :=
  ({ s with arrivalSeq := s.arrivalSeq + 1 }, { a with seq := s.arrivalSeq % 2 ^ 32, stamp := s.ns })

/-- A register store at its resident member. -/
def State.storeArrival (s : State) (c : Ctx) (a : Arrival) : State × Answer :=
  if c.expecting (BitVec.ofNat 6 a.reg) then (s.modCtx c.ref fun x => x.applyArrival a, .settled 0 0)
  else if s.basinCount c.coord.cluster.toNat c.coord.core.toNat < 16 then
    let (s1, b) := s.stamped a
    ({ s1 with basins := s1.basins ++ [⟨c.coord.cluster.toNat, c.coord.core.toNat, b⟩] }, .settled 1 0)
  else (s, .busy)

/-- An active message at its resident member: header and payload go to the slot of its AB, and the inbox takes it (23 R455). -/
def State.messageArrival (s : State) (c : Ctx) (a : Arrival) (bytes : List Byte) : State × Answer :=
  let off := 64 * recNat bytes 22 2
  if c.abext < off + bytes.length then (s, .settled 3 0x5A)
  else if 32 ≤ c.inbox.length then (s, .busy)
  else
    let (s1, b) := s.stamped a
    let s2 := { s1 with mem := Memory.write s1.mem (c.counterKey off) bytes }
    (s2.modCtx c.ref fun x => { x with inbox := x.inbox ++ [⟨b, bytes⟩] }, .settled 0 0)

/-- An arrival at its resident member. -/
def State.atMember (s : State) (c : Ctx) (a : Arrival) (bytes : List Byte) : State × Answer :=
  match a.kind with
  | 1 => s.storeArrival c a
  | 4 => s.messageArrival c a bytes
  | _ => s.taskArrival c a

/-! ## The deferred list (17 R348; 23 R455; 16 R329) -/

/-- The code that reports a deferred arrival of each kind. -/
def deferCode (kind : Nat) : Nat := if kind == 2 || kind == 3 then 5 else 2

/-- 2,048 data bytes from the head of a byte list. -/
def dataOf (bs : List Byte) : VReg := BitVec.ofNat 16384 (leNat (bs.take 2048))

/-- The entries that an arrival takes in the deferred list. -/
def deferEntries (a : Arrival) (bytes : List Byte) : List Arrival :=
  if a.kind == 4 then
    { a with reg := 0, rows := 0, tag := 0, data := dataOf bytes } ::
      (if 1984 < a.value then [{ a with kind := 5, reg := 0, rows := 0, tag := 0, data := dataOf (bytes.drop 2048) }] else [])
  else [a]

/-- An arrival joins the deferred list of its cohort. -/
def State.defer (s : State) (d : DirEntry) (a : Arrival) (bytes : List Byte) : State × Answer :=
  let (s1, b) := s.stamped a
  let es := deferEntries b bytes
  if d.defcap < d.deferred.length + es.length then (s, .busy)
  else (s1.modDir d.name fun d => { d with deferred := d.deferred ++ es }, .settled (deferCode a.kind) 0)

/-- The bytes of a deferred message, from its one or two entries. -/
def deferredBytes (a : Arrival) (rest : List Arrival) : List Byte :=
  if a.kind != 4 then []
  else
    (leBytes 2048 a.data.toNat ++ (match rest with
      | b :: _ => if b.kind == 5 then leBytes 2048 b.data.toNat else []
      | [] => [])).take (64 + a.value)

/-- The entries after the first arrival of a deferred list. -/
def afterFirst (a : Arrival) (rest : List Arrival) : List Arrival :=
  if a.kind == 4 && 1984 < a.value then rest.tail else rest

/-- An arrival of a cohort's deferred list is on its way to the node that holds the cohort (17 R348). -/
def State.delivering (s : State) (name : BitVec 32) : Bool :=
  s.flights.any fun f => f.origin == .deferred && match f.load with
    | .arrival a _ => a.name == name
    | .load _ _ | .store _ _ | .atomic _ _ _ _ _ | .packet _ _ _ _ => false

/-- A TASKQ whose counter setting left the deferred list completes (16 R339). -/
def State.settingDone (s : State) (a : Arrival) : State :=
  match s.settings.find? fun x => a.kind == 2 && x.1 == a.name && x.2.1 == a.member && x.2.2.1 == a.record with
  | some x => ({ s with settings := s.settings.erase x } : State).completePort x.2.2.2
  | none => s

/-- The oldest deferred arrival of a cohort that drains is delivered, if it can be; the second result says so. A message or a task
whose target has exited is dropped, the task failing (16 R329; 17 R352). To a cohort on another node they go one after the other. -/
def State.deliverDeferred (s : State) (name : BitVec 32) : State × Bool :=
  match s.dirOf name with
  | none => (s, false)
  | some d =>
    if d.state != .resident || !d.draining then (s, false)
    else
      match d.deferred with
      | [] => (s, false)
      | a :: rest =>
        let drop (s : State) : State :=
          (s.modDir name fun d => { d with deferred := afterFirst a rest
                                           defhead := (d.defhead + (rest.length + 1 - (afterFirst a rest).length)) % max 1 d.defcap }).settingDone a
        if d.node != s.node then
          (if s.delivering name then (s, false) else ((drop s).launchFlight (.arrival a (deferredBytes a rest)) .deferred, true))
        else match (s.findCtx ⟨name, a.member⟩).filter Ctx.resident with
        | none =>
          let s1 := if a.kind == 2 || a.kind == 3 then
              (match s.ctxs.find? (·.cohort == name) with
               | some c => s.taskFail (some c) c.space a.record 0xD1
               | none => s) else s
          (drop s1, true)
        | some c =>
          match s.atMember c a (deferredBytes a rest) with
          | (_, .busy) | (_, .hold) | (_, .full) => (s, false)
          | (s1, .settled _ _) => (drop s1, true)

/-- The deferred list drains as far as it can (17 R348). -/
def State.drainDeferred (s : State) (name : BitVec 32) : Nat → State
  | 0 => s
  | n + 1 =>
    match s.deliverDeferred name with
    | (s1, true) => s1.drainDeferred name n
    | (s1, false) => s1

/-- DRAINING clears when the list is empty (17 R348). -/
def State.endDrain (s : State) (name : BitVec 32) : State :=
  if s.delivering name then s else s.modDir name fun d => if d.deferred.isEmpty then { d with draining := false } else d

/-- DEFERRED_DELIVERY (17 R348). -/
def execDeferredDelivery (name : BitVec 32) (s : State) : Host.Outcome State Fault Refusal :=
  .next ((s.deliverDeferred name).1.endDrain name)

/-! ## Where an arrival is decided (17 R347, R352; 16 R329) -/

/-- The answer for a member that is not here. -/
def absentMember (n m : Nat) : Answer := if n ≤ m then .settled 3 0x54 else .settled 3 0x51

/-- Where an arrival goes next. -/
inductive Decided where
  | here (s : State) (ans : Answer)
  /-- Another node decides it. -/
  | away (n : Nat)

/-- An arrival at the cluster here that holds its cohort: the member table decides it. -/
def State.atCluster (s : State) (a : Arrival) (bytes : List Byte) : Decided :=
  match s.findCtx ⟨a.name, a.member⟩ with
  | some c => if c.resident then .here (s.atMember c a bytes).1 (s.atMember c a bytes).2 else .here s (.settled 3 0x51)
  | none => .here s (absentMember (((s.ctxs.find? (·.cohort == a.name)).map Ctx.nmem).getD 0) a.member)

/-- An arrival at its home: the directory decides it. -/
def State.atHome (s : State) (a : Arrival) (bytes : List Byte) : Decided :=
  match s.lookup a.name with
  | .invalid => .here s (.settled 3 0x54)
  | .stale => .here s (.settled 3 0x50)
  | .retired _ => .here s (.settled 3 0x51)
  | .current d =>
    if d.nmem ≤ a.member then .here s (.settled 3 0x54)
    else if !d.lives a.member then .here s (.settled 3 0x51)
    else if d.state != .resident || d.draining then .here (s.defer d a bytes).1 (s.defer d a bytes).2
    else if d.node != s.node then .away d.node
    else s.atCluster a bytes

/-- The core whose message port sends for an origin. -/
def State.portCore (s : State) (o : Origin) : Option Nat := (s.originCtx o).map Ctx.coreNumber

/-- The node that the sender's message port has cached for a name (17 R347). -/
def State.cachedNode (s : State) (o : Origin) (n : BitVec 32) : Option Nat :=
  (s.portCore o).bind fun k => (s.located.find? fun x => x.1 == k && x.2.1 == n).map fun x => x.2.2

/-- A home's reply has given the node that holds a cohort: the sender's message port caches it (17 R347). -/
def State.locate (s : State) (o : Origin) (n : BitVec 32) (node : Nat) : State :=
  match s.portCore o with
  | none => s
  | some k => { s with located := (k, n, node) :: s.located.filter fun x => !(x.1 == k && x.2.1 == n) }

/-- The home is here, or the name has none. -/
def State.homeHere (s : State) (n : BitVec 32) : Bool := nameHome n == s.node || !namesCohort n || !s.inPod (nameHome n)

/-- A cluster here holds a cohort in state resident, and its home does not drain for it; of another home, what comes from there is the home's own
delivery (17 R347, R348). -/
def State.holdsHere (s : State) (o : Origin) (n : BitVec 32) : Bool :=
  let fromHome : Bool := match o with
    | .node h _ => h == nameHome n && nameHome n != s.node
    | .none | .ctx _ _ _ _ _ _ | .link _ _ | .copy _ | .deferred => false
  (s.ctxs.any fun c => c.cohort == n && c.resident) &&
    (fromHome || !(((s.dirOf n).any DirEntry.draining) || s.guests.any fun g => g.name == n && g.draining))

/-- An arrival is decided: at the node cached in the sender's port, or where it has come to, by the cluster that holds its cohort; in every other
case by the home. What leaves a deferred list goes to the node that holds the cohort (17 R347, R348). -/
def State.placeArrival (s : State) (o : Origin) (a : Arrival) (bytes : List Byte) : Decided :=
  let home : Decided := if s.homeHere a.name then s.atHome a bytes else .away (nameHome a.name)
  let cluster : Decided := if s.holdsHere o a.name then s.atCluster a bytes else home
  match o with
  | .deferred => match s.dirOf a.name with
    | some d => if d.state == .resident && d.node != s.node then .away d.node else home
    | none => home
  | .node _ _ => cluster
  | .none | .ctx _ _ _ _ _ _ | .link _ _ | .copy _ => match s.cachedNode o a.name with
    | none => home
    | some n => if n == s.node then cluster else .away n

/-! ## Outcomes (17 R361; 16 R329, R338; 23 R458) -/

/-- STATUS of a task whose message failed with a cause: a stale name leaves what an exited home does (16 R329). -/
def failedStatus (cause : BitVec 7) : Nat := if cause == 0x50 then 0xD1 else 0x80 + cause.toNat

/-- The node at which a home here knows a cohort to be resident. -/
def State.knownAt (s : State) (n : BitVec 32) : Option Nat := ((s.dirOf n).filter fun d => d.state == .resident).map DirEntry.node

/-- An arrival of another node that was answered busy has come again, and is settled. -/
def State.unrefuse (s : State) (a : Arrival) : State := { s with refused := s.refused.eraseP fun x => x.1 == a }

/-- The outcome of an arrival reaches its sender: for a task message that failed the record's STATUS and COMPL, then the status word,
the trap where none reports a failure of a store or message, and the completion; a counter setting without a status word completes once a deferred
list here has delivered it (16 R339). -/
def State.outcome (s0 : State) (a : Arrival) (o : Origin) (code : Nat) (cause : BitVec 7) : State :=
  let task := a.kind == 2 || a.kind == 3
  let s := (s0.knownAt a.name).elim s0 (s0.locate o a.name)
  match o with
  | .none | .copy _ | .deferred => s
  | .ctx _ sp _ _ _ status =>
    let c := s.originCtx o
    let s1 := if task && code == 3 then s.taskFail c sp a.record (failedStatus cause) else s
    let s2 := match status with
      | none => s1
      | some w => s1.deviceWrite c sp w (wordBytes (statusWord code cause)) (if task then 2 else 6)
    let s3 := if code == 3 && status.isNone && !task then s2.trapAfter o cause 0 else s2
    if a.kind == 2 && code == 5 && status.isNone && s.homeHere a.name then { s3 with settings := s3.settings ++ [(a.name, a.member, a.record, o)] }
    else s3.completePort o
  | .link h sp =>
    (if code == 3 then s.taskFail (s.findCtx ⟨a.name, a.member⟩) sp a.record (failedStatus cause) else s).linkDone h code
  | .node n tag =>
    (s.unrefuse a).respond n ({ a with sender := tag }.header n s.node []) (statusWord code cause) [] (at' ((s.knownAt a.name).elim 0 (· + 1)) 0)

/-- The cause of an arrival that 4,096 busy answers in a row have refused (17 R353; 23 R455; 16 R329). -/
def busyCause (kind : Nat) : BitVec 7 := if kind == 4 then 0x5B else 0x52

/-- Completion words of an arrival whose page is absent are awaited before the arrival is decided. -/
def State.outcomeAbsent (s : State) (a : Arrival) (o : Origin) : Bool :=
  match o with
  | .ctx _ sp _ _ _ status => (status.any fun w => s.absent sp w 8 .store) || ((a.kind == 2 || a.kind == 3) && s.absent sp a.record 128 .store)
  | .link h sp => s.absent sp a.record 128 .store || ((s.linkedFuture h).any fun f => f.replies.any fun r => s.absent r.2.2.1 r.2.1 32 .store)
  | .none | .node _ _ | .copy _ | .deferred => false

/-- The message class in which an active message of a length goes (23 R458). -/
def bulkMessage (a : Arrival) : Bool := decide (160 < a.value)

/-- A task message that waits for a full ring holds back the later task messages to its member (16 R331). -/
def behindRing (fs : List Flight) (f : Flight) : Bool :=
  match f.load with
  | .arrival a _ => (a.kind == 2 || a.kind == 3) && fs.any fun g => g.parked && match g.load with
      | .arrival b _ => b.name == a.name && b.member == a.member
      | .load _ _ | .store _ _ | .atomic _ _ _ _ _ | .packet _ _ _ _ => false
  | .load _ _ | .store _ _ | .atomic _ _ _ _ _ | .packet _ _ _ _ => false

/-- An arrival waits in its port behind an earlier one of the same context to the same cohort: one that is being retried (17 R353), one to the same
member and register that still stands here (R354), or a message of the other class to the same member whose outcome is unknown (23 R458); or behind
a task message that waits for a full ring (16 R331). -/
def heldBehind (fs : List Flight) (f : Flight) : Bool :=
  behindRing fs f || match f.load with
  | .arrival a _ =>
    f.origin.sender.isSome && fs.any fun g => match g.load with
      | .arrival b _ => g.origin.sender == f.origin.sender && b.name == a.name &&
          (g.busy != 0 || (b.member == a.member && ((b.kind == a.kind && b.reg == a.reg && !g.away) ||
            (a.kind == 4 && b.kind == 4 && bulkMessage a != bulkMessage b))))
      | .load _ _ | .store _ _ | .atomic _ _ _ _ _ | .packet _ _ _ _ => false
  | .load _ _ | .store _ _ | .atomic _ _ _ _ _ | .packet _ _ _ _ => false

/-- The k-th flight leaves the list. -/
def State.dropFlight (s : State) (k : Nat) : State := { s with flights := s.flights.eraseIdx k }

/-- The k-th flight is changed. -/
def State.modFlight (s : State) (k : Nat) (f : Flight → Flight) : State :=
  { s with flights := s.flights.zipIdx.map fun x => if x.2 == k then f x.1 else x.1 }

/-- An arrival travels to another node: its packet waits for its port, behind those before it (17 R347; 23 R442, R443). -/
def State.arriveAway (s : State) (k : Nat) (a : Arrival) (bytes : List Byte) (o : Origin) (n : Nat) : State :=
  (s.modFlight k fun f => { f with away := true }).launchFlight (.packet (a.header n s.node bytes) (a.payload bytes) false 3) o

/-- An arrival of another node is answered busy; its sender is to send it again, until it has had 4,096 such answers (17 R353). -/
def State.refuseFrom (s : State) (n : Nat) (tag : Word) (a : Arrival) (bytes : List Byte) : State :=
  let told := ((s.refused.find? fun x => x.1 == a && x.2.1 == bytes).map fun x => x.2.2 + 1).getD 1
  let rest := s.refused.map fun x => if x.1 == a && x.2.1 == bytes then (a, bytes, told) else x
  let kept := if 4096 ≤ told then rest.eraseP (fun x => x.1 == a && x.2.1 == bytes) else if told == 1 then rest ++ [(a, bytes, 1)] else rest
  ({ s with refused := kept } : State).respond n ({ a with sender := tag }.header n s.node []) 0 []

/-- An arrival of another node's context stands behind one of it to the same cohort that was answered busy and has not come again (17 R353, R354). -/
def State.behindRefused (s : State) (o : Origin) (a : Arrival) (bytes : List Byte) : Bool :=
  match o with
  | .node _ _ => (s.refused.find? fun x => x.1.sender == a.sender && x.1.name == a.name).any fun x => !(x.1 == a && x.2.1 == bytes)
  | .none | .ctx _ _ _ _ _ _ | .link _ _ | .copy _ | .deferred => false

/-- The k-th flight, an arrival, was answered busy: its sender's port tries it again after 1,024 cycles, and the 4,096th answer in a row fails it (17
R353; 16 R329; 23 R455); a sender on another node is told. What leaves a deferred list is tried again without end (17 R348). -/
def State.busyAnswer (s : State) (k : Nat) (a : Arrival) (bytes : List Byte) (o : Origin) (busy : Nat) : State :=
  match o with
  | .node n tag => (s.dropFlight k).refuseFrom n tag a bytes
  | .deferred => s.modFlight k fun f => { f with away := false, busy := f.busy + 1, due := s.time + 1024 * clockPeriod s.clock }
  | .none | .ctx _ _ _ _ _ _ | .link _ _ | .copy _ =>
    if 4095 ≤ busy then (s.dropFlight k).outcome a o 3 (busyCause a.kind)
    else s.modFlight k fun f => { f with away := false, busy := f.busy + 1, due := s.time + 1024 * clockPeriod s.clock }

/-- The k-th flight, if it is an arrival that may go, is decided: it settles, is answered busy, waits, or travels on. -/
def State.arrive (s : State) (k : Nat) : State :=
  match s.flights[k]? with
  | some ⟨.arrival a bytes, o, busy, due, away, parked, port⟩ =>
    let f : Flight := ⟨.arrival a bytes, o, busy, due, away, parked, port⟩
    if away || s.time < due then s
    else if heldBehind (s.flights.take k) f || s.outcomeAbsent a o then
      (if behindRing (s.flights.take k) f then s.modFlight k fun f => { f with parked := true } else s)
    else if s.behindRefused o a bytes then s.busyAnswer k a bytes o busy
    else
      match s.placeArrival o a bytes with
      | .away n => s.arriveAway k a bytes o n
      | .here s1 (.settled code cause) => (s1.dropFlight k).outcome a o code cause
      | .here _ .hold => s
      | .here _ .full => s.modFlight k fun f => { f with parked := true }
      | .here _ .busy => s.busyAnswer k a bytes o busy
  | _ => s

/-- The k-th flight is an arrival of one of these kinds. -/
def State.isArrival (s : State) (k : Nat) (kinds : List Nat) : Bool :=
  match s.flights[k]? with
  | some ⟨.arrival a _, _, _, _, _, _, _⟩ => kinds.contains a.kind
  | _ => false

/-- REGISTER_STORE_ARRIVAL (17 R352). -/
def execRegisterStoreArrival (k : Nat) (s : State) : Host.Outcome State Fault Refusal := .next (if s.isArrival k [1] then s.arrive k else s)

/-- COUNTER_SETTING_ARRIVAL (16 R339). -/
def execCounterSettingArrival (k : Nat) (s : State) : Host.Outcome State Fault Refusal := .next (if s.isArrival k [2] then s.arrive k else s)

/-- TASK_DECREMENT_ARRIVAL (16 R328). -/
def execTaskDecrementArrival (k : Nat) (s : State) : Host.Outcome State Fault Refusal := .next (if s.isArrival k [3] then s.arrive k else s)

/-- ACTIVE_MESSAGE_ARRIVAL (23 R455). -/
def execActiveMessageArrival (k : Nat) (s : State) : Host.Outcome State Fault Refusal := .next (if s.isArrival k [4] then s.arrive k else s)

/-- BUSY_RETRY: a flight that was answered busy is tried again once its 1,024 cycles have passed (17 R353). -/
def execBusyRetry (k : Nat) (s : State) : Host.Outcome State Fault Refusal :=
  .next (match s.flights[k]? with
    | some f => if f.busy != 0 then s.arrive k else s
    | none => s)

/-! ## RSTV (17 R360 to R362) -/

/-- The checks at forwarding. -/
def rstvCheck (s : State) (e : Entry) : Option Trap :=
  let n : BitVec 32 := field e.opa 0 32
  if field e.opa 32 32 != (0 : BitVec 32) || !namesCohort n || e.opb &&& ~~~0x3F3F != 0 then portTrap s 0x54
  else portMisaligned s [(e.opc, 8)]

/-- RSTV's issue: the rows and the tag are read, and the arrival goes to the port (17 R361). -/
def issueRstv (rel : Bool) : PortBody := fun s e o =>
  let rows : BitVec 8 := field o.ctl 0 8
  let a := { s.arrivalOf e o 1 with
    member := (field e.opb 8 6).toNat, reg := (field e.opb 0 6).toNat, rows := if rows == 0 then 0xFF else rows, tag := s.cx.vtag o.vd,
    rel := rel, data := s.cx.vreg o.vd }
  let org := s.originOf e e.status
  .over (({ s with cx := s.cx.finishOper (regOp o.vd .read) } : State).handOver.launchFlight (.arrival a []) org)

/-- RSTV. -/
def execRstv (o : N) (s : State) := forwardPort (.rstv o) rstvCheck s

/-- RSTV.rel: every earlier access of the control stream has taken effect, so its release waits for nothing (17 R355; log
entry 1). -/
def execRstvRel (o : N) (s : State) := forwardPort (.rstvRel o) rstvCheck s

/-! ## CNAME (17 R360, R364) -/

/-- The `.l` form. -/
def cnameByIndex (o : N) : Bool := field o.ctl 0 2 == (1 : BitVec 2)

/-- The checks at forwarding. -/
def cnameCheck (o : N) (s : State) (e : Entry) : Option Trap :=
  if o.sc == 0 then portTrap s 0x54 else portMisaligned s [(e.opc, 16)]

/-- The code of a directory state. -/
def DirState.code : DirState → Nat
  | .free => 0
  | .pending => 1
  | .resident => 2
  | .saving => 3
  | .saved => 4
  | .migrating => 5
  | .exited => 6

/-- The 64 bytes of a directory entry (17 R345). -/
def DirEntry.bytes (d : DirEntry) : List Byte :=
  leBytes 4 d.name.toNat ++ [BitVec.ofNat 8 d.state.code, d.stage.setWidth 8, BitVec.ofNat 8 d.nmem, BitVec.ofNat 8 d.draining.toNat] ++
    leBytes 8 d.live.toNat ++ wordBytes d.launch ++ leBytes 2 d.node ++ [BitVec.ofNat 8 d.cluster, 0] ++ leBytes 4 d.deferred.length ++
    leBytes 4 d.defcap ++ leBytes 4 d.defhead ++ leBytes 8 d.defring ++ List.replicate 16 0

/-- CNAME's 16 bytes (17 R364). -/
def cnameRecord (n : BitVec 32) (x : Named) : List Byte :=
  let head (d : DirEntry) (result : Nat) : List Byte :=
    leBytes 4 n.toNat ++ [BitVec.ofNat 8 d.state.code, BitVec.ofNat 8 ((List.range 64).filter fun i => bit d.live i).length,
      d.stage.setWidth 8, BitVec.ofNat 8 (0x80 + result)]
  let tail (d : DirEntry) (node cluster : Nat) : List Byte :=
    leBytes 2 node ++ [BitVec.ofNat 8 cluster, BitVec.ofNat 8 d.draining.toNat] ++ leBytes 4 d.deferred.length
  let bare (result : Nat) : List Byte := leBytes 4 n.toNat ++ [0, 0, 0, BitVec.ofNat 8 (0x80 + result)] ++ List.replicate 8 0
  match x with
  | .current d =>
    let known := d.state == .resident || d.state == .saving || d.state == .saved
    head d 0 ++ tail d (if known then d.node else 0) (if known then d.cluster else 0xFF)
  | .retired (some d) => head d 0x51 ++ tail d 0 0xFF
  | .retired none => leBytes 4 n.toNat ++ [0, 0, 0, 0xD1, 0, 0, 0xFF, 0, 0, 0, 0, 0]
  | .stale => bare 0x50
  | .invalid => bare 0x54

/-- The name of cohort number k of a stage of the issuing context's launch (17 R364); one of a cohort that came from another package is what came with
it. -/
def State.nameOf (s : State) (stage k : Word) : Option (BitVec 32) :=
  match s.launches.find? (·.id == s.cx.launch) with
  | none => (s.guests.find? (·.name == s.cx.cohort)).bind fun g =>
      (g.peers.find? fun p => p.1.toNat == stage.toNat && p.2.1 == k.toNat).map fun p => p.2.2
  | some l => (l.cohorts.find? fun c => c.stage.toNat == stage.toNat && c.number == k.toNat).map LCohort.name

/-- The record of a name: from this home's directory, or from another home's, whose contents are outside this package and so
free (log entry 14). -/
def State.describe (s : State) (n : BitVec 32) : List Byte :=
  if namesCohort n && s.inPod (nameHome n) && nameHome n != s.node then
    leBytes 4 n.toNat ++ leBytes 12 (Config.remoteRecord s.free ||| (0x80 : BitVec 96) <<< 24).toNat
  else cnameRecord n (s.lookup n)

/-- CNAME's record, as the home's directory holds the name in the cycle of the request. -/
def State.cnameBytes (s : State) (e : Entry) (o : N) : List Byte :=
  if cnameByIndex o then (s.nameOf e.opa e.opb).elim (cnameRecord 0 .invalid) s.describe
  else s.describe (field e.opa 0 32)

/-- CNAME's issue: the record is written and the instruction completes. -/
def issueCname : PortBody := fun s e o => s.portWrite e.opc (s.cnameBytes e o) true fun s1 =>
  .over (({ s1 with free := s1.free + 1 } : State).ringNow e)

/-- CNAME. -/
def execCname (o : N) (s : State) := forwardPort (.cname o) (cnameCheck o) s

/-! ## AMSG (23 R457, R458) -/

/-- The checks at forwarding. -/
def amsgCheck (s : State) (e : Entry) : Option Trap :=
  portMisaligned s [(e.opa, 64), (e.opc, 8)]

/-- An address of a descriptor or payload: window 0x0 or 0x8. -/
def inNear (a : Word) : Bool := field a 60 4 == (0 : BitVec 4) || field a 60 4 == (8 : BitVec 4)

/-- The descriptor breaks its limits (23 R458). -/
def descriptorBad (e : Entry) (bs : List Byte) : Bool :=
  let h := recWord bs 0
  !inNear e.opa || !aligned h 8 || builtIn 0 ≤ h || !recZero bs 13 1 || !recZero bs 20 4 || 2048 < recNat bs 14 2 ||
    recNat bs 16 4 % 64 != 0 || 2 ^ 22 ≤ recNat bs 16 4 || !inNear (recWord bs 24)

/-- AMSG sends nothing: cause 0x5A in its status word, or at the next boundary. -/
def State.messageBad (s : State) (e : Entry) (cause : BitVec 7) : Handed :=
  let o := s.originOf e e.status
  .over (s.handOver.outcome (s.arrivalOf e ⟨Sync.plain, 0, 0, 0, 0, 0, 0⟩ 4) o 3 cause)

/-- AMSG's issue: the descriptor and the payload are read, and the message goes to the port. -/
def issueAmsg : PortBody := fun s e o =>
  if !inNear e.opa then s.messageBad e 0x5A
  else
    s.portRead e.opa 64 false fun s1 bs =>
      if descriptorBad e bs then s1.messageBad e 0x5A
      else
        let send (s2 : State) (pay : List Byte) : Handed :=
          let a := { s2.arrivalOf e o 4 with
            name := BitVec.ofNat 32 (recNat bs 8 4), member := recNat bs 12 1, rel := true, record := recWord bs 0, value := recNat bs 14 2 }
          let slot := recNat bs 16 4 / 64
          let hdr : List Byte := leBytes 16 0 ++ leBytes 4 0 ++ leBytes 2 0 ++ leBytes 2 slot ++ leBytes 8 0 ++ bs.drop 32
          let h := { a.header (nameHome a.name) s2.node hdr with slot := slot }
          let org := s2.originOf e e.status
          .over (s2.handOver.launchFlight (.arrival a (headerBytes h ++ pay)) org)
        if recNat bs 14 2 == 0 then send s1 [] else s1.portRead (recWord bs 24) (recNat bs 14 2) false send

/-- AMSG. -/
def execAmsg (o : N) (s : State) := forwardPort (.amsg o) amsgCheck s

end Sys2Proof.Machine
end

