-- ==== Sys2Proof/Machine/Futures.lean ====
section
/-! DEFINITION. Futures, tool calls and adapters: chapter 19. -/

namespace Sys2Proof.Machine

/-! ## Handles and the table (19 R379 to R381) -/

/-- The handle's table is another package's. -/
def State.handleAway (s : State) (h : Word) : Bool := (field h 55 9).toNat != s.node && s.inPod (field h 55 9).toNat

/-- The entry that a valid handle names. -/
def State.futureOf (s : State) (h : Word) : Option Future :=
  if h == 0 then none else s.futures.find? fun f => f.state != .free && s.handleOf f == h

/-- An entry is replaced. -/
def State.putFuture (s : State) (f : Future) : State := { s with futures := f :: s.futures.filter (·.index != f.index) }

/-- The entry is in use. -/
def State.futureUsed (s : State) (i : Nat) : Bool := s.futures.any fun f => f.index == i && f.state != .free

/-- The next free entry after one, with wrap. -/
def State.nextFuture (s : State) (i : Nat) : Nat → Option Nat
  | 0 => none
  | n + 1 =>
    let k := (i + 1) % 262144
    if s.futureUsed k then s.nextFuture k n else some k

/-- The free entry that arming takes next. -/
def State.freeFuture (s : State) : Option Nat :=
  if 262144 ≤ (s.futures.filter (·.state != .free)).length then none else s.nextFuture s.lastFuture (s.futures.length + 1)

/-- An entry is armed for the current context's launch; the key is a free value (19 R379; log entry 5). -/
def State.armFuture (s : State) (i : Nat) (deadline : Nat) : State × Future :=
  let gen := ((s.futures.find? (·.index == i)).map Future.gen).getD 0
  let f := { Future.blank i gen with
    state := .armed, key := Config.futureKey s.free, launch := s.cx.launch, space := s.cx.space, deadline := deadline }
  ({ s.putFuture f with lastFuture := i, free := s.free + 1 }, f)

/-- Consumption ends: the entry is free with the next generation. One whose linked decrement waits, or whose FLINK waits for the decrement's
code, is kept beside the table as it was (19 R392, R401). -/
def State.freeEntry (s : State) (f : Future) : State :=
  let kept := s.futures.filter fun x => x.index == f.index && (x.await == .decrement || !x.replies.isEmpty)
  { s.putFuture (Future.blank f.index ((f.gen + 1) % 8192)) with consumed := s.consumed ++ kept }

/-! ## Requests (19 R383) -/

/-- A tool of the tool table. -/
def State.toolAt (s : State) (n : Nat) : Option Tool := s.tools.find? (·.num == n)

/-- The outcome word of a tool's resolve window changes. -/
def State.toolOutcome (s : State) (n outcome : Nat) : State :=
  { s with tools := s.tools.map fun t => if t.num == n then { t with outcome := outcome } else t }

/-- A tool is replaced. -/
def State.putTool (s : State) (t : Tool) : State := { s with tools := t :: s.tools.filter (·.num != t.num) }

/-- The request record of a future for a tool. -/
def State.request (s : State) (f : Future) (tool : Nat) : List Byte :=
  wordBytes (s.handleOf f) ++ leBytes 2 tool ++ leBytes 2 0 ++ leBytes 4 f.narg ++ wordBytes f.args ++ wordBytes f.reply ++
    leBytes 4 f.repcap ++ leBytes 4 0 ++ leBytes 8 f.deadline ++ wordBytes s.cx.coord.word ++ leBytes 8 0

/-- The machine-check bank of the future table. -/
def futureBank : Nat := 1829

/-- An entry of the future table could not read or write a record (19 R510). -/
def State.logFuture (s : State) : State :=
  s.machineCheck futureBank { sev := 2, cls := 0x79, synd := 0, addr := none, info := some (at' 5 31) }

/-- A request is appended to its tool's queue, or sent to its peer. -/
def State.appendRequest (s : State) (t : Tool) (bs : List Byte) (h : Word) : State :=
  if t.peer then { s with ueSent := (t.ring, (List.range 8).map fun i => recWord bs (8 * i)) :: s.ueSent }
  else
    match s.agentWrite t.space (t.ring + BitVec.ofNat 64 (64 * (t.tail % max 1 t.entries))) bs with
    | .error _ => s.logFuture
    | .ok s1 =>
      (s1.putTool { t with tail := t.tail + 1, requests := t.requests ++ [h] }).agentPut t.space t.tailAddr (BitVec.ofNat 64 (t.tail + 1))

/-! ## Resolution (19 R386 to R393, R510) -/

/-- An armed future enters resolving with a status and a detail: step 1 of R388. -/
def State.resolve (s : State) (f : Future) (status detail : Nat) : State :=
  let h := s.handleOf f
  { s.putFuture { f with state := .resolving, status := status, detail := detail, stampr := s.ns } with
      tools := s.tools.map fun t => { t with requests := t.requests.filter (· != h) } }

/-- Tokens of a range of memory: the bytes, none of them where they cannot be read or the table's check fails as injected, or no answer while a page
is absent (19 R510; 26 R480). -/
def State.tokens (s : State) (sp : Space) (a : Word) (n : Nat) : Option (State × List Byte) :=
  if s.absent sp a (4 * n) .load then none
  else if s.injected futureBank then some ((s.clearInj futureBank).logFuture, [])
  else
    match s.agentRead sp a (4 * n) with
    | .error _ => some (s.logFuture, [])
    | .ok (s1, bs) => some (s1, bs)

/-- The content of a resolution: step 2 of R388. -/
def State.content (s : State) (f : Future) : Option (State × List Byte) :=
  if f.adapter.isSome then some (s, [])
  else
    match f.status with
    | 1 =>
      match s.tokens f.space f.reply 1 with
      | none => none
      | some (s1, bs) =>
        let n := recNat bs 0 4
        if n == 0 then some (s1, []) else s1.tokens f.space (f.reply + 8) n
    | 4 => some (s, [])
    | _ => if f.fblen == 0 then some (s, []) else s.tokens f.space f.fbaddr f.fblen

/-- A power of two between two bounds. -/
def powerOfTwo (n lo hi : Nat) : Bool := decide (lo ≤ n) && decide (n ≤ hi) && n == 2 ^ Nat.log2 n

/-- The address of a prefill-ring block is one (19 R389). -/
def ringPlace (a : Word) : Bool := aligned a 64 && inVirtual a

/-- A prefill-ring block obeys 19 R389. -/
def ringOk (a : Word) (bs : List Byte) : Bool :=
  ringPlace a && recNat bs 0 8 % 256 == 0 && powerOfTwo (recNat bs 8 4) 256 (2 ^ 24) && recZero bs 12 4 && recZero bs 40 24

/-- The runs of a token buffer that n tokens take from counter c on (19 R389). -/
def tokenRuns (buf : Word) (size c n : Nat) : List (Word × Nat) :=
  let k := min n (size - c % size)
  [(buf + BitVec.ofNat 64 (4 * (c % size)), 4 * k), (buf, 4 * (n - k))].filter (·.2 != 0)

/-- The token writes of a content. -/
def State.putTokens (s : State) (sp : Space) : List (Word × Nat) → List Byte → Except (BitVec 7) State
  | [], _ => .ok s
  | r :: rest, bs =>
    match s.agentWrite sp r.1 (bs.take r.2) with
    | .error e => .error e
    | .ok s1 => s1.putTokens sp rest (bs.drop r.2)

/-- A content of n tokens fits a prefill-ring block that obeys its limits (19 R389). -/
def ringFits (a : Word) (b : List Byte) (n : Nat) : Bool :=
  ringOk a b && decide ((recNat b 24 8 + 2 ^ 64 - recNat b 16 8) % 2 ^ 64 + n ≤ recNat b 8 4)

/-- Step 3 of R388 meets a page that the management core is still to answer: the block's, or the token buffer's (19 R510). -/
def State.prefillWaits (s : State) (f : Future) (n : Nat) : Bool :=
  f.ring != 0 && n != 0 && (s.absent f.space f.ring 64 .store || match s.agentRead f.space f.ring 64 with
    | .error _ => false
    | .ok (s1, b) => ringFits f.ring b n &&
      (tokenRuns (recWord b 0) (recNat b 8 4) (recNat b 24 8) n).any fun r => s1.absent f.space r.1 r.2 .store)

/-- Step 3 of R388: the content goes to the prefill ring whole, or is dropped; the entry's COUNT and DROPPED say which. -/
def State.prefill (s : State) (f : Future) (bs : List Byte) : State × Future :=
  let dropped : Future := { f with dropped := true }
  let n := bs.length / 4
  if f.ring == 0 || n == 0 then (s, f)
  else
    match s.agentRead f.space f.ring 64 with
    | .error _ => (s.logFuture, dropped)
    | .ok (s1, b) =>
      let tail := recNat b 24 8
      let drop : State × Future := (s1.agentPut f.space (f.ring + 32) (BitVec.ofNat 64 (recNat b 32 8 + 1)), dropped)
      if !ringFits f.ring b n then drop
      else
        match s1.putTokens f.space (tokenRuns (recWord b 0) (recNat b 8 4) tail n) bs with
        | .error _ => (s1.logFuture.agentPut f.space (f.ring + 32) (BitVec.ofNat 64 (recNat b 32 8 + 1)), dropped)
        | .ok s2 =>
          match s2.agentWrite f.space (f.ring + 24) (leBytes 8 ((tail + n) % 2 ^ 64)) with
          | .error _ => (s1.logFuture.agentPut f.space (f.ring + 32) (BitVec.ofNat 64 (recNat b 32 8 + 1)), dropped)
          | .ok s3 => (s3, { f with count := n })

/-- A linked decrement is sent (19 R392). -/
def State.sendLink (s : State) (f : Future) : State :=
  match f.link with
  | none => s
  | some (rec, n, sp) =>
    match s.agentRead sp rec 128 with
    | .error _ => s.logFuture.linkDone (s.handleOf f) 4
    | .ok (s1, bs) =>
      let name := BitVec.ofNat 32 (recNat bs 8 4)
      if s1.recordBad name (recNat bs 12 1) (recNat bs 16 4) then s1.linkDone (s.handleOf f) 4
      else
        let a : Arrival := {
          name := name, member := recNat bs 12 1, reg := 0, rows := 0, tag := 0, kind := 3, rel := true, scope := 6, seq := 0
          sender := 0, stataddr := 0, stamp := 0, record := rec, value := n, data := 0 }
        s1.launchFlight (.arrival a []) (.link (s.handleOf f) sp)

/-- The linked record's page is absent, or that of a record which an FLINK names. -/
def State.linkAbsent (s : State) (f : Future) : Bool :=
  f.link.any fun l => s.absent l.2.2 l.1 128 .load || f.replies.any fun r => s.absent r.2.2.1 r.2.1 32 .store

/-- The decrement of a resolved future goes at once, or waits for the record's page (19 R401; 16 R508). -/
def State.linkNow (s : State) (f : Future) : State :=
  if s.linkAbsent f then s.putFuture { f with await := .decrement } else s.sendLink f

/-- What a resolution awaits from its reply area: none while the page is absent (19 R386, R387, R510). A COUNT above REPCAP makes it an ERR. -/
def State.settleReply (s : State) (f : Future) : Option (State × Future) :=
  match f.await with
  | .nothing | .decrement | .sent => some (s, f)
  | .reply =>
    if s.absent f.space f.reply 8 .load then none
    else match s.agentRead f.space f.reply 8 with
      | .error _ => some (if f.status == 2 then s.logFuture else s, { f with await := .nothing })
      | .ok (s1, bs) => some (s1, if f.repcap < recNat bs 0 4 then { f with await := .nothing, status := 2, detail := 0x55 }
          else { f with await := .nothing, detail := recNat bs 4 4 })
  | .remote bs =>
    if s.absent f.space f.reply bs.length .store then none
    else match s.agentWrite f.space f.reply bs with
      | .error _ => some (s.logFuture, { f with await := .nothing })
      | .ok s1 => some (s1, { f with await := .nothing })

/-- The steps of R388 after the first, once their pages are present: the future is resolved once its linked decrement, if it has one, has been
taken (State.linkDone). A future whose launch has ended is consumed (19 R403). -/
def State.endResolution (s : State) (f0 : Future) : State :=
  match s.settleReply f0 with
  | none => s
  | some (s0, f) =>
    match s0.content f with
    | none => s
    | some (s1, bs) =>
      if s1.prefillWaits f (bs.length / 4) then s
      else
        let (s2, f1) := s1.prefill f bs
        if f1.link.isSome then let f2 := { f1 with await := .sent }; (s2.putFuture f2).sendLink f2
        else
          let f2 := { f1 with state := .resolved }
          if f.launch == 0 then (s2.putFuture f2).freeEntry f2 else s2.putFuture f2

/-- An entry goes on: its resolution runs once its pages are present, and a decrement that waits is sent once its record's page is. -/
def State.finishFuture (s : State) (f : Future) : State :=
  if f.await == .sent || s.linkAbsent f then s
  else if f.state == .resolving then s.endResolution f
  else if f.await == .decrement then
    if s.consumed.contains f then
      let f1 := { f with await := .nothing }
      ({ s with consumed := s.consumed.map fun x => if x == f then f1 else x } : State).sendLink f1
    else (s.putFuture { f with await := .nothing }).sendLink { f with await := .nothing }
  else s

/-- Every entry goes on, in increasing INDEX (19 R388). -/
def State.finishFutures (s : State) : State :=
  ((s.futures ++ s.consumed).insertionSort fun a b => a.index ≤ b.index).foldl State.finishFuture s

/-- The futures of a smaller INDEX that are resolving with the same prefill ring: they append first (19 R388). -/
def State.ringBefore (s : State) (f : Future) : List Future :=
  if f.ring == 0 then []
  else (s.futures.filter fun g => g.index < f.index && g.state == .resolving && g.ring == f.ring && g.space == f.space).insertionSort
    fun a b => a.index ≤ b.index

/-- FUTURE_RESOLUTION (19 R388). -/
def execFutureResolution (index : Nat) (s : State) : Host.Outcome State Fault Refusal :=
  .next (match s.futures.find? (·.index == index) with
    | some f => ((s.ringBefore f).foldl State.finishFuture s).finishFuture f
    | none => s)

/-- An armed future whose deadline has come resolves with TIMEOUT (19 R390). -/
def State.deadline (s : State) (f : Future) : State :=
  if f.state == .armed && f.deadline ≤ s.ns then s.resolve f 3 0 else s

/-- The deadline came in an earlier cycle: what meets the future now comes later (19 R390). -/
def State.overdue (s : State) (f : Future) : Bool := f.deadline ≤ (s.time - clockPeriod s.clock) / 756

/-- A future as a resolve or a cancellation finds it: resolved by a deadline of an earlier cycle (19 R390, R393). -/
def State.atDeadline (s : State) (f : Future) : State := if s.overdue f then s.deadline f else s

/-- FUTURE_DEADLINE: a deadline of an earlier cycle resolves its future. One of this cycle is left to the cycle, in which a resolve or an FCANCEL
that meets the future comes first (19 R390, R393). -/
def execFutureDeadline (index : Nat) (s : State) : Host.Outcome State Fault Refusal :=
  .next (match s.futures.find? (·.index == index) with
    | some f => s.atDeadline f
    | none => s)

/-- A resolve store's outcome: 0 accepted, 1 not armed, 2 invalid handle (19 R386). Of a handle of another package's table the outcome is that table's,
and so free (log entry 14). -/
def State.resolveStore (s : State) (t : Tool) (h : Word) (status : Nat) : State :=
  if s.handleAway h then
    { s.putTool { t with outcome := (field (Config.remoteOutcome s.free) 0 2 : BitVec 2).toNat % 3 } with free := s.free + 1 }
  else match s.futureOf h with
  | none => s.putTool { t with outcome := 2 }
  | some f =>
    if f.state != .armed then s.putTool { t with outcome := 1 }
    else if s.overdue f then (s.deadline f).toolOutcome t.num 1
    else
      let s0 := s.putTool { t with outcome := 0 }
      if f.adapter.isNone && s.absent f.space f.reply 8 .load then s0.resolve { f with await := .reply } status 0
      else match (if f.adapter.isSome then .error 0 else s0.agentRead f.space f.reply 8) with
      | .error _ => (if status == 2 && f.adapter.isNone then s0.logFuture else s0).resolve f status 0
      | .ok (s1, bs) =>
        if f.repcap < recNat bs 0 4 then s1.resolve f 2 0x55 else s1.resolve f status (recNat bs 4 4)

/-- A tool whose context runs: its core is in service, and no violation has ended it (19 R385; 28 R507). -/
def State.liveTool (s : State) (n : Nat) : Option Tool :=
  (s.toolAt n).filter fun t => s.unitServes 4 t.unit && !t.ended

/-- RESOLVE_OK: the tool context stores a handle at offset 0x008 of its resolve window (19 R386). -/
def execResolveOk (tool : Nat) (handle : Word) (s : State) : Host.Outcome State Fault Refusal :=
  .next (match s.liveTool tool with | some t => s.resolveStore t handle 1 | none => s)

/-- RESOLVE_ERR: the store at offset 0x010. -/
def execResolveErr (tool : Nat) (handle : Word) (s : State) : Host.Outcome State Fault Refusal :=
  .next (match s.liveTool tool with | some t => s.resolveStore t handle 2 | none => s)

/-- RESOLVE_OUTCOME: the load at offset 0x018 reads the last outcome and changes nothing. -/
def execResolveOutcome (_ : Nat) (s : State) : Host.Outcome State Fault Refusal := .next s

/-- An instruction by which a tool core may resolve a future. -/
def isToolResolve : Instr → Bool
  | .resolveOk _ _ | .resolveErr _ _ | .toolCoreAccess _ _ => true
  | _ => false

/-- The agenda's inputs of this cycle. -/
def State.dueNow (s : State) : List (Nat × Instr) := s.agenda.takeWhile (·.1 == 0)

/-- A tool's resolve is still to come in this cycle. -/
def State.toolsFirst (s : State) : Bool := s.dueNow.any fun x => isToolResolve x.2

/-- An input is put behind the others of this cycle. -/
def State.putOff (s : State) (i : Instr) : State := { s with agenda := s.dueNow ++ (0, i) :: s.agenda.drop s.dueNow.length }

/-- REMOTE_RESOLVE: an RMA write into the endpoint's resolve region; what is not accepted is discarded and counted. An accepted
reply reaches the reply area, from which step 2 of R388 reads it (19 R387; log entry 15); an adapter's future has none. Tools' resolves of the cycle
come first (R393). -/
def execRemoteResolve (payload : List Byte) (s0 : State) : Host.Outcome State Fault Refusal :=
  if s0.toolsFirst then .next (s0.putOff (.remoteResolve payload)) else
  let s := (s0.futureOf (recWord payload 0)).elim s0 s0.atDeadline
  let discard : State := { s with ueDiscards := s.ueDiscards + 1 }
  let status := recNat payload 8 1
  .next (match s.futureOf (recWord payload 0) with
    | none => discard
    | some f =>
      if f.state != .armed || (status != 1 && status != 2) then discard
      else
        let n := recNat payload 12 4
        if f.repcap < n then s.resolve f 2 0x55
        else if f.adapter.isSome then s.resolve f status (recNat payload 16 4)
        else
          let bs := (payload.drop 12).take 8 ++ (payload.drop 24).take (4 * n)
          if s.absent f.space f.reply bs.length .store then s.resolve { f with await := .remote bs } status (recNat payload 16 4)
          else
            let s1 := match s.agentWrite f.space f.reply bs with
              | .ok s1 => s1
              | .error _ => s.logFuture
            s1.resolve f status (recNat payload 16 4))

/-! ## Sandboxes (19 R384, R385) -/

/-- A tool context is terminated: the futures whose requests it had taken resolve with ERR and a DETAIL, 0x21 for a violation and a core out of
service (19 R385; 28 R507). -/
def State.endToolContext (s : State) (t : Tool) (detail : Nat := 0x21) : State :=
  t.requests.foldl (fun s h => match s.futureOf h with
    | some f => if f.state == .armed then s.resolve f 2 detail else s
    | none => s) { s with tools := s.tools.map fun x => if x.num == t.num then { x with ended := true } else x }

/-- A violation: it is logged, and the tool context is terminated. -/
def State.violate (s : State) (t : Tool) (a : Word) : State :=
  let s1 := s.endToolContext t
  { s1 with violations := (t.num, a) :: s1.violations }

/-- SANDBOX_VIOLATION (19 R385). -/
def execSandboxViolation (tool : Nat) (addr : Word) (s : State) : Host.Outcome State Fault Refusal :=
  .next (match s.liveTool tool with | some t => s.violate t addr | none => s)

/-- A window of a sandbox admits an access: bit 62, 61 or 60 of its word 0 is the permission. -/
def windowAdmits (w : Word × Word) (perm a n : Nat) : Bool :=
  bit w.1 63 && bit w.1 perm && decide ((field w.1 0 52).toNat ≤ a) && decide (a + n ≤ (field w.2 0 52).toNat + 1)

/-- The bytes lie in the tool's own request queue: its ring, or the word of its tail. -/
def State.inQueue (s : State) (t : Tool) (a n : Nat) : Bool :=
  let within (p : Word) (len : Nat) : Bool := match s.agentAccess t.space p len .load with
    | .fail _ => false
    | .ok _ gs => gs.any fun g => decide (g.1 ≤ devKey s.node a) && decide (devKey s.node a + n ≤ g.1 + g.2)
  within t.ring (64 * t.entries) || within t.tailAddr 8

/-- A tool core's access to memory under its sandbox, in physical addresses, through the shared cache of the tool cluster, whose sharer is the
hub bit (01 R17; 12 R250); its resolve window answers stores of a handle and the
load of the outcome. A transfer to a scope needs a window that it may read and whose MAXSCOPE is as wide (19 R384 to R386). A store that covers
a whole line clears its poison (12 R270; log entry 35). -/
def State.toolAccess (s : State) (t : Tool) (x : ToolAccess) : State :=
  let inWindow (a : Word) : Bool := decide (t.resolve ≤ a.toNat) && decide (a.toNat < t.resolve + 4096)
  match x with
  | .load a n =>
    if inWindow a then (if a.toNat == t.resolve + 0x18 && n == 8 then s else s.violate t a)
    else if t.windows.any (windowAdmits · 62 a.toNat n) || s.inQueue t a.toNat n then
      (segsLines [(devKey s.node a.toNat, n)]).foldl (fun s k => s.noteRead 24 k) s
    else s.violate t a
  | .store a bs =>
    if inWindow a then
      (if bs.length == 8 && a.toNat == t.resolve + 8 then s.resolveStore t (recWord bs 0) 1
       else if bs.length == 8 && a.toNat == t.resolve + 16 then s.resolveStore t (recWord bs 0) 2
       else s.violate t a)
    else if t.windows.any (windowAdmits · 61 a.toNat bs.length) || s.inQueue t a.toNat bs.length then
      let gs : List Seg := [(devKey s.node a.toNat, bs.length)]
      let s1 := (segsLines gs).foldl (fun s k => s.noteWrite 24 k) s
      { s1 with mem := Memory.write s1.mem (devKey s.node a.toNat) bs, poison := clearPoison s1.poison gs }
    else s.violate t a
  | .fetch a => if !inWindow a && t.windows.any (windowAdmits · 60 a.toNat 4) then s else s.violate t a
  | .transfer a n scope =>
    if t.windows.any fun w => windowAdmits w 62 a.toNat n && decide (scope.toNat ≤ (field w.1 57 3 : BitVec 3).toNat) then s else s.violate t a

/-- The bank of a tool core (26 R480). -/
def toolBank (unit : Nat) : Nat := 1831 + unit

/-- A tool core's check fails as injected: it is logged, and the tool context ends, its class being the cause in DETAIL (26 R480, R481, R483; log
entry 42). -/
def State.toolFails (s : State) (t : Tool) : State :=
  ((s.clearInj (toolBank t.unit)).machineCheck (toolBank t.unit) { sev := 2, cls := 0x7A, synd := 0, addr := none, info := none }).endToolContext t 0x7A

/-- TOOL_CORE_ACCESS. -/
def execToolCoreAccess (tool : Nat) (access : ToolAccess) (s : State) : Host.Outcome State Fault Refusal :=
  .next (match s.liveTool tool with
    | some t => if s.injected (toolBank t.unit) then s.toolFails t else s.toolAccess t access
    | none => s)

/-! ## FCALL (19 R382, R396, R397) -/

/-- The checks at forwarding. -/
def fcallCheck (o : N) (s : State) (e : Entry) : Option Trap :=
  if !aligned e.opa 64 || !aligned e.opc 8 then portMisaligned s [(e.opa, 64), (e.opc, 8)]
  else if o.sc == 0 || e.opb == 0 || 2 ^ 40 ≤ e.opb.toNat then portTrap s 0x55
  else none

/-- The descriptor breaks a limit of R382. -/
def callBad (bs : List Byte) : Bool :=
  recNat bs 0 8 % 4 != 0 || 4096 < recNat bs 8 4 || recNat bs 12 4 == 0 || 4096 < recNat bs 12 4 || recNat bs 16 8 % 8 != 0 ||
    recNat bs 32 8 % 4 != 0 || 256 < recNat bs 40 4 || !recZero bs 44 20

/-- The 16 bytes that FCALL and ADREF write. -/
def callAnswer (x : Word) (code : Nat) : List Byte := wordBytes x ++ wordBytes (bitAt true 63 ||| at' code 0)

/-- The answer of FCALL or ADREF is written, s2 being the state that its effect leaves; a fault of the write leaves the instruction
unissued without an effect (16 R338). -/
def State.portAnswer (s s2 : State) (e : Entry) (x : Word) (code : Nat) : Handed :=
  let bs := callAnswer x code
  s.portProbe e.opc bs.length (s2.portWrite e.opc bs true fun s3 => .over (s3.ringNow e))

/-- FCALL's issue. -/
def issueFcall : PortBody := fun s e o =>
  s.portRead e.opa 64 true fun s1 bs =>
    let answer (s2 : State) (x : Word) (code : Nat) : Handed := s1.portAnswer s2 e x code
    if callBad bs then answer s1 0 3
    else
      match s1.toolAt (field o.ctl 0 11).toNat, s1.freeFuture with
      | none, _ => answer s1 0 2
      | _, none => answer s1 0 1
      | some t, some i =>
        let (s2, f0) := s1.armFuture i (s1.ns + e.opb.toNat)
        let f := { f0 with args := recWord bs 0, narg := recNat bs 8 4, repcap := recNat bs 12 4, reply := recWord bs 16, ring := recWord bs 24,
                           fbaddr := recWord bs 32, fblen := recNat bs 40 4 }
        let s3 := s2.putFuture f
        answer (s3.appendRequest t (s3.request f t.num) (s3.handleOf f)) (s3.handleOf f) 0

/-- FCALL. -/
def execFcall (o : N) (s : State) := forwardPort (.fcall o) (fcallCheck o) s

/-! ## FWAIT, FPOLL, FDONE, FCANCEL (19 R398, R399) -/

/-- The check of an output record that may be absent. -/
def recordCheck (o : N) (needed : Bool) (s : State) (e : Entry) : Option Trap :=
  if !aligned e.opc 32 then portTrap s 0x24 e.opc else if needed && o.sc == 0 then portTrap s 0x55 else none

/-- RESULT for a handle of another package's table: one of R400's, as that table has it, and so free (log entry 14). -/
def State.awayResult (s : State) : Nat :=
  let r := (field (Config.remoteFuture s.free) 16 7 : BitVec 7).toNat
  if r == 0x53 || r == 0x56 || r == 0x57 then r else 0

/-- STATE of a future of another package's table, in the same way. -/
def State.awayState (s : State) : Nat := (field (Config.remoteFuture s.free) 0 8 : BitVec 8).toNat % 5

/-- The record for a handle of another package's table: what its table has is outside this package and so free, within the values that R400 lists (log
entry 14). -/
def State.awayRecord (s : State) (h : Word) : List Byte :=
  let x := Config.remoteFuture s.free
  if s.awayResult == 0x53 then futureRecord h 0x53 none none
  else
    let link : Byte := if bit x 31 then 0x80 ||| (field x 24 4 : BitVec 4).setWidth 8 else 0
    wordBytes h ++ [BitVec.ofNat 8 s.awayState, BitVec.ofNat 8 ((field x 8 8 : BitVec 8).toNat % 5), BitVec.ofNat 8 (0x80 + s.awayResult), link] ++
      leBytes 2 (field x 32 16 : BitVec 16).toNat ++ [BitVec.ofNat 8 (bit x 48).toNat, 0] ++ leBytes 4 (field x 64 32 : BitVec 32).toNat ++
      leBytes 4 0 ++ leBytes 8 (field x 128 64 : BitVec 64).toNat

/-- The record is written and the instruction completes; without a record a failure traps at the next boundary. -/
def State.answerFuture (s : State) (e : Entry) (bs : List Byte) (result : Nat) (body : State → State) : Handed :=
  match e.status with
  | none =>
    let s1 := body s
    let s2 := if result != 0 then s1.trapAfter (s1.originOf e none) (BitVec.ofNat 7 result) 0 else s1
    .over (s2.ringNow e)
  | some a => s.portWrite a bs true fun s1 => .over ((body s1).ringNow e)

/-- A read of another package's table advances the free values. -/
def State.nextFree (s : State) : State := { s with free := s.free + 1 }

/-- FWAIT's issue: it completes at once for an invalid handle or a resolved future, and otherwise stays in service, also where another package's
table holds the future. -/
def issueFwait : PortBody := fun s e _ =>
  if s.handleAway e.opa then
    (if s.awayResult == 0x53 || s.awayState == 3 then s.answerFuture e (s.awayRecord e.opa) s.awayResult State.nextFree else .waits s.nextFree)
  else
    match s.futureOf e.opa with
    | none => s.answerFuture e (futureRecord e.opa 0x53 none none) 0x53 id
    | some f => if f.state == .resolved then s.answerFuture e (futureRecord e.opa 0 none (some f)) 0 id else .waits s

/-- FWAIT. -/
def execFwait (o : N) (s : State) := forwardPort (.fwait o) (recordCheck o true) s

/-- FPOLL's issue. -/
def issueFpoll : PortBody := fun s e _ =>
  if s.handleAway e.opa then s.answerFuture e (s.awayRecord e.opa) s.awayResult State.nextFree
  else
    match s.futureOf e.opa with
    | none => s.answerFuture e (futureRecord e.opa 0x53 none none) 0x53 id
    | some f => s.answerFuture e (futureRecord e.opa 0 none (some f)) 0 id

/-- FPOLL. -/
def execFpoll (o : N) (s : State) := forwardPort (.fpoll o) (recordCheck o true) s

/-- FDONE's issue: a resolved future is consumed. -/
def issueFdone : PortBody := fun s e _ =>
  if s.handleAway e.opa then s.answerFuture e (s.awayRecord e.opa) s.awayResult State.nextFree
  else
    match s.futureOf e.opa with
    | none => s.answerFuture e (futureRecord e.opa 0x53 none none) 0x53 id
    | some f =>
      if f.state == .resolved then s.answerFuture e (futureRecord e.opa 0 (some 4) (some f)) 0 fun s => s.freeEntry f
      else s.answerFuture e (futureRecord e.opa 0x56 none (some f)) 0x56 id

/-- FDONE. -/
def execFdone (o : N) (s : State) := forwardPort (.fdone o) (recordCheck o true) s

/-- FCANCEL's issue: a future that is armed, its deadline being none of an earlier cycle, resolves with CANCELLED. -/
def issueFcancel : PortBody := fun s0 e _ =>
  if s0.handleAway e.opa then s0.answerFuture e (s0.awayRecord e.opa) s0.awayResult State.nextFree
  else
    let s := (s0.futureOf e.opa).elim s0 s0.atDeadline
    match s.futureOf e.opa with
    | none => s.answerFuture e (futureRecord e.opa 0x53 none none) 0x53 id
    | some f =>
      if f.state == .armed then
        s.answerFuture e (futureRecord e.opa 0 none (some { f with state := .resolving, status := 4, stampr := s.ns })) 0 fun s => s.resolve f 4 0
      else s.answerFuture e (futureRecord e.opa 0 none (some f)) 0 id

/-- FCANCEL. -/
def execFcancel (o : N) (s : State) := forwardPort (.fcancel o) (recordCheck o false) s

/-! ## FLINK (19 R401) -/

/-- The checks at forwarding. -/
def flinkCheck (o : N) (s : State) (e : Entry) : Option Trap :=
  if !aligned e.opb 128 || !inVirtual e.opb || field o.ctl 0 8 == (0 : BitVec 8) then portTrap s 0x61
  else portMisaligned s [(e.opc, 32)]

/-- FLINK's issue: one link for a future; the decrement goes at once where the future has resolved. FLINK completes once the link is recorded
(20 R407), and a record that it names is written when the decrement's code is known. -/
def issueFlink : PortBody := fun s e o =>
  if s.handleAway e.opa then s.answerFuture e (s.awayRecord e.opa) s.awayResult State.nextFree
  else
    match s.futureOf e.opa with
    | none => s.answerFuture e (futureRecord e.opa 0x53 none none) 0x53 id
    | some f =>
      if f.link.isSome then s.answerFuture e (futureRecord e.opa 0x57 none (some f)) 0x57 id
      else
        let org := s.originOf e e.status
        let f1 := { f with link := some (e.opb, (field o.ctl 0 8).toNat, s.cx.space),
                           replies := e.status.elim f.replies fun a => f.replies ++ [(e.opa, a, s.cx.space, org)] }
        let s2 := (s.ringNow e).putFuture f1
        .over (if f.state == .resolved then s2.linkNow f1 else s2)

/-- FLINK. -/
def execFlink (o : N) (s : State) := forwardPort (.flink o) (flinkCheck o) s

/-! ## Adapters (19 R394, R395, R402) -/

/-- A residency entry is replaced, or leaves the table. -/
def State.putResidency (s : State) (r : Residency) : State := { s with residency := r :: s.residency.filter (·.entry != r.entry) }

/-- The launch is counted at an entry and notes it. -/
def State.referAdapter (s : State) (r : Residency) (launch : Word) : State :=
  let r1 := if r.launches.contains launch then r else { r with launches := r.launches ++ [launch] }
  s.putResidency r1

/-- An entry that a new adapter can take: a free one, or a resident one that no launch references. -/
def State.freeResidency (s : State) : Option Nat :=
  if s.residency.length < 4096 then (List.range (s.residency.length + 1)).find? fun i => !s.residency.any (·.entry == i)
  else (s.residency.find? fun r => r.resident && r.launches.isEmpty).map Residency.entry

/-- The checks at forwarding. -/
def adrefCheck (o : N) (s : State) (e : Entry) : Option Trap :=
  if !aligned e.opc 8 then portTrap s 0x24 e.opc
  else if o.sc == 0 || field e.opa 32 32 != (0 : BitVec 32) then portTrap s 0x55
  else none

/-- ADREF's issue (19 R395, R402). -/
def issueAdref : PortBody := fun s e _ =>
  let n : BitVec 32 := field e.opa 0 32
  let answer (s2 : State) (x : Word) (code : Nat) : Handed := s.portAnswer s2 e x code
  let park (r : Residency) : Handed :=
    match s.freeFuture with
    | none => answer s 0 3
    | some i =>
      let (s1, f) := s.armFuture i (s.ns + 2 ^ 30)
      let s2 := s1.putFuture { f with adapter := some r.entry }
      answer (s2.referAdapter { r with waiting := r.waiting ++ [i] } s.cx.launch) (s2.handleOf f) 1
  if !s.adapters.any (·.num == n) then answer s 0 2
  else
    match s.residency.find? (·.num == n) with
    | some r => if r.resident then answer (s.referAdapter r s.cx.launch) (BitVec.ofNat 64 r.addr) 0 else park r
    | none =>
      match s.freeResidency with
      | none => answer s 0 3
      | some i => park { entry := i, num := n, resident := false, addr := 0, launches := [], waiting := [] }

/-- ADREF. -/
def execAdref (o : N) (s : State) := forwardPort (.adref o) (adrefCheck o) s

/-- ADAPTER_LOAD_DONE: the copy engines have brought an adapter to an HBM4E address, or failed with a cause; its futures resolve OK
or ERR (19 R395). -/
def execAdapterLoadDone (entry : Nat) (addr : Nat) (cause : Nat) (s : State) : Host.Outcome State Fault Refusal :=
  .next (match s.residency.find? (·.entry == entry) with
    | none => s
    | some r =>
      if r.resident then s
      else
        let settle (s : State) (status detail : Nat) : State :=
          r.waiting.foldl (fun s i => match s.futures.find? (·.index == i) with
            | some f => if f.state == .armed && f.adapter == some entry then s.resolve f status detail else s
            | none => s) s
        let fail (c : Nat) : State := settle { s with residency := s.residency.filter (·.entry != entry) } 2 c
        if cause != 0 then fail cause
        else
          match s.adapters.find? (·.num == r.num) with
          | none => s
          | some a =>
            let src := if a.node == 0xFFFF then hostKey a.source else devKey a.node a.source
            if segsPoisoned s.poison [(src, a.size)] then fail 0x25
            else settle ((s.copyRange src (devKey s.node addr) a.size).putResidency { r with resident := true, addr := addr, waiting := [] }) 1 0)

/-! ## The end of a launch (19 R403, R394) -/

/-- The futures that a launch armed are settled, and its adapter references end. -/
def State.settleFutures (s : State) (launch : Word) : State :=
  let s1 := s.futures.foldl (fun s f =>
    if f.launch != launch || f.launch == 0 then s
    else match f.state with
      | .free => s
      | .armed =>
        let s2 := s.resolve f 4 0
        { s2 with futures := s2.futures.map fun x => if x.index == f.index then { x with launch := 0 } else x }
      | .resolving => s.putFuture { f with launch := 0 }
      | .resolved => s.freeEntry f) s
  { s1 with residency := s1.residency.map fun r => { r with launches := r.launches.filter (· != launch) } }

end Sys2Proof.Machine
end

