-- ==== Sys2Proof/Machine/Copies.lean ====
section
/-! DEFINITION. Multicast stores, reductions into memory and copies: MCST, REDST, CPY, CPYW (23 R457, R459 to R464), and how a
walk learns that an operation of its node has finished (21 R423, R425). -/

namespace Sys2Proof.Machine

/-! ## Walks (21 R423, R425) -/

/-- A walk is replaced. -/
def State.putWalk (s : State) (w : Walk) : State := { s with walks := s.walks.map fun x => if x.num == w.num then w else x }

/-- The walk fails at a node; of several failures of one cycle the lowest index is reported. -/
def Walk.fail (w : Walk) (now i cause : Nat) : Walk :=
  match w.failed with
  | none => { w with failed := some (i, cause, now) }
  | some (j, c, t) => if t == now && i < j then { w with failed := some (i, cause, now) } else { w with failed := some (j, c, t) }

/-- The walk goes on to a node; an index beyond the graph fails the node it comes from (21 R425). -/
def Walk.goTo (w : Walk) (now next : Nat) : Walk :=
  if next < w.nnodes then { w with node := next, started := false } else { w with started := false }.fail now w.node 0x65

/-- A launch or copy of node i has finished, with a cause or 0. -/
def State.nodeFinished (s : State) (num i : Nat) (launch : Option Word) (cause : Nat) : State :=
  match s.walks.find? (·.num == num) with
  | none => s
  | some w =>
    if w.nowait.contains ⟨i, launch⟩ then
      let w1 := { w with nowait := w.nowait.erase ⟨i, launch⟩ }
      s.putWalk (if cause == 0 then w1 else w1.fail s.time i cause)
    else if w.node == i && w.started then s.putWalk (if cause == 0 then w.goTo s.time (i + 1) else w.fail s.time i cause)
    else s

/-! ## MCST and REDST (23 R457, R459 to R462) -/

/-- Bytes of one element or block of REDST's formats. -/
def redBytes (f : BitVec 4) : Nat := if f == 0xD then 17 else if f == 0xE then 18 else 4

/-- The checks of a source at forwarding. -/
def sourceCheck (unitBytes : Nat) (s : State) (e : Entry) : Option Trap :=
  let n := e.opb.toNat
  let rest : Option Trap := if 0xA ≤ (field e.opa 60 4).toNat then portTrap s 0x5A else portMisaligned s [(e.opc, 16)]
  if n == 0 || 2048 < n || n % unitBytes != 0 then portTrap s 0x5A
  else
    match s.placeOf e.opa.toNat n false with
    | .bad c => if c == 0x22 || c == 0x23 then portTrap s c e.opa else rest
    | .virt | .scratch _ => rest

/-- A quay core in service: not fenced, retired or under test, and its port not retired (01 R24). -/
def State.quayInService (s : State) (q : Nat) : Bool :=
  s.unitServes 1 (1536 + q) && !s.outUnits.any fun u => u.cls == 2 && u.retired && u.unit == q / 4

/-- The quay core that takes block k of port p, with the diversions of 01 R24. -/
def State.quayFor (s : State) (p k : Nat) : Option Nat :=
  ((List.range 4).map fun d => 4 * p + (k + d) % 4).find? s.quayInService

/-- The port whose block queue takes updates of this package's own memory. -/
def State.blockPort (s : State) : Option Nat := (List.range 6).find? fun p => (s.quayFor p 0).isSome

/-- The sum of two elements or blocks (23 R461). -/
def redSum (f : BitVec 4) (old x : Nat) : Nat :=
  if f == 4 then (old + x) % 2 ^ 32
  else if f == 8 then (addFp32 (FFmt.fp32.value old) (FFmt.fp32.value x)).code
  else (blockSum f old x fun _ => .rne).code

/-- The keys of the bytes of runs. -/
def segKeys (gs : List Seg) : List Nat := gs.flatMap fun g => (List.range g.2).map (g.1 + ·)

/-- One element or block updated at the keys of its bytes (23 R460). -/
def updateUnit (f : BitVec 4) (m : List Host.Cell) (keys : List Nat) (src : List Byte) : List Host.Cell :=
  let old := leNat (keys.map (Memory.get m))
  (keys.zip (leBytes keys.length (redSum f old (leNat src)))).foldl (fun m p => Memory.set m p.1 p.2) m

/-- A byte list cut into units. -/
def unitsOf {α : Type} (n : Nat) (l : List α) : List (List α) :=
  (List.range (l.length / max 1 n)).map fun k => (l.drop (k * n)).take n

/-- How one destination ends. -/
inductive DestEnd where
  | written (s : State)
  | denied (s : State) (cause : BitVec 7) (va : Word)

/-- The first poisoned line of runs. -/
def firstPoison (poison : List Nat) (gs : List Seg) : Nat := ((segsLines gs).find? fun k => poison.contains (k / 128)).getD (firstKey gs)

/-- The message for bytes of another package waits for its port (23 R442, R454). -/
def State.askLater (s : State) (n : Nat) (g : Seg) (x y : Word) (payload : List Byte) : State :=
  s.launchFlight (.packet (s.askHeader n g x y 0 payload.length) payload false 3) .none

/-- A REDST's updates of another package's bytes travel as remote atomics of its elements, or as a block reduction (23 R454, R462). -/
def State.askReduce (s : State) (f : BitVec 4) (g : Seg) (src : List Byte) : State :=
  if f == 4 || f == 8 then
    (unitsOf 4 src).zipIdx.foldl (fun s u => s.askLater 0x10 (g.1 + 4 * u.2, 4) (if f == 4 then 0 else 9) (BitVec.ofNat 64 (leNat u.1)) []) s
  else s.askLater 0x30 g (place f 0) 0 src

/-- Messages for the runs of a destination that lie in another package, each with its bytes of the source. -/
def State.askDest (s : State) (red : Option (BitVec 4)) : List Seg → List Byte → State
  | [], _ => s
  | g :: r, src =>
    let here := src.take g.2
    (if s.remote g.1 then (match red with
      | none => s.askLater 8 g 0 0 here
      | some f => s.askReduce f g here) else s).askDest red r (src.drop g.2)

/-- One destination of REDST: elements at once, blocks of this package into the queues of quay cores. A poisoned line denies it, and the place of
execution logs that (12 R270): the home slice for an element, the quay core for a block (log entry 35). -/
def State.reduceAt (s : State) (f : BitVec 4) (op : Nat) (a : Word) (gs : List Seg) (src : List Byte) : DestEnd :=
  let element := f == 4 || f == 8
  if segsPoisoned s.poison gs then
    let k := firstPoison s.poison gs
    .denied (if element then s.poisonCheck k true else match s.blockPort.bind fun p => s.quayFor p 0 with
      | some q => s.machineCheck (1536 + q) { sev := 2, cls := 0x73, synd := 0, addr := some (k % 2 ^ 52 / 128 * 128), info := some (s.cx.mcInfo s.cx.item 5) }
      | none => s) 0x25 a
  else
    let units := (unitsOf (redBytes f) (segKeys gs)).zip (unitsOf (redBytes f) src)
    let s := s.recallSegs gs
    let now : State := (({ s with mem := units.foldl (fun m u => updateUnit f m u.1 u.2) s.mem } : State).noteIf (f != 4) gs).askDest (some f) gs src
    if element || gs.any (fun g => s.remote g.1) then .written now
    else
      match s.blockPort with
      | none => .denied s 0x58 a
      | some p => .written { s with blocks := s.blocks ++ units.zipIdx.map fun u =>
          { quay := (s.quayFor p u.2).getD 0, op := op, fmt := f, keys := u.1.1, src := u.1.2 } }

/-- One destination of MCST or REDST (23 R459). -/
def State.destAt (s : State) (red : Option (BitVec 4)) (op : Nat) (a : Word) (src : List Byte) : DestEnd :=
  match s.mapRange none a.toNat src.length (if red.isSome then .rmw else .store) false with
  | .fail f => .denied s f.cause f.va
  | .ok s1 gs =>
    match red with
    | none => .written ((s1.homeWrite gs src true).askDest none gs src)
    | some f => s1.reduceAt f op a gs src

/-- The state, WRITTEN, and the cause and address of the first denied destination. -/
abbrev DestSum := State × Word × BitVec 7 × Word

/-- Every destination in turn. -/
def State.destinations (s : State) (red : Option (BitVec 4)) (op : Nat) (src : List Byte) (dests : List Word) : DestSum :=
  dests.zipIdx.foldl (fun (x : DestSum) d =>
    match x.1.destAt red op d.1 src with
    | .written s1 => (s1, x.2.1 ||| bitAt true d.2, x.2.2)
    | .denied s1 c va => (s1, x.2.1, if x.2.2.1 == 0 then (c, va) else x.2.2)) (s, 0, 0, 0)

/-- The completion of MCST and REDST: the record, the completion, and the trap where a destination was denied (23 R459). -/
def State.finishMulti (s : State) (r : Reduction) : State :=
  let code := if r.cause == 0 then 0 else if r.all then 2 else 1
  let s1 := if r.compl == 0 then s
    else s.deviceWrite (s.originCtx r.origin) r.space r.compl (wordBytes (statusWord code r.cause) ++ wordBytes r.written) 1
  match r.origin with
  | .node n tag => s1.respond n (atomicHeader s.node n 0x30 tag) (statusWord code r.cause) []
  | .none | .link _ _ | .ctx _ _ _ _ _ _ | .copy _ | .deferred =>
    (if r.cause == 0 then s1 else s1.trapAfter r.origin r.cause r.written r.va).completePort r.origin

/-- The list breaks its limits (23 R459). -/
def listBad (bs : List Byte) : Bool := recNat bs 0 8 % 16 != 0 || recNat bs 8 1 == 0 || 64 < recNat bs 8 1 || !recZero bs 9 7

/-- The destinations of a list's bytes. -/
def destsOf (bs : List Byte) : List Word := (List.range (bs.length / 8)).map fun i => recWord bs (8 * i)

/-- A destination meets a page that the management core is still to answer (23 R459). -/
def State.destAbsent (s : State) (k : Access) (a : Word) (len : Nat) : Bool :=
  match s.mapRange none a.toNat len k false with
  | .fail f => s.openFault s.cx.space f
  | .ok _ _ => false

/-- The issue of MCST, and of REDST in a format. -/
def issueMulti (red : N → Option (BitVec 4)) : PortBody := fun s e o =>
  s.portRead e.opa e.opb.toNat false fun s1 src =>
    s1.portRead e.opc 16 true fun s2 head =>
      let org := s2.originOf e none
      let op := s2.serial
      let compl := if recNat head 0 8 % 16 == 0 then recWord head 0 else 0
      if compl != 0 && s2.absent s2.cx.space compl 16 .store then .stays
      else if listBad head then
        .over (s2.handOver.finishMulti { op := op, origin := org, space := s2.cx.space, compl := compl, written := 0, cause := 0x5A, all := true })
      else
        s2.portRead (e.opc + 16) (8 * recNat head 8 1) true fun s3 list =>
          let k : Access := if (red o).isSome then .rmw else .store
          if (destsOf list).any fun a => s3.destAbsent k a e.opb.toNat || s3.copyBusy a e.opb.toNat true then .stays
          else
            let (s4, written, cause, va) := s3.handOver.destinations (red o) op src (destsOf list)
            let r : Reduction := { op := op, origin := org, space := s3.cx.space, compl := compl, written := written, cause := cause, va := va,
                                   all := written == 0, dests := destsOf list, len := e.opb.toNat }
            .over (if s4.blocks.any (·.op == op) then { s4 with reductions := s4.reductions ++ [r] } else s4.finishMulti r)

/-- MCST (23 R459). -/
def execMcst (o : N) (s : State) := forwardPort (.mcst o) (sourceCheck 1) s

/-- MCST's issue. -/
def issueMcst : PortBody := issueMulti fun _ => none

/-- REDST (23 R461). -/
def execRedst (o : N) (s : State) := forwardPort (.redst o) (sourceCheck (redBytes (field o.ctl 0 4))) s

/-- REDST's issue. -/
def issueRedst : PortBody := issueMulti fun o => some (field o.ctl 0 4)

/-- A REDST whose last block is done completes, once the page of its record is present (23 R459). -/
def State.reductionDone (s : State) (op : Nat) : State :=
  match s.reductions.find? (·.op == op) with
  | none => s
  | some r =>
    if s.blocks.any (·.op == op) || (r.compl != 0 && s.absent r.space r.compl 16 .store) then s
    else { s with reductions := s.reductions.filter (·.op != op) }.finishMulti r

/-- Blocks that stand in the queue of a quay core out of service are diverted: on their port, or to a port that still takes blocks (01 R24; 23 R462;
28 R507). -/
def State.divertBlocks (s : State) : State :=
  { s with blocks := s.blocks.map fun b =>
      if s.quayInService b.quay then b
      else match s.quayFor (b.quay / 4) (b.quay % 4) with
        | some q => { b with quay := q }
        | none => match s.blockPort.bind fun p => s.quayFor p (b.quay % 4) with
          | some q => { b with quay := q }
          | none => b }

/-- The oldest block update of a quay core's queue is performed, while its service runs (23 R462). -/
def State.blockStep (s0 : State) (quay : Nat) : State :=
  let s := s0.divertBlocks
  match s.blocks.find? fun b => b.quay == quay && s.quayInService quay with
  | none => s
  | some b =>
    let s1 := s.recallSegs (b.keys.map (·, 1))
    (({ s1 with mem := updateUnit b.fmt s1.mem b.keys b.src, blocks := s1.blocks.erase b } : State).noteIf (b.fmt != 4)
      (b.keys.map (·, 1))).reductionDone b.op

/-- BLOCK_REDUCTION (23 R462). -/
def execBlockReduction (quay : Nat) (s : State) : Host.Outcome State Fault Refusal := .next (s.blockStep quay)

/-! ## CPY and CPYW (23 R463, R464) -/

/-- The checks of CPY at forwarding. -/
def cpyCheck (s : State) (e : Entry) : Option Trap :=
  let n := e.opc.toNat
  let bad (a : Word) : Option (BitVec 7 × Word) := match s.placeOf a.toNat (max 1 n) true with | .bad c => some (c, a) | .virt | .scratch _ => none
  if 2 ^ 32 < n || !inVirtual e.opa || !inVirtual e.opb then portTrap s 0x5A
  else if n == 0 then none
  else match bad e.opa, bad e.opb with
    | some c, _ => portTrap s c.1 c.2
    | none, some c => portTrap s c.1 c.2
    | none, none => none

/-- The checks of CPYW at forwarding. -/
def cpywCheck (s : State) (e : Entry) : Option Trap :=
  if !inVirtual e.opa || !inVirtual e.opb then portTrap s 0x5A else portMisaligned s [(e.opc, 32)]

/-- CPYW's status word. -/
def cpywWord (cause : BitVec 7) (bytes code : Nat) : Word := bitAt true 63 ||| place cause 56 ||| at' bytes 8 ||| at' code 0

/-- How a copy ends: its outcome where it belongs, with the cause or 0 and the bytes copied (23 R463, R464; 21 R425). -/
def State.copyEnd (s : State) (c : Copy) (cause : BitVec 7) (bytes : Nat) (va : Word := 0) : State :=
  match c.serves with
  | .cpy o => (if cause == 0 then s else s.trapAfter o cause (BitVec.ofNat 64 bytes) va).completePort o
  | .cpyw o flag value status =>
    let (s1, bad, at_) : State × BitVec 7 × Word :=
      if cause != 0 || flag == 0 then (s, cause, va)
      else match s.agentWrite c.space flag (wordBytes value) with
        | .ok s1 => (s1, 0, 0)
        | .error f => (s, f, flag)
    let s2 := if status == 0 then s1 else s1.deviceWrite (s1.originCtx o) c.space status (wordBytes (cpywWord bad bytes (if bad == 0 then 0 else 1))) 4
    (if bad != 0 && status == 0 then s2.trapAfter o bad (BitVec.ofNat 64 bytes) at_ else s2).completePort o
  | .node w i => s.nodeFinished w i none cause.toNat

/-- How a unit of a copy ends. -/
inductive UnitEnd where
  /-- Its bytes are written, or on their way. -/
  | moved (s : State)
  /-- It waits for its port, or for the units before it. -/
  | waits
  | failed (f : Fail)

/-- A copy's counts after n bytes of the copy are written, and m sent. -/
def State.copied (s : State) (num n m : Nat) : State :=
  { s with copies := s.copies.map fun c => if c.num == num then { c with done := c.done + n, ahead := c.ahead + m } else c }

/-- Runs of a unit that lie in another package go there, one bulk packet each (23 R463; 24 R471). -/
def State.sendUnit (s : State) (num : Nat) : List Seg → List Byte → State
  | [], _ => s
  | g :: r, bs =>
    (if s.remote g.1 then s.sendTo { s.askHeader 8 g 0 0 0 g.2 with cls := 2 } (bs.take g.2) (.copy num) else s).sendUnit num r (bs.drop g.2)

/-- The bytes of a unit whose runs lie in this package or in host memory. -/
def State.localUnit (s : State) : List Seg → List Byte → State
  | [], _ => s
  | g :: r, bs => (if s.remote g.1 then s else s.homeWrite [g] (bs.take g.2) true).localUnit r (bs.drop g.2)

/-- The next unit of a copy: at most 2 KiB, in increasing address order, through an engine's translation cache; a destination line that it covers is
clean (12 R270; 13 R283). A unit bound for another package leaves once the port takes it; one of this package follows every unit before it. -/
def State.copyUnit (s : State) (engine : Nat) (c : Copy) (done n : Nat) : UnitEnd :=
  let src := c.src + BitVec.ofNat 64 done
  if c.ahead != 0 && rangesMeet src.toNat n (c.dst.toNat + c.done) c.ahead then .waits
  else match s.agentAccess c.space src n .load (some (4 + engine)) with
  | .fail f => .failed f
  | .ok s1 gs =>
    if segsPoisoned s1.poison gs then .failed ⟨0x25, src, .load, false⟩
    else match s1.agentAccess c.space (c.dst + BitVec.ofNat 64 done) n .store (some (4 + engine)) with
      | .fail f => .failed f
      | .ok s2 ds =>
        let away := ds.filter fun g => s.remote g.1
        let bytes := (away.map Prod.snd).sum
        if bytes != n && c.ahead != 0 then .waits
        else if away.any (fun g => s.waitingTo (keyNode g.1) 2) || !away.all fun g => (s.portTo (keyNode g.1)).any fun p =>
          s.portTakes p 2 ((away.map fun g => flitsOf g.2).sum) then .waits
        else .moved (((s2.localUnit ds (readSegs s1.mem gs)).sendUnit c.num ds (readSegs s1.mem gs)).copied c.num (n - bytes) bytes)

/-- How far a copy has come. -/
inductive CopyRun where
  | under (s : State)
  | ended (s : State) (f : Option Fail)

/-- The units of a copy, as far as they go: it ends once every byte is written, or where one fails and those before it are written. -/
def State.copyUnits (s : State) (engine num : Nat) : Nat → CopyRun
  | 0 => .under s
  | fuel + 1 =>
    match s.copies.find? (·.num == num) with
    | none => .under s
    | some c =>
      let next := c.done + c.ahead
      if c.len ≤ next then (if c.ahead == 0 then .ended s none else .under s)
      else
        match s.copyUnit engine c next (min 2048 (c.len - next)) with
        | .waits => .under s
        | .failed f => if c.ahead == 0 then .ended s (some f) else .under s
        | .moved s1 => s1.copyUnits engine num fuel

/-- The copy's extents lie in window 0x0 (12 R248). -/
def copyExtent (c : Copy) : Bool := decide (c.src.toNat + c.len ≤ 2 ^ 57) && decide (c.dst.toNat + c.len ≤ 2 ^ 57)

/-- The copy engines in service (23 R463; 28 R507). -/
def State.copyEngines (s : State) : List Nat := (List.range 16).filter (s.unitServes 5)

/-- A copy follows an earlier one of its context on a location that one of them writes (12 R256). -/
def Copy.follows (c d : Copy) : Bool :=
  c.sender.isSome && c.sender == d.sender &&
    (meetsAny c.src.toNat c.len d.writes || d.writes.any (fun x => meetsAny x.1 x.2 c.writes) || meetsAny d.src.toNat d.len c.writes)

/-- A copy follows a REDST of its context whose blocks wait. -/
def Copy.followsReduction (c : Copy) (r : Reduction) : Bool :=
  c.sender.isSome && c.sender == r.origin.sender &&
    (meetsAny c.src.toNat c.len r.writes || r.writes.any fun x => meetsAny x.1 x.2 c.writes)

/-- A hub engine's check fails as injected: a contained error in its bank (26 R480, R481). -/
def State.engineFails (s : State) (bank : Nat) (info : Option Word) : State :=
  (s.clearInj bank).machineCheck bank { sev := 2, cls := 0x79, synd := 0, addr := none, info := info }

/-- The context whose copy this is. -/
def State.copyOwner (s : State) (c : Copy) : Option Ctx := c.sender.bind s.findCtx

/-- A copy meets a page that the management core is still to answer: in its extents, or where it ends by a write (23 R463, R464; 16 R508). -/
def State.copyAbsent (s : State) (c : Copy) : Bool :=
  let word (a : Word) : Bool := a != 0 && s.absent c.space a 8 .store
  (copyExtent c && (s.absent c.space c.src c.len .load || s.absent c.space c.dst c.len .store)) ||
    match c.serves with
    | .cpyw _ flag _ status => word flag || word status
    | .cpy _ | .node _ _ => false

/-- The copy has begun. -/
def Copy.begun (c : Copy) : Bool := c.done + c.ahead != 0

/-- A copy leaves the list, and ends. -/
def State.endCopy (s : State) (num : Nat) (cause : BitVec 7) (va : Word) : State :=
  match s.copies.find? (·.num == num) with
  | none => s
  | some c => ({ s with copies := s.copies.filter (·.num != num) } : State).copyEnd c cause (if cause == 0 then c.done else c.done / 2048 * 2048) va

/-- The k-th copy goes on, on an engine in service or on the one that runs it, once its pages are present and no earlier operation that it follows
waits; an undelivered unit ends it (23 R450, R453, R463; 28 R507). -/
def State.runCopy (s : State) (k : Nat) : State :=
  match s.copies[k]? with
  | none => s
  | some c =>
    match s.copyEngines[k % max 1 s.copyEngines.length]?.orElse fun _ => if c.begun then some 0 else none with
    | none => s
    | some engine =>
      if c.broken != 0 then s.endCopy c.num c.broken 0
      else if (s.copies.take k).any c.follows || s.reductions.any c.followsReduction then s
      else if s.copyAbsent c then s
      else if !c.begun && s.injected (1812 + engine) then
        (s.engineFails (1812 + engine) ((s.copyOwner c).map (·.mcInfo 4 5))).endCopy c.num 0x79 0
      else match s.copyUnits engine c.num (c.len / 2048 + 2) with
        | .under s1 => s1
        | .ended s1 none => s1.endCopy c.num 0 0
        | .ended s1 (some f) => s1.endCopy c.num f.cause f.va

/-- Each copy is served, oldest first. -/
def State.runCopiesFrom (s : State) (k : Nat) : Nat → State
  | 0 => s
  | n + 1 =>
    let s1 := s.runCopy k
    s1.runCopiesFrom (if s1.copies.length < s.copies.length then k else k + 1) n

/-- The copies of a cycle. -/
def State.runCopies (s : State) : State := s.runCopiesFrom 0 s.copies.length

/-- COPY_COMPLETE (23 R463). -/
def execCopyComplete (k : Nat) (s : State) : Host.Outcome State Fault Refusal := .next (s.runCopy k)

/-- A copy is handed to an engine, under a number of its own. -/
def State.startCopy (s : State) (c : Copy) : State := { s with serial := s.serial + 1, copies := s.copies ++ [{ c with num := s.serial }] }

/-- CPY's issue: LEN 0 completes at once. -/
def issueCpy : PortBody := fun s e _ =>
  if e.opc == 0 then .over (s.ringNow e)
  else .over (s.handOver.startCopy { num := 0, serves := .cpy (s.originOf e none), space := s.cx.space, src := e.opa, dst := e.opb, len := e.opc.toNat })

/-- CPY (23 R463). -/
def execCpy (o : N) (s : State) := forwardPort (.cpy o) cpyCheck s

/-- CPYW's issue: the command block is read; a LEN above 2^32 or a misaligned address of the block fails it (log entry 16). -/
def issueCpyw : PortBody := fun s e _ =>
  s.portRead e.opc 32 true fun s1 bs =>
    let len := recNat bs 0 8
    let flag := recWord bs 8
    let status := recWord bs 24
    let st := if aligned status 8 then status else 0
    let c : Copy := { num := 0, serves := .cpyw (s1.originOf e none) flag (recWord bs 16) st, space := s1.cx.space, src := e.opa, dst := e.opb, len := len }
    if 2 ^ 32 < len || !aligned flag 8 || !aligned status 8 then
      (if st != 0 && s1.absent s1.cx.space st 8 .store then .stays else .over (s1.handOver.copyEnd c 0x5A 0))
    else .over (s1.handOver.startCopy c)

/-- CPYW (23 R464). -/
def execCpyw (o : N) (s : State) := forwardPort (.cpyw o) cpywCheck s

end Sys2Proof.Machine
end

