-- ==== Sys2Proof/Machine/Drain.lean ====
section
/-! DEFINITION. Draining a context's engines (02 R47, R48; 14 R300, R301) and the end of a member: the implicit drops, the basin, the
run list, the launch's member entry and the directory (02 R37; 06 R121; 16 R336; 17 R345, R357; 21 R415). -/

namespace Sys2Proof.Machine

/-! ## Draining (02 R47, R48; 14 R300, R301) -/

/-- A cycle by which every AQ result is visible. -/
def Ctx.lastVisible (c : Ctx) : Nat := c.pending.foldl (fun a x => max a x.1) 0

/-- Every AQ result becomes visible; entries for channels only where sends says so: an entry is readable at its own time (08 R182), unless the
context ends or leaves its core. -/
def State.flushAq (s : State) (sends : Bool) : State :=
  let t := s.cx.lastVisible
  let s1 := if sends then s.showNow t else { s with cx := s.cx.showData t }
  { s1 with cx := s1.cx.showRest t }

/-- An operation in service at the head of LQ or SQ ends: where it stops, at its next row or index boundary with a restart point; else it
moves what is left and completes, unless a row fails (02 R47; 14 R300, R301). -/
def State.endXfer (s : State) (q : Queue) (halt : Bool) : State :=
  match (s.cx.queue q).entries with
  | [] => s
  | e :: _ =>
    let x := s.cx.queue q
    if !x.issued || x.rstart then s
    else
      match x.moved, halt with
      | some k, true =>
        let c := s.cx.setPoint e true k
        { s with cx := c.setQueue q { c.queue q with rstart := true, moved := none } }
      | some _, false =>
        let s1 := s.transfer q e true
        if (s1.cx.queue q).rstart then s1 else { s1 with cx := s1.cx.completeXfer q e }
      | none, _ => { s with cx := s.cx.completeXfer q e }

/-- MQ's head ends: a product at its next chunk boundary or to its end, anything else to its end. -/
def State.endMatrix (s : State) (halt : Bool) : State :=
  match s.cx.mq.entries with
  | e :: _ =>
    match e.xFields with
    | some o =>
      if !s.cx.mq.issued || s.cx.mq.rstart || e.isVoid then s
      else if isCommand e.instr then (if halt then s.haltProduct else s.endFetch e o)
      else s.endJoin e o
    | none => s
  | [] => s

/-- The current context's engines drain in the order LQ, AQ, SQ, MQ, NQ (02 R48; 14 R300, R301). In a page-fault drain or a bank switch every
issued operation completes, a product that halts stopping at its next chunk boundary; for a save a transfer too stops at its next
boundary. An NQ operation is handed to the message port in the cycle of its issue, so none is left; TEND and FWAIT are not handed over. sends:
the context leaves its core, so that its channel entries reach their buffers now. -/
def State.drain (s : State) (halt : Bool) (stop sends : Bool := false) : State :=
  let s1 := (s.endXfer .lq stop).flushAq sends
  let s2 := (s1.endXfer .sq stop).endMatrix halt
  { s2 with cx := s2.cx.productsDone (s2.cx.mqDone.foldl (fun a x => max a x.1) 0) }

/-- Instructions that were forwarded and have not issued are discarded (06 R121). -/
def Ctx.discard (c : Ctx) : Ctx :=
  let clear (x : EQueue) : EQueue := { x with entries := [], issued := false, rstart := false, moved := none }
  { c with lq := clear c.lq, sq := clear c.sq, aq := clear c.aq, mq := clear c.mq, nq := clear c.nq, expects := [], after := [],
           faultRec := [] }

/-! ## Launches and their member entries (21 R409, R415) -/

/-- A launch is replaced. -/
def State.putLaunch (s : State) (l : Launch) : State := { s with launches := s.launches.map fun x => if x.id == l.id then l else x }

/-- The launch of an identifier. -/
def State.launchOf (s : State) (id : Word) : Option Launch := s.launches.find? (·.id == id)

/-- The number, in launch member order, of the first member of the cohort of a name. -/
def Launch.base (l : Launch) (n : BitVec 32) : Nat := ((l.cohorts.takeWhile fun c => c.name != n).map LCohort.members).sum

/-- A member's entry is written. -/
def State.setEntry (s : State) (id : Word) (n : BitVec 32) (m : Nat) (x : MemberEntry) : State :=
  match s.launchOf id with
  | none => s
  | some l => s.putLaunch { l with entries := l.entries.set (l.base n + m) x }

/-! ## The end of a member -/

/-- Basin entries of a member are discarded; how many there were (17 R357). -/
def State.dropBasin (s : State) (n : BitVec 32) (m : Nat) : State × Nat :=
  let mine (b : BasinEntry) : Bool := b.arr.name == n && b.arr.member == m
  ({ s with basins := s.basins.filter fun b => !mine b, freed := ((s.basins.filter mine).map fun b => (b.cluster, b.core)) ++ s.freed },
    (s.basins.filter mine).length)

/-- The cohort exits with its last member: its barrier units write back (18 R366). Task messages still deferred fail. -/
def State.cohortExit (s : State) (n : BitVec 32) (c : Ctx) : State :=
  match s.dirOf n with
  | none => { s.releaseUnits n with guests := s.guests.filter (·.name != n) }
  | some d =>
    let s1 := d.deferred.foldl (fun s a => if a.kind == 2 || a.kind == 3 then s.taskFail (some c) c.space a.record 0xD1 else s) s
    (s1.releaseUnits n).modDir n fun d => { d with state := .exited, deferred := [], draining := false }

/-- A member has ended: its directory bit clears, and the cohort exits with its last member. A cohort whose home is another node has no
entry here: it exits when no member of it is left here. -/
def State.clearLive (s : State) (n : BitVec 32) (m : Nat) (c : Ctx) : State :=
  let s1 := s.modDir n fun d => { d with live := d.live &&& ~~~(1#64 <<< m) }
  let gone : Bool := match s1.dirOf n with
    | some d => d.live == 0
    | none => !s1.ctxs.any fun x => x.cohort == n && x.life != .exited
  if gone then s1.cohortExit n c else s1

/-- Member c ends: kind 1 exited or 2 terminated, with a status (02 R37; 06 R121; 21 R415). extra counts basin entries discarded
elsewhere. -/
def State.memberGone (s : State) (c : Ctx) (kind status extra : Nat) : State :=
  let m := c.coord.member.toNat
  let (s1, drops) := s.implicitDrops c.cohort m
  let (s2, basin) := s1.dropBasin c.cohort m
  let s3 := s2.orphanTasks c
  let s4 := s3.modCtx c.ref fun x => { x.discard with life := .exited, trap := none, exiting := none, inbox := [], runList := [], outside := .none }
  let s5 := s4.setEntry c.launch c.cohort m
    { kind := kind, basin := min 255 (basin + extra), drops := min 255 drops, status := status }
  s5.clearLive c.cohort m c

/-- The current context is terminated with a cause: its engines drain, its task fails, and it ends (06 R121; 16 R336). -/
def State.terminate (s : State) (cause : Nat) : State :=
  let s1 := s.drain false false true
  let s2 := (s1.event s1.cx 2 (BitVec.ofNat 64 (0x80 + cause))).endTask (0x80 + cause)
  s2.memberGone s2.cx 2 cause 0

/-- The contexts of exited cohorts whose names are retired leave the model. -/
def State.forget (s : State) (n : BitVec 32) : State :=
  let gone (c : Ctx) : Bool := c.cohort == n && c.life == .exited
  { s with cx := if gone s.cx then Ctx.reset else s.cx, others := s.others.filter fun c => !gone c }

end Sys2Proof.Machine
end

