-- ==== Sys2Proof/Machine/Kernels.lean ====
section
/-! DEFINITION. Launches: the image and its checks (06 R117, R118), launch records (21 R409 to R413), binding (21 R418 to R421;
02 R32), completion (21 R414 to R416) and LAUNCH (R431, R432). -/

namespace Sys2Proof.Machine

/-! ## Program images (06 R117, R118) -/

/-- A section: offset, size, kind. -/
structure Section where
  off : Nat
  size : Nat
  kind : Nat
deriving DecidableEq, Repr

/-- The section table's bytes as sections, with the check of each entry. -/
def sectionsOf (bs : List Byte) : List (Section × Bool) :=
  (List.range (bs.length / 32)).map fun i =>
    let b := (bs.drop (32 * i)).take 32
    let x : Section := ⟨recNat b 0 8, recNat b 8 8, recNat b 16 1⟩
    (x, 1 ≤ x.kind && x.kind ≤ 3 && recZero b 17 15 && (x.kind != 1 || (x.off % 8 == 0 && x.size % 8 == 0)))

/-- No two sections overlap. -/
def disjoint : List Section → Bool
  | [] => true
  | x :: r => (r.all fun y => x.off + x.size ≤ y.off || y.off + y.size ≤ x.off || x.size == 0 || y.size == 0) && disjoint r

/-- The shape initialisers that the mask names; those that it leaves out are not looked at (log entry 34). -/
def imageShapes (hd : List Byte) : List (Nat × Shape) :=
  (List.range 16).filterMap fun n =>
    if (recNat hd 36 2).testBit n then some (n, Shape.ofWords (recWord hd (128 + 16 * n)) (recWord hd (136 + 16 * n))) else none

/-- A shape initialiser is legal and reserves nothing. -/
def initShapeOk (hd : List Byte) (x : Nat × Shape) : Bool :=
  x.1 != 0 && x.2.legal && x.2.word0 == recWord hd (128 + 16 * x.1) && x.2.word1 == recWord hd (136 + 16 * x.1)

/-- The tile initialisers that the mask names. -/
def imageTiles (hd : List Byte) : List (Nat × Word) :=
  (List.range 64).filterMap fun n => if (recNat hd 40 8).testBit n then some (n, recWord hd (384 + 8 * n)) else none

/-- The entry that word 0 of a tile initialiser gives. -/
def initTile (w : Word) : Tile := { Tile.reset with wb := bit w 61, base := field w 38 18, extent := field w 20 18 }

/-- A tile initialiser is legal, and its region lies in the declared extent. -/
def initTileOk (ab wb : Nat) (w : Word) : Bool :=
  let t := initTile w
  t.word0 == w && t.base.toNat % 256 == 0 && t.extent.toNat ≤ 196608 && t.base.toNat + t.extent.toNat ≤ (if t.wb then wb else ab)

/-- The header's own limits. -/
def headerOk (hd : List Byte) : Bool :=
  recNat hd 0 4 == 0x31534E4C && recNat hd 4 2 == 1 && recNat hd 6 2 < 4 && recNat hd 8 8 % 8 == 0 &&
    1 ≤ recNat hd 24 1 && recNat hd 24 1 ≤ recNat hd 25 1 && recNat hd 25 1 ≤ 64 && recNat hd 26 1 ≤ recNat hd 27 1 && recNat hd 27 1 ≤ 15 &&
    recNat hd 28 4 % 256 == 0 && recNat hd 28 4 ≤ 180224 && recNat hd 32 4 % 256 == 0 && recNat hd 32 4 ≤ 196608 &&
    1 ≤ recNat hd 38 2 && recNat hd 38 2 ≤ 256 && recNat hd 48 8 % 8 == 0 && 896 ≤ recNat hd 48 8 && recZero hd 64 64

/-- The image that a header and a section table give, if they pass R118. -/
def parseImage (base : Word) (hd sect : List Byte) : Option Image :=
  let ss := sectionsOf sect
  let entry := recNat hd 8 8
  let ok := headerOk hd && (ss.all Prod.snd) && (ss.all fun x => x.1.off + x.1.size ≤ recNat hd 56 8) && disjoint (ss.map Prod.fst) &&
    (ss.any fun x => x.1.kind == 1 && x.1.off ≤ entry && entry < x.1.off + x.1.size) && !(recNat hd 36 2).testBit 0 &&
    ((imageShapes hd).all (initShapeOk hd)) && ((imageTiles hd).all fun t => initTileOk (recNat hd 28 4) (recNat hd 32 4) t.2)
  if ok then
    some { base := base, entry := base + BitVec.ofNat 64 entry, acc := (recNat hd 6 2).testBit 0, chan := (recNat hd 6 2).testBit 1,
           reqfeat := recWord hd 16, cmin := recNat hd 24 1, cmax := recNat hd 25 1, stlo := recNat hd 26 1, sthi := recNat hd 27 1,
           abext := recNat hd 28 4, wbext := recNat hd 32 4, shapes := imageShapes hd, tiles := imageTiles hd }
  else none

/-- The image at an address of an address space: the image, or the cause with which it is refused. -/
def State.readImage (s : State) (sp : Space) (base : Word) : Except (BitVec 7) (State × Image) :=
  if !aligned base 256 then .error 0x63
  else
    match s.agentRead sp base 896 with
    | .error c => .error c
    | .ok (s1, hd) =>
      match s1.agentRead sp (base + BitVec.ofNat 64 (recNat hd 48 8)) (32 * (if recNat hd 38 2 ≤ 256 then recNat hd 38 2 else 0)) with
      | .error c => .error c
      | .ok (s2, sect) =>
        match parseImage base hd sect with
        | some i => .ok (s2, i)
        | none => .error 0x63

/-! ## Launch records (21 R409 to R412) -/

/-- A cohort table entry's fields are within their ranges (21 R410). -/
def cohortOk (b : List Byte) : Bool :=
  1 ≤ recNat b 0 1 && recNat b 0 1 ≤ 64 && recNat b 1 1 ≤ 15 && (recNat b 2 2 < 320 || recNat b 2 2 == 0xFFFF) &&
    (recNat b 4 1 < 24 || recNat b 4 1 == 0xFE || recNat b 4 1 == 0xFF) &&
    (if recNat b 4 1 == 0xFE then decide (recNat b 5 1 ≤ 5) else recNat b 5 1 == 0) && recZero b 6 2

/-- A run-list block meets 16 R330. -/
def runBlockOk (b : List Byte) : Bool := recNat b 0 8 % 256 == 0 && powerOfTwo (recNat b 8 4) 128 (2 ^ 20) && recZero b 12 4 && recZero b 56 8

/-- A cohort as the table gives it, before it has a name. from_: the accepting node (21 R410). -/
def cohortOf (from_ : Nat) (b : List Byte) : LCohort :=
  { name := 0, members := recNat b 0 1, stage := BitVec.ofNat 4 (recNat b 1 1), node := if recNat b 2 2 == 0xFFFF then from_ else recNat b 2 2,
    cluster := recNat b 4 1, port := recNat b 5 1, number := 0, bound := false }

/-- Cohort numbers: the position among the cohorts of the same stage (21 R410). -/
def numbered (cs : List LCohort) : List LCohort :=
  cs.zipIdx.map fun x => { x.1 with number := ((cs.take x.2).filter fun y => y.stage == x.1.stage).length }

/-- A bench, and so its cores, is in service for bindings (02 R32; 10 R220); a binding in the cycle in which it is asked to quiesce comes first
(10 R221; 28 R507). -/
def State.benchServes (s : State) (n : Nat) : Bool :=
  (s.bench n).state == .inService || ((s.bench n).state == .quiescing && (s.bench n).asked == s.time)

/-- A core of a cluster is in service. -/
def State.coreServes (s : State) (cluster core : Nat) : Bool :=
  if cluster == 24 then s.quayInService core else s.benchServes (cluster * 8 + core / 8)

/-- The feature mask of a core (01 R23). -/
def State.coreFeatures (s : State) (cluster core : Nat) : Word := if cluster == 24 then 0xF8 else (s.bench (cluster * 8 + core / 8)).features

/-- Cores of a cluster. -/
def coresOf (cluster : Nat) : List Nat := List.range (if cluster == 24 then 24 else 64)

/-- The cores that a cohort may use: those of its cluster, of its port, or of any cluster. -/
def LCohort.places (c : LCohort) : List (Nat × Nat) :=
  if c.cluster == 0xFE then (List.range 4).map fun i => (24, 4 * c.port + i)
  else if c.cluster == 0xFF then (List.range 24).flatMap fun k => (coresOf k).map (k, ·)
  else (coresOf c.cluster).map (c.cluster, ·)

/-- A core in service among a cohort's places. -/
def State.served (s : State) (c : LCohort) : Bool := c.places.any fun p => s.coreServes p.1 p.2

/-- One whose mask holds the required features. -/
def State.featured (s : State) (c : LCohort) (req : Word) : Bool :=
  c.places.any fun p => s.coreServes p.1 p.2 && req &&& ~~~s.coreFeatures p.1 p.2 == 0

/-- Standing binding n (21 R420). -/
def State.binding (s : State) (n : Nat) : Standing := s.standing.toList.getD n Standing.reset

/-- A standing binding covers an image and its cohorts (21 R412 reason 7); its ASID is no part of that check (log entry 27). -/
def State.covers (s : State) (n : Nat) (image : Word) (cs : List LCohort) : Bool :=
  let b := s.binding n
  n < 64 && bit b.w0 63 && (b.w1 &&& ~~~0xFF) == image &&
    cs.all fun c => c.node == s.node && (c.cluster == 0xFF || c.cluster == (field b.w0 50 6).toNat) && c.members ≤ (field b.w0 42 7).toNat &&
      (field b.w0 38 4).toNat ≤ c.stage.toNat && c.stage.toNat ≤ (field b.w0 34 4).toNat

/-- How many of n cohorts take their names from a binding's STOCK (21 R421). -/
def State.stockOf (s : State) (b n : Nat) : Nat := if b < 64 then min n (s.binding b).stock.length else 0

/-- A checked record: what acceptance needs. -/
structure Checked where
  image : Image
  cohorts : List LCohort
  space : Space

/-- The reserved bytes and the scalar limits of reason 2. -/
def recordOk (r : List Byte) : Bool :=
  recZero r 23 1 && recZero r 28 4 && recZero r 104 24 && recNat r 22 1 < 8 && 1 ≤ recNat r 16 4 && recNat r 16 4 ≤ 65536 &&
    recNat r 96 8 % 64 == 0 && recNat r 8 8 % 8 == 0 && recNat r 88 8 != 0 && recNat r 88 8 % 64 == 0 && recNat r 80 8 % 2 ^ 21 == 0

/-- Reasons 3 to 9 for cohorts whose table and run lists are well formed: the first that fails (21 R412). -/
def State.launchReason (s : State) (r : List Byte) (x : Checked) (priv hostRead : Bool) : Option Nat :=
  let cs := x.cohorts
  let fl := recNat r 22 1
  let total := (cs.map LCohort.members).sum
  let here := cs.filter (·.node == s.node)
  if !(cs.all fun c => x.image.stlo ≤ c.stage.toNat && c.stage.toNat ≤ x.image.sthi && x.image.cmin ≤ c.members && c.members ≤ x.image.cmax) then some 3
  else if !(cs.all fun c => s.inPod c.node && (c.node != s.node || s.served c)) then some 4
  else if !(here.all fun c => s.featured c x.image.reqfeat) then some 5
  else if !hostRead && !priv && (fl.testBit 1 || fl.testBit 2 || recNat r 26 2 != 0 || recNat r 64 8 != 0) then some 6
  else if recNat r 20 2 != 0xFFFF && !s.covers (recNat r 20 2) x.image.base cs then some 7
  else if fl.testBit 2 && (256 < recNat r 24 2 + total ||
      !((List.range total).all fun k => s.keys.any fun y => y.slot == recNat r 24 2 + k)) then some 8
  else if s.freeSlots + s.stockOf (recNat r 20 2) here.length < here.length then some 9
  else none

/-- The checks of a record that has been read: the launch's data, or the reason and the cause (21 R412). launcher: the space in which the
record's tables are read. The image is read and checked again at every record that names it (log entry 34). -/
def State.checkLaunch (s : State) (r : List Byte) (launcher own : Space) (priv hostRead : Bool) : Except (Nat × BitVec 7) (State × Checked) :=
  match s.readImage own (recWord r 0) with
  | .error c => .error (1, c)
  | .ok (s1, image) =>
    if s.unloaded.contains (own, recWord r 0) then .error (1, 0x63)
    else if !recordOk r then .error (2, 0x63)
    else
      match s1.agentRead launcher (recWord r 8) (8 * recNat r 16 4) with
      | .error c => .error (2, c)
      | .ok (s2, tab) =>
        let rows := unitsOf 8 tab
        if !(rows.all cohortOk) then .error (2, 0x63)
        else
          let cs := numbered (rows.map (cohortOf s2.node))
          match s2.agentRead launcher (recWord r 88) (64 * (cs.map LCohort.members).sum) with
          | .error c => .error (2, c)
          | .ok (s3, rl) =>
            if !((unitsOf 64 rl).all runBlockOk) then .error (2, 0x63)
            else
              let x : Checked := { image := image, cohorts := cs, space := own }
              match s3.launchReason r x priv hostRead with
              | some k => .error (k, 0x63)
              | none => .ok (s3, x)

/-! ## Completion records (21 R415) -/

/-- STATUS of a completion record. -/
def launchStatus (cause : BitVec 7) (reason code : Nat) : Word := bitAt true 63 ||| place cause 56 ||| at' reason 8 ||| at' code 0

/-- A member entry's word. -/
def MemberEntry.word (m : MemberEntry) : Word := at' m.kind 56 ||| at' m.basin 48 ||| at' m.drops 40 ||| at' (m.status % 65536) 0

/-- The header after STATUS. -/
def headerBytes16 (id : Word) (a f c members failed : Nat) : List Byte :=
  wordBytes id ++ leBytes 8 a ++ leBytes 8 f ++ leBytes 8 c ++ leBytes 4 members ++ leBytes 4 failed ++ List.replicate 16 0

/-! ## Acceptance and refusal (21 R412 to R414, R432) -/

/-- The launcher learns the outcome: LAUNCH's output, or the walk's node. -/
def State.tellLauncher (s : State) (b : Submitter) (sp : Space) (id : Word) (st : Word) : State :=
  match b with
  | .ctx o out => (s.deviceWrite (s.originCtx o) sp out (wordBytes id ++ wordBytes st) 3).completePort o
  | .walk w i nowait =>
    match s.walks.find? (·.num == w) with
    | none => s
    | some x =>
      if id == 0 then (if x.node == i then s.putWalk (x.fail s.time i 0x63) else s)
      else if nowait then s.putWalk (({ x with nowait := x.nowait ++ [⟨i, some id⟩] } : Walk).goTo s.time (i + 1))
      else s
  | .host => s

/-- A refused launch: its completion record, where its address is known and aligned, and the launcher's answer. -/
def State.refuseLaunch (s : State) (x : Submission) (compl : Option (Space × Word)) (reason : Nat) (cause : BitVec 7) : State :=
  let st := launchStatus cause reason 1
  let s1 := match compl with
    | none => s
    | some (sp, a) =>
      if !aligned a 64 then s
      else match s.agentWrite sp (a + 8) (headerBytes16 0 0 0 s.ns 0 0) with
        | .error _ => s
        | .ok s1 => s1.agentPut sp a st
  s1.tellLauncher x.by_ x.space 0 st

/-- The name that another node's management core gives a cohort (17 R344); SLOT is not 0. -/
def remoteName (node k : Nat) : BitVec 32 :=
  let x := Config.remoteName k
  mkName node (1 + (field x 8 15 : BitVec 15).toNat % 32767) (field x 0 8)

/-- The next name of a binding's STOCK, as the entry of a pending cohort (21 R421). -/
def State.takeStock (s : State) (b : Nat) (c : LCohort) (id : Word) : Option (State × BitVec 32) :=
  if h : b < 64 then
    match s.standing[b].stock with
    | [] => none
    | n :: rest =>
      some (({ s with standing := s.standing.set b { s.standing[b] with stock := rest } } : State).modDir n fun d =>
        { d with stage := c.stage, nmem := c.members, number := c.number, launch := id, live := BitVec.ofNat 64 (2 ^ c.members - 1) }, n)
  else none

/-- The names of a launch's cohorts: those that this node binds first take theirs from the STOCK of the launch's binding, or are named here, the
others by their nodes (17 R344; 21 R414, R421; log entry 17). -/
def State.nameCohorts (s : State) (id : Word) (b : Nat) : List LCohort → State × List LCohort
  | [] => (s, [])
  | c :: rest =>
    if c.node != s.node then
      let (s1, cs) := ({ s with free := s.free + 1 } : State).nameCohorts id b rest
      (s1, { c with name := remoteName c.node s.free } :: cs)
    else
      let (s1, n) := match s.takeStock b c id with
        | some (s1, n) => (s1, some n)
        | none => s.allocName c.stage c.members c.number id
      let (s2, cs) := s1.nameCohorts id b rest
      (s2, { c with name := n.getD 0 } :: cs)

/-- Names are set aside for a valid standing binding, allocated ahead by the rule of R344, as many as there are free slots (21 R420). -/
def State.addStock (s : State) (b : Nat) : Nat → State
  | 0 => s
  | k + 1 =>
    if h : b < 64 then
      if !bit s.standing[b].w0 63 || 65535 ≤ s.standing[b].stock.length then s
      else match s.allocName 0 0 0 0 with
        | (_, none) => s
        | (s1, some n) =>
          ({ s1 with standing := s1.standing.set b { s1.standing[b] with stock := s1.standing[b].stock ++ [n] } } : State).addStock b k
    else s

/-- A launch as its record gives it, every cohort pending (21 R409, R414). -/
def launchOfRecord (r : List Byte) (id : Word) (k : Checked) (cs : List LCohort) (complSpace : Space) (now : Nat) (walk : Option (Nat × Nat)) :
    Launch :=
  let fl := recNat r 22 1
  { id := id, state := .accepted, image := k.image, space := k.space, complSpace := complSpace, compl := recWord r 96
    binding := if recNat r 20 2 == 0xFFFF then none else some (recNat r 20 2)
    coloc := fl.testBit 0, priv := fl.testBit 1, isSealed := fl.testBit 2, keyslot := recNat r 24 2
    args := (List.range 4).map fun i => recWord r (32 + 8 * i), heapBase := recNat r 72 8, heapSize := recNat r 80 8, rltab := recWord r 88
    cohorts := cs, entries := List.replicate (cs.map LCohort.members).sum ⟨0, 0, 0, 0⟩, stampA := now, stampF := none, terminated := false
    adapters := [], walk := walk }

/-- An accepted launch: its identifier, its names, every cohort pending. -/
def State.acceptLaunch (s : State) (x : Submission) (r : List Byte) (k : Checked) (complSpace : Space) : State :=
  let id : Word := at' s.node 55 ||| at' (s.launchCount + 1) 0
  let (s1, cs) := ({ s with launchCount := s.launchCount + 1 } : State).nameCohorts id (recNat r 20 2) k.cohorts
  let l := launchOfRecord r id k cs complSpace s.ns (match x.by_ with | .walk w i _ => some (w, i) | .ctx _ _ | .host => none)
  let table := match s.agentRead complSpace (recWord r 8) (8 * k.cohorts.length) with
    | .ok (_, bs) => bs
    | .error _ => []
  (({ s1 with launches := s1.launches ++ [l] } : State).captureLaunch id x complSpace r table).tellLauncher x.by_ x.space id
    (launchStatus 0 0 0)

/-- Cohorts of a launch that another node accepted are handed to this one, which names those that it binds (21 R414). A launch whose image
cannot be read here is not taken (log entry 17). -/
def State.takeHanded (s : State) (h : HandedLaunch) : State :=
  let own : Space := ⟨h.asid, some h.root⟩
  if !s.booted then s
  else match s.readImage own (recWord h.record 0) with
  | .error _ => s
  | .ok (s1, image) =>
    let cs := numbered ((unitsOf 8 h.table).map (cohortOf (field h.id 55 9 : BitVec 9).toNat))
    if (s1.launchOf h.id).isSome || (field h.id 55 9 : BitVec 9).toNat == s.node || s1.freeSlots < (cs.filter (·.node == s.node)).length then s
    else
      let (s2, named) := s1.nameCohorts h.id (recNat h.record 20 2) cs
      { s2 with launches := s2.launches ++ [launchOfRecord h.record h.id ⟨image, cs, own⟩ named own s.ns none] }

/-- A submitted record is checked, and accepted or refused (21 R412, R413). The image of an unprivileged launcher, which may name no other address
space, is read in its own (log entry 38). -/
def State.checkSubmission (s : State) (x : Submission) : State :=
  match s.agentRead x.space x.record 128 with
  | .error c => s.refuseLaunch x none 2 c
  | .ok (s1, r) =>
    let asid : BitVec 16 := BitVec.ofNat 16 (recNat r 26 2)
    let root := recNat r 64 8
    let named : Space := ⟨asid, some root⟩
    if x.hostRead && (asid == 0 || root == 0) then s1
    else
      let launcher := if x.hostRead then named else x.space
      let own := if x.hostRead || (x.priv && asid != 0) then named else x.space
      match s1.checkLaunch r launcher own x.priv x.hostRead with
      | .error (reason, cause) => s1.refuseLaunch x (some (launcher, recWord r 96)) reason cause
      | .ok (s2, k) => s2.acceptLaunch x r k launcher

/-- Software unloads an image: it is retired, unless a launch that names it is pending or resident (06 R120). -/
def State.unload (s : State) (sp : Space) (base : Word) : State :=
  if s.unloaded.contains (sp, base) || s.launches.any (fun l => l.space == sp && l.image.base == base) then s
  else { s with unloaded := (sp, base) :: s.unloaded }

/-- A member of a cohort homed here that another node holds has ended: its entry of the completion record, its bit of LIVE, and with the last member
the state exited (17 R345; 21 R414, R415). -/
def State.memberEndedAway (s : State) (n : BitVec 32) (m : Nat) (x : MemberEntry) : State :=
  match s.dirOf n with
  | none => s
  | some d =>
    if d.state != .resident || d.node == s.node || !d.lives m then s
    else
      let live := d.live &&& ~~~(1#64 <<< m)
      (s.setEntry d.launch n m x).modDir n fun d =>
        if live == 0 then { d with live := live, state := .exited, deferred := [], draining := false } else { d with live := live }

/-- LAUNCH_RECORD_ARRIVAL: a submitted record reaches its check (21 R412), cohorts are handed to this node (R414), or the management core is told
what else bears on launches and their cohorts. -/
def execLaunchRecordArrival (r : RecordArrival) (s : State) : Host.Outcome State Fault Refusal :=
  .next (match r with
    | .submitted k => match s.submissions[k]? with
      | none => s
      | some x => ({ s with submissions := s.submissions.eraseIdx k } : State).checkSubmission x
    | .handed h => s.takeHanded h
    | .unload asid root image => s.unload ⟨asid, some root⟩ image
    | .memberEnded n m failed status basin drops =>
      s.memberEndedAway n m { kind := if failed then 2 else 1, basin := min 255 basin, drops := min 255 drops, status := status.toNat }
    | .drained n => { s with guests := s.guests.map fun g => if g.name == n then { g with draining := false } else g }
    | .stock b k => s.addStock b k)

/-- LAUNCH_DOORBELL: a host write of a record's device physical address, a multiple of 128 (21 R413; 28 R503). -/
def State.launchBell (s : State) (pa : Nat) : State :=
  if pa % 128 != 0 || !s.booted then s
  else { s with submissions := s.submissions ++
    [{ record := BitVec.ofNat 64 pa, space := ⟨0, none⟩, priv := true, hostRead := true, by_ := .host }] }

/-- LAUNCH_DOORBELL. -/
def execLaunchDoorbell (pa : Nat) (s : State) : Host.Outcome State Fault Refusal := .next (s.launchBell pa)

/-- LAUNCH's checks at forwarding. -/
def launchCheck (o : N) (s : State) (e : Entry) : Option Trap :=
  if !aligned e.opa 128 || !aligned e.opc 8 then portMisaligned s [(e.opa, 128), (e.opc, 8)] else if o.sc == 0 then portTrap s 0x63 else none

/-- LAUNCH's issue: the record is submitted (21 R432), once its output can be written (R431). -/
def issueLaunch : PortBody := fun s e _ =>
  let x : Submission := { record := e.opa, space := s.cx.space, priv := s.cx.priv, hostRead := false, by_ := .ctx (s.originOf e none) e.opc }
  s.portProbe e.opc 16 (.over { s.handOver with submissions := s.submissions ++ [x] })

/-- LAUNCH. -/
def execLaunch (o : N) (s : State) := forwardPort (.launch o) (launchCheck o) s

/-! ## Binding (02 R28, R32; 21 R418, R419) -/

/-- The origins and extents of a context on a core do not meet a new one's, nor the queue region (02 R32). -/
def roomFor (o : Ctx) (p : BindSlot) (ab wb : Nat) : Bool :=
  (p.abOrigin + ab ≤ o.abOrigin || o.abOrigin + o.abext ≤ p.abOrigin || ab == 0 || o.abext == 0) &&
    (p.wbOrigin + wb ≤ o.wbOrigin || o.wbOrigin + o.wbext ≤ p.wbOrigin || wb == 0 || o.wbext == 0)

/-- A reservation of a standing binding holds a slot. -/
def Standing.reserves (b : Standing) (p : BindSlot) : Bool :=
  bit b.w0 63 && (field b.w0 50 6).toNat == p.cluster && bit b.w0 49 == p.bank && bit b.w2 p.core

/-- What a cohort's members need of their cores (02 R32; 03 R65). binding: the standing binding of the launch. -/
structure Demand where
  req : Word
  ab : Nat
  wb : Nat
  acc : Bool
  chan : Bool
  binding : Option Nat

/-- One slot meets R32 and R65 for a context with these needs. -/
def State.slotOk (s : State) (p : BindSlot) (d : Demand) : Bool :=
  let here := s.ctxs.filter fun c => c.resident && c.coord.cluster.toNat == p.cluster && c.coord.core.toNat == p.core
  p.core < (if p.cluster == 24 then 24 else 64) && p.cluster ≤ 24 && (p.cluster != 24 || !p.bank) && s.coreServes p.cluster p.core &&
    d.req &&& ~~~s.coreFeatures p.cluster p.core == 0 && !(here.any fun c => c.bank == p.bank) && (here.all fun c => roomFor c p d.ab d.wb) &&
    p.abOrigin + d.ab ≤ 180224 && p.wbOrigin + d.wb ≤ 196608 && !(d.acc && here.any (·.hasAcc)) &&
    (List.range 64).all fun n => !(s.binding n).reserves p || d.binding == some n

/-- Channels put member m on core (k0 + m) mod 64 (02 R32). -/
def chanOk (slots : List (Nat × BindSlot)) : Bool :=
  match slots with
  | [] => true
  | (m, p) :: _ => slots.all fun x => (x.2.core + m) % 64 == (p.core + x.1) % 64

/-- The slots of a cohort's members meet R32 together. -/
def State.slotsOk (s : State) (members : List Nat) (slots : List BindSlot) (d : Demand) : Bool :=
  let n := members.length
  slots.length == n && (slots.map BindSlot.core).eraseDups.length == n && (slots.all fun p => p.cluster == (slots.headD ⟨0, 0, false, 0, 0⟩).cluster) &&
    (slots.all fun p => p.cluster != 24 || p.core / 4 == (slots.headD ⟨0, 0, false, 0, 0⟩).core / 4) &&
    (slots.all fun p => s.slotOk p d) && (!d.chan || chanOk (members.zip slots))

/-- The cohort's own demand for a place. -/
def LCohort.placed (c : LCohort) (slots : List BindSlot) : Bool := slots.all fun p => c.places.contains (p.cluster, p.core)

/-- The context of member m at its first binding (03 R69; 21 R418). -/
def bindCtx (s : State) (l : Launch) (c : LCohort) (m : Nat) (p : BindSlot) : Ctx :=
  let k := l.base c.name + m
  let shapes := l.image.shapes.foldl (fun (v : Vector Shape 16) x => if h : x.1 < 16 then v.set x.1 x.2 else v) Ctx.reset.h
  let tiles := l.image.tiles.foldl (fun (v : Vector Tile 64) x => if h : x.1 < 64 then v.set x.1 (initTile x.2) else v) Ctx.reset.t
  let regs := l.args.zipIdx.foldl (fun (v : Vector Word 32) x => if h : x.2 + 1 < 32 then v.set (x.2 + 1) x.1 else v) Ctx.reset.s
  { Ctx.reset with
    s := regs, h := shapes, t := tiles, priv := l.priv, sealed := l.isSealed, bank := p.bank
    coord := { node := BitVec.ofNat 9 s.node, cluster := BitVec.ofNat 5 p.cluster, core := BitVec.ofNat 6 p.core, stage := c.stage,
               member := BitVec.ofNat 6 m }
    cohort := c.name, nmem := c.members, launch := l.id
    abext := l.image.abext, wbext := l.image.wbext, abOrigin := p.abOrigin, wbOrigin := p.wbOrigin
    hasAcc := l.image.acc, hasChan := l.image.chan, reqfeat := l.image.reqfeat
    asid := l.space.asid, root := l.space.root.getD 0, heapBase := l.heapBase, heapSize := l.heapSize
    keyslot := if l.isSealed then l.keyslot + k else 0
    runBlock := l.rltab + BitVec.ofNat 64 (64 * k), pc := l.image.entry, idleSince := s.time }

/-- A new context enters its bank and starts its first activation; it is inactive where another context runs on its core, or where a
breakpoint stops it (21 R418; 27 R491). -/
def State.enterCtx (s : State) (c : Ctx) (entry : Word) : State :=
  let s1 : State := { s with cx := c, others := (if s.cx.life == .unbound then [] else [s.cx]) ++ s.others }
  let busy := s1.others.any fun x => x.sameCore c && x.life == .running
  let (s2, ok) := s1.startActivation .launch entry
  if !ok then { s2 with cx := { s2.cx with life := .inactive, entry := entry } }
  else if busy then { s2 with cx := { s2.cx with life := .inactive } }
  else s2

/-- No cohort of a lower stage of the launch is pending on this package (02 R28). -/
def State.stageReady (s : State) (l : Launch) (c : LCohort) : Bool :=
  l.cohorts.all fun x => x.bound || x.node != s.node || c.stage.toNat ≤ x.stage.toNat

/-- A pending cohort of a launch is bound to slots, all of its members or none (21 R418). The dispatch hardware binds into a standing binding
without regard to stages (02 R28). -/
def State.bindCohort (s : State) (l : Launch) (c : LCohort) (slots : List BindSlot) (binding : Option Nat) : State :=
  if c.bound || c.node != s.node || l.terminated || (binding.isNone && !s.stageReady l c) || !c.placed slots ||
      !s.slotsOk (List.range c.members) slots
        { req := l.image.reqfeat, ab := l.image.abext, wb := l.image.wbext, acc := l.image.acc, chan := l.image.chan, binding := binding } then s
  else
    let l1 := { l with state := .running,
                       cohorts := l.cohorts.map fun x => if x.name == c.name then { x with bound := true } else x }
    let cl := (slots.headD ⟨0, 0, false, 0, 0⟩).cluster
    let s1 := (s.putLaunch l1).modDir c.name fun d => { d with state := .resident, node := s.node, cluster := cl, draining := !d.deferred.isEmpty }
    let s2 := slots.zipIdx.foldl (fun s p => s.enterCtx (bindCtx s l c p.2 p.1) l.image.entry) s1
    s2.drainDeferred c.name 4096

/-- STAMPF of a launch is the time at which one of its members first issued an instruction here (21 R414, R415). -/
def State.stampFirst (s : State) : State :=
  if s.launches.all (·.stampF.isSome) then s
  else { s with launches := s.launches.map fun l =>
    if l.stampF.isNone && s.ctxs.any (fun c => c.launch == l.id && c.lastTurn.isSome) then { l with stampF := some s.ns } else l }

/-- What a cohort of a launch needs of its cores. -/
def Launch.demand (l : Launch) : Demand :=
  { req := l.image.reqfeat, ab := l.image.abext, wb := l.image.wbext, acc := l.image.acc, chan := l.image.chan, binding := l.binding }

/-- A slot of a core that meets a demand: a free bank, with the extents at the start of the buffers or behind another context's. -/
def State.slotAt (s : State) (d : Demand) (cluster core : Nat) : Option BindSlot :=
  let here := s.ctxs.filter fun c => c.resident && c.coord.cluster.toNat == cluster && c.coord.core.toNat == core
  let abs := 0 :: here.map fun c => c.abOrigin + c.abext
  let wbs := 0 :: here.map fun c => c.wbOrigin + c.wbext
  let all := [false, true].flatMap fun b => abs.flatMap fun x => wbs.map fun y => (⟨cluster, core, b, x, y⟩ : BindSlot)
  all.find? fun p => s.slotOk p d && d.binding.all fun n => (s.binding n).reserves p

/-- Members in order on the lowest cores that take them. -/
def State.slotsFor (s : State) (d : Demand) (cluster : Nat) (ok : Nat → BindSlot → Bool) : List Nat → List Nat → Option (List BindSlot)
  | [], _ => some []
  | m :: rest, cores =>
    match cores.findSome? fun k => (s.slotAt d cluster k).filter (ok m) with
    | none => none
    | some p => (s.slotsFor d cluster ok rest (cores.filter (· != p.core))).map (p :: ·)

/-- Slots for members among cores of a cluster or a port: the lowest cores, or a run of cores where the members use channels (02 R32). ok: what
else a member asks of its slot. -/
def State.slotsIn (s : State) (d : Demand) (members : List Nat) (cluster : Nat) (cores : List Nat) (ok : Nat → BindSlot → Bool) : Option (List BindSlot) :=
  if d.chan then
    (List.range 64).findSome? fun k0 => members.mapM fun m =>
      if cores.contains ((k0 + m) % 64) then (s.slotAt d cluster ((k0 + m) % 64)).filter (ok m) else none
  else s.slotsFor d cluster ok members cores

/-- Slots for a cohort, in the first cluster of its places that has them (log entry 49). -/
def State.findSlots (s : State) (d : Demand) (c : LCohort) : Option (List BindSlot) :=
  let at_ (k : Nat) (cores : List Nat) : Option (List BindSlot) := s.slotsIn d (List.range c.members) k cores fun _ _ => true
  if c.cluster == 0xFE then at_ 24 ((List.range 4).map (4 * c.port + ·))
  else (if c.cluster == 0xFF then List.range 24 else [c.cluster]).findSome? fun k => at_ k (coresOf k)

/-- The cohort that a standing binding binds next, by its launch and its place there: cohorts wait in QUEUED in arrival order (21 R421). -/
def State.queueHead (s : State) (b : Nat) : Option (Word × Nat) :=
  s.launches.findSome? fun l =>
    if l.binding != some b || l.terminated then none
    else (l.cohorts.zipIdx.find? fun x => !x.1.bound && x.1.node == s.node).map fun x => (l.id, x.2)

/-- The binding's turn is this cohort's, or its launch has no binding. -/
def State.inTurn (s : State) (l : Launch) (k : Nat) : Bool := l.binding.all fun b => s.queueHead b == some (l.id, k)

/-- Cohort k of a launch is bound where slots are free. -/
def State.bindFree (s : State) (id : Word) (k : Nat) : State :=
  match s.launchOf id with
  | none => s
  | some l => match l.cohorts[k]? with
    | none => s
    | some c =>
      if c.bound || !s.inTurn l k then s
      else match s.findSlots l.demand c with
        | none => s
        | some slots => s.bindCohort l c slots l.binding

/-- Every cohort of a launch that this node binds is bound. -/
def State.allBound (s : State) (id : Word) : Bool := (s.launchOf id).any fun l => l.cohorts.all fun c => c.bound || c.node != s.node

/-- The pending cohorts of a launch are bound in stage order where slots are free, those of a standing binding in arrival order; those of a COLOC
launch all at once or not at all (02 R28, R49; 21 R419, R421). -/
def State.bindLaunch (s : State) (l : Launch) : State :=
  let waiting := l.cohorts.zipIdx.filter fun x => !x.1.bound
  let order := if l.binding.isSome then waiting else waiting.insertionSort fun x y => x.1.stage.toNat ≤ y.1.stage.toNat
  let s1 := order.foldl (fun s x => s.bindFree l.id x.2) s
  if l.coloc && !s1.allBound l.id then s else s1

/-- Every pending cohort is bound in finite time where enough cores meet R32 (02 R49; 21 R421; log entry 49). -/
def State.bindPending (s : State) : State := s.launches.foldl (fun s l => if l.terminated then s else s.bindLaunch l) s

/-- A COLOC launch binds no cohort until it has slots for every one (21 R419): s is the state with one of them bound. -/
def State.colocOk (s : State) (l : Launch) : Bool := !l.coloc || ((s.launchOf l.id).any fun x => (s.bindLaunch x).allBound l.id)

/-- COHORT_BIND: cohort k of a launch is bound by a decision of the management core (21 R418). -/
def execCohortBind (launch : Nat) (k : Nat) (slots : List BindSlot) (s : State) : Host.Outcome State Fault Refusal :=
  .next (match s.launchOf (BitVec.ofNat 64 launch) with
    | none => s
    | some l => match l.cohorts[k]? with
      | none => s
      | some c =>
        if l.binding.isSome then s
        else
          let s1 := s.bindCohort l c slots none
          if s1.colocOk l then s1 else s)

/-- STANDING_BIND: the dispatch hardware binds cohort k into the free reserved slots of its launch's standing binding (21 R421). -/
def execStandingBind (launch : Nat) (k : Nat) (slots : List BindSlot) (s : State) : Host.Outcome State Fault Refusal :=
  .next (match s.launchOf (BitVec.ofNat 64 launch) with
    | none => s
    | some l => match l.cohorts[k]?, l.binding with
      | some c, some b => if slots.all (s.binding b).reserves && s.inTurn l k then s.bindCohort l c slots (some b) else s
      | _, _ => s)

/-! ## Completion (21 R414 to R416) -/

/-- Another node holds a cohort of a launch: it binds it, or the cohort has moved there and not exited (17 R345; 21 R414). -/
def State.elsewhere (s : State) (c : LCohort) : Bool :=
  c.node != s.node || (s.dirOf c.name).any fun d => d.state == .resident && d.node != s.node

/-- Another node has a part in a launch: it accepted it, or holds a cohort of it. -/
def State.shared (s : State) (l : Launch) : Bool := (field l.id 55 9 : BitVec 9).toNat != s.node || l.cohorts.any s.elsewhere

/-- Every cohort of a launch has exited, or was never bound in a launch that is terminated; told: what other nodes say of theirs. -/
def State.launchOver (s : State) (l : Launch) (told : Bool) : Bool :=
  (told || !s.shared l) &&
  l.cohorts.all fun c =>
    if s.elsewhere c then true
    else if !c.bound then l.terminated
    else match s.dirOf c.name with
      | some d => d.state == .exited
      | none => true

/-- The entries of members that other nodes hold are what those nodes report (log entry 17). -/
def State.remoteEntries (s : State) (l : Launch) : Launch :=
  let remote := l.cohorts.flatMap fun c => List.replicate c.members (s.elsewhere c)
  { l with entries := (l.entries.zip remote).zipIdx.map fun x =>
      if x.1.2 && x.1.1.kind == 0 then
        let w := Config.remoteEntry (s.free + x.2)
        { kind := 1 + (bit w 23).toNat, basin := (field w 16 5 : BitVec 5).toNat, drops := 0, status := (field w 0 16 : BitVec 16).toNat }
      else x.1.1 }

/-- CODE of a completion (21 R415, R417). -/
def Launch.code (l : Launch) : Nat := if l.terminated then 3 else if l.entries.any (·.kind == 2) then 2 else 0

/-- The completion record is written, entries and header before STATUS (21 R416); one on a poisoned line is reported in the bank of the management
core, with this node as COORD (26 R483; log entry 42). -/
def State.writeCompletion (s : State) (l : Launch) : State :=
  let rest := headerBytes16 l.id l.stampA (l.stampF.getD 0) s.ns l.entries.length (l.entries.filter (·.kind == 2)).length ++
    l.entries.flatMap fun m => wordBytes m.word
  match s.recordWrite l.complSpace (l.compl + 8) rest with
  | .error c =>
    if c == 0x25 then s.machineCheck 1863 { sev := 2, cls := 0x79, synd := 0, addr := none, info := some (at' s.node 55 ||| at' 3 31) } else s
  | .ok s1 => s1.agentPut l.complSpace l.compl (launchStatus 0 0 l.code)

/-! ### Replay (27 R496) -/

/-- A launch of a replay has ended with a CODE: its outcome is reported. -/
def State.replayDone (s : State) (id : Word) (code : Nat) : State :=
  { s with replay := s.replay.map fun r => match r.current with
      | none => r
      | some (now, c) =>
        if now != id then r
        else
          let sum := s.outputSum c.outputs
          let out : ReplayOutcome := if code != 0 then .failed code else if c.unordered then .unordered
            else if sum == c.checksum then .matched else .mismatch c.checksum sum
          { r with current := none, outcomes := r.outcomes ++ [(c.id, out)] } }

/-- A replay begins: the capture ends and its snapshot is restored. -/
def State.startReplay (s : State) : State :=
  match s.capture with
  | none => s
  | some c =>
    { s with mem := c.snapshot.foldl (fun m r => Memory.write m r.1 r.2) s.mem, capture := none
             replay := some { rest := c.launches, current := none, outcomes := [] } }

/-- The next captured launch is submitted again, once the one before it has completed: its record and cohort table are put back first. -/
def State.replayNext (s : State) : State :=
  match s.replay with
  | none => s
  | some r =>
    match r.current, r.rest with
    | none, c :: rest =>
      let put (s : State) (sp : Space) (a : Word) (bs : List Byte) : State := match s.agentWrite sp a bs with
        | .ok s1 => s1
        | .error _ => s
      let s1 := put (put s c.submission.space c.submission.record c.record) c.launcher (recWord c.record 8) c.table
      let s2 := s1.checkSubmission { c.submission with by_ := .host }
      if s2.launchCount == s.launchCount then
        { s2 with replay := some { r with rest := rest, outcomes := r.outcomes ++ [(c.id, .failed 1)] } }
      else { s2 with replay := some { r with rest := rest, current := some (at' s2.node 55 ||| at' s2.launchCount 0, c) } }
    | _, _ => s

/-! ### The end of a launch -/

/-- The launch completes: its record, which the accepting node writes, its names, its futures and adapters, and the walk that waits for it (21
R416, R423, R425). told: other nodes report that their part is over. -/
def State.completeLaunch (s : State) (l0 : Launch) (told : Bool) : State :=
  let own := (field l0.id 55 9 : BitVec 9).toNat == s.node
  if !s.launchOver l0 told || (own && s.absent l0.complSpace l0.compl (64 + 8 * l0.entries.length) .store) then s
  else
    let l := s.remoteEntries l0
    let s1 := if own then ((({ s with free := s.free + l.entries.length } : State).writeCompletion l).captureDone l.id).replayDone l.id l.code
      else s
    let s2 := l.cohorts.foldl (fun s c => if c.name == 0 then s else (s.forget c.name).retireName c.name) s1
    let s3 := { s2.settleFutures l.id with launches := s2.launches.filter (·.id != l.id) }
    let cause := if l.code == 0 then 0 else 0x63
    match l.walk with
    | none => s3
    | some (w, i) =>
      s3.nodeFinished w i (match s3.walks.find? (·.num == w) with
        | some x => if x.nowait.contains ⟨i, some l.id⟩ then some l.id else none
        | none => none) cause

/-- LAUNCH_COMPLETION (21 R416): for a launch in which other nodes have a part, it says that theirs is over. -/
def execLaunchCompletion (launch : Nat) (s : State) : Host.Outcome State Fault Refusal :=
  .next (match s.launchOf (BitVec.ofNat 64 launch) with
    | some l => s.completeLaunch l true
    | none => s)

end Sys2Proof.Machine
end

