-- ==== Sys2Proof/Machine/Graphs.lean ====
section
/-! DEFINITION. Command graphs (21 R422 to R425, R413), host rings (21 R426 to R429) and the instructions GRAPHGO and HRING
(21 R431, R433, R434). -/

namespace Sys2Proof.Machine

/-! ## Host rings (21 R426 to R429) -/

/-- Host ring r. -/
def State.hostRing (s : State) (r : Nat) : HostRing := s.hostRings.toList.getD r HostRing.reset

/-- A host ring is replaced. -/
def State.setHostRing (s : State) (r : Nat) (x : HostRing) : State := if h : r < 16 then { s with hostRings := s.hostRings.set r x } else s

/-- The ring raises its interrupt: PEND becomes 0 (21 R429). -/
def State.raiseRing (s : State) (r : Nat) : State :=
  let x := s.hostRing r
  { s.setHostRing r { x with pend := 0 } with interrupts := x.vector.toNat :: s.interrupts }

/-- The time rule holds (21 R429). -/
def HostRing.late (x : HostRing) (ns : Nat) : Bool := x.time != 0 && x.pend != 0 && decide (x.oldest + x.time ≤ ns)

/-- HEAD as an append in a cycle sees it: a write of the host in that cycle is not seen yet (21 R430). -/
def HostRing.headAt (x : HostRing) (now : Nat) : BitVec 32 :=
  match x.prior with
  | some (t, h) => if t == now then h else x.head
  | none => x.head

/-- CODE of an append: 0 appended, 1 ring full, 2 ring disabled (21 R434). -/
def HostRing.appendCode (x : HostRing) (now : Nat) : Nat :=
  if !x.en then 2 else if (x.tail - x.headAt now).toNat == 2 ^ x.log2 then 1 else 0

/-- An append to a ring: the record with its time, TAIL at TAILADDR, and the count and URGENT rules (21 R427 to R429). -/
def State.appendRing (s : State) (r : Nat) (bs : List Byte) : State :=
  let x := s.hostRing r
  if x.appendCode s.time != 0 then s
  else
    let m := Memory.write s.mem (hostKey (x.base + 32 * (x.tail.toNat % 2 ^ x.log2))) (bs.take 24 ++ leBytes 8 s.ns)
    let tail := x.tail + 1
    let y := { x with tail := tail, pend := x.pend + 1, oldest := if x.pend == 0 then s.ns else x.oldest }
    let s1 := { s.setHostRing r y with mem := Memory.write m (hostKey x.tailAddr) (leBytes 8 tail.toNat) }
    if y.cnt ≤ y.pend || y.late s.ns || (recNat bs 12 1).testBit 0 then s1.raiseRing r else s1

/-- HOST_RING_TIME_RULE (21 R429). -/
def execHostRingTimeRule (r : Nat) (s : State) : Host.Outcome State Fault Refusal :=
  .next (if (s.hostRing r).late s.ns then s.raiseRing r else s)

/-- The checks of HRING at forwarding. -/
def hringCheck (s : State) (e : Entry) : Option Trap :=
  if !aligned e.opa 32 || !aligned e.opc 8 then portMisaligned s [(e.opa, 32), (e.opc, 8)] else if 15 < e.opb.toNat then portTrap s 0x63 else none

/-- HRING's issue: the record is read and appended, and the status word written (21 R434). -/
def issueHring : PortBody := fun s e _ =>
  s.portRead e.opa 32 false fun s1 bs =>
    let done (s2 : State) : Handed := .over ((s2.appendRing e.opb.toNat bs).ringNow e)
    match e.status with
    | none => done s1
    | some a => s1.portWrite a (wordBytes (statusWord ((s1.hostRing e.opb.toNat).appendCode s1.time) 0)) true done

/-- HRING. -/
def execHring (o : N) (s : State) := forwardPort (.hring o) hringCheck s

/-! ## Walks (21 R422, R433) -/

/-- The walk completion word (21 R433). -/
def walkWord (code cause node : Nat) : Word := bitAt true 63 ||| at' cause 56 ||| at' node 8 ||| at' code 0

/-- A walk begins, where one is free (21 R422). -/
def State.startWalk (s : State) (g : Word) (nnodes : Nat) (sp : Space) (priv : Bool) (compl : Option Word) : Option State :=
  if 64 ≤ s.walks.length then none
  else
    let w : Walk := { num := s.serial, g := g, nnodes := nnodes, space := sp, priv := priv, compl := compl, node := 0, started := false,
                      startedAt := 0, body := [], nowait := [], failed := none }
    some (({ s with serial := s.serial + 1, walks := s.walks ++ [w] } : State).captureWalk g nnodes)

/-- The walk of a number. -/
def State.walkOf (s : State) (num : Nat) : Option Walk := s.walks.find? (·.num == num)

/-- A walk ends: its completion word is written once (21 R433). -/
def State.endWalk (s : State) (w : Walk) (code cause node : Nat) : State :=
  if w.compl.any fun a => s.absent w.space a 8 .store then s
  else
    let s1 := { s with walks := s.walks.filter (·.num != w.num) }
    match w.compl with
    | none => s1
    | some a => s1.agentPut w.space a (walkWord code cause node)

/-- The checks of GRAPHGO at forwarding. -/
def graphgoCheck (s : State) (e : Entry) : Option Trap :=
  if !aligned e.opa 64 || !aligned e.opc 8 then portMisaligned s [(e.opa, 64), (e.opc, 8)]
  else if e.opb == 0 || 65536 < e.opb.toNat then portTrap s 0x63 else none

/-- GRAPHGO's issue: it completes when the walk has started, or when no walk is free (21 R433). -/
def issueGraphgo : PortBody := fun s e _ =>
  match s.startWalk e.opa e.opb.toNat s.cx.space s.cx.priv e.status, e.status with
  | some s1, none => .over (s1.ringNow e)
  | some s1, some a => s.portProbe a 8 (.over (s1.ringNow e))
  | none, none => .over ((s.trapAfter (s.originOf e none) 0x63 0).ringNow e)
  | none, some a => s.portWrite a (wordBytes (walkWord 2 0x63 0)) true fun s1 => .over (s1.ringNow e)

/-- GRAPHGO. -/
def execGraphgo (o : N) (s : State) := forwardPort (.graphgo o) graphgoCheck s

/-- A graph start block breaks the limits of 21 R413. -/
def startBlockBad (b : List Byte) : Bool :=
  recNat b 0 8 % 64 != 0 || recNat b 8 4 == 0 || 65536 < recNat b 8 4 || recNat b 12 2 == 0 || recNat b 14 2 != 0 || recNat b 16 8 == 0 ||
    recNat b 24 8 % 8 != 0

/-- A graph doorbell: a host write of the device physical address of a graph start block, a multiple of 32 (21 R413). -/
def State.graphBell (s : State) (pa : Nat) : State :=
  if pa % 32 != 0 || !s.booted then s
  else
    match s.agentRead ⟨0, none⟩ (BitVec.ofNat 64 pa) 32 with
    | .error _ => s
    | .ok (s1, b) =>
      let sp : Space := ⟨BitVec.ofNat 16 (recNat b 12 2), some (recNat b 16 8)⟩
      let compl := recWord b 24
      let refuse (code : Nat) : State :=
        if compl == 0 || !aligned compl 8 || recNat b 12 2 == 0 || recNat b 16 8 == 0 then s1 else s1.agentPut sp compl (walkWord code 0x63 0)
      if startBlockBad b then refuse 1
      else match s1.startWalk (recWord b 0) (recNat b 8 4) sp true (if compl == 0 then none else some compl) with
        | some s2 => s2
        | none => refuse 2

/-- GRAPH_DOORBELL. -/
def execGraphDoorbell (pa : Nat) (s : State) : Host.Outcome State Fault Refusal := .next (s.graphBell pa)

/-! ## Nodes (21 R422 to R425) -/

/-- KIND of a node. -/
def nodeKind (b : List Byte) : Nat := recNat b 0 1

/-- The node is invalid as read: KIND, a reserved byte, OP of a comparison, a misaligned address, a copy's length or a ring (21 R425; log entry
42). -/
def nodeBad (b : List Byte) : Bool :=
  let k := nodeKind b
  6 < k || 4 ≤ recNat b 1 1 || ((k == 2 || k == 4) && decide (3 < recNat b 2 1)) || !recZero b 3 1 || !recZero b 40 8 ||
    (k == 0 && recNat b 8 8 % 128 != 0) || ((k == 2 || k == 3 || k == 4) && recNat b 8 8 % 8 != 0) ||
    (k == 1 && (recNat b 24 8 == 0 || 2 ^ 32 < recNat b 24 8)) || (k == 5 && 15 < recNat b 4 4)

/-- The comparison OP of a value with C. -/
def nodeCompare (b : List Byte) (v : Word) : Bool :=
  let c := recWord b 24
  match recNat b 2 1 with
  | 0 => v == c
  | 1 => v != c
  | 2 => v.ult c
  | _ => !v.ult c

/-- The walk fails at its node. -/
def State.failWalk (s : State) (w : Walk) (cause : Nat) : State := s.putWalk (w.fail s.time w.node cause)

/-- The walk goes on. -/
def State.nextNode (s : State) (w : Walk) (next : Nat) : State := s.putWalk (w.goTo s.time next)

/-- The address of a walk's node. -/
def Walk.addr (w : Walk) : Word := w.g + BitVec.ofNat 64 (64 * w.node)

/-- A launch node submits its record (21 R423). -/
def State.nodeLaunches (s : State) (w : Walk) : State :=
  { s.putWalk w with submissions := s.submissions ++
      [{ record := recWord w.body 8, space := w.space, priv := w.priv, hostRead := false,
         by_ := .walk w.num w.node ((recNat w.body 1 1).testBit 0) }] }

/-- A copy node hands its copy over. -/
def State.nodeCopies (s : State) (w : Walk) : State :=
  let c : Copy := { num := 0, serves := .node w.num w.node, space := w.space, src := recWord w.body 8, dst := recWord w.body 16, len := recNat w.body 24 8 }
  if (recNat w.body 1 1).testBit 0 then (s.startCopy c).nextNode { w with nowait := w.nowait ++ [⟨w.node, none⟩] } (w.node + 1)
  else (s.startCopy c).putWalk w

/-- A wait-on-word node reads its dword: it finishes, fails, or waits on (21 R423, R425). -/
def State.nodeWaits (s : State) (w : Walk) : State :=
  match s.agentRead w.space (recWord w.body 8) 8 with
  | .error c => s.failWalk w c.toNat
  | .ok (s1, bs) =>
    let tmo := recNat w.body 36 4
    if nodeCompare w.body (recWord bs 0) then s1.nextNode w (w.node + 1)
    else if tmo != 0 && w.startedAt + 1000 * tmo ≤ s.ns then s1.failWalk w 0x66
    else s1.putWalk w

/-- A signal-word node writes or adds. -/
def State.nodeSignals (s : State) (w : Walk) : State :=
  let a := recWord w.body 8
  let c := recWord w.body 24
  if (recNat w.body 1 1).testBit 1 then
    match s.agentAccess w.space a 8 .rmw with
    | .fail f => s.failWalk w f.cause.toNat
    | .ok s1 gs =>
      if segsPoisoned s1.poison gs then s1.failWalk w 0x25
      else (s1.homeWrite gs (wordBytes (recWord (readSegs s1.mem gs) 0 + c))).nextNode w (w.node + 1)
  else
    match s.agentWrite w.space a (wordBytes c) with
    | .error f => s.failWalk w f.toNat
    | .ok s1 => s1.nextNode w (w.node + 1)

/-- A conditional node decides (21 R424). past: the memory at the end of the cycle before, where this cycle has changed it (R430). -/
def State.nodeDecides (s : State) (w : Walk) (past : Option (List Host.Cell) := none) : State :=
  match s.agentRead w.space (recWord w.body 8) 8 with
  | .error c => s.failWalk w c.toNat
  | .ok (s1, now) =>
    let bs := match past.map fun m => ({ s with mem := m } : State).agentRead w.space (recWord w.body 8) 8 with
      | some (.ok (_, before)) => before
      | some (.error _) | none => now
    let count := recNat w.body 48 4
    let limit := recNat w.body 32 4
    let taken := nodeCompare w.body (recWord bs 0) && (limit == 0 || count < limit)
    match s1.agentWrite w.space (w.addr + 48) (leBytes 4 (if taken then count + 1 else 0)) with
    | .error c => s1.failWalk w c.toNat
    | .ok s2 => s2.nextNode w (if taken then recNat w.body 4 4 else w.node + 1)

/-- A drain node: the ring's interrupt, where a record is pending (21 R429). -/
def State.nodeDrains (s : State) (w : Walk) : State :=
  let r := recNat w.body 4 4
  (if (s.hostRing r).pend == 0 then s else s.raiseRing r).nextNode w (w.node + 1)

/-- An end node, or a walk that has failed: every NOWAIT operation first, then the completion word (21 R423, R425). -/
def State.nodeEnds (s : State) (w : Walk) : State :=
  if !w.nowait.isEmpty then s.putWalk w
  else match w.failed with
    | some (i, c, _) => s.endWalk w 1 c i
    | none => s.endWalk w 0 0 w.node

/-- What a node does once it has started. -/
def State.nodeEffect (s : State) (w : Walk) (past : Option (List Host.Cell)) : State :=
  match nodeKind w.body with
  | 0 => s.nodeLaunches w
  | 1 => s.nodeCopies w
  | 2 => s.nodeWaits w
  | 3 => s.nodeSignals w
  | 4 => s.nodeDecides w past
  | 5 => s.nodeDrains w
  | _ => s.nodeEnds w

/-- What the start of a node writes at its byte 52: zero, and STAMP (21 R422). -/
def stampBytes (ns : Nat) : List Byte := List.replicate 4 0 ++ leBytes 8 ns

/-- A walk's node starts: it is read, checked and stamped, and has its effect. kind: start nothing unless the node is of this kind or
cannot run. -/
def State.startNode (s : State) (w : Walk) (kind : Option Nat) (past : Option (List Host.Cell)) : State :=
  match s.agentRead w.space w.addr 64 with
  | .error c => s.failWalk w c.toNat
  | .ok (s1, b) =>
    if nodeBad b then s1.failWalk w 0x65
    else if kind.elim false (· != nodeKind b) then s
    else if s1.injected 1828 then (s1.engineFails 1828 none).failWalk w 0x79
    else match s1.agentWrite w.space (w.addr + 52) (stampBytes s.ns) with
      | .error c => s1.failWalk w c.toNat
      | .ok s2 => s2.nodeEffect { w with started := true, startedAt := s.ns, body := b } past

/-- One step of a walk: it ends, starts its node, or looks again at the word or the operations that it waits for. -/
def State.runWalk (s : State) (num : Nat) (kind : Option Nat) (past : Option (List Host.Cell) := none) : State :=
  match s.walkOf num with
  | none => s
  | some w =>
    if w.failed.isSome then s.nodeEnds w
    else if !w.started then s.startNode w kind past
    else if kind.elim false (· != nodeKind w.body) then s
    else match nodeKind w.body with
      | 2 => s.nodeWaits w
      | 6 => s.nodeEnds w
      | _ => s

/-- NODE_LAUNCH (21 R423). -/
def execNodeLaunch (num : Nat) (s : State) : Host.Outcome State Fault Refusal := .next (s.runWalk num (some 0))

/-- NODE_COPY (21 R423). -/
def execNodeCopy (num : Nat) (s : State) : Host.Outcome State Fault Refusal := .next (s.runWalk num (some 1))

/-- NODE_WAIT_ON_WORD (21 R423). -/
def execNodeWaitOnWord (num : Nat) (s : State) : Host.Outcome State Fault Refusal := .next (s.runWalk num (some 2))

/-- NODE_SIGNAL_WORD (21 R423). -/
def execNodeSignalWord (num : Nat) (s : State) : Host.Outcome State Fault Refusal := .next (s.runWalk num (some 3))

/-- NODE_CONDITIONAL (21 R424). -/
def execNodeConditional (num : Nat) (s : State) : Host.Outcome State Fault Refusal := .next (s.runWalk num (some 4))

/-- NODE_HOST_RING_DRAIN (21 R429). -/
def execNodeHostRingDrain (num : Nat) (s : State) : Host.Outcome State Fault Refusal := .next (s.runWalk num (some 5))

/-- NODE_END (21 R423). -/
def execNodeEnd (num : Nat) (s : State) : Host.Outcome State Fault Refusal := .next (s.runWalk num (some 6))

/-- The walk waits on a word. -/
def State.waitsOnWord (s : State) (num : Nat) : Option Walk :=
  (s.walkOf num).filter fun w => w.started && w.failed.isNone && nodeKind w.body == 2

/-- GRAPH_WAIT_TIMEOUT: a wait-on-word node that still waits TMO µs after its start fails (21 R425). -/
def execGraphWaitTimeout (num : Nat) (s : State) : Host.Outcome State Fault Refusal :=
  .next (match s.waitsOnWord num with
    | some w => if recNat w.body 36 4 != 0 && w.startedAt + 1000 * recNat w.body 36 4 ≤ s.ns then s.nodeWaits w else s
    | none => s)

/-- WAIT_ON_WORD_REREAD (21 R423). -/
def execWaitOnWordReread (num : Nat) (s : State) : Host.Outcome State Fault Refusal :=
  .next (match s.waitsOnWord num with
    | some w => s.nodeWaits w
    | none => s)

end Sys2Proof.Machine
end

