-- ==== Sys2Proof/Machine/Images.lean ====
section
/-! DEFINITION. Context images: their bytes (14 R304, R305; 16 R321, R322; 17 R350), their checks (14 R306) and the context that an
image holds. -/

namespace Sys2Proof.Machine

/-! ## Sizes (14 R305) -/

/-- The offset of the basin entries. -/
def imageBase (acc : Bool) : Nat := if acc then 229376 else 163840

/-- The offset of the AB extent. -/
def imageExt (acc : Bool) (nb : Nat) : Nat := (imageBase acc + 2112 * nb + 255) / 256 * 256

/-- IMGSIZE. -/
def imageSize (acc : Bool) (nb ab wb : Nat) : Nat := imageExt acc nb + ab + wb

/-! ## Queue entries (16 R321, R322) -/

/-- The 16 bytes of a shape slot. -/
def Shape.bytes (h : Shape) : List Byte := wordBytes h.word0 ++ wordBytes h.word1

/-- The 16 bytes of an unfolding slot. -/
def Unfold.bytes (u : Unfold) : List Byte := wordBytes u.word0 ++ wordBytes u.word1

/-- WORD of an entry: in the T family pg and pn read zero. -/
def Entry.word (e : Entry) : Word :=
  match fieldsOf e.instr with
  | .t _ => encode e.instr &&& ~~~((0xF : Word) <<< 13)
  | _ => encode e.instr

/-- The payload of an entry. -/
def Entry.payload (e : Entry) : List Byte :=
  let sh (n : BitVec 4) (k : Nat) : List Byte := if n == 0 then [] else (e.shapes.getD k Shape.reset).bytes
  if e.isVoid then []
  else match fieldsOf e.instr with
    | .t o => sh o.h 0
    | .v o => sh o.h 0
    | .x o => sh o.ha 0 ++ sh o.hb 1 ++ (if o.unf == 0 then [] else e.unf.bytes)
    | .n o => if o.sc == 0 then [] else wordBytes e.opc
    | .none => []

/-- The bytes of an entry: 32 for the primary one and for each that continues it. -/
def Entry.bytes (e : Entry) : List Byte :=
  let n := e.size - 1
  let pay := e.payload ++ List.replicate (24 * n - e.payload.length) 0
  let opb : Word := match fieldsOf e.instr with | .n _ => e.opb | .t _ => e.opb | .v _ => e.opb | _ => 0
  wordBytes e.word ++ wordBytes e.opa ++ wordBytes opb ++ (e.epochs ++ List.replicate 4 0).take 4 ++
    [BitVec.ofNat 8 n, if e.isVoid then 1 else 0, 0, 0] ++
    (List.range n).flatMap fun k => (pay.drop (24 * k)).take 24 ++ [0, 0, 0, 0, 0, 2, 0, 0]

/-- The index of the k-th entry of queue q from its head. -/
def Ctx.slotIndex (c : Ctx) (q : Queue) (k : Nat) : Nat :=
  let b := segStart c.slipd (queueCode q - 1)
  b + ((c.queue q).head - b + k) % max 1 (c.depth q)

/-- The entries of a queue with their indexes. -/
def Ctx.placed (c : Ctx) (q : Queue) : List (Nat × List Byte) :=
  (unitsOf 32 ((c.queue q).entries.flatMap Entry.bytes)).zipIdx.map fun x => (c.slotIndex q x.2, x.1)

/-- The five queues in their order. -/
def allQueues : List Queue := [.lq, .sq, .aq, .mq, .nq]

/-- The queue half. -/
def Ctx.queueHalf (c : Ctx) : List Byte :=
  let es := allQueues.flatMap c.placed
  (List.range 256).flatMap fun i => ((es.find? (·.1 == i)).map Prod.snd).getD (List.replicate 32 0)

/-- A queue's 16 bytes of the snapshot block. -/
def Ctx.queueSnap (c : Ctx) (q : Queue) : List Byte :=
  let x := c.queue q
  leBytes 2 x.head ++ leBytes 2 (c.slotIndex q x.count) ++ [BitVec.ofNat 8 x.count, BitVec.ofNat 8 x.rstart.toNat] ++ List.replicate 10 0

/-! ## The image (14 R304) -/

/-- R120 state in the image's codes. -/
def Life.code : Life → Nat
  | .running => 0
  | .inactive => 1
  | .faulted => 2
  | .trapped => 3
  | .idle => 4
  | .unbound | .saved | .exited => 0

/-- The state of a code. -/
def lifeOf (n : Nat) : Life :=
  match n with
  | 0 => .running
  | 1 => .inactive
  | 2 => .faulted
  | 3 => .trapped
  | _ => .idle

/-- The 64 bytes of an arrival header (17 R350). -/
def Arrival.headBytes (a : Arrival) : List Byte :=
  leBytes 4 a.name.toNat ++ [BitVec.ofNat 8 a.member, BitVec.ofNat 8 a.reg, a.rows, a.tag.setWidth 8, BitVec.ofNat 8 a.kind,
    BitVec.ofNat 8 a.rel.toNat + 2 * a.scope.setWidth 8, 0, 0] ++ leBytes 4 a.seq ++ wordBytes a.sender ++ wordBytes a.stataddr ++
    leBytes 8 a.stamp ++ wordBytes a.record ++ leBytes 4 a.value ++ List.replicate 12 0

/-- The arrival that 2,112 bytes hold. -/
def Arrival.ofBytes (b : List Byte) : Arrival :=
  { name := BitVec.ofNat 32 (recNat b 0 4), member := recNat b 4 1, reg := recNat b 5 1, rows := BitVec.ofNat 8 (recNat b 6 1),
    tag := BitVec.ofNat 4 (recNat b 7 1), kind := recNat b 8 1, rel := (recNat b 9 1).testBit 0, scope := BitVec.ofNat 3 (recNat b 9 1 / 2)
    seq := recNat b 12 4, sender := recWord b 16, stataddr := recWord b 24, stamp := recNat b 32 8, record := recWord b 40
    value := recNat b 48 4, data := dataOf (b.drop 64) }

/-- The trap summary. -/
def Ctx.trapSummary (c : Ctx) : List Byte :=
  match c.life, c.trap with
  | .trapped, some t => [t.cause.setWidth 8, BitVec.ofNat 8 t.queue] ++ leBytes 2 t.code.toNat ++ List.replicate 4 0 ++ wordBytes t.iaddr
  | _, _ => List.replicate 16 0

/-- Bytes 256 to 16,383 of the image of a context that stops at a program counter. -/
def Ctx.imageRegs (c : Ctx) (pc : Word) : List Byte :=
  ((List.range 32).flatMap fun n => wordBytes (c.sreg (BitVec.ofNat 5 n))) ++
  wordBytes c.ctxWord ++ wordBytes (place c.flags 0) ++ wordBytes c.rot.word ++ wordBytes c.lcnt ++ wordBytes c.slipWord ++
  wordBytes (place c.qwdog 0) ++ wordBytes c.srkey ++ wordBytes c.srctr ++
  leBytes 8 (((c.p.toList.zipIdx.map fun x => if x.1 || x.2 == 0 then 2 ^ x.2 else 0).sum)) ++
  (0 :: c.bells.toList.tail) ++
  ((List.range 32).map fun i => (c.tags.toList.getD (2 * i + 1) 0) ++ (c.tags.toList.getD (2 * i) 0)) ++
  wordBytes pc ++ leBytes 8 c.life.code ++ c.trapSummary ++ List.replicate 88 0 ++
  c.h.toList.flatMap Shape.bytes ++ c.f.toList.flatMap Unfold.bytes ++
  (c.t.toList.flatMap fun t => wordBytes t.word0 ++ wordBytes t.word1 ++ t.shape.bytes) ++
  ((List.range 64).flatMap fun n => wordBytes (c.holdWord (BitVec.ofNat 6 n))) ++
  allQueues.flatMap c.queueSnap ++ wordBytes (if c.hasAcc then c.accstat.word else 0) ++ leBytes 4 (min c.wdog (2 ^ 32 - 1)) ++
  [BitVec.ofNat 8 c.vprev.length, BitVec.ofNat 8 c.vnext.length, 0, 0] ++
  leBytes 4 ((c.vprev.zipIdx.map fun x => x.1.tag.toNat * 16 ^ x.2).sum + (c.vnext.zipIdx.map fun x => x.1.tag.toNat * 16 ^ (4 + x.2)).sum) ++
  List.replicate 4 0 ++ wordBytes c.cycle ++ wordBytes c.actno ++ List.replicate 136 0 ++
  ((List.range 8).flatMap fun n => leBytes 512 (c.mreg (BitVec.ofNat 3 n)).toNat) ++ c.queueHalf

/-- A channel buffer's four entries. -/
def chanBytes (l : List ChanEntry) : List Byte := (l.flatMap fun e => leBytes 2048 e.data.toNat) ++ List.replicate (2048 * (4 - l.length)) 0

/-- The basin entries of a context, oldest first. -/
def State.basinOf (s : State) (c : Ctx) : List Arrival :=
  (s.basins.filter fun b => b.arr.name == c.cohort && b.arr.member == c.coord.member.toNat).map BasinEntry.arr

/-- The image's body from byte 256 on. -/
def State.imageBody (s : State) (c : Ctx) (basin : List Arrival) : List Byte :=
  let kab := scratchKey c.coord.cluster.toNat c.coord.core.toNat 0 c.abOrigin
  let kwb := scratchKey c.coord.cluster.toNat c.coord.core.toNat 1 c.wbOrigin
  c.imageRegs c.pc ++ (c.v.toList.flatMap fun v => leBytes 2048 v.toNat) ++ chanBytes c.vprev ++ chanBytes c.vnext ++
    (if c.hasAcc then leBytes 65536 c.acc.toNat else []) ++ (basin.flatMap fun a => a.headBytes ++ leBytes 2048 a.data.toNat) ++
    List.replicate (imageExt c.hasAcc basin.length - (imageBase c.hasAcc + 2112 * basin.length)) 0 ++
    Memory.read s.mem kab c.abext ++ Memory.read s.mem kwb c.wbext

/-- Header bytes 0 to 79. -/
def Ctx.imageHead (c : Ctx) (nb node ctr : Nat) : List Byte :=
  let fl := c.sealed.toNat + 2 * c.hasAcc.toNat + 4 * c.hasChan.toNat + 8 * c.priv.toNat
  leBytes 4 0x31585443 ++ leBytes 2 1 ++ leBytes 2 fl ++ leBytes 8 (imageSize c.hasAcc nb c.abext c.wbext) ++ leBytes 4 c.abext ++
    leBytes 4 c.wbext ++ wordBytes c.launch ++ leBytes 4 c.cohort.toNat ++ [BitVec.ofNat 8 c.coord.member.toNat, c.coord.stage.setWidth 8,
    BitVec.ofNat 8 nb, 0] ++ wordBytes c.reqfeat ++ leBytes 2 (if c.sealed then c.keyslot else 0) ++ leBytes 2 node ++ leBytes 4 ctr ++
    List.replicate 24 0

/-! ## Sealing (14 R308, R309) -/

/-- The nonce of a seal. -/
def sealNonce (ctr slot node : Nat) : List Byte := leBytes 4 ctr ++ leBytes 2 slot ++ leBytes 2 node ++ leBytes 4 0

/-- A key slot. -/
def State.keySlot (s : State) (n : Nat) : Option KeySlot := s.keys.find? (·.slot == n)

/-- A key slot is replaced. -/
def State.putKey (s : State) (k : KeySlot) : State := { s with keys := k :: s.keys.filter (·.slot != k.slot) }

/-- LIVE of key slots is set. -/
def State.setLive (s : State) (slots : List Nat) (b : Bool) : State :=
  { s with keys := s.keys.map fun k => if slots.contains k.slot then { k with live := b } else k }

/-- The image of a context, sealed if the context is: the state after the seal, and the bytes or the cause. -/
def State.makeImage (s : State) (c : Ctx) : State × Except (BitVec 7) (List Byte) :=
  let basin := s.basinOf c
  let body := s.imageBody c basin
  if !c.sealed then (s, .ok (c.imageHead basin.length 0 0 ++ List.replicate 176 0 ++ body))
  else
    match s.keySlot c.keyslot with
    | none => (s, .error 0x4E)
    | some k =>
      if 0xFFFFFFFF ≤ k.stored then (s, .error 0x4D)
      else
        let ctr := k.stored + 1
        let head := c.imageHead basin.length s.node ctr
        let nonce := sealNonce ctr c.keyslot s.node
        let ct := gcmCrypt k.key nonce body
        (s.putKey { k with stored := ctr },
          .ok (head ++ gcmTag k.key nonce head ct ++ List.replicate 160 0 ++ ct))

/-! ## Checks (14 R306) -/

/-- Step 1: the header. -/
def imageHeadOk (b : List Byte) : Bool :=
  let fl := recNat b 6 2
  let nb := recNat b 38 1
  recNat b 0 4 == 0x31585443 && recNat b 4 2 == 1 && fl < 16 && recZero b 39 1 && recZero b 56 24 && recZero b 96 160 && nb ≤ 16 &&
    recNat b 16 4 % 256 == 0 && recNat b 16 4 ≤ 180224 && recNat b 20 4 % 256 == 0 && recNat b 20 4 ≤ 196608 &&
    recNat b 8 8 == imageSize (fl.testBit 1) nb (recNat b 16 4) (recNat b 20 4) && recNat b 37 1 ≤ 15 &&
    (fl.testBit 0 || (recZero b 48 8 && recZero b 80 16))

/-- The image is sealed. -/
def imageSealed (b : List Byte) : Bool := (recNat b 6 2).testBit 0

/-- Step 3: the counter check of a sealed image. -/
def State.counterOk (s : State) (b : List Byte) : Bool :=
  !imageSealed b ||
    (s.keySlot (recNat b 48 2)).elim false fun k => recNat b 50 2 == s.node && recNat b 52 4 == k.stored && !k.live

/-- Step 4: the plain image, where the tag agrees. -/
def State.unsealImage (s : State) (b : List Byte) : Option (List Byte) :=
  if !imageSealed b then some b
  else
    (s.keySlot (recNat b 48 2)).bind fun k =>
      let nonce := sealNonce (recNat b 52 4) (recNat b 48 2) s.node
      let ct := b.drop 256
      if gcmTag k.key nonce (b.take 80) ct != (b.drop 80).take 16 then none else some (b.take 256 ++ gcmCrypt k.key nonce ct)

/-- A shape slot's words are legal. -/
def shapeBytesOk (b : List Byte) (off : Nat) : Bool :=
  let h := Shape.ofWords (recWord b off) (recWord b (off + 8))
  h.legal && h.word0 == recWord b off && h.word1 == recWord b (off + 8)

/-- The tile entry that four words hold. -/
def Tile.ofBytes (b : List Byte) (off : Nat) : Tile :=
  let w0 := recWord b off
  let w1 := recWord b (off + 8)
  { state := TileState.ofCode (field w0 62 2), wb := bit w0 61, base := field w0 38 18, extent := field w0 20 18, fepoch := field w1 56 8,
    cepoch := field w1 48 8, readers := field w1 40 8, rpv := bit w1 19, rpoint := field w1 0 19
    shape := Shape.ofWords (recWord b (off + 16)) (recWord b (off + 24)) }

/-- The hold record that a word holds. -/
def Hold.ofWord (w : Word) : Hold :=
  { kind := field w 60 3, fepoch := field w 52 8, cepoch := field w 44 8, readers := field w 36 8, expect := field w 28 8,
    arrived := field w 20 8, rpv := bit w 19, rpoint := field w 0 19 }

/-- ROT that a word holds. -/
def Rot.ofWord (w : Word) : Rot := { vw := field w 8 6, vbase := field w 0 5, pw := field w 24 3, pbase := field w 16 2 }

/-- ACCSTAT that a word holds. -/
def AccStat.ofWord (w : Word) : AccStat :=
  { int := bit w 63, ckf := bit w 62, rpv := bit w 61, rchunk := field w 32 12, flags := field w 0 6 }

/-- The depths that the image's SLIPD gives. -/
def imageDepths (b : List Byte) : Vector (BitVec 8) 5 := Vector.ofFn fun i => BitVec.ofNat 8 (recNat b (544 + i.val) 1)

/-- A queue's snapshot lies within the queue half and SLIPD, q counting from 0. -/
def snapOk (b : List Byte) (q : Nat) : Bool :=
  let d := imageDepths b
  let base := segStart d q
  let n := (d.toList.getD q 0).toNat
  let head := recNat b (3840 + 16 * q) 2
  let count := recNat b (3844 + 16 * q) 1
  base ≤ head && head < base + n && count ≤ n && recNat b (3842 + 16 * q) 2 == base + (head - base + count) % max 1 n &&
    recNat b (3845 + 16 * q) 1 ≤ 1 && (recNat b (3845 + 16 * q) 1 == 0 || count != 0)

/-- Neither of the two tags in a byte is 0xF, which no register holds (03 R54). -/
def tagsOk (x : Byte) : Bool := field x 0 4 != (0xF : BitVec 4) && field x 4 4 != (0xF : BitVec 4)

/-- The registers of the body hold values that they could hold in a bank. -/
def imageRegsOk (b : List Byte) : Bool :=
  let rot := Rot.ofWord (recWord b 528)
  let d := imageDepths b
  recZero b 256 8 && (recWord b 512 &&& ~~~0xE001) == 0 && (recWord b 520).toNat < 64 &&
    rot.word == recWord b 528 && rot.vw.toNat ≤ 32 && rot.pw.toNat ≤ 4 && (rot.vbase == 0 || rot.vbase.toNat < rot.vw.toNat) &&
    (rot.pbase == 0 || rot.pbase.toNat < rot.pw.toNat) && recNat b 549 3 == 0 && (d.toList.all fun x => x != 0) && segStart d 5 ≤ 256 &&
    recNat b 556 4 == 0 && recZero b 584 1 && ((b.drop 616).take 32).all tagsOk &&
    recNat b 656 1 ≤ 4 && ((List.range 16).all fun i => shapeBytesOk b (768 + 16 * i)) && (b.drop 768).take 16 == Shape.reset.bytes &&
    ((List.range 16).all fun i =>
      let u := Unfold.ofWords (recWord b (1024 + 16 * i)) (recWord b (1032 + 16 * i))
      u.legal && u.bytes == (b.drop (1024 + 16 * i)).take 16) && (b.drop 1024).take 16 == Unfold.reset.bytes

/-- The basin entries of an image. -/
def imageBasin (b : List Byte) : List (List Byte) :=
  unitsOf 2112 ((b.drop (imageBase ((recNat b 6 2).testBit 1))).take (2112 * recNat b 38 1))

/-- The tables of the body, the snapshot block and ACCSTAT do. A tag of 0xF in a channel, a basin entry or an open expectation fails the check
(log entry 48). -/
def imageTablesOk (b : List Byte) : Bool :=
  let ab := recNat b 16 4
  let wb := recNat b 20 4
  let st := recWord b 3920
  ((List.range 64).all fun i =>
      let t := Tile.ofBytes b (1280 + 32 * i)
      t.word0 == recWord b (1280 + 32 * i) && t.word1 == recWord b (1288 + 32 * i) && shapeBytesOk b (1296 + 32 * i) &&
        t.base.toNat % 256 == 0 && t.extent.toNat ≤ 196608 && t.base.toNat + t.extent.toNat ≤ (if t.wb then wb else ab)) &&
    ((List.range 64).all fun i =>
      let h := Hold.ofWord (recWord b (3328 + 8 * i))
      h.word == recWord b (3328 + 8 * i) && h.kind.toNat ≤ 3 && (h.kind != 2 || field h.rpoint 0 4 != (0xF : BitVec 4))) &&
    ((List.range 5).all (snapOk b)) && (AccStat.ofWord st).word == st && ((recNat b 6 2).testBit 1 || st == 0) &&
    recNat b 3932 1 ≤ 4 && recNat b 3933 1 ≤ 4 && recNat b 3934 1 ≤ 3 && recNat b 3935 1 ≤ 3 &&
    ((b.drop 3936).take 4).all tagsOk && (imageBasin b).all fun y => recNat y 7 1 < 0xF

/-! ## Queue entries of an image -/

/-- An instruction that a queue can hold. -/
def queuesTo (i : Instr) : Option Nat :=
  match fieldsOf i with
  | .t _ => some (match i with | .tst _ | .tstv _ | .tscat _ | .vstt _ | .trel _ => 1 | _ => 0)
  | .v _ => some 2
  | .x _ => some 3
  | .n _ => some 4
  | .none => none

/-- The shapes that an instruction's payload gives, a slot 0 being the reset value. -/
def payloadShapes (i : Instr) (pay : List Byte) : List Shape :=
  let at_ (k : Nat) : Shape := Shape.ofWords (recWord pay (16 * k)) (recWord pay (16 * k + 8))
  match i, fieldsOf i with
  | .unfcfg _, _ | .trel _, _ => []
  | _, .t o => [if o.h == 0 then Shape.reset else at_ 0]
  | _, .v o => [if o.h == 0 then Shape.reset else at_ 0]
  | .amst _, .x o => [if o.ha == 0 then Shape.reset else at_ 0]
  | .mma _, .x o | .mmaz _, .x o | .mmau _, .x o =>
    [if o.ha == 0 then Shape.reset else at_ 0, if o.hb == 0 then Shape.reset else at_ (if o.ha == 0 then 0 else 1)]
  | _, _ => []

/-- The unfolding slot that it gives. -/
def payloadUnfold (i : Instr) (pay : List Byte) : Unfold :=
  match fieldsOf i with
  | .x o =>
    let k := (o.ha != 0).toNat + (o.hb != 0).toNat
    if o.unf == 0 then Unfold.reset else Unfold.ofWords (recWord pay (16 * k)) (recWord pay (16 * k + 8))
  | _ => Unfold.reset

/-- The entry that a primary entry's bytes and its continuations hold, in queue q counting from 0: an instruction that forwarding admits, with legal
shapes (03 R54, R57; 05 R95). -/
def parseEntry (q : Nat) (srkey : Word) (schk : Bool) (b : List Byte) : Option Entry :=
  match decode (recWord b 0) with
  | none => none
  | some i =>
    let isVoid := (recNat b 29 1).testBit 0
    let n := recNat b 28 1
    let pay := (List.range n).flatMap fun k => (b.drop (32 * (k + 1))).take 24
    let opc : Word := match fieldsOf i with
      | .v _ => match i with | .vrng _ => 0 | _ => srkey
      | .n o => if o.sc == 0 then 0 else recWord pay 0
      | _ => 0
    if queuesTo i != some q || !i.fieldsOk || n + 1 != entriesFor i isVoid || !(isVoid || (payloadShapes i pay).all Shape.legal) then none
    else some { instr := i, isVoid := isVoid, opa := recWord b 8, opb := recWord b 16, opc := if isVoid then 0 else opc
                epochs := if isVoid then [] else ((b.drop 24).take 4).take (opersOf i).length
                shapes := if isVoid then [] else payloadShapes i pay, unf := payloadUnfold i pay, fills := [], schk := schk, iaddr := 0
                born := if q == 1 then 1 else 0 }

/-- The entries of a queue, from bytes in order from the head. -/
def parseEntries (q : Nat) (srkey : Word) (schk : Bool) : Nat → List Byte → Option (List Entry)
  | 0, b => if b.isEmpty then some [] else none
  | fuel + 1, b =>
    if b.isEmpty then some []
    else
      match parseEntry q srkey schk b with
      | none => none
      | some e => if b.length < 32 * e.size then none else (parseEntries q srkey schk fuel (b.drop (32 * e.size))).map (e :: ·)

/-- The bytes of queue q's entries in order, from an image. -/
def imageQueue (b : List Byte) (q : Nat) : List Byte :=
  let d := imageDepths b
  let base := segStart d q
  let n := max 1 (d.toList.getD q 0).toNat
  let head := recNat b (3840 + 16 * q) 2
  (List.range (recNat b (3844 + 16 * q) 1)).flatMap fun k => (b.drop (8192 + 32 * (base + (head - base + k) % n))).take 32

/-- The queues of an image, where every entry is one. -/
def imageQueues (b : List Byte) : Option (List (List Entry)) :=
  (List.range 5).mapM fun q => parseEntries q (recWord b 560) (bit (recWord b 512) 0) 256 (imageQueue b q)

/-- Step 5: the body is legal. -/
def imageBodyOk (b : List Byte) : Bool := imageRegsOk b && imageTablesOk b && (imageQueues b).isSome

/-! ## The context of an image -/

/-- An entry takes up what its saved twin kept beside its bytes: the address, the fill shapes and the time of its forwarding. -/
def rejoin (kept parsed : List Entry) : List Entry :=
  parsed.zipIdx.map fun x => match kept[x.2]? with
    | some k => if k.bytes == x.1.bytes then k else x.1
    | none => x.1

/-- The fill shape of a tile's epoch: that of its queued fill, or of the tile. -/
def fillShape (lq : List Entry) (t : Vector Tile 64) (n : BitVec 6) (ep : BitVec 8) : Shape :=
  match lq.find? fun e => e.opers.any fun p => p.1.isTile && p.1.role == .fill && p.1.n == n && p.2 == ep with
  | some e => e.shapes.headD Shape.reset
  | none => (t[n.toNat]'(by omega)).shape

/-- The fill shapes of an entry that has none yet. -/
def refill1 (lq : List Entry) (t : Vector Tile 64) (e : Entry) : Entry :=
  if !e.fills.isEmpty then e
  else { e with fills := (e.opers.filter fun p => p.1.isTile && (p.1.role == .read || p.1.role == .leave)).map fun p => fillShape lq t p.1.n p.2 }

/-- A queue of an image, which has issued and retired nothing since (05 R92). -/
def imageEQueue (b : List Byte) (q : Nat) (kept : EQueue) (es : List Entry) : EQueue :=
  let r := recNat b (3845 + 16 * q) 1 == 1
  { head := recNat b (3840 + 16 * q) 2, entries := es, issued := r, rstart := r, moved := none, last := none, gone := none,
    laid := kept.laid }

/-- The channel buffer of an image: n entries from an oldest index, at a byte offset, tags from bit t. -/
def imageChan (b : List Byte) (n oldest off t : Nat) : List ChanEntry :=
  (List.range n).map fun i =>
    let k := (oldest + i) % 4
    { data := dataOf (b.drop (off + 2048 * k)), tag := BitVec.ofNat 4 (recNat b 3936 4 / 16 ^ (t + k)) }

/-- The bells of an image, with those that rang while the context was saved (17 R361; log entry 18). -/
def imageBells (b : List Byte) (kept : Vector (BitVec 8) 32) : Vector (BitVec 8) 32 :=
  Vector.ofFn fun i => BitVec.ofNat 8 (min 255 (recNat b (584 + i.val) 1 + (kept[i.val]'(by omega)).toNat))

/-- The trap of an image's summary, which the kept record completes. -/
def imageTrap (b : List Byte) (pc : Word) (kept : Option TrapRec) : Option TrapRec :=
  if recNat b 656 1 != 3 then kept
  else
    let t : TrapRec := { cause := BitVec.ofNat 7 (recNat b 664 1), queue := recNat b 665 1, resumable := true, mc := false, secondary := false,
                         code := BitVec.ofNat 16 (recNat b 666 2), pc := pc, iaddr := recWord b 672, vaddr := 0, info := 0 }
    match kept with
    | some k => if k.cause == t.cause && k.queue == t.queue && k.code == t.code && k.iaddr == t.iaddr then some k else some t
    | none => some t

/-- An expectation is open on a register: one hold setter more is outstanding than its queues still hold (17 R349, R356). -/
def Ctx.expectOpen (c : Ctx) (r : BitVec 6) : Bool :=
  let sets (e : Entry) : Bool := e.opers.any fun p => !p.1.isTile && p.1.role == .load && p.1.n == r
  decide ((allQueues.map fun q => ((c.queue q).entries.filter sets).length).sum < ((c.hold r).fepoch - (c.hold r).cepoch).toNat)

/-- The context that a plain image holds, in a slot; c is what the device kept of it (14 R304, R306). -/
def imageCtx (b : List Byte) (p : BindSlot) (c : Ctx) : Ctx :=
  let fl := recNat b 6 2
  let tiles : Vector Tile 64 := Vector.ofFn fun i => Tile.ofBytes b (1280 + 32 * i.val)
  let qs := (imageQueues b).getD []
  let at_ (i : Nat) (kept : EQueue) : List Entry := rejoin kept.entries (qs.getD i [])
  let lq := at_ 0 c.lq
  let queue (i : Nat) (kept : EQueue) : EQueue := imageEQueue b i kept ((at_ i kept).map (refill1 lq tiles))
  let c1 : Ctx := { c with
    s := Vector.ofFn fun i => recWord b (256 + 8 * i.val)
    priv := fl.testBit 3, sealed := fl.testBit 0, bank := p.bank, schk := bit (recWord b 512) 0
    flags := field (recWord b 520) 0 6, rot := Rot.ofWord (recWord b 528), lcnt := recWord b 536, slipd := imageDepths b
    qwdog := field (recWord b 552) 0 32, srkey := recWord b 560, srctr := recWord b 568
    p := Vector.ofFn fun i => (recNat b 576 1).testBit i.val
    bells := imageBells b c.bells
    tags := Vector.ofFn fun i => BitVec.ofNat 4 (recNat b (616 + i.val / 2) 1 / 16 ^ (i.val % 2))
    pc := recWord b 648, trap := imageTrap b (recWord b 648) c.trap
    h := Vector.ofFn fun i => Shape.ofWords (recWord b (768 + 16 * i.val)) (recWord b (776 + 16 * i.val))
    f := Vector.ofFn fun i => Unfold.ofWords (recWord b (1024 + 16 * i.val)) (recWord b (1032 + 16 * i.val))
    t := tiles, holds := Vector.ofFn fun i => Hold.ofWord (recWord b (3328 + 8 * i.val))
    accstat := AccStat.ofWord (recWord b 3920), wdog := recNat b 3928 4, lastTurn := none, rung := [], fresh := [], mqEnded := none
    vprev := imageChan b (recNat b 3932 1) (recNat b 3934 1) 147456 0, vnext := imageChan b (recNat b 3933 1) (recNat b 3935 1) 155648 4
    cycle := recWord b 3944, actno := recWord b 3952
    m := Vector.ofFn fun i => BitVec.ofNat 4096 (recNat b (4096 + 512 * i.val) 512)
    lq := queue 0 c.lq, sq := queue 1 c.sq, aq := queue 2 c.aq, mq := queue 3 c.mq, nq := queue 4 c.nq
    v := Vector.ofFn fun i => dataOf (b.drop (16384 + 2048 * i.val))
    acc := if fl.testBit 1 then BitVec.ofNat 524288 (recNat b 163840 65536) else 0
    hasAcc := fl.testBit 1, hasChan := fl.testBit 2, reqfeat := recWord b 40, abext := recNat b 16 4, wbext := recNat b 20 4
    abOrigin := p.abOrigin, wbOrigin := p.wbOrigin, keyslot := recNat b 48 2, savectr := BitVec.ofNat 32 (recNat b 52 4)
    launch := recWord b 24
    coord := { c.coord with cluster := BitVec.ofNat 5 p.cluster, core := BitVec.ofNat 6 p.core, stage := BitVec.ofNat 4 (recNat b 37 1) } }
  { c1 with
    holds := Vector.ofFn fun i =>
      let h := c1.holds[i.val]
      { h with readers := BitVec.ofNat 8 (c1.othersAt 0 (BitVec.ofNat 6 i.val) h.cepoch) }
    expects := (List.range 64).filterMap fun n =>
      let r := BitVec.ofNat 6 n
      if c1.expectOpen r then some ((c.expects.find? (·.reg == r)).getD ⟨r, 0⟩) else none }

end Sys2Proof.Machine
end

