-- ==== Sys2Proof/Machine/Contexts.lean ====
section
/-! DEFINITION. Contexts: EXIT (06 R144; 02 R37), bank switches and YIELD (14 R300, R315), saves and restores of cohorts (14 R301 to
R303, R306, R313, R314; 16 R331), and the instructions CTXST, CTXLD and SNAPR (14 R311 to R316). -/

namespace Sys2Proof.Machine

/-! ## EXIT (06 R144; 02 R37) -/

/-- EXIT takes effect: the activation's task ends, and the member exits. -/
def State.exitEffect (s : State) (status : BitVec 16) : State :=
  let s1 := (s.event s.cx 2 2).endTask 0x02
  s1.memberGone s1.cx 1 status.toNat 0

/-- EXIT (06 R144): it waits until every queue is empty and every operation has completed. -/
def execExit (o : SI) (s : State) : Host.Outcome State Fault Refusal :=
  s.run (.exit o) (s.cx.guard o.pg o.pn) fun s =>
    let n : BitVec 16 := field o.imm24 0 16
    if s.cx.allQuiet then .last (s.exitEffect n) else ({ s with cx := { s.cx with exiting := some n } } : State).waitFor .drain

/-- The current context waits at EXIT, its queues are quiet, and no trap waits for its boundary, which comes first (06 R144; 17 R361). -/
def Ctx.exitReady (c : Ctx) : Bool := c.isRunning && c.allQuiet && c.exiting.isSome && c.after.isEmpty

/-- A context whose EXIT waits exits, where its queues are quiet (02 R37); it is the current one then. -/
def State.takeExit (s : State) (c : CtxRef) : State :=
  match s.focus c with
  | none => s
  | some s1 => match s1.cx.exiting with
    | some n => if s1.cx.exitReady then s1.exitEffect n else s
    | none => s

/-- EXIT_TAKES_EFFECT (02 R37). -/
def execExitTakesEffect (c : CtxRef) (s : State) : Host.Outcome State Fault Refusal := .next (s.takeExit c)

/-! ## Work on a context that is not the current one -/

/-- The current context after work on another is the one before it, where it is still there. -/
def State.withCtx (s : State) (r : CtxRef) (f : State → State) : State :=
  match s.focus r with
  | none => s
  | some s1 =>
    let s2 := f s1
    if s.cx.life == .unbound then s2
    else match s2.focus s.cx.ref with
      | some s3 => s3
      | none => s2

/-! ## Bank switches (14 R300, R315) -/

/-- The current context leaves the active bank of its core: it drains, and is inactive unless an operation traps it in the drain. One that a
page fault has stopped drains as the fault asks (02 R48). -/
def State.leaveActive (s : State) : State :=
  let s1 := s.drain (s.cx.life == .faulted)
  { s1 with cx := if s1.cx.life == .running then { s1.cx with life := .inactive } else s1.cx }

/-- The contexts of a core that run or have stopped, but for one, drain, and one that runs becomes inactive (14 R300). -/
def State.standDown (s : State) (c : Ctx) : State :=
  (s.ctxs.filter fun x => x.sameCore c && (x.life == .running || x.life == .faulted || x.life == .trapped) && !x.is c.ref).foldl (fun s x => s.withCtx x.ref State.leaveActive) s

/-- The bank of a context becomes the active one of its core. -/
def State.activate (s : State) (r : CtxRef) : State :=
  match s.findCtx r with
  | none => s
  | some c => if !c.resident then s else (s.standDown c).modCtx r fun x => if x.life == .inactive then x.activated else x

/-- BANK_SWITCH: a decision of the management core (14 R300; 02 R34). A stopped context does not run. -/
def execBankSwitch (c : CtxRef) (s : State) : Host.Outcome State Fault Refusal :=
  .next (match s.findCtx c with
    | some x => if s.isStopped x && x.life == .inactive then s else s.activate c
    | none => s)

/-- A context has work for its bank: it is inactive, or idle with a message or a task (14 R315). -/
def State.hasWork (s : State) (c : Ctx) : Bool :=
  !s.isStopped c && (c.life == .inactive ||
    (c.life == .idle && (!c.inbox.isEmpty || !c.runList.isEmpty || (s.runBlockOf c).elim false fun b => b.count != 0)))

/-- A context with work becomes active where its core runs none, or where the one that runs has had its time: a ready one goes on, an idle one starts
its activation (02 R36, R49; log entry 49). -/
def State.bankTurn (s : State) (c : Ctx) : State :=
  let go (s : State) : State := if c.life == .idle then (s.standDown c).withCtx c.ref State.chooseNext else s.activate c.ref
  match s.ctxs.find? fun x => x.sameCore c && x.life == .running with
  | none => if c.life == .idle then s else s.modCtx c.ref Ctx.activated
  | some x => if x.since + Config.quantum ≤ x.clk then go s else s

/-- A context's bank may be given to it: it is ready, or idle with work. -/
def State.wantsBank (s : State) (c : Ctx) : Bool := c.isReady || (c.life == .idle && s.hasWork c)

/-- Every context with work runs in finite time: the management core's switches (02 R36, R49; 14 R300). -/
def State.bankTurns (s : State) : State :=
  (s.ctxs.filter fun c => s.wantsBank c && !s.isStopped c && !s.isFrozen c).foldl
    (fun s c => match s.findCtx c.ref with
      | some x => if s.wantsBank x then s.bankTurn x else s
      | none => s) s

/-- The context of the core's other bank that YIELD lets run. -/
def State.yieldTo (s : State) : Option Ctx := s.others.find? fun c => c.sameCore s.cx && c.resident && s.hasWork c

/-- YIELD's switch, after which the context goes on at the next word: the engines drain, the context becomes inactive, and the other runs or
starts its activation. -/
def State.yieldTurn (s : State) (c : Ctx) : State :=
  let s1 := ({ s with cx := { s.cx with pc := s.after } } : State).leaveActive
  if c.life == .inactive then s1.modCtx c.ref Ctx.activated else s1.withCtx c.ref State.chooseNext

/-- YIELD (14 R315). -/
def execYield (o : SI) (s : State) : Host.Outcome State Fault Refusal :=
  s.run (.yield o) (s.cx.guard o.pg o.pn) fun s =>
    match s.yieldTo with
    | none => .next s s.after
    | some c => .last (s.yieldTurn c)

/-! ## Saving (14 R301 to R303) -/

/-- The hardware run list goes back in front of the ring (16 R331). -/
def State.spillRun (s : State) (c : Ctx) : State :=
  match s.runBlockOf c with
  | none => s
  | some b =>
    let n := c.runList.length
    let head := (b.head + 2 ^ 64 - n) % 2 ^ 64
    let s1 := c.runList.zipIdx.foldl (fun s x => s.agentPut c.space (b.slot (head + x.2)) x.1) s
    (s1.putRun c 16 head).modCtx c.ref fun x => { x with runList := [] }

/-- The current context stops at its boundary and its engines quiesce (14 R301); the rings of what completed are counted. -/
def State.quiesce (s : State) : State :=
  let s1 := s.drain true true true
  let c := { s1.cx with exiting := none, outside := .none, held := none, watch := none, slip := none, nq := { s1.cx.nq with issued := false } }
  ({ s1 with cx := c.addRings } : State).spillRun s1.cx

/-- Members of a cohort that a bank holds, in order. -/
def State.membersOf (s : State) (n : BitVec 32) : List Nat :=
  (List.range 64).filter fun m => (s.findCtx ⟨n, m⟩).elim false Ctx.resident

/-- Bytes written as an image: alignment, a fault or a poisoned line fails it before any byte is written. -/
def State.writeImage (s : State) (sp : Space) (a : Word) (bs : List Byte) : Except (BitVec 7) State :=
  if !aligned a 256 then .error 0x24 else s.recordWrite sp a bs

/-- The image of a member is made and written: the state, and the cause or 0. -/
def State.saveMember (s : State) (c : Ctx) (sp : Space) (a : Word) : State × BitVec 7 :=
  match s.makeImage c with
  | (s1, .error e) => (s1, e)
  | (s1, .ok bs) =>
    match s1.writeImage sp a bs with
    | .error e => (s1, e)
    | .ok s2 => (s2, 0)

/-- The images of members in order: the state, and the cause and member of the first failure. -/
def State.saveMembers (s : State) (n : BitVec 32) (sp : Space) (addr : Nat → Except (BitVec 7) Word) :
    List Nat → State × Option (BitVec 7 × Nat)
  | [] => (s, none)
  | m :: rest =>
    match s.findCtx ⟨n, m⟩ with
    | none => s.saveMembers n sp addr rest
    | some c =>
      let (s1, e) := match addr m with
        | .error e => (s, e)
        | .ok a => s.saveMember c sp a
      if e == 0 then s1.saveMembers n sp addr rest else (s1, some (e, m))

/-- The completion word of a save descriptor (14 R311). -/
def transferWord (cause : BitVec 7) (member count : Nat) : Word := bitAt true 63 ||| place cause 56 ||| at' member 50 ||| at' count 0

/-- A transfer leaves the list, its completion word written where a descriptor asked for it. -/
def State.endTransfer (s : State) (t : Transfer) (w : Word) : State :=
  let s1 := { s with transfers := s.transfers.filter fun x => x.name != t.name || x.isRestore != t.isRestore }
  match t.desc with
  | none => s1
  | some (a, sp) => s1.agentPut sp a w

/-- A transfer of a list is replaced. -/
def State.putTransfer (s : State) (t : Transfer) : State :=
  { s with transfers := s.transfers.map fun x => if x.name == t.name && x.isRestore == t.isRestore then t else x }

/-- The messages of an inbox as deferred entries. -/
def Ctx.inboxEntries (c : Ctx) : List Arrival := c.inbox.flatMap fun m => deferEntries m.arr m.bytes

/-- A member's image is written: its bank is free, its basin entries are in the image, its inbox heads the deferred list (14 R298, R299,
R303; 17 R356; 23 R455). The rings of its bells are counted from here. -/
def State.leaveBank (s : State) (r : CtxRef) (imageAt : Option Word := none) : State :=
  let (s1, n) := s.dropBasin r.cohort r.member
  s1.modCtx r fun x =>
    { x with life := .saved, inbox := [], bells := Vector.replicate 32 0, basinSaved := n, savedIdle := x.life == .idle, imageAt := imageAt }

/-- A save's images are all written. -/
def State.saveWritten (s : State) (t : Transfer) (members : List Nat) : State :=
  let ctxs := members.filterMap fun m => s.findCtx ⟨t.name, m⟩
  let s1 := members.foldl (fun s m => s.leaveBank ⟨t.name, m⟩ ((t.images.find? (·.1 == m)).map Prod.snd)) s
  let s2 := s1.modDir t.name fun d => { d with deferred := ctxs.flatMap Ctx.inboxEntries ++ d.deferred }
  (s2.releaseUnits t.name).putTransfer
    { t with written := true, slots := (ctxs.filter (·.sealed)).map Ctx.keyslot, count := members.length }

/-- The image address of member m; a word of the descriptor that cannot be read gives its own cause (14 R303, R311). -/
def Transfer.addr (t : Transfer) (s : State) (m : Nat) : Except (BitVec 7) Word :=
  match t.desc with
  | none => ((t.images.find? (·.1 == m)).map Prod.snd).elim (.error 0x43) .ok
  | some (a, sp) => (s.agentRead sp (a + BitVec.ofNat 64 (8 + 8 * m)) 8).map fun x => recWord x.2 0

/-- The space in which a transfer's images lie: the management core's own are at device physical addresses (log entry 18). -/
def Transfer.space (t : Transfer) : Space := (t.desc.map Prod.snd).getD ⟨0, none⟩

/-- A save runs (14 R301): the cohort is saving, every member stops and quiesces, and the images are written; a failure leaves the members
resident (R303). A cohort whose last member has exited meanwhile is not saved (R302; log entry 18). -/
def State.runSave (s : State) (t : Transfer) : State :=
  let members := s.membersOf t.name
  if t.written then s
  else if members.isEmpty then s.endTransfer t (transferWord 0 0 0)
  else
    let s0 := s.modDir t.name fun d => { d with state := .saving }
    let s1 := members.foldl (fun s m => s.withCtx ⟨t.name, m⟩ State.quiesce) s0
    match s1.saveMembers t.name t.space (t.addr s1) members with
    | (s2, some (e, m)) => (s2.modDir t.name fun d => { d with state := .resident }).endTransfer t (transferWord e m 0)
    | (s2, none) => s2.saveWritten t members

/-- A transfer of a cohort is under way. -/
def State.transferOf (s : State) (n : BitVec 32) (restore : Bool) : Option Transfer :=
  s.transfers.find? fun t => t.name == n && t.isRestore == restore

/-- A save of a resident cohort is requested: it starts once the events of its cycle have taken effect (02 R38; 17 R359). -/
def State.beginSave (s : State) (n : BitVec 32) (desc : Option (Word × Space)) (images : List (Nat × Word)) : State :=
  let t : Transfer := { name := n, desc := desc, images := images, place := none, isRestore := false, written := false, slots := [], count := 0,
                        plains := [], handed := false }
  { s with transfers := s.transfers ++ [t] }

/-- The cohort can be saved: it is resident here. -/
def State.savable (s : State) (n : BitVec 32) : Bool :=
  !(s.membersOf n).isEmpty &&
    (nameHome n != s.node ||
      match s.lookup n with
      | .current d => d.state == .resident && d.node == s.node
      | .retired _ | .stale | .invalid => false)

/-- The other cohorts of a COLOC launch that are pre-empted with one of it: those that can be saved (21 R419). -/
def State.fellows (s : State) (n : BitVec 32) : List (BitVec 32) :=
  ((s.launches.filter fun l => l.coloc && l.cohorts.any (·.name == n)).flatMap fun l => l.cohorts.map LCohort.name).filter fun m =>
    m != n && s.savable m && !s.transfers.any (·.name == m)

/-- The save's completion: LIVE of its slots clears, the cohort is saved, the completion word is written (14 R303, R309). -/
def State.saveDone (s : State) (n : BitVec 32) : State :=
  match s.transferOf n false with
  | none => s
  | some t =>
    if !t.written then s
    else
      (((s.setLive t.slots false).modDir n fun d => { d with state := .saved }).endTransfer t (transferWord 0 0 t.count))

/-- SAVE_DONE (14 R303). -/
def execSaveDone (name : BitVec 32) (s : State) : Host.Outcome State Fault Refusal := .next (s.saveDone name)

/-! ## Restoring (14 R306) -/

/-- An image is read. -/
def State.readCtxImage (s : State) (sp : Space) (a : Word) : Except (BitVec 7) (List Byte) :=
  if !aligned a 256 then .error 0x24
  else
    match s.agentRead sp a 256 with
    | .error e => .error e
    | .ok (_, hd) =>
      let n := recNat hd 8 8
      if n < 256 || 640000 < n then .ok hd
      else match s.agentRead sp a n with
        | .error e => .error e
        | .ok (_, bs) => .ok bs

/-- The cohort of a name is saved, or the management core (mgmt) restores it where it moves to (14 R306; 17 R345). One of another home is saved where
its members that are here are. -/
def State.restorable (s : State) (mgmt : Bool) (n : BitVec 32) : Bool :=
  if nameHome n != s.node then true
  else match s.lookup n with
    | .current d => d.state == .saved || (mgmt && (d.state == .migrating || d.node != s.node))
    | .retired _ | .stale | .invalid => false

/-- Step 2 for one image b, first being the cohort's first image: the same COHORT, LAUNCH and STAGE, its own MEMBER, and a cohort that may be
restored and whose member is saved. -/
def State.sameCohort (s : State) (mgmt : Bool) (first : List Byte) (m : Nat) (b : List Byte) : Bool :=
  let n := BitVec.ofNat 32 (recNat b 32 4)
  (b.drop 24).take 12 == (first.drop 24).take 12 && recNat b 37 1 == recNat first 37 1 && recNat b 36 1 == m && s.restorable mgmt n &&
    (s.findCtx ⟨n, m⟩).elim false fun c => c.life == .saved

/-- The images of a restore are read, each with step 1: their bytes, or the cause and the member of the first failure. -/
def State.readImages (s : State) (sp : Space) : List (Nat × Word) → Except (BitVec 7 × Nat) (List (Nat × List Byte))
  | [] => .ok []
  | (m, a) :: rest =>
    match s.readCtxImage sp a with
    | .error e => .error (e, m)
    | .ok b =>
      if b.length < 256 || !imageHeadOk b || b.length != recNat b 8 8 then .error (0x43, m)
      else (s.readImages sp rest).map ((m, b) :: ·)

/-- Members of a cohort that were saved, in order. -/
def State.savedOf (s : State) (n : BitVec 32) : List Nat :=
  (List.range 64).filter fun m => (s.findCtx ⟨n, m⟩).elim false fun c => c.life == .saved

/-- A refused restore: its word, and a migrating cohort saved again (17 R345); what another package handed over is dropped. -/
def State.refuseRestore (s : State) (t : Transfer) (cause : BitVec 7) (m : Nat) : State :=
  let s1 := if t.handed then
      { s with others := s.others.filter fun c => !(c.cohort == t.name && c.life == .saved), guests := s.guests.filter (·.name != t.name) }
    else s
  (s1.modDir t.name fun d => if d.state == .migrating then { d with state := .saved, moveTo := none } else d).endTransfer t
    (transferWord cause m 0)

/-- Steps 2 to 5 of a restore, each on every image (14 R306): the plain images, or the cause and the member of the first failure. -/
def State.checkImages (s : State) (mgmt : Bool) (bs : List (Nat × List Byte)) : Except (BitVec 7 × Nat) (List (Nat × List Byte)) :=
  let first := (bs.headD (0, [])).2
  match bs.find? fun x => !s.sameCohort mgmt first x.1 x.2 with
  | some x => .error (0x43, x.1)
  | none =>
    match (s.savedOf (BitVec.ofNat 32 (recNat first 32 4))).find? fun m => !(bs.any (·.1 == m)) with
    | some m => .error (0x43, m)
    | none =>
      match bs.find? fun x => !s.counterOk x.2 with
      | some x => .error (0x4E, x.1)
      | none =>
        match bs.find? fun x => (s.unsealImage x.2).isNone with
        | some x => .error (0x4F, x.1)
        | none =>
          let ps := bs.filterMap fun x => (s.unsealImage x.2).map (x.1, ·)
          match ps.find? fun x => !imageBodyOk x.2 with
          | some x => .error (0x43, x.1)
          | none => .ok ps

/-- The images of a restore are read and checked. -/
def State.acceptRestore (s : State) (t : Transfer) : State :=
  if t.written then s
  else
    match (s.readImages t.space t.images).bind (s.checkImages t.desc.isNone) with
    | .error (e, m) => s.refuseRestore t e m
    | .ok ps => s.putTransfer { t with written := true, plains := ps }

/-- One member is loaded into its slot. -/
def State.loadMember (s : State) (n : BitVec 32) (m : Nat) (b : List Byte) (p : BindSlot) : State :=
  match s.findCtx ⟨n, m⟩ with
  | none => s
  | some c =>
    let x := imageCtx b p c
    let acc := (recNat b 6 2).testBit 1
    let nb := recNat b 38 1
    let ext := imageExt acc nb
    let mem := Memory.write (Memory.write s.mem (scratchKey p.cluster p.core 0 p.abOrigin) ((b.drop ext).take x.abext))
      (scratchKey p.cluster p.core 1 p.wbOrigin) ((b.drop (ext + x.abext)).take x.wbext)
    let basin := (imageBasin b).map fun y => (⟨p.cluster, p.core, Arrival.ofBytes y⟩ : BasinEntry)
    let busy := s.ctxs.any fun y => y.sameCore x && y.life == .running && !y.is x.ref
    let life := lifeOf (recNat b 656 1)
    let s1 : State := { s.modCtx x.ref fun _ => { x with life := if life == .running then .inactive else life } with mem := mem, basins := s.basins ++ basin }
    let s2 := s1.refill x.ref 64
    if life == .running && busy then s2
    else (s2.activate x.ref).modCtx x.ref fun y => s2.ready y

/-- An accepted restore is loaded into banks (14 R306, R309; 17 R348, R356); another home then delivers its deferred list. -/
def State.loadCohort (s : State) (t : Transfer) (slots : List BindSlot) : State :=
  let cl := (slots.headD ⟨0, 0, false, 0, 0⟩).cluster
  let keys := (t.plains.filter fun p => imageSealed p.2).map fun p => recNat p.2 48 2
  let s1 := (t.plains.zip slots).foldl (fun s x => s.loadMember t.name x.1.1 x.1.2 x.2) s
  let s2 := (s1.setLive keys true).modDir t.name fun d =>
    { d with state := .resident, node := s.node, cluster := cl, draining := !d.deferred.isEmpty, moveTo := none }
  let s3 := { s2 with guests := s2.guests.map fun (g : Guest) => if g.name == t.name then { g with draining := true } else g }
  (s3.endTransfer t (transferWord 0 0 t.plains.length)).drainDeferred t.name 4096

/-- What an image needs of its core (02 R32): REQFEAT, and the feature whose absence trapped it (14 R307). -/
def State.imageDemand (s : State) (b : List Byte) : Demand :=
  let missing : Word := if recNat b 656 1 == 3 && recNat b 664 1 == 3 then bitAt true (recNat b 666 2) else 0
  { req := recWord b 40 ||| missing, ab := recNat b 16 4, wb := recNat b 20 4, acc := (recNat b 6 2).testBit 1, chan := (recNat b 6 2).testBit 2
    binding := (s.launchOf (recWord b 24)).bind Launch.binding }

/-- A slot takes a member of a restore: quay cores for a launch that targets them and for no other (02 R32), and room in the core's basin for the
entries of the image (17 R350; log entry 18). -/
def State.slotTakes (s : State) (n : BitVec 32) (m : Nat) (b : List Byte) (p : BindSlot) : Bool :=
  (s.findCtx ⟨n, m⟩).all (fun c => c.isQuay == (p.cluster == 24)) && s.basinCount p.cluster p.core + recNat b 38 1 ≤ 16

/-- No cohort of a lower stage of the launch is pending on this package, nor its accepted restore (02 R28; 14 R314). -/
def State.restoreReady (s : State) (t : Transfer) : Bool :=
  let low (l : Launch) : Bool := match l.cohorts.find? (·.name == t.name) with
    | none => true
    | some c => s.stageReady l c && l.cohorts.all fun x => c.stage.toNat ≤ x.stage.toNat ||
        !s.transfers.any fun u => u.name == x.name && u.isRestore && u.written
  s.launches.all fun l => low l

/-- The slots of a restore meet R32 and its placement. -/
def State.restoreFits (s : State) (t : Transfer) (slots : List BindSlot) : Bool :=
  match t.plains with
  | [] => false
  | (_, b) :: _ =>
    s.slotsOk (t.plains.map Prod.fst) slots (s.imageDemand b) &&
      (t.plains.zip slots).all (fun x => s.slotOk x.2 (s.imageDemand x.1.2) && s.slotTakes t.name x.1.1 x.1.2 x.2) && slots.all fun p => t.place.elim true (· == p.cluster)

/-- The clusters and cores among which a restore is placed: those it names, or any; a quay cohort's are the four of one port (02 R32; 14 R314). -/
def Transfer.places (t : Transfer) (quay : Bool) : List (Nat × List Nat) :=
  if quay then (List.range 6).map fun p => (24, (List.range 4).map (4 * p + ·))
  else (t.place.elim (List.range 24) fun c => [c]).map fun k => (k, coresOf k)

/-- Slots for an accepted restore, where enough are free (02 R49; log entry 49). -/
def State.restoreSlots (s : State) (t : Transfer) : Option (List BindSlot) :=
  match t.plains with
  | [] => none
  | (m0, b) :: _ =>
    let quay := (s.findCtx ⟨t.name, m0⟩).any Ctx.isQuay
    (t.places quay).findSome? fun p =>
      (s.slotsIn (s.imageDemand b) (t.plains.map Prod.fst) p.1 p.2 fun m q =>
        (t.plains.find? (·.1 == m)).any fun x => s.slotTakes t.name m x.2 q).filter (s.restoreFits t)

/-- Every accepted restore is loaded in finite time where enough cores meet R32: it waits as a pending cohort does (02 R49; 14 R314). -/
def State.restorePending (s : State) : State :=
  (s.transfers.filter fun t => t.isRestore && t.written).foldl (fun s t =>
    if !s.restoreReady t then s else match s.restoreSlots t with
      | some slots => s.loadCohort t slots
      | none => s) s

/-- The contexts of a cohort that another package hands over, before their images are loaded (02 R35; log entry 20). -/
def State.adopt (s : State) (n : BitVec 32) (h : HandedCohort) : State :=
  let ctx (m : Nat) : Ctx :=
    { Ctx.reset with
      life := .saved, cohort := n, nmem := h.nmem, asid := h.asid, root := h.root, heapBase := h.heapBase, heapSize := h.heapSize
      runBlock := h.blocks + BitVec.ofNat 64 (64 * m)
      coord := { Ctx.reset.coord with node := BitVec.ofNat 9 s.node, cluster := if h.quay then 24 else 0, member := BitVec.ofNat 6 m } }
  let guest : Guest := { name := n, regs := h.regs, peers := h.peers, draining := false }
  let s1 := s.modDir n fun d => { d with regs := h.regs }
  { s1 with others := s1.others ++ h.members.map ctx, guests := if nameHome n == s.node then s1.guests else guest :: s1.guests.filter (·.name != n) }

/-- A cohort of this name may come from another package: no context of it is here, and its home is another node, or knows it elsewhere; one saved here
is restored as any other. -/
def State.comesHere (s : State) (n : BitVec 32) : Bool :=
  !(s.ctxs.any fun c => c.cohort == n && c.life != .exited) && (nameHome n != s.node || (s.dirOf n).any fun d => d.node != s.node)

/-- The management core's own restore begins. -/
def State.beginRestore (s : State) (r : RestoreRequest) : State :=
  let t : Transfer := { name := r.name, desc := none, images := r.images, place := none, isRestore := true, written := false, slots := [],
                        count := 0, plains := [], handed := false }
  match r.handed with
  | none => if (s.dirOf r.name).isNone && (s.savedOf r.name).isEmpty then s else ({ s with transfers := s.transfers ++ [t] } : State).acceptRestore t
  | some h =>
    if !s.comesHere r.name then s
    else
      let t1 := { t with handed := true }
      ({ s.adopt r.name h with transfers := s.transfers ++ [t1] } : State).acceptRestore t1

/-- COHORT_RESTORE: the restore that a CTXLD requested is loaded into these slots, or the management core's own runs. -/
def execCohortRestore (r : RestoreRequest) (s : State) : Host.Outcome State Fault Refusal :=
  .next (
    let s1 := match s.transferOf r.name true with
      | some t => s.acceptRestore t
      | none => if (s.transferOf r.name false).isSome then s else s.beginRestore r
    match s1.transferOf r.name true with
    | some t => if t.written && s1.restoreReady t && s1.restoreFits t r.slots then s1.loadCohort t r.slots else s1
    | none => s1)

/-- COHORT_MIGRATION: the management core starts to move a saved cohort's images; while it is migrating, the event with another package's node
says that the restore there has succeeded: its contexts leave this one, and its deferred list is delivered there. A saved cohort of another home
leaves at once (02 R35; 17 R345, R348; log entry 20). -/
def execCohortMigration (name : BitVec 32) (node : Nat) (cluster : Nat) (s : State) : Host.Outcome State Fault Refusal :=
  let leave (s : State) : State :=
    { s with others := s.others.filter fun c => !(c.cohort == name && c.life == .saved), guests := s.guests.filter (·.name != name) }
  .next (if s.transfers.any (·.name == name) || !s.inPod node then s else match s.dirOf name with
    | none => if nameHome name != s.node && node != s.node && !(s.savedOf name).isEmpty then leave s else s
    | some d =>
      if d.state == .saved && d.node == s.node then s.modDir name fun d => { d with state := .migrating, moveTo := some (node, cluster) }
      else if d.state == .migrating && node != s.node then
        (leave (s.modDir name fun d =>
          { d with state := .resident, node := node, cluster := cluster, moveTo := none, draining := !d.deferred.isEmpty })).drainDeferred name 4096
      else s)

/-! ## CTXST, CTXLD and SNAPR (14 R312 to R316) -/

/-- A save descriptor is checked: the state and its bytes (14 R311). -/
def State.withDesc (s : State) (k : Access) (body : State → List Byte → Done) : SR → Done := fun o =>
  let a := s.cx.sreg o.sa
  if !aligned a 8 then s.stopTrap 0x24 a
  else
    match s.access (some 0) a.toNat 520 k true with
    | .fail f => s.stopFail f
    | .ok s1 gs => if segsPoisoned s1.poison gs then s.stopTrap 0x25 a else body s1 (readSegs s1.mem gs)

/-- The result of an SR instruction goes to sd. -/
def State.setSd (s : State) (o : SR) (x : Word) : Done := s.set (s.cx.setSreg o.sd x)

/-- Status of CTXST (14 R313). -/
def State.ctxstStatus (s : State) (n : BitVec 32) : Nat :=
  if n == s.cx.cohort then 3
  else if s.transfers.any (·.name == n) then 1
  else if s.savable n then 0
  else 2

/-- CTXST (14 R313). -/
def execCtxst (o : SR) (s : State) : Host.Outcome State Fault Refusal :=
  s.run (.ctxst o) (s.cx.guard o.pg o.pn) fun s =>
    s.withDesc .store (fun s1 _ =>
      let n : BitVec 32 := field (s1.cx.sreg o.sb) 0 32
      let st := s1.ctxstStatus n
      let s2 := if st == 0 then s1.beginSave n (some (s1.cx.sreg o.sa, s1.cx.space)) [] else s1
      s2.setSd o (BitVec.ofNat 64 st)) o

/-- The members that a descriptor names, with their images. -/
def descImages (bs : List Byte) : List (Nat × Word) :=
  (List.range 64).filterMap fun m => if recWord bs (8 + 8 * m) == 0 then none else some (m, recWord bs (8 + 8 * m))

/-- The cohort that the first image of a descriptor names; 0 where it cannot be read. -/
def State.descName (s : State) (images : List (Nat × Word)) : BitVec 32 :=
  match images with
  | [] => 0
  | (_, a) :: _ => match s.agentRead s.cx.space a 256 with
    | .ok (_, hd) => BitVec.ofNat 32 (recNat hd 32 4)
    | .error _ => 0

/-- A transfer of this cohort, or one whose images lie where these do, is under way. -/
def State.transferring (s : State) (name : BitVec 32) (images : List (Nat × Word)) : Bool :=
  s.transfers.any fun t => (name != 0 && t.name == name) ||
    (t.space == s.cx.space && images.any fun x => match t.addr s x.1 with
      | .ok a => a == x.2
      | .error _ => false)

/-- Status of CTXLD (14 R314). -/
def State.ctxldStatus (s : State) (images : List (Nat × Word)) (place : Word) : Nat :=
  if 24 < place.toNat || images.isEmpty then 4
  else if s.transferring (s.descName images) images then 1
  else 0

/-- CTXLD (14 R314). -/
def execCtxld (o : SR) (s : State) : Host.Outcome State Fault Refusal :=
  s.run (.ctxld o) (s.cx.guard o.pg o.pn) fun s =>
    s.withDesc .load (fun s1 bs =>
      let images := descImages bs
      let p := s1.cx.sreg o.sb
      let st := s1.ctxldStatus images p
      let t : Transfer := { name := s1.descName images, desc := some (s1.cx.sreg o.sa, s1.cx.space), images := images,
                            place := if p == 0 then none else some (p.toNat - 1), isRestore := true, written := false, slots := [], count := 0,
                            plains := [], handed := false }
      let s2 := if st == 0 then { s1 with transfers := s1.transfers ++ [t] } else s1
      s2.setSd o (BitVec.ofNat 64 st)) o

/-- SNAPR (14 R316). -/
def execSnapr (o : SR) (s : State) : Host.Outcome State Fault Refusal :=
  s.run (.snapr o) (s.cx.guard o.pg o.pn) fun s =>
    let n := (s.cx.sreg o.sa).toNat
    if n % 8 != 0 || n < 256 || 16383 < n then s.stopTrap 0x02
    else s.setSd o (recWord (s.cx.imageRegs s.cx.pc) (n - 256))

end Sys2Proof.Machine
end

