-- ==== Sys2Proof/Machine/Flits.lean ====
section
/-! DEFINITION. What travels on a fabric link: flits and their CRC (23 R444), packets in flits (R445) and their encryption (R451). Numbers of
several bytes are little-endian; CRC-32 and AES-256-GCM are as their standards define them (log entries 5 and 54). -/

namespace Sys2Proof.Machine

/-! ## Flits (23 R444) -/

/-- One byte's share of a CRC-32: n bits of it. -/
def crcBits (c : BitVec 32) : Nat → BitVec 32
  | 0 => c
  | n + 1 => crcBits ((c >>> 1) ^^^ (if bit c 0 then 0xEDB88320 else 0)) n

/-- CRC-32 with the polynomial of IEEE 802.3. -/
def crc32 (bs : List Byte) : BitVec 32 := ~~~ bs.foldl (fun c b => crcBits (c ^^^ b.setWidth 32) 8) 0xFFFFFFFF

/-- A flit has 256 bytes and passes CRC. -/
def flitIntact (f : List Byte) : Bool := f.length == 256 && f.drop 252 == leBytes 4 (crc32 (f.take 252)).toNat

/-- PSEQ of a flit. -/
def flitPseq (f : List Byte) : Nat := recNat f 0 3

/-- The flit's index in its packet, 0xF for a control flit. -/
def flitIndex (f : List Byte) : Nat := recNat f 3 1 % 16

/-- LAST: the flit ends its packet. -/
def flitLast (f : List Byte) : Bool := (recNat f 3 1).testBit 4

/-- KP, the key phase of the flit's packet. -/
def flitPhase (f : List Byte) : Bool := (recNat f 3 1).testBit 5

/-- VC of the flit. -/
def flitVc (f : List Byte) : Bool := (recNat f 7 1).testBit 5

/-- BODY of a flit. -/
def flitBody (f : List Byte) : List Byte := (f.drop 8).take 244

/-- The flits are those of one packet, in their order: one PSEQ, one KP, each its index, and LAST on the last alone. -/
def flitsFollow (fs : List (List Byte)) : Bool :=
  !fs.isEmpty && fs.zipIdx.all fun x =>
    flitIndex x.1 == x.2 && flitLast x.1 == (x.2 + 1 == fs.length) && flitPseq x.1 == flitPseq (fs.headD []) &&
      flitPhase x.1 == flitPhase (fs.headD [])

/-- A control flit. -/
def flitControl (f : List Byte) : Bool := flitIndex f == 15

/-! ## Packets (23 R445, R451) -/

/-- The message header of 64 bytes. -/
def headerOf (b : List Byte) : MsgHeader :=
  { dest := recNat b 0 2, src := recNat b 2 2, cls := BitVec.ofNat 2 (recNat b 4 1), rel := (recNat b 5 1).testBit 0
    scope := BitVec.ofNat 3 (recNat b 5 1 / 2), len := recNat b 6 2, handler := recWord b 8, name := BitVec.ofNat 32 (recNat b 16 4)
    member := recNat b 20 1, reg := recNat b 21 1, slot := recNat b 22 2, tag := recWord b 24, arg0 := recWord b 32, arg1 := recWord b 40
    arg2 := recWord b 48, arg3 := recWord b 56 }

/-- The nonce of a packet: EPOCH, PSEQ, a zero, the sending package, its port and KP (23 R451). -/
def linkNonce (epoch pseq node port : Nat) (kp : Bool) : List Byte :=
  leBytes 4 epoch ++ leBytes 3 pseq ++ [0] ++ leBytes 2 node ++ [BitVec.ofNat 8 port, BitVec.ofNat 8 kp.toNat]

/-- A packet's bytes on the link: header and payload encrypted, and the tag. -/
def sealPacket (key : BitVec 256) (nonce : List Byte) (h : MsgHeader) (payload : List Byte) : List Byte :=
  let ct := gcmCrypt key nonce (headerBytes h ++ payload)
  ct ++ gcmTag key nonce [] ct

/-- The packet of these body bytes and this many flits; none where LEN does not fit them or the tag does not verify. -/
def openPacket (key : BitVec 256) (nonce : List Byte) (flits : Nat) (body : List Byte) : Option (MsgHeader × List Byte) :=
  let h := headerOf (gcmCrypt key nonce (body.take 64))
  let n := 64 + h.len
  if h.len ≤ 2048 && flitsOf h.len == flits && gcmTag key nonce [] (body.take n) == (body.drop n).take 16 then
    some (h, (gcmCrypt key nonce (body.take n)).drop 64)
  else none

/-- The flit with a head and a body, filled with zeros, and its CRC. ctl: CTL. -/
def flitOf (pseq index : Nat) (last kp : Bool) (ackseq ctl : Nat) (body : List Byte) : List Byte :=
  let f := leBytes 3 pseq ++ [BitVec.ofNat 8 (index + 16 * last.toNat + 32 * kp.toNat)] ++ leBytes 3 ackseq ++ [BitVec.ofNat 8 ctl] ++ body ++
    List.replicate (244 - body.length) 0
  f ++ leBytes 4 (crc32 f).toNat

/-- The key of a phase. -/
def Port.keyOf (p : Port) (phase : Bool) : Option (BitVec 256) := if phase then p.key1 else p.key0

/-- A retained packet as this package's port sends it: its ciphertext is the same each time (23 R446), and ACKSEQ is the number expected. -/
def Port.wire (p : Port) (node port : Nat) (x : Sent) : List (List Byte) :=
  match p.keyOf x.kp with
  | none => []
  | some key =>
    let body := blocksOf 244 (sealPacket key (linkNonce x.epoch x.pseq node port x.kp) x.hdr x.payload)
    body.zipIdx.map fun b =>
      flitOf x.pseq b.2 (b.2 + 1 == body.length) x.kp (p.expected % 2 ^ 24) (1 + 8 * x.hdr.cls.toNat + 32 * x.vc.toNat) b.1

/-! ## What arrives -/

/-- The node at the far end of a port's link. -/
def State.farNode (s : State) (port : Nat) : Nat :=
  let step (x n : Nat) : Nat := if port % 2 == 0 then (x + 1) % n else (x + n - 1) % n
  let x := if port / 2 == 0 then step (s.node % 8) s.dx else s.node % 8
  let y := if port / 2 == 1 then step (s.node / 8 % 8) s.dy else s.node / 8 % 8
  let z := if port / 2 == 2 then step (s.node / 64) s.dz else s.node / 64
  x + 8 * y + 64 * z

/-- The port at the far end of a port's link: the opposite direction. -/
def farPort (port : Nat) : Nat := if port % 2 == 0 then port + 1 else port - 1

/-- EPOCH of the next expected packet of a phase: the wraps of PSEQ, this packet's own included (23 R451). -/
def Port.nextEpoch (p : Port) (phase : Bool) : Nat :=
  (if phase then p.rxEpoch1 else p.rxEpoch0) + (if p.expected % 2 ^ 24 == 0 && p.expected != 0 then 1 else 0)

/-- The next expected packet, of a phase, is accepted. -/
def Port.accepted (p : Port) (phase : Bool) : Port :=
  { p with expected := p.expected + 1, rxEpoch0 := if phase then p.rxEpoch0 else p.nextEpoch false,
           rxEpoch1 := if phase then p.nextEpoch true else p.rxEpoch1 }

/-- The packet of these flits under the port's key, as the next expected one. -/
def State.openFlits (s : State) (n : Nat) (fs : List (List Byte)) : Option (MsgHeader × List Byte) :=
  let p := s.portAt n
  let kp := flitPhase (fs.headD [])
  match p.keyOf kp with
  | none => none
  | some key => openPacket key (linkNonce (p.nextEpoch kp) (p.expected % 2 ^ 24) (s.farNode n) (farPort n) kp) fs.length (fs.flatMap flitBody)

end Sys2Proof.Machine
end

