-- ==== Sys2Proof/Machine/Links.lean ====
section
/-! DEFINITION. The fabric ports and the host link: link states, replay and keys (23 R446 to R453), packets as they arrive (23 R454),
what other packages and the host ask of this package's memory (12 R250, R252; 23 R465 to R467), and the pod (23 R440). -/

namespace Sys2Proof.Machine

/-! ## Logs and failures (23 R450) -/

/-- A link event in the bank of its port; severity 1 corrected, 2 contained. -/
def State.linkEvent (s : State) (n : Nat) (sev : BitVec 2) (synd : Nat) : State :=
  s.machineCheck (1796 + n) { sev := sev, cls := 0x77, synd := BitVec.ofNat 16 synd, addr := some (s.portAt n).ack, info := none }

/-- The outcome of an operation whose packet cannot be delivered: the flight that awaits an answer, or the copy, fails (23 R450, R453, R463). -/
def State.failSent (s : State) (x : Sent) (cause : BitVec 7) : State :=
  let mine (f : Flight) : Bool := f.away && f.origin == x.origin && match f.load with
    | .arrival a bytes => a.header x.hdr.dest s.node bytes == x.hdr
    | .load _ _ | .store _ _ | .atomic _ _ _ _ _ | .packet _ _ _ _ => false
  match x.origin, s.flights.find? mine with
  | .copy num, _ => s.breakCopy num cause
  | _, some f => match f.load with
    | .arrival a _ => ({ s with flights := s.flights.erase f } : State).outcome a f.origin 3 cause
    | .load _ _ | .store _ _ | .atomic _ _ _ _ _ | .packet _ _ _ _ => s
  | _, none => s

/-- Every packet retained at a port fails with a cause. -/
def State.failRetained (s : State) (n : Nat) (cause : BitVec 7) : State :=
  (s.portAt n).replay.foldl (fun s x => s.failSent x cause) (s.setPort n { s.portAt n with replay := [] })

/-- A link enters FAILED (23 R450). -/
def State.failPort (s : State) (n : Nat) : State :=
  let s1 := s.setPort n { s.portAt n with state := .failed, width := 3, lanesel := 0 }
  (s1.linkEvent n 2 0).failRetained n 0x58

/-! ## Training (23 R447, R448) -/

/-- The lanes of a quarter are intact. -/
def quarterOk (mask : BitVec 16) (q : Nat) : Bool := field mask (4 * q) 4 == (0 : BitVec 4)

/-- Width and lane selection for a set of failed lanes; none where no quarter is intact (23 R448). -/
def trainWidth (mask : BitVec 16) : Option (BitVec 2 × BitVec 2) :=
  if mask == 0 then some (0, 0)
  else if quarterOk mask 0 && quarterOk mask 1 then some (1, 0)
  else if quarterOk mask 2 && quarterOk mask 3 then some (1, 1)
  else ((List.range 4).find? (quarterOk mask)).map fun q => (2, BitVec.ofNat 2 q)

/-- The distance from one sequence number to another, modulo 2^24. -/
def seqGap (a b : Nat) : Nat := (b + 2 ^ 24 - a % 2 ^ 24) % 2 ^ 24

/-- Packets below an acknowledged number leave the replay buffer (23 R446). -/
def Port.acked (p : Port) (seq : Nat) : Port :=
  { p with ack := seq % 2 ^ 24, replay := p.replay.filter fun x => seqGap seq x.pseq < 2 ^ 23 }

/-- A phase slot is zeroised. -/
def Port.zeroise (p : Port) (phase : Bool) : Port := if phase then { p with key1 := none } else { p with key0 := none }

/-- A control flit leaves a port: no packet and no sequence number, the number expected, and the credits that its buffers have free again (23 R444,
R446; log entry 13). -/
def Port.tell (p : Port) (nak retire : Bool) : Port :=
  { p with control := flitOf 0 15 false false (p.expected % 2 ^ 24) (1 + 2 * nak.toNat + 4 * retire.toNat) (Config.creditBody p.grants.toList) :: p.control
           grants := Vector.replicate 6 0 }

/-- A rotation is over, as neither end sends under the old phase any more: the old slot is zeroised, and OLDV clears (23 R452). -/
def Port.endRotation (p : Port) : Port :=
  if p.oldv && p.retireDue && p.farRetired then { p.zeroise (!p.kp) with oldv := false, retireDue := false, resent := none, farRetired := false } else p

/-- Every packet sent under the old phase has been acknowledged, and what a NAK had resent: RETIRE is sent (23 R452, R468). -/
def Port.noteRetire (p : Port) : Port :=
  if p.oldv && !p.retireDue && p.replay.all (fun x => x.kp == p.kp && some x.pseq != p.resent) then
    (({ p with retireDue := true, resent := none } : Port).tell false true).endRotation
  else p.endRotation

/-- A NAK comes before RETIRE, which is sent again once the resent packets are acknowledged (23 R468). -/
def Port.retireAgain (p : Port) : Port :=
  if p.oldv && p.retireDue then { p with retireDue := false, resent := p.replay.getLast?.map Sent.pseq } else p

/-- The fabric manager or software asks for training (23 R447). -/
def State.train (s : State) (n : Nat) : State := s.setPort n { s.portAt n with state := .train, trainingAt := s.time }

/-- TRAINING_REQUEST: the fabric manager asks a DOWN port to train. -/
def execTrainingRequest (port : Nat) (s : State) : Host.Outcome State Fault Refusal :=
  .next (if (s.portAt port).state == .down && s.unitServes 2 port then s.train port else s)

/-- Packets below an acknowledged number leave the replay buffer; a copy's unit among them has reached its package (23 R446, R463). -/
def State.dropAcked (s : State) (port : Nat) (seq : Nat) : State :=
  let p := s.portAt port
  (p.replay.filter fun x => !decide (seqGap seq x.pseq < 2 ^ 23)).foldl State.landUnit (s.setPort port (p.acked seq).noteRetire)

/-- LINK_TRAINED: training ends at the width of R448; after RETRAIN, within its 20 µs, the far end's expected number starts the replay. The retrain
and the replay are logged (23 R447, R450). -/
def execLinkTrained (port : Nat) (seq : Nat) (s : State) : Host.Outcome State Fault Refusal :=
  let p := s.portAt port
  .next (match p.state with
    | .train => match trainWidth p.failmask with
      | none => s.failPort port
      | some (w, l) => s.setPort port { p with state := .up, width := w, lanesel := l }
    | .retrain => match trainWidth p.failmask with
      | none => s.failPort port
      | some (w, l) =>
        if p.trainingAt + 20000 * 756 < s.time then s.failPort port
        else (((s.setPort port ({ p with state := .replay, width := w, lanesel := l } : Port)).linkEvent port 1 0).linkEvent port 1 0).dropAcked port seq
    | .down | .up | .replay | .failed | .fenced => s)

/-- RETRAIN_TIMEOUT: 20 µs of RETRAIN pass (23 R447). -/
def execRetrainTimeout (port : Nat) (s : State) : Host.Outcome State Fault Refusal :=
  .next (if (s.portAt port).state == .retrain && (s.portAt port).trainingAt + 20000 * 756 ≤ s.time then s.failPort port else s)

/-- LANE_FAILURE: the lane stays failed; a link in use retrains (23 R447, R448). -/
def execLaneFailure (port : Nat) (lane : Nat) (s : State) : Host.Outcome State Fault Refusal :=
  let p := s.portAt port
  .next (if 16 ≤ lane then s
    else
      let p1 := { p with failmask := p.failmask ||| (1 <<< lane) }
      match p.state with
      | .up | .replay => (s.setPort port { p1 with state := .retrain, trainingAt := s.time }).linkEvent port 1 lane
      | .down | .train | .retrain | .failed | .fenced => (s.setPort port p1).linkEvent port 1 lane)

/-! ## Acknowledgement and replay (23 R446, R447) -/

/-- The acknowledged number advances. -/
def State.takeAck (s : State) (port : Nat) (seq : Nat) : State := s.dropAcked port seq

/-- The replay starts from the number that a NAK carries. -/
def State.takeNak (s : State) (port : Nat) (seq : Nat) : State :=
  let s1 := s.dropAcked port seq
  let p := s1.portAt port
  let s2 := s1.setPort port p.retireAgain.noteRetire
  if p.state == .up then (s2.setPort port { s2.portAt port with state := .replay }).linkEvent port 1 0 else s2

/-- ACK_RECEIVE: an acknowledgement, or the number of a training exchange. -/
def execAckReceive (port : Nat) (seq : Nat) (s : State) : Host.Outcome State Fault Refusal := .next (s.takeAck port seq)

/-- NAK_RECEIVE. -/
def execNakReceive (port : Nat) (seq : Nat) (s : State) : Host.Outcome State Fault Refusal := .next (s.takeNak port seq)

/-- REPLAY_DONE: the last retained packet is resent. -/
def execReplayDone (port : Nat) (s : State) : Host.Outcome State Fault Refusal :=
  .next (if (s.portAt port).state == .replay then s.setPort port { s.portAt port with state := .up } else s)

/-- CREDIT_RECEIVE: the receiver grants flits of a class and channel (23 R442). -/
def execCreditReceive (port : Nat) (cls : Nat) (vc : Nat) (n : Nat) (s : State) : Host.Outcome State Fault Refusal :=
  let p := s.portAt port
  let i := 2 * cls + vc
  .next (if h : i < 6 then (if cls < 3 && vc < 2 then s.setPort port { p with credits := p.credits.set i (p.credits[i] + n) } else s) else s)

/-! ## Keys (23 R451 to R453) -/

/-- A key is installed in a phase slot: its EPOCH is 0, and the other phase's install asks for a rotation. -/
def Port.install (p : Port) (phase : Bool) (key : BitVec 256) : Port :=
  let p1 := if phase then { p with key1 := some key, epoch1 := 0, rxEpoch1 := 0 } else { p with key0 := some key, epoch0 := 0, rxEpoch0 := 0 }
  if phase == p.kp then p1 else { p1 with switchDue := true }

/-- KEY_PHASE_SWITCH: at a packet boundary of a link in use (23 R452, R468). -/
def execKeyPhaseSwitch (port : Nat) (s : State) : Host.Outcome State Fault Refusal :=
  let p := s.portAt port
  let there := if p.kp then p.key0.isSome else p.key1.isSome
  .next (if p.switchDue && !p.oldv && there && p.state == .up then
      s.setPort port ({ p with kp := !p.kp, oldv := p.keyed, switchDue := false, farRetired := p.farRetired && p.keyed } : Port).noteRetire
    else s)

/-- RETIRE arrives during a rotation: the receiver zeroises the old slot, and OLDV clears, once its own packets need that slot no more (23 R452;
log entry 40). -/
def State.takeRetire (s : State) (port : Nat) : State :=
  let p := s.portAt port
  if p.oldv || p.switchDue then s.setPort port ({ p with farRetired := true } : Port).endRotation else s

/-- RETIRE_RECEIVE. -/
def execRetireReceive (port : Nat) (s : State) : Host.Outcome State Fault Refusal := .next (s.takeRetire port)

/-- Both key slots of a port are zeroised, and its retained packets fail with cause 0x59 (23 R453, R468). -/
def State.withdraw (s : State) (n : Nat) : State :=
  (s.setPort n { s.portAt n with key0 := none, key1 := none, oldv := false, retireDue := false, resent := none, farRetired := false, switchDue := false }).failRetained n 0x59

/-- PARTITION_DISSOLVE. -/
def execPartitionDissolve (ports : List Nat) (s : State) : Host.Outcome State Fault Refusal :=
  .next ((ports.filter (· < 6)).foldl State.withdraw s)

/-! ## Routing (23 R440, R443) -/

/-- DETOUR_INSTALL: the order of the dimensions for one destination, which that route reaches again (12 R251). -/
def execDetourInstall (dest : Nat) (order : DimOrder) (s : State) : Host.Outcome State Fault Refusal :=
  .next { s with detours := (dest, order) :: s.detours.filter (·.1 != dest), lost := s.lost.filter (· != dest) }

/-- The links in use to packages that have stopped enter FAILED (26 R484; 23 R450). -/
def State.failFacing (s : State) : State :=
  (List.range 6).foldl (fun s p => match (s.portAt p).state with
    | .up | .retrain | .replay => if s.lost.contains (s.facing p) then s.failPort p else s
    | .down | .train | .failed | .fenced => s) s

/-- POD_FORMATION: the fabric manager sets the dimensions, this package's node within them, and which nodes are absent, stopped or cut off (12
R251). -/
def execPodFormation (dx : Nat) (dy : Nat) (dz : Nat) (place : PodPlace) (s : State) : Host.Outcome State Fault Refusal :=
  let s1 := { s with dx := dx, dy := dy, dz := dz, node := place.node, lost := place.lost }
  .next (if 1 ≤ dx && dx ≤ 8 && 1 ≤ dy && dy ≤ 8 && 1 ≤ dz && dz ≤ 5 && s1.inPod place.node then s1.failFacing else s)

/-! ## Packets that arrive (23 R446, R454) -/

/-- A response reaches the operation that awaits it: the oldest one sent under the same header fields (log entry 13). A busy answer makes its sender's port
try again (17 R353), and one to an arrival that was only forwarded goes on to its sender; the sender's port caches the location that a home gives (17
R347). -/
def State.respondTo (s : State) (h : MsgHeader) : State :=
  let mine (f : Flight) : Bool := f.away && match f.load with
    | .arrival a bytes =>
      let g := a.header h.src s.node bytes
      g.handler == h.handler && g.name == h.name && g.member == h.member && g.reg == h.reg && g.tag == h.tag
    | .load _ _ | .store _ _ | .atomic _ _ _ _ _ | .packet _ _ _ _ => false
  match s.flights.findIdx? mine with
  | none => s
  | some k => match s.flights[k]? with
    | some ⟨.arrival a bytes, o, busy, _, _, _, _⟩ =>
      let s1 := if h.arg1 == 0 then s else s.locate o a.name (h.arg1.toNat - 1)
      if bit h.arg0 63 then (s1.dropFlight k).outcome a o (field h.arg0 0 8).toNat (field h.arg0 56 7)
      else s1.busyAnswer k a bytes o busy
    | _ => s

/-- Block updates of another package enter the block queue of the port at which they arrive (23 R462). -/
def State.takeBlocks (s : State) (n : Nat) (h : MsgHeader) (payload : List Byte) (o : Origin) : State :=
  let f : BitVec 4 := field h.arg1 0 4
  let key := devKey s.node (field h.arg0 0 52).toNat
  let refuse (cause : BitVec 7) : State := s.respond h.src h (statusWord 2 cause) []
  match s.quayFor n 0 with
  | none => refuse 0x58
  | some _ =>
    if segsPoisoned s.poison [(key, payload.length)] then refuse 0x25
    else
      let units := (unitsOf (redBytes f) (segKeys [(key, payload.length)])).zip (unitsOf (redBytes f) payload)
      { s with serial := s.serial + 1,
               blocks := s.blocks ++ units.zipIdx.map fun u =>
                 { quay := (s.quayFor n u.2).getD 0, op := s.serial, fmt := f, keys := u.1.1, src := u.1.2 }
               reductions := s.reductions ++
                 [{ op := s.serial, origin := o, space := ⟨0, none⟩, compl := 0, written := 1, cause := 0, all := false }] }

/-- The arrival that a request packet carries. -/
def packetArrival (h : MsgHeader) (kind : Nat) (payload : List Byte) : Arrival :=
  { name := h.name, member := h.member, reg := h.reg, rows := if kind == 1 then field h.arg0 0 8 else 0, tag := if kind == 1 then field h.arg0 8 4 else 0,
    kind := kind, rel := h.rel, scope := h.scope, seq := 0, sender := h.tag, stataddr := if kind == 1 then h.arg1 else 0, stamp := 0
    record := if kind == 4 then h.handler else if kind == 1 then 0 else h.arg0
    value := if kind == 4 then h.len else if kind == 1 then 0 else h.arg1.toNat, data := if kind == 1 then dataOf payload else 0 }

/-- A packet for this node reaches its handler (23 R454). n: the port at which it arrived. A register store with the tag 0xF, which no register
holds (03 R54), fails with cause 0x54 (log entry 48), and a load whose answer would be longer than a response with cause 0x5A (23 R445; log entry
13). -/
def State.deliverPacket (s : State) (n : Nat) (h : MsgHeader) (payload : List Byte) : State :=
  let o : Origin := .node h.src h.tag
  let pa := (field h.arg0 0 52).toNat
  let k := (h.handler - builtIn 0).toNat
  if h.cls == 1 then s.respondTo h
  else if h.handler < builtIn 0 then s.launchFlight (.arrival (packetArrival h 4 payload) (headerBytes h ++ payload)) o n
  else if k == 0x00 && 160 < (field h.arg1 0 12).toNat then s.respond h.src h (statusWord 3 0x5A) []
  else if k == 0x00 then s.launchFlight (.load pa (field h.arg1 0 12).toNat) o n
  else if k == 0x08 then s.launchFlight (.store pa payload) o n
  else if k == 0x10 then s.launchFlight (.atomic pa (field h.arg1 0 4) (bit h.arg1 8) h.arg2 h.arg3) o n
  else if k == 0x18 && field h.arg0 8 4 == (0xF : BitVec 4) then s.respond h.src h (statusWord 3 0x54) []
  else if k == 0x18 then s.launchFlight (.arrival (packetArrival h 1 payload) []) o n
  else if k == 0x20 then s.launchFlight (.arrival (packetArrival h 3 payload) []) o n
  else if k == 0x28 then s.launchFlight (.arrival (packetArrival h 2 payload) []) o n
  else if k == 0x30 then s.takeBlocks n h payload o
  else s.respond h.src h (statusWord 3 0x5A) []

/-- A packet is accepted: it is delivered, or goes on to its next link, the channel and the dimension of its arrival being kept. -/
def State.acceptPacket (s : State) (n : Nat) (vc : Bool) (h : MsgHeader) (payload : List Byte) : State :=
  if h.dest == s.node then s.deliverPacket n h payload else s.launchFlight (.packet h payload vc (n / 2)) .none n

/-- The flits of a packet that has left a port's buffer for its class and channel are free again (23 R442). -/
def State.freeFlits (s : State) (n : Nat) (vc : Bool) (h : MsgHeader) (payload : List Byte) : State :=
  let p := s.portAt n
  let i := 2 * h.cls.toNat + vc.toNat
  s.setPort n (if hi : i < 6 then { p with grants := p.grants.set i (p.grants[i] + flitsOf payload.length) } else p)

/-- A control flit acknowledges at a port (23 R446). -/
def State.acknowledge (s : State) (n : Nat) : State := s.setPort n ((s.portAt n).tell false false)

/-- Ports with credits to grant, and in use, grant them (23 R442, R444). -/
def State.grantCredits (s : State) : State :=
  (List.range 6).foldl (fun s n =>
    let p := s.portAt n
    if (p.state == .up || p.state == .replay) && p.grants.toList.any (· != 0) then s.acknowledge n else s) s

/-- A flit or a packet is discarded, and a NAK is sent with the number expected (23 R446). -/
def State.oweNak (s : State) (n : Nat) : State :=
  s.setPort n (({ s.portAt n with naks := (s.portAt n).naks + 1 } : Port).tell true false)

/-- What CTL of an intact flit says to the opposite direction: ACKV, NAK, RETIRE (23 R444). -/
def State.takeCtl (s : State) (n : Nat) (f : List Byte) : State :=
  let ctl := recNat f 7 1
  let s1 := if ctl.testBit 1 then s.takeNak n (recNat f 4 3) else if ctl.testBit 0 then s.takeAck n (recNat f 4 3) else s
  if ctl.testBit 2 then s1.takeRetire n else s1

/-- Intact flits reach a port: those of the next expected packet, whose tag verifies, are accepted and acknowledged; those of a packet below it are a
duplicate, acknowledged again; a control flit carries no packet; any other is discarded (23 R444, R446). -/
def State.takeFlits (s : State) (n : Nat) (fs : List (List Byte)) : State :=
  let p := s.portAt n
  let f := fs.headD []
  if fs.all flitControl then s
  else if !flitsFollow fs then s.oweNak n
  else if flitPseq f != p.expected % 2 ^ 24 && seqGap (flitPseq f) (p.expected % 2 ^ 24) < 2 ^ 23 then s.acknowledge n
  else if flitPseq f != p.expected % 2 ^ 24 then s.oweNak n
  else match s.openFlits n fs with
  | none => s.oweNak n
  | some (h, payload) =>
    let s1 := s.setPort n (p.accepted (flitPhase f))
    ((if h.dest == s.node then s1.freeFlits n (flitVc f) h payload else s1).acknowledge n).acceptPacket n (flitVc f) h payload

/-- PACKET_RECEIVE: flits arrive on a port in UP or REPLAY. Where one fails CRC, or is to fail as injected, they are discarded. -/
def execPacketReceive (port : Nat) (flits : List (List Byte)) (s : State) : Host.Outcome State Fault Refusal :=
  let fails := s.injected (1796 + port)
  let s := if fails then (s.clearInj (1796 + port)).linkEvent port 2 0 else s
  let q := s.portAt port
  .next (if q.state != .up && q.state != .replay then s
    else if fails || !flits.all flitIntact then s.oweNak port
    else (flits.foldl (fun s f => s.takeCtl port f) s).takeFlits port flits)

/-- An earlier packet from the same node to the same node in the same class waits (23 R442). -/
def behindPacket (fs : List Flight) (h : MsgHeader) : Bool :=
  fs.any fun f => match f.load with
    | .packet g _ _ _ => g.src == h.src && g.dest == h.dest && g.cls == h.cls
    | .arrival _ _ | .load _ _ | .store _ _ | .atomic _ _ _ _ _ => false

/-- The k-th flight is a packet that waits for its port: it goes, or where its route meets a port out of service it is not sent, and its operation fails
(23 R443). A packet in transit then leaves the buffer of the port at which it arrived. -/
def State.carryFlight (s : State) (k : Nat) : State :=
  match s.flights[k]? with
  | some ⟨.packet h payload vc dim, o, _, _, _, _, n⟩ =>
    let free (s : State) : State := if dim < 3 then s.freeFlits n vc h payload else s
    if behindPacket (s.flights.take k) h then s
    else match s.carry h payload o vc dim with
    | .gone s1 => free (s1.dropFlight k)
    | .waits => s
    | .failed cause => (free (s.dropFlight k)).failSent ⟨0, false, 0, vc, h, payload, o⟩ cause
  | _ => s

/-! ## What other packages ask of this package's memory (23 R454; 12 R252) -/

/-- The k-th flight is performed at the home slice. -/
def State.performRemote (s : State) (k : Nat) : State :=
  let answer (s : State) (o : Origin) (n : Nat) (w : Word) (bs : List Byte) : State := match o with
    | .node src tag => s.respond src (atomicHeader s.node src n tag) w bs
    | .none | .link _ _ | .ctx _ _ _ _ _ _ | .copy _ | .deferred => s
  match s.flights[k]? with
  | some ⟨.load pa n, o, _, _, _, _, _⟩ =>
    let key := devKey s.node pa
    let s1 := s.dropFlight k
    if segsPoisoned s.poison [(key, n)] then answer s1 o 0 (statusWord 3 0x25) []
    else if let some (_, a) := s.sliceFault 0 [(key, n)] then answer (s1.sliceCheck a none) o 0 (statusWord 3 0x25) []
    else answer (s1.recallSegs [(key, n)]) o 0 (statusWord 0 0) (Memory.read s.mem key n)
  | some ⟨.store pa bs, o, _, _, _, _, _⟩ =>
    let key := devKey s.node pa
    let s1 := s.dropFlight k
    answer (s1.homeWrite [(key, bs.length)] bs true) o 8 (statusWord 0 0) []
  | some ⟨.atomic pa op double x y, o, _, _, _, _, _⟩ =>
    let key := devKey s.node pa
    let w := if double then 64 else 32
    let s1 := s.dropFlight k
    let who : Word := match o with
      | .node _ tag => (tag &&& ~~~(0x3FFFFFFFF : Word)) ||| at' 1 31
      | .none | .link _ _ | .ctx _ _ _ _ _ _ | .copy _ | .deferred => at' 1 31
    if segsPoisoned s.poison [(key, w / 8)] then answer (s1.poisonRecord key true who) o 0x10 (statusWord 3 0x25) []
    else if let some (_, a) := s.sliceFault 0 [(key, w / 8)] then answer (s1.sliceCheck a (some who)) o 0x10 (statusWord 3 0x25) []
    else
      let old := leNat (Memory.read s.mem key (w / 8))
      let new := if op == 0xF then (if old == x.toNat % 2 ^ w then y.toNat % 2 ^ w else old) else atomicOp op w old (x.toNat % 2 ^ w)
      answer ((s1.homeWrite [(key, w / 8)] (leBytes (w / 8) new)).noteIf (isFadd op) [(key, w / 8)]) o 0x10 (statusWord 0 0) (leBytes (w / 8) old)
  | _ => s

/-- The k-th flight asks for a load, a store or an atomic. -/
def State.remoteKind (s : State) (k : Nat) : Nat :=
  match s.flights[k]? with
  | some f => match f.load with
    | .load _ _ => 1
    | .store _ _ => 2
    | .atomic _ _ _ _ _ => 3
    | .arrival _ _ | .packet _ _ _ _ => 0
  | none => 0

/-- REMOTE_LOAD (23 R454). -/
def execRemoteLoad (k : Nat) (s : State) : Host.Outcome State Fault Refusal := .next (if s.remoteKind k == 1 then s.performRemote k else s)

/-- REMOTE_STORE (23 R454). -/
def execRemoteStore (k : Nat) (s : State) : Host.Outcome State Fault Refusal := .next (if s.remoteKind k == 2 then s.performRemote k else s)

/-- REMOTE_ATOMIC (12 R252). -/
def execRemoteAtomic (k : Nat) (s : State) : Host.Outcome State Fault Refusal := .next (if s.remoteKind k == 3 then s.performRemote k else s)

/-! ## The host (23 R465, R467) -/

/-- HOST_MEMORY_ACCESS: the host reads or writes device memory, keeping the line in its own caches (12 R250), unless the line's home slice fails the
read (26 R482). A store that covers a whole line clears its poison (log entry 35). -/
def execHostMemoryAccess (pa : Nat) (access : HostAccess) (s : State) : Host.Outcome State Fault Refusal :=
  let key := devKey s.node pa
  .next (match access with
    | .load n => match s.sliceFault 0 [(key, n)] with
      | some (_, a) => s.sliceCheck a none
      | none => (segsLines [(key, n)]).foldl (fun s k => s.noteRead 25 k) s
    | .store bs =>
      if bs.isEmpty then s
      else
        let s1 := (segsLines [(key, bs.length)]).foldl (fun s k => s.noteWrite 25 k) s
        { s1 with mem := Memory.write s1.mem key bs, poison := clearPoison s1.poison [(key, bs.length)] })

/-- HOST_ATOMIC: an atomic of the host at the line's home slice, after recalling any copy (12 R252; 23 R465). -/
def execHostAtomic (pa : Nat) (op : BitVec 4) (double : Bool) (x : Word) (s : State) : Host.Outcome State Fault Refusal :=
  let key := devKey s.node pa
  let w := if double then 64 else 32
  .next (if segsPoisoned s.poison [(key, w / 8)] then s.poisonRecord key true (at' s.node 55)
    else if let some (_, a) := s.sliceFault 0 [(key, w / 8)] then s.sliceCheck a (some (at' s.node 55))
    else { s.noteRecall key with
      mem := Memory.write s.mem key (leBytes (w / 8) (atomicOp op w (leNat (Memory.read s.mem key (w / 8))) (x.toNat % 2 ^ w))) })

/-- HOST_SNOOP: a host line that the device caches is surrendered, wholly or to be shared; nothing makes the answer wait (23 R467). -/
def execHostSnoop (line : Nat) (exclusive : Bool) (s : State) : Host.Outcome State Fault Refusal :=
  let l := lineOf (hostKey (line * 128))
  .next (if exclusive then { s with lines := s.lines.filter (·.line != l) }
    else { s with lines := s.lines.map fun d => if d.line == l then
      { d with state := (match d.state with | .m | .o => .o | .e | .s => .s), sharers := d.sharers ||| (1 <<< 25) } else d })

end Sys2Proof.Machine
end

