-- ==== Sys2Proof/Machine/Faults.lean ====
section
/-! DEFINITION. Decisions on traps (26 R475 to R479, R482; 06 R121, R124; 14 R307), machine checks that no instruction raises
(26 R480, R481, R485), and the recesses of benches (10 R220; 26 R485). -/

namespace Sys2Proof.Machine

/-! ## Trap records and handlers (26 R476, R477) -/

/-- FLAGS of a trap record. -/
def TrapRec.flags (r : TrapRec) : Byte := BitVec.ofNat 8 (r.resumable.toNat + 2 * r.mc.toNat + 4 * r.secondary.toNat)

/-- The 64 bytes of a trap record, DECISION pending. -/
def trapBytes (c : Ctx) (r : TrapRec) (seq : Nat) : List Byte :=
  wordBytes c.coord.word ++ leBytes 4 c.cohort.toNat ++ [r.cause.setWidth 8, BitVec.ofNat 8 r.queue, r.flags, 0] ++ leBytes 2 r.code.toNat ++
    List.replicate 6 0 ++ wordBytes r.pc ++ wordBytes r.iaddr ++ wordBytes r.vaddr ++ wordBytes r.info ++ leBytes 4 0 ++ leBytes 4 seq

/-- A handler is replaced. -/
def State.putHandler (s : State) (h : Handler) : State := { s with handlers := s.handlers.map fun x => if x.asid == h.asid then h else x }

/-- The address of the ring slot of a sequence number. -/
def Handler.slotAddr (h : Handler) : Word := h.ring + BitVec.ofNat 64 (64 * (h.seq % max 1 h.slots))

/-- The handler's ring has no free slot: the record in the next one is undecided, and its context has not ended. -/
def State.ringFull (s : State) (h : Handler) : Bool :=
  h.undecided.any fun x => x.2 == h.slotAddr && (s.findCtx x.1).any fun c => c.life == .trapped || c.life == .saved

/-- The message that tells a handler member of a record: ARG0 is its address, and SLOT 0 and TAG 0 are the model's (log entry 23). -/
def State.tellHandler (s : State) (h : Handler) (rec : Word) : State :=
  let a : Arrival := {
    name := h.cohort, member := h.member, reg := 0, rows := 0, tag := 0, kind := 4, rel := true, scope := 6, seq := 0, sender := 0, stataddr := 0
    stamp := 0, record := h.address, value := 0, data := 0 }
  let hd := a.header (nameHome h.cohort) s.node (List.replicate 32 0 ++ wordBytes rec ++ List.replicate 24 0)
  s.launchFlight (.arrival a (headerBytes hd)) .none

/-- The record is appended to the handler's ring and the handler is told; none where the ring is full or cannot be written. -/
def State.appendTrap (s : State) (h : Handler) (c : Ctx) (r : TrapRec) : Option State :=
  if s.ringFull h then none
  else
    match s.agentWrite h.space h.slotAddr (trapBytes c r h.seq) with
    | .error _ => none
    | .ok s1 =>
      some ((s1.putHandler { h with seq := (h.seq + 1) % 2 ^ 32, undecided := (h.undecided.filter (·.2 != h.slotAddr)) ++ [(c.ref, h.slotAddr)] }).tellHandler h h.slotAddr)

/-! ## Decisions (26 R477, R478) -/

/-- A context resumes (06 R124): it runs, unless another context of its core runs, or a stop in force lands at the trap (27 R491). -/
def State.resumeCtx (s : State) (c : Ctx) : State :=
  let busy := s.ctxs.any fun x => x.sameCore c && x.life == .running && !x.is c.ref
  let s1 := s.modCtx c.ref Ctx.resume
  if s.isStopped c then (s1.modCtx c.ref fun x => { x with life := .inactive, stopped := true }).event c 5 0
  else if busy then s1.modCtx c.ref fun x => { x with life := .inactive }
  else s1

/-- A trapped context is terminated with its cause (06 R121). -/
def State.terminateCtx (s : State) (r : CtxRef) (cause : Nat) : State := s.withCtx r fun s => s.terminate cause

/-- Its cohort is saved by the management core (14 R301), or the context is terminated where the cohort cannot be. -/
def State.saveFor (s : State) (c : Ctx) (cause : Nat) : State :=
  if s.transfers.any (·.name == c.cohort) then s
  else if s.savable c.cohort then s.beginSave c.cohort none []
  else s.terminateCtx c.ref cause

/-- A decision noted for a later one on the same instruction or bench. -/
def State.noteRetry (s : State) (c : Ctx) (r : TrapRec) (bench : Option Nat) : State :=
  { s with retries := ⟨c.ref, r.iaddr, bench, s.time⟩ :: s.retries.filter fun x =>
      match bench with
      | some n => x.bench != some n
      | none => x.bench.isSome || x.ctx != c.ref || x.iaddr != r.iaddr }

/-- An earlier decision on the same instruction is noted. -/
def State.retried (s : State) (c : Ctx) (r : TrapRec) : Bool := s.retries.any fun x => x.bench.isNone && x.ctx == c.ref && x.iaddr == r.iaddr

/-- The last checksum mismatch of a bench was within a second (26 R482). -/
def State.benchRetried (s : State) (n : Nat) : Bool := s.retries.any fun x => x.bench == some n && s.time ≤ x.time + 1000000000 * 756

/-- A core in service of the pod holds a mask: one of this package, or of another, which is a free value (14 R307; log entry 41). -/
def State.someCore (s : State) (req : Word) : Bool :=
  ((List.range 192).any fun n => s.benchServes n && req &&& ~~~(s.bench n).features == 0) ||
    ((List.range 24).any fun q => s.quayInService q && req &&& ~~~(0xF8 : Word) == 0) ||
    (decide (1 < s.dx * s.dy * s.dz) && Config.podHasFeature s.free req)

/-- The default for a feature that is absent (14 R307): the cohort is saved to move to cores that have it, and the instruction executes
again there; where none has it, and for a use that the header does not declare, the context is terminated. -/
def State.decideFeature (s : State) (c : Ctx) (r : TrapRec) : State :=
  if bit (s.featuresOf c) r.code.toNat then
    (if s.retried c r then
      ({ s with retries := s.retries.filter fun x => x.bench.isSome || x.ctx != c.ref || x.iaddr != r.iaddr } : State).resumeCtx c
     else s.terminateCtx c.ref 0x03)
  else if s.someCore (c.reqfeat ||| bitAt true r.code.toNat) then (({ s with free := s.free + 1 } : State).noteRetry c r none).saveFor c 0x03
  else s.terminateCtx c.ref 0x03

/-- A bench is to be fenced: it quiesces first (28 R507). -/
def State.fenceBench (s : State) (n : Nat) : State :=
  let b := s.bench n
  match b.state with
  | .inService | .quiescing => s.setBench { b with state := .quiescing, toFence := true, asked := if b.state == .inService then s.time else b.asked }
  | .recess | .fenced | .retired => s

/-- The default for a residue or checksum mismatch (26 R482). -/
def State.decideMismatch (s : State) (c : Ctx) (r : TrapRec) : State :=
  if r.queue == 3 then s.terminateCtx c.ref 0x12
  else if r.queue == 4 then
    let n := c.benchNumber
    if s.benchRetried n then ((s.noteRetry c r (some n)).fenceBench n).saveFor c 0x12
    else (s.noteRetry c r (some n)).resumeCtx c
  else if s.retried c r then s.terminateCtx c.ref 0x12
  else (s.noteRetry c r none).resumeCtx c

/-- The default decision of the table of causes (26 R478, R479). -/
def State.decideDefault (s : State) (c : Ctx) (r : TrapRec) : State :=
  if r.cause == 0x03 then s.decideFeature c r
  else if r.cause == 0x12 then s.decideMismatch c r
  else s.terminateCtx c.ref r.cause.toNat

/-- A handler's decision, read from its record: 0 is pending, and a value that the manual does not name waits too (log entry 23). -/
def State.handlerDecides (s : State) (h : Handler) (c : Ctx) (r : TrapRec) (rec : Word) : State :=
  match s.agentRead h.space (rec + 56) 4 with
  | .error _ => s
  | .ok (s1, bs) =>
    let s2 := s1.putHandler { h with undecided := h.undecided.filter fun x => x != (c.ref, rec) }
    match recNat bs 0 4 with
    | 1 => if r.resumable then s2.resumeCtx c else s2.terminateCtx c.ref r.cause.toNat
    | 2 => s2.terminateCtx c.ref r.cause.toNat
    | 3 => s2.saveFor c r.cause.toNat
    | _ => s

/-- The decision on a trapped context: its handler's, where it has one that is not of its own cohort and whose ring has room, else the
default. None is taken while a save that one asked for is under way. -/
def State.decideTrap (s : State) (c : Ctx) (r : TrapRec) : State :=
  if s.transfers.any (·.name == c.cohort) then s
  else match s.handlers.find? (·.asid == c.asid) with
  | none => s.decideDefault c r
  | some h =>
    match h.undecided.find? (·.1 == c.ref) with
    | some (_, rec) => s.handlerDecides h c r rec
    | none =>
      if h.cohort == c.cohort then s.decideDefault c r
      else (s.appendTrap h c r).getD (s.decideDefault c r)

/-- TRAP_DECISION (26 R477, R478). -/
def execTrapDecision (c : CtxRef) (s : State) : Host.Outcome State Fault Refusal :=
  .next (match s.findCtx c with
    | none => s
    | some x => match x.life, x.trap with
      | .trapped, some r => s.decideTrap x r
      | _, _ => s)

/-! ## Machine checks outside the cores (26 R480, R481, R484) -/

/-- The bank of the memory that holds an address: HBM4E stacks of 64 GiB from address 0, then LPDDR controllers of 256 GiB (01 R17;
the order is the model's: log entry 21). -/
def memoryBank (pa : Nat) : Nat :=
  if pa < 12 * 2 ^ 36 then 1776 + pa / 2 ^ 36 else 1788 + (pa - 12 * 2 ^ 36) / 2 ^ 38 % 8

/-- The line of a physical address is uncorrectable: it is poisoned, and its memory's bank logs it (26 R482; 12 R270). -/
def State.badLine (s : State) (pa bank : Nat) (synd : BitVec 16) : State :=
  let l := lineOf (devKey s.node pa)
  let s1 := s.clearInj bank
  ({ s1 with poison := if s1.poison.contains l then s1.poison else l :: s1.poison } : State).machineCheck bank
    { sev := 2, cls := 0x73, synd := synd, addr := some pa, info := none }

/-- PATROL_SCRUB: a line is checked; an uncorrectable one is poisoned (26 R482; 12 R270). -/
def execPatrolScrub (line : Nat) (bad : Bool) (synd : BitVec 16) (s : State) : Host.Outcome State Fault Refusal :=
  let pa := line * 128
  let bank := memoryBank pa
  .next (if bad || s.injected bank then s.badLine pa bank synd else s)

/-- A write of MCB_STATUS: VAL and OVER clear by a one, CECOUNT takes its value, and clearing VAL clears the record (26 R480). -/
def Mcb.writeStatus (b : Mcb) (w : Word) : Mcb :=
  let spilt := bitAt (bit b.status 62 && !bit w 62) 62
  let ce := place (field w 16 16 : BitVec 16) 16
  if bit w 63 then { b with status := spilt ||| ce, addr := 0, info := 0 }
  else { b with status := (putField b.status 16 (field w 16 16 : BitVec 16) &&& ~~~(bitAt true 62)) ||| spilt }

/-- Banks that exist (26 R480). -/
def bankCount : Nat := 1866

/-- MCB_STATUS_CLEAR. -/
def execMcbStatusClear (bank : Nat) (value : Word) (s : State) : Host.Outcome State Fault Refusal :=
  .next (if bank < bankCount then s.setMcb ((s.mcb bank).writeStatus value) else s)

/-- A check of a unit that an event reports, in its bank: where INJ asks for it, it fails once with severity contained (26 R480, R481). -/
def State.unitCheck (s : State) (bank : Nat) (c : Check) : State :=
  if s.injected bank then (s.clearInj bank).machineCheck bank { c with sev := 2 } else s.machineCheck bank c

/-- HOST_LINK_LOSS: an event of the host link, fatal where the link is lost (26 R481). -/
def execHostLinkLoss (lost : Bool) (synd : BitVec 16) (s : State) : Host.Outcome State Fault Refusal :=
  .next (s.unitCheck 1810 { sev := if lost then 3 else 1, cls := 0x78, synd := synd, addr := none, info := none })

/-- DIE_TO_DIE_LINK_EVENT (26 R481). -/
def execDieToDieLinkEvent (link : Nat) (synd : BitVec 16) (s : State) : Host.Outcome State Fault Refusal :=
  .next (if link < 8 then s.unitCheck (1802 + link) { sev := 1, cls := 0x77, synd := synd, addr := none, info := none } else s)

/-- LOCKSTEP_MISMATCH of the management core pair: fatal (26 R481). -/
def execLockstepMismatch (s : State) : Host.Outcome State Fault Refusal :=
  .next (s.unitCheck 1863 { sev := 3, cls := 0x7C, synd := 0, addr := none, info := none })

/-- SECURITY_BLOCK_FAULT: fatal (26 R481). -/
def execSecurityBlockFault (s : State) : Host.Outcome State Fault Refusal :=
  .next (s.unitCheck 1864 { sev := 3, cls := 0x7D, synd := 0, addr := none, info := none })

/-! ## Recesses (10 R220; 26 R485) -/

/-- A context is resident on a core of a bench. -/
def State.benchHolds (s : State) (n : Nat) : Bool := s.ctxs.any fun c => c.resident && !c.isQuay && c.benchNumber == n

/-- Another bench of the same cluster is in quiescing or recess. -/
def State.clusterRests (s : State) (n : Nat) : Bool :=
  s.benches.any fun b => b.num != n && b.num / 8 == n / 8 && (b.state == .quiescing || b.state == .recess)

/-- A recess of a bench is asked for: a bench in service quiesces, a fenced one is tested at once. -/
def State.askRecess (s : State) (n : Nat) : State :=
  let b := s.bench n
  if s.clusterRests n then s
  else
    match b.state with
    | .inService => s.setBench { b with state := .quiescing, toFence := false, asked := s.time }
    | .fenced => s.setBench { b with state := .recess, wasFenced := true }
    | .quiescing | .recess | .retired => s

/-- A quiescing bench that holds no context enters its recess, or is fenced where that was asked for; not in the cycle in which that was
asked, whose bindings come first (10 R221). -/
def State.endQuiesce (s : State) (n : Nat) : State :=
  let b := s.bench n
  if b.state != .quiescing || s.benchHolds n || s.time ≤ b.asked then s
  else if b.toFence then s.setBench { b with state := .fenced, toFence := false, passed := false }
  else s.setBench { b with state := .recess, wasFenced := false }

/-- RECESS_START: a recess is asked for, or a quiescing bench begins it. -/
def execRecessStart (bench : Nat) (s : State) : Host.Outcome State Fault Refusal :=
  .next (if 192 ≤ bench then s else if (s.bench bench).state == .quiescing then s.endQuiesce bench else s.askRecess bench)

/-- A recess ends: a pass counts in the bench's bank and records nothing; a failure is logged with the failing test, and fences the bench. A
bench tested while it was fenced stays so until it is reinstated. -/
def State.endRecess (s : State) (n : Nat) (failing : Option (BitVec 16)) : State :=
  let b := s.bench n
  match failing with
  | some t =>
    (s.setBench { b with state := .fenced, wasFenced := false, passed := false }).machineCheck (benchBank n)
      { sev := 2, cls := 0x7B, synd := t, addr := none, info := none }
  | none =>
    (s.countCorrected (benchBank n)).setBench
      (if b.wasFenced then { b with state := .fenced, wasFenced := false, passed := true } else { b with state := .inService, passed := false })

/-- RECESS_END: the outcome of a bench's tests, which an injected error makes fail (26 R480, R485). -/
def execRecessEnd (bench : Nat) (failing : Option (BitVec 16)) (s : State) : Host.Outcome State Fault Refusal :=
  .next (if (s.bench bench).state != .recess then s
    else if s.injected (benchBank bench) then (s.clearInj (benchBank bench)).endRecess bench (some (failing.getD 0))
    else s.endRecess bench failing)

end Sys2Proof.Machine
end

