-- ==== Sys2Proof/Machine/Service.lean ====
section
/-! DEFINITION. The management interface: commands (28 R503 to R505; 21 R417), service (28 R507), firmware and attestation (28 R498 to
R500), power (28 R506), resets (28 R497) and the register window (28 R503, R511). -/

namespace Sys2Proof.Machine

/-! ## Commands (28 R503, R504) -/

/-- The OP and SUBOP of every command. -/
def commandCodes : List (Nat × Nat) :=
  [(1, 0), (1, 1), (2, 0), (3, 0), (4, 0), (5, 0), (6, 0), (7, 0), (7, 1), (8, 0), (9, 0), (10, 0), (10, 1)]

/-- What a command does with its block and address space: the state and its CODE; none while it waits. -/
abbrev Serve := State → Space → List Byte → Option (State × Nat)

/-- A command's completion word is written (28 R504; 21 R433). -/
def State.answerCommand (s : State) (c : Command) (code : Nat) : State := s.agentPut c.space (recWord c.block 8) (walkWord code 0 0)

/-- The command at the head of the queue is served, if it is this one; a block of no command is refused by whichever comes to it. A command waits
while the page of its completion word is absent (log entry 40). -/
def State.serve (s : State) (op sub : Nat) (body : Serve) : State :=
  match s.commands with
  | [] => s
  | c :: rest =>
    let b := c.block
    let s0 := { s with commands := rest }
    let code := (recNat b 0 2, recNat b 2 1)
    if s.absent c.space (recWord b 8) 8 .store then s
    else if !commandCodes.contains code || !recZero b 3 5 then s0.answerCommand c 1
    else if code != (op, sub) then s
    else match body s0 c.space b with
      | none => s
      | some (s1, n) => s1.answerCommand c n

/-- A command refused. -/
def State.refuse (s : State) : Option (State × Nat) := some (s, 1)

/-- A command whose access to its arguments fails: it waits for an absent page, and is refused otherwise (log entry 40). -/
def State.unserved (s : State) (sp : Space) (a : Word) (n : Nat) (k : Access) : Option (State × Nat) :=
  if s.absent sp a n k then none else s.refuse

/-- A command done. -/
def State.done (s : State) : Option (State × Nat) := some (s, 0)

/-! ### KEYSET and KEYERASE (14 R309; 23 R451 to R453) -/

/-- The arguments that name a key are out of range. -/
def keyArgsBad (b : List Byte) : Bool :=
  let target := recNat b 18 1
  let phase := recNat b 19 1
  !recZero b 20 4 || (target != 0 && target != 1) || (target == 0 && (255 < recNat b 16 2 || phase != 0)) ||
    (target == 1 && (5 < recNat b 16 2 || 1 < phase))

/-- KEYSET. A port's key that is not current waits while the old phase is still held (23 R452). -/
def serveKeyset : Serve := fun s sp b =>
  let n := recNat b 16 2
  if keyArgsBad b || !recZero b 32 32 then s.refuse
  else
    match s.agentRead sp (recWord b 24) 40 with
    | .error _ => s.unserved sp (recWord b 24) 40 .load
    | .ok (s1, w) =>
      match keyUnwrap Config.deviceKek w with
      | none => s.refuse
      | some key =>
        if recNat b 18 1 == 0 then (s1.putKey { slot := n, key := key, stored := 0, live := true }).done
        else
          let phase := recNat b 19 1 == 1
          if (s1.portAt n).oldv && phase != (s1.portAt n).kp then none else (s1.setPort n ((s1.portAt n).install phase key)).done

/-- A port phase is erased: a rotation to or from the other slot is over (28 R505). -/
def Port.erase (p : Port) (phase : Bool) : Port :=
  if phase == p.kp then p.zeroise phase
  else { p.zeroise phase with oldv := false, retireDue := false, farRetired := false, switchDue := false }

/-- KEYERASE. -/
def serveKeyerase : Serve := fun s _ b =>
  let n := recNat b 16 2
  if keyArgsBad b || !recZero b 24 40 then s.refuse
  else if recNat b 18 1 == 0 then
    (if (s.keySlot n).elim false KeySlot.live then s.refuse else ({ s with keys := s.keys.filter (·.slot != n) } : State).done)
  else
    let p := (s.portAt n).erase (recNat b 19 1 == 1)
    let s1 := s.setPort n p
    (if p.key0.isNone && p.key1.isNone then s1.withdraw n else s1).done

/-! ### TOOL, ADAPTER, HANDLER, BINDING, SAMPLE -/

/-- The windows of a window table's bytes. -/
def windowsOf (bs : List Byte) : List (Word × Word) := (unitsOf 16 bs).map fun b => (recWord b 0, recWord b 8)

/-- A window whose bounds are in order: where it is valid, BASE and LIMIT + 1 are multiples of 64, and LIMIT is not below BASE (19 R384). -/
def windowOk (w : Word × Word) : Bool :=
  let base : Nat := (field w.1 0 52 : BitVec 52).toNat
  let limit : Nat := (field w.2 0 52 : BitVec 52).toNat
  !bit w.1 63 || (base % 64 == 0 && (limit + 1) % 64 == 0 && decide (base ≤ limit))

/-- A window as it is at reset: MAXSCOPE is `.pod` (19 R384). -/
def windowReset : Word × Word := (0x0800000000000000, 0)

/-- The sixteen windows of a table, of which a list gives the first. -/
def windowTable (ws : List (Word × Word)) : List (Word × Word) := ws ++ List.replicate (16 - ws.length) windowReset

/-- TOOL's arguments are out of range. -/
def toolArgsBad (b : List Byte) : Bool :=
  let kind := recNat b 18 1
  2047 < recNat b 16 2 || 2 < kind || !recZero b 19 5 || 16 < recNat b 36 2 || !recZero b 38 2 ||
    (kind == 1 && (recNat b 24 8 % 4096 != 0 || !powerOfTwo (recNat b 32 4) 64 (2 ^ 20))) ||
    recNat b 48 8 % 4096 != 0 || recNat b 56 8 % 8 != 0

/-- TOOL (19 R383, R384): the entry is written, and its queue starts empty. The tool's context runs on core n mod 32 (log entry 26). -/
def serveTool : Serve := fun s sp b =>
  let n := recNat b 16 2
  let kind := recNat b 18 1
  if toolArgsBad b then s.refuse
  else if kind == 0 then ({ s with tools := s.tools.filter (·.num != n) } : State).done
  else
    match s.agentRead sp (recWord b 40) (16 * recNat b 36 2) with
    | .error _ => s.unserved sp (recWord b 40) (16 * recNat b 36 2) .load
    | .ok (s1, w) =>
      if !(windowsOf w).all windowOk then s.refuse
      else
        (s1.putTool { num := n, peer := kind == 2, ring := recWord b 24, entries := recNat b 32 4, windows := windowTable (windowsOf w),
                      resolve := recNat b 48 8, tailAddr := recWord b 56, space := sp, tail := 0, outcome := 0, requests := [], unit := n % 32 }).done

/-- ADAPTER (19 R394): removal is refused while a launch references the adapter. -/
def serveAdapter : Serve := fun s _ b =>
  let n := BitVec.ofNat 32 (recNat b 16 4)
  let action := recNat b 20 1
  let node := recNat b 40 2
  if 1 < action || !recZero b 21 3 || recNat b 24 8 % 65536 != 0 || (319 < node && node != 0xFFFF) || !recZero b 42 22 then s.refuse
  else
    let others := s.adapters.filter (·.num != n)
    if action == 0 then ({ s with adapters := ⟨n, recNat b 24 8, recNat b 32 8, node⟩ :: others } : State).done
    else if s.residency.any fun r => r.num == n && (!r.launches.isEmpty || !r.resident) then s.refuse
    else ({ s with adapters := others, residency := s.residency.filter (·.num != n) } : State).done

/-- HANDLER (26 R477): one for each address space; a cohort name of 0 removes it. -/
def serveHandler : Serve := fun s sp b =>
  let asid := BitVec.ofNat 16 (recNat b 16 2)
  let name := BitVec.ofNat 32 (recNat b 20 4)
  let others := s.handlers.filter (·.asid != asid)
  if !recZero b 18 2 || !recZero b 25 7 || !recZero b 52 12 then s.refuse
  else if name == 0 then ({ s with handlers := others } : State).done
  else if 63 < recNat b 24 1 || recNat b 32 8 % 8 != 0 || recNat b 40 8 % 64 != 0 || !powerOfTwo (recNat b 48 4) 16 (2 ^ 16) then s.refuse
  else
    ({ s with handlers := { asid := asid, space := sp, cohort := name, member := recNat b 24 1, address := recWord b 32, ring := recWord b 40
                            slots := recNat b 48 4, seq := 0, undecided := [] } :: others } : State).done

/-- A launch that is not complete names a standing binding. -/
def State.bindingBusy (s : State) (n : Nat) : Bool := s.launches.any (·.binding == some n)

/-- Word 0 of a standing binding that software writes: its reserved bits read zero (21 R420). -/
def bindingWord0 (w : Word) : Word := w &&& ~~~(0x7F00000000000000 : Word) &&& ~~~(0x00000003FFFF0000 : Word)

/-- The slots of names that a binding had in STOCK return to free. -/
def State.dropStock (s : State) (names : List (BitVec 32)) : State := names.foldl State.retireName s

/-- BINDING (21 R420): a removal is busy while a cohort is bound or waits in the binding (log entry 27). -/
def serveBinding : Serve := fun s _ b =>
  let n := recNat b 16 2
  let w0 := recWord b 24
  if h : n < 64 then
    if !recZero b 18 6 || !recZero b 56 8 then s.refuse
    else if !bit w0 63 then
      (if s.bindingBusy n then some (s, 2) else (({ s with standing := s.standing.set n Standing.reset } : State).dropStock (s.binding n).stock).done)
    else if (field w0 50 6 : BitVec 6).toNat > 23 || (field w0 42 7 : BitVec 7).toNat == 0 || (field w0 42 7 : BitVec 7).toNat > 64 then s.refuse
    else ({ s with standing := s.standing.set n { stock := (s.binding n).stock, w0 := bindingWord0 w0, w1 := recWord b 32 &&& ~~~0xFF, w2 := recWord b 40 } } : State).done
  else s.refuse

/-- SAMPLE (27 R488). -/
def serveSample : Serve := fun s _ b =>
  let asid := BitVec.ofNat 16 (recNat b 16 2)
  let period := recNat b 24 8
  let others := s.samplings.filter (·.asid != asid)
  if 15 < recNat b 18 1 || !recZero b 19 5 || !recZero b 32 32 || (period != 0 && !powerOfTwo period 1024 (2 ^ 32)) then s.refuse
  else if period == 0 then ({ s with samplings := others } : State).done
  else ({ s with samplings := ⟨asid, BitVec.ofNat 4 (recNat b 18 1), period⟩ :: others } : State).done

/-! ### TERMINATE (21 R417) -/

/-- A saved member ends without a restore: a task whose activation its image holds fails (16 R336), its drops are made, and its basin and deferred
entries counted. -/
def State.discardMember (s0 : State) (c : Ctx) : State :=
  let m := c.coord.member.toNat
  let s := match c.cause with
    | .task rec => if c.savedIdle then s0 else s0.taskEnd (some c) c.space rec (0x80 + 0x64)
    | .launch | .message _ => s0
  let waiting := (s.dirOf c.cohort).elim 0 fun d => (d.deferred.filter (·.member == m)).length
  let s1 := s.modDir c.cohort fun d => { d with deferred := d.deferred.filter (·.member != m) }
  s1.memberGone c 2 0x64 (c.basinSaved + waiting)

/-- One member of a terminated launch: resident, it is terminated; held in an image, it is discarded once no save is under way. -/
def State.endMember (s : State) (r : CtxRef) : State :=
  match s.findCtx r with
  | none => s
  | some c =>
    if s.transfers.any fun t => t.name == r.cohort && !t.isRestore then s
    else if c.resident then s.terminateCtx r 0x64
    else if c.life == .saved then s.discardMember c
    else s

/-- The members of a launch's cohorts that are bound here. -/
def Launch.members (l : Launch) : List CtxRef :=
  (l.cohorts.filter (·.bound)).flatMap fun c => (List.range c.members).map fun m => ⟨c.name, m⟩

/-- The cohorts of a terminated launch that are still here end. -/
def State.endLaunch (s : State) (l : Launch) : State :=
  if !l.terminated then s
  else
    l.members.foldl State.endMember s

/-- A save that the management core has decided on and not begun. -/
def Transfer.queued (t : Transfer) : Bool := !t.isRestore && !t.written && t.desc.isNone && t.images.isEmpty

/-- Restores of a terminated launch's cohorts, and saves that have not begun, are given up. -/
def State.dropPending (s : State) (l : Launch) : State :=
  { s with transfers := s.transfers.filter fun t => !((t.isRestore || t.queued) && l.cohorts.any fun c => c.bound && c.name == t.name) }

/-- TERMINATE. A member whose EXIT takes effect in this cycle exits first, and a launch that this ends is not terminated (21 R417, R430). -/
def serveTerminate : Serve := fun s _ b =>
  if !recZero b 24 40 then s.refuse
  else
    match s.launchOf (recWord b 16) with
    | none => s.refuse
    | some l0 =>
      let s1 := l0.members.foldl State.takeExit s
      let l := (s1.launchOf l0.id).getD l0
      if s1.launchOver l false then s1.done
      else
        let l1 := { l with terminated := true, state := .completing }
        (((s1.putLaunch l1).dropPending l1).endLaunch l1).done

/-! ### STOP and RELEASE (27 R491) -/

/-- The stop that a block describes; none where its arguments break their limits. -/
def stopOf (b : List Byte) : Option Stop :=
  let kind := recNat b 16 1
  let value := recWord b 24
  let mask := recWord b 32
  if 2 < kind || !recZero b 17 7 || !recZero b 40 24 then none
  else if kind == 0 && (field value 32 32 : BitVec 32) != 0 then none
  else if kind == 2 && (mask &&& ~~~(0x3FFFFFFF : Word) != 0 || value &&& 0x3FFFFFFFF != 0) then none
  else if kind != 2 && mask != 0 then none
  else some ⟨kind, value, mask⟩

/-- A stop comes into force: an idle context that it names stops at once. -/
def State.stopIdle (s : State) (p : Stop) : State :=
  (s.ctxs.filter fun c => p.names c && c.life == .idle && !c.stopped).foldl (fun s c =>
    (s.modCtx c.ref fun x => { x with stopped := true }).event c 5 0) s

/-- STOP. -/
def serveStop : Serve := fun s _ b =>
  match stopOf b with
  | none => s.refuse
  | some p => (({ s with stops := if s.stops.contains p then s.stops else s.stops ++ [p] } : State).stopIdle p).done

/-- A context whose stop is released: one whose launch a breakpoint held starts its activation, and one that may run does. -/
def State.releaseCtx (s : State) (r : CtxRef) : State :=
  match s.findCtx r with
  | none => s
  | some c =>
    let busy := s.ctxs.any fun x => x.sameCore c && x.life == .running && !x.is r
    let held := c.life == .inactive && c.actno == 0
    let go := c.life == .inactive && !busy
    let c1 := { c with stopped := false, actno := if held then 1 else c.actno, started := if held then s.ns else c.started, life := if go then .running else c.life }
    let s1 := s.modCtx r fun _ => c1
    if held then s1.event c1 1 0 else s1

/-- RELEASE: the stop leaves, and every context that it names and no other stop holds is free (27 R491). -/
def State.release (s : State) (p : Stop) : State :=
  let s1 := { s with stops := s.stops.filter (· != p) }
  (s1.ctxs.filter fun c => p.names c && c.stopped && !s1.stops.any (·.names c)).foldl (fun s c => s.releaseCtx c.ref) s1

/-- RELEASE. -/
def serveRelease : Serve := fun s _ b =>
  match stopOf b with
  | none => s.refuse
  | some p => (s.release p).done

/-! ### SERVICE (28 R507; 01 R22, R24) -/

/-- A unit that is out of service; one whose test is over serves again. -/
def State.outUnit (s : State) (cls unit : Nat) : Option OutUnit :=
  s.outUnits.find? fun u => u.cls == cls && u.unit == unit && u.test.all (s.time < ·)

/-- A unit is taken out of service. -/
def State.takeOut (s : State) (cls unit : Nat) (retired : Bool) (test : Option Nat := none) : State :=
  { s with outUnits := ⟨cls, unit, retired, test⟩ :: s.outUnits.filter fun u => u.cls != cls || u.unit != unit }

/-- A unit returns to service. -/
def State.bringBack (s : State) (cls unit : Nat) : State := { s with outUnits := s.outUnits.filter fun u => u.cls != cls || u.unit != unit }

/-- A unit with no state of its own in the model is fenced, tested for a time, reinstated or retired; a fenced unit that is tested stays
fenced. -/
def State.serviceUnit (s : State) (cls unit action test : Nat) : Option (State × Nat) :=
  match s.outUnit cls unit, action with
  | some ⟨_, _, true, _⟩, 3 => s.done
  | some ⟨_, _, true, _⟩, _ => s.refuse
  | none, 0 => (s.takeOut cls unit false).done
  | some ⟨_, _, false, some _⟩, 0 => (s.takeOut cls unit false).done
  | some ⟨_, _, false, none⟩, 0 => s.done
  | none, 1 => (if test == 0 then s else s.takeOut cls unit false (some (s.time + test))).done
  | some _, 1 => s.done
  | some ⟨_, _, false, none⟩, 2 => (s.bringBack cls unit).done
  | some ⟨_, _, false, some _⟩, 2 => s.done
  | none, 2 => s.done
  | _, _ => (s.takeOut cls unit true).done

/-- Microseconds as time. -/
def micros (n : Nat) : Nat := n * 756000

/-- A bench (10 R220): reinstated only after a passed recess, retired only from fenced. -/
def State.serviceBench (s : State) (n action : Nat) : Option (State × Nat) :=
  let b := s.bench n
  match action with
  | 0 =>
    match b.state with
    | .inService | .quiescing => (s.fenceBench n).done
    | .recess => (s.setBench { b with wasFenced := true }).done
    | .fenced => s.done
    | .retired => s.refuse
  | 1 =>
    match b.state with
    | .inService | .fenced => if s.clusterRests n then some (s, 2) else (s.askRecess n).done
    | .quiescing | .recess => s.done
    | .retired => s.refuse
  | 2 =>
    match b.state with
    | .inService => s.done
    | .fenced => if b.passed then (s.setBench { b with state := .inService, passed := false }).done else s.refuse
    | .quiescing | .recess | .retired => s.refuse
  | _ =>
    match b.state with
    | .fenced => (s.setBench { b with state := .retired }).done
    | .retired => s.done
    | .inService | .quiescing | .recess => s.refuse

/-- A port leaves service: its retained packets fail item by item (26 R483). -/
def State.fencePort (s : State) (n : Nat) : State := (s.setPort n { s.portAt n with state := .fenced }).failRetained n 0x58

/-- A fabric port (23 R447, R448): a retired one stays out of service with its quay cores. Recalibration trains a failed port anew and makes a
fenced one's lanes good; reinstatement trains a fenced one (log entry 40). -/
def State.servicePort (s : State) (n action : Nat) : Option (State × Nat) :=
  let p := s.portAt n
  let retired := (s.outUnit 2 n).isSome
  match action with
  | 0 => if p.state == .fenced then s.done else (s.fencePort n).done
  | 1 =>
    if retired then s.refuse
    else match p.state with
      | .failed => (s.setPort n { p with state := .train, failmask := 0, trainingAt := s.time }).done
      | .fenced => (s.setPort n { p with failmask := 0 }).done
      | .train => s.done
      | .down | .up | .retrain | .replay => s.refuse
  | 2 =>
    if retired then s.refuse
    else match p.state with
      | .fenced => (s.setPort n { p with state := .train, trainingAt := s.time }).done
      | .failed => s.refuse
      | .down | .train | .up | .retrain | .replay => s.done
  | _ => if retired then s.done else ((s.fencePort n).takeOut 2 n true).done

/-- The 64 KiB frames of a range. -/
def framesOf (base len : Nat) : List Nat := (List.range (len / 65536)).map (base / 65536 + ·)

/-- The patrol scrub of a range of HBM4E: the first line of it in a stack whose check is to fail, as injected, is uncorrectable (26 R480, R482). -/
def State.scrubRange (s : State) (base len : Nat) : State :=
  (List.range 12).foldl (fun s k =>
    let pa := max base (k * 2 ^ 36)
    if pa < base + len && pa / 2 ^ 36 == k && s.injected (1776 + k) then s.badLine pa (1776 + k) 0 else s) s

/-- A range of HBM4E: its frames are retired, and its pages move by the migrations that the management core runs. -/
def State.serviceRange (s : State) (base len action : Nat) : Option (State × Nat) :=
  if base % 65536 != 0 || len % 65536 != 0 || 12 * 2 ^ 36 < base + len || action == 2 then s.refuse
  else if action == 1 then (s.scrubRange base len).done
  else ({ s with retiredFrames := (s.retiredFrames ++ framesOf base len).eraseDups } : State).done

/-- The contexts of a tool core end. -/
def State.endToolCore (s : State) (unit : Nat) : State := (s.tools.filter (·.unit == unit)).foldl (fun s t => s.endToolContext t) s

/-- SERVICE. -/
def serveService : Serve := fun s _ b =>
  let cls := recNat b 16 1
  let action := recNat b 17 1
  let unit := recNat b 20 4
  if 5 < cls || 3 < action || !recZero b 18 2 || !recZero b 40 24 || (cls != 3 && !recZero b 24 16) then s.refuse
  else if cls == 0 then (if 191 < unit then s.refuse else s.serviceBench unit action)
  else if cls == 1 then (if unit < 1536 || 1559 < unit then s.refuse else s.serviceUnit 1 unit action (micros 200))
  else if cls == 2 then (if 5 < unit then s.refuse else s.servicePort unit action)
  else if cls == 3 then (if 11 < unit then s.refuse else s.serviceRange (recNat b 24 8) (recNat b 32 8) action)
  else if cls == 4 then
    (if 31 < unit then s.refuse
     else (s.serviceUnit 4 unit action 0).map fun x =>
       if action == 1 || ((s.outUnit 4 unit).isNone && (x.1.outUnit 4 unit).isSome) then (x.1.endToolCore unit, x.2) else x)
  else (if 15 < unit then s.refuse else s.serviceUnit 5 unit action (micros 50))

/-! ### UPDATE and ATTEST (28 R498 to R500) -/

/-- Bytes placed in the staging SRAM at an offset. -/
def stageAt (l : List Byte) (off : Nat) (bs : List Byte) : List Byte :=
  (l ++ List.replicate (off - l.length) 0).take off ++ bs ++ l.drop (off + bs.length)

/-- An image is accepted: its signature verifies, its counter is not below the monotonic one, and its length fits (28 R498). -/
def State.imageAccepted (s : State) (img : List Byte) : Bool :=
  Config.lmsVerifies img && decide (s.fwMonotonic ≤ Config.firmwareCounter img) && decide (img.length ≤ 2 ^ 23)

/-- UPDATE: a chunk enters staging, and the last one starts the verification; an image that fails it is discarded. -/
def serveUpdate : Serve := fun s sp b =>
  let len := recNat b 24 4
  let off := recNat b 28 4
  let last := recNat b 32 1
  if len % 64 != 0 || 65536 < len || 1 < last || !recZero b 33 31 || 2 ^ 23 < off + len then s.refuse
  else if s.stagedOk then some (s, 2)
  else
    match s.agentRead sp (recWord b 16) len with
    | .error _ => s.unserved sp (recWord b 16) len .load
    | .ok (s1, bs) =>
      let img := stageAt s.staged off bs
      let s2 := { s1 with staged := img }
      if last == 0 then s2.done
      else if s.imageAccepted img then ({ s2 with stagedOk := true, fwMonotonic := Config.firmwareCounter img } : State).done
      else ({ s2 with staged := [] } : State).refuse

/-- The attestation report before its signature (28 R500; log entry 12). -/
def State.report (s : State) (nonce : List Byte) : List Byte :=
  nonce ++ Config.reportFields s.fwVersion s.fwCounter ++ sha256 s.fwImage ++ Config.fuseIdentity ++
    ((List.range 192).filter s.benchServes).flatMap fun n => wordBytes (s.bench n).features

/-- ATTEST: the signing state advances before the signature leaves the block. -/
def serveAttest : Serve := fun s sp b =>
  let r := s.report ((b.drop 16).take 32)
  let bs := r ++ Config.hssSignature s.hssUsed r
  if recNat b 48 8 % 8 != 0 || !recZero b 60 4 then s.refuse
  else if Config.hssCapacity ≤ s.hssUsed then some (s, 3)
  else if recNat b 56 4 < bs.length then s.refuse
  else
    let s1 : State := { s with hssUsed := s.hssUsed + 1 }
    match s1.agentWrite sp (recWord b 48) bs with
    | .error _ => if s.absent sp (recWord b 48) bs.length .store then none else s1.refuse
    | .ok s2 => s2.done

/-! ### The command events -/

/-- KEYSET. -/
def execKeyset (s : State) : Host.Outcome State Fault Refusal := .next (s.serve 1 0 serveKeyset)
/-- KEYERASE. -/
def execKeyerase (s : State) : Host.Outcome State Fault Refusal := .next (s.serve 1 1 serveKeyerase)
/-- TOOL. -/
def execTool (s : State) : Host.Outcome State Fault Refusal := .next (s.serve 2 0 serveTool)
/-- ADAPTER. -/
def execAdapter (s : State) : Host.Outcome State Fault Refusal := .next (s.serve 3 0 serveAdapter)
/-- HANDLER. -/
def execHandler (s : State) : Host.Outcome State Fault Refusal := .next (s.serve 4 0 serveHandler)
/-- BINDING. -/
def execBinding (s : State) : Host.Outcome State Fault Refusal := .next (s.serve 5 0 serveBinding)
/-- TERMINATE. -/
def execTerminate (s : State) : Host.Outcome State Fault Refusal := .next (s.serve 6 0 serveTerminate)
/-- STOP. -/
def execStop (s : State) : Host.Outcome State Fault Refusal := .next (s.serve 7 0 serveStop)
/-- RELEASE. -/
def execRelease (s : State) : Host.Outcome State Fault Refusal := .next (s.serve 7 1 serveRelease)
/-- SAMPLE, the command. -/
def execSampleConfig (s : State) : Host.Outcome State Fault Refusal := .next (s.serve 8 0 serveSample)
/-- SERVICE. -/
def execService (s : State) : Host.Outcome State Fault Refusal := .next (s.serve 9 0 serveService)
/-- UPDATE. -/
def execUpdate (s : State) : Host.Outcome State Fault Refusal := .next (s.serve 10 0 serveUpdate)
/-- ATTEST. -/
def execAttest (s : State) : Host.Outcome State Fault Refusal := .next (s.serve 10 1 serveAttest)

/-- The command at the head is served, whichever it is. -/
def State.serveHead (s : State) : State :=
  match s.commands with
  | [] => s
  | c :: _ =>
    match recNat c.block 0 2, recNat c.block 2 1 with
    | 1, 0 => s.serve 1 0 serveKeyset
    | 1, 1 => s.serve 1 1 serveKeyerase
    | 2, 0 => s.serve 2 0 serveTool
    | 3, 0 => s.serve 3 0 serveAdapter
    | 4, 0 => s.serve 4 0 serveHandler
    | 5, 0 => s.serve 5 0 serveBinding
    | 6, 0 => s.serve 6 0 serveTerminate
    | 7, 0 => s.serve 7 0 serveStop
    | 7, 1 => s.serve 7 1 serveRelease
    | 8, 0 => s.serve 8 0 serveSample
    | 9, 0 => s.serve 9 0 serveService
    | 10, 1 => s.serve 10 1 serveAttest
    | _, _ => s.serve 10 0 serveUpdate

/-! ## The firmware switch (28 R499) -/

/-- A quiescent point: no command, no page half migrated and no recess half done. Binds end in the step that begins them. -/
def State.quiescent (s : State) : Bool :=
  s.commands.isEmpty && s.moving.isEmpty && !s.benches.any fun b => b.state == .recess || b.state == .quiescing

/-- A verified image replaces the running one at a quiescent point; nothing else changes. -/
def State.switchFirmware (s : State) : State :=
  if s.stagedOk && s.quiescent then
    { s with fwVersion := Config.firmwareVersion s.staged, fwCounter := Config.firmwareCounter s.staged, fwImage := s.staged
             staged := [], stagedOk := false }
  else s

/-- FIRMWARE_SWITCH. -/
def execFirmwareSwitch (s : State) : Host.Outcome State Fault Refusal := .next s.switchFirmware

/-! ## Power and heat (28 R506) -/

/-- The bank of package power, clock and thermal. -/
def powerBank : Nat := 1865

/-- A time that lies a number of cycles of period p from now lies as many of period q from it. -/
def rescale (now p q t : Nat) : Nat := if t ≤ now then now - (now - t) * q / p else now + (t - now) * q / p

/-- The times of a context's matrix commands, of a bench's level and of an arrival's next attempt, which the manual counts in cycles, follow a change of
the cycle. -/
def State.rescaled (s : State) (f : Nat → Nat) : State :=
  { s.mapCtxs fun c => { c with mqFirst := f c.mqFirst, mqLast := f c.mqLast, mqDone := c.mqDone.map fun x => (f x.1, x.2) } with
    benches := s.benches.map fun b =>
      { b with busyUntil := f b.busyUntil, stepAt := if b.stepAt == 0 then 0 else f b.stepAt, hint := b.hint.map f }
    flights := s.flights.map fun x => { x with due := f x.due } }

/-- The clock changes by a step, which the bank counts as a corrected error; latencies counted in cycles stay the same. -/
def State.setClock (s : State) (n : Nat) : State :=
  ({ s.rescaled (rescale s.time (clockPeriod s.clock) (clockPeriod n)) with clock := n, coolWindows := 0 } : State).machineCheck powerBank
    { sev := 1, cls := 0x7E, synd := BitVec.ofNat 16 n, addr := none, info := none }

/-- POWER_WINDOW: one measurement of 10 ms, in W and °C. The check may fail as injected, with severity contained (26 R480). -/
def execPowerWindow (watts : Nat) (celsius : Nat) (s0 : State) : Host.Outcome State Fault Refusal :=
  let s := if s0.injected powerBank then
      (s0.clearInj powerBank).machineCheck powerBank { sev := 2, cls := 0x7E, synd := 0, addr := none, info := none }
    else s0
  .next (if 3400 < watts || 105 < celsius then
      (if 4 ≤ s.clock then s.machineCheck powerBank { sev := 3, cls := 0x7E, synd := 4, addr := none, info := none } else s.setClock (s.clock + 1))
    else if watts * 100 < 3400 * 95 && celsius * 100 < 105 * 95 then { s with coolWindows := s.coolWindows + 1 }
    else { s with coolWindows := 0 })

/-- CLOCK_STEP_UP: after ten windows below 95 % of both limits. -/
def execClockStepUp (s : State) : Host.Outcome State Fault Refusal :=
  .next (if 10 ≤ s.coolWindows && s.clock != 0 then s.setClock (s.clock - 1) else s)

/-! ## Resets (28 R497) -/

/-- What outlives a reset of this package: memory of the host and of other packages, the global time and the pod, the monotonic store,
the firmware's image, the features that a bench's fuses leave (01 R23), retired units and frames, and the model's own inputs (log entry 24). -/
def State.rebooted (s : State) (mcbs : List Mcb) : State :=
  { State.reset with
      mem := s.mem.filter fun c => isHost c.1 || (!isScratch c.1 && keyNode c.1 != s.node)
      mcbs := mcbs, time := s.time, node := s.node, lost := s.lost, dx := s.dx, dy := s.dy, dz := s.dz
      fwVersion := s.fwVersion, fwCounter := s.fwCounter, fwImage := s.fwImage, fwMonotonic := s.fwMonotonic, hssUsed := s.hssUsed
      outUnits := s.outUnits.filter OutUnit.retired
      ports := Vector.ofFn fun i => if s.unitServes 2 i.val then Port.reset else { Port.reset with state := .fenced }
      retiredFrames := s.retiredFrames
      benches := s.benches.map fun b =>
        { Bench.reset b.num with features := b.features, state := if b.state == .retired then .retired else .inService }
      agenda := s.agenda, paced := s.paced, delays := s.delays, spans := s.spans, free := s.free }

/-- A boot that fails leaves BOOTOK clear and is logged: with class 0x7D by the security block, or 0x7F by the management core (28 R497; log
entry 24). -/
def State.boot (s : State) (e : BootEnd) : State :=
  let fails (bank : Nat) (cls : BitVec 7) : State :=
    ({ s with booted := false } : State).machineCheck bank { sev := 3, cls := cls, synd := 0, addr := none, info := none }
  match e with
  | .ready => s
  | .unverified => fails 1864 0x7D
  | .untrained => fails 1863 0x7F

/-- COLD_RESET. -/
def execColdReset (boots : BootEnd) (s : State) : Host.Outcome State Fault Refusal := .next ((s.rebooted []).boot boots)

/-- The bank holds a latched fatal record. -/
def Mcb.isFatal (b : Mcb) : Bool := bit b.status 63 && (field b.status 60 2 : BitVec 2) == 3

/-- A bank after a warm reset that keeps its record: CECOUNT and MCB_CTL take their reset values (26 R480, R481; 28 R497). -/
def Mcb.keptRecord (b : Mcb) : Mcb := { b with ctl := mcbCtlReset, status := b.status &&& ~~~(0xFFFF0000 : Word) }

/-- WARM_RESET: latched fatal records stay (28 R497). -/
def execWarmReset (boots : BootEnd) (s : State) : Host.Outcome State Fault Refusal :=
  .next ((s.rebooted ((s.mcbs.filter Mcb.isFatal).map Mcb.keptRecord)).boot boots)

/-! ## The register window (28 R503, R511) -/

/-- An address of bits [51:0], kept where it is no multiple. -/
def windowAddr (old : Nat) (w : Word) (n : Nat) : Nat := let a := (field w 0 52 : BitVec 52).toNat; if a % n == 0 then a else old

/-- LOG2SIZE, kept where it is out of range. -/
def windowLog2 (old : Nat) (w : Word) : Nat :=
  let n := (field w 59 5 : BitVec 5).toNat
  if 8 ≤ n && n ≤ 20 then n else old

/-- A word of a host ring descriptor is written (21 R426). -/
def HostRing.write (x : HostRing) (now word : Nat) (w : Word) : HostRing :=
  match word with
  | 0 => { x with en := bit w 63, base := windowAddr x.base w 4096 }
  | 1 => { x with log2 := windowLog2 x.log2 w, tailAddr := windowAddr x.tailAddr w 8 }
  | 2 => { x with head := field w 32 32, prior := some (now, x.headAt now) }
  | _ =>
    let cnt := (field w 32 16 : BitVec 16).toNat
    { x with vector := field w 53 11, cnt := if cnt == 0 then x.cnt else cnt, time := (field w 0 32 : BitVec 32).toNat }

/-- A word of a trace ring descriptor is written (27 R487). -/
def TraceRing.write (x : TraceRing) (word : Nat) (w : Word) : TraceRing :=
  match word with
  | 0 => { x with en := bit w 63, host := bit w 62, base := windowAddr x.base w 4096 }
  | 1 => { x with log2 := windowLog2 x.log2 w, tailAddr := windowAddr x.tailAddr w 8 }
  | 2 => { x with head := field w 32 32 }
  | _ => { x with dropcnt := field w 32 32 }

/-- The ring's count rule holds after a write (21 R429). -/
def State.recheckRing (s : State) (r : Nat) : State :=
  let x := s.hostRing r
  if x.pend != 0 && (x.cnt ≤ x.pend || x.late s.ns) then s.raiseRing r else s

/-- A word of a trigger is written (27 R489). TFILT is a RW word: its bits [33:30], which have no field, keep what is written (log entry 47). -/
def State.writeTrigger (s : State) (n : Fin 8) (word : Nat) (w : Word) : State :=
  let t := s.triggers[n]
  match word with
  | 0 => s.writeTctl n w
  | 1 => { s with triggers := s.triggers.set n { t with tstart := w } }
  | 2 => { s with triggers := s.triggers.set n { t with tstop := w } }
  | _ => { s with triggers := s.triggers.set n { t with tfilt := w } }

/-- A word of a machine-check bank is written (26 R480): MCB_ADDR and MCB_INFO are read-only. -/
def Mcb.write (b : Mcb) (word : Nat) (w : Word) : Mcb :=
  match word with
  | 0 => b.writeStatus w
  | 3 => { b with ctl := w &&& 0xFFFF000000000006 }
  | _ => b

/-- The mailbox's block is submitted (28 R503). -/
def State.submitMailbox (s : State) : State := { s with commands := s.commands ++ [⟨s.mailbox.toList, ⟨0, none⟩⟩] }

/-- A dword of the mailbox's block is written. -/
def State.writeMailbox (s : State) (off : Nat) (w : Word) : State :=
  { s with mailbox := Vector.ofFn fun i => if off ≤ i.val && i.val < off + 8 then (wordBytes w).getD (i.val - off) 0 else s.mailbox[i] }

/-- An 8-byte write of the host to the register window; other areas are read-only, and offsets without a register ignore it. -/
def State.windowWrite (s : State) (off : Nat) (w : Word) : State :=
  let word := off / 8 % 4
  if off % 8 != 0 then s
  else if off == 0x10000 then (if w == 1 then s.submitMailbox else s)
  else if 0x10040 ≤ off && off < 0x10080 then s.writeMailbox (off - 0x10040) w
  else if 0x20000 ≤ off && off < 0x20200 then
    let r := (off - 0x20000) / 32
    (s.setHostRing r ((s.hostRing r).write s.time word w)).recheckRing r
  else if 0x21000 ≤ off && off < 0x21200 then
    let r := (off - 0x21000) / 32
    if h : r < 16 then { s with traces := s.traces.set r (s.traces[r].write word w) } else s
  else if 0x22000 ≤ off && off < 0x22100 then
    (if h : (off - 0x22000) / 32 < 8 then s.writeTrigger ⟨(off - 0x22000) / 32, h⟩ word w else s)
  else if off == 0x30000 then s.launchBell w.toNat
  else if off == 0x30008 then s.graphBell w.toNat
  else if 0x100000 ≤ off && off < 0x100000 + 32 * bankCount then s.setMcb ((s.mcb ((off - 0x100000) / 32)).write word w)
  else s

/-- REGISTER_WINDOW_WRITE. -/
def execRegisterWindowWrite (offset : Nat) (value : Word) (s : State) : Host.Outcome State Fault Refusal := .next (s.windowWrite offset value)

end Sys2Proof.Machine
end

