-- ==== Sys2Proof/Machine/Engines.lean ====
section
/-! DEFINITION. A cycle of the package: which contexts take their turns, the engines of every running context (02 R40 to R48), what the
hub, the management hardware and the ports do on their own, and the events QUEUE_ISSUE, ENGINE_COMPLETION and WATCHDOG_EXPIRY.
Turns, pace, delays and spans are the model's schedule (log entry 4). -/

namespace Sys2Proof.Machine

/-! ## Issue (02 R41) -/

/-- The issue conditions of a queue's head but for the engine's own: the stall count, the bell, the operands, and a later cycle
than its forwarding and than the last issue and the last retirement of its queue (02 R40, R41; 16 R324). -/
def Ctx.mayIssue (c : Ctx) (q : Queue) (e : Entry) : Bool :=
  let x := c.queue q
  let y := e.instr.sync.getD Sync.plain
  !x.issued && x.last != some c.now && x.gone != some c.now && decide (e.born < c.now) && stallMet c.now x.last y.stall && c.canTake y.takes && c.opersOk e &&
    !c.moving q

/-- The engine can take the head of a queue on this cycle, which a void one does not ask (05 R97). Matrix commands go through the arbiter; a join follows the cycle in which the last of
them completed (02 R45; 10 R225). -/
def State.engineFree (s : State) (q : Queue) (e : Entry) : Bool :=
  e.isVoid || match q with
  | .lq | .sq | .nq => true
  | .aq => s.aqReady e
  | .mq => !isCommand e.instr && (!isJoin e.instr || s.cx.mqDone.isEmpty && s.cx.mqEnded != some s.cx.now)

/-- A residue mismatch in a core's datapath is logged (26 R482). -/
def State.residueCheck (s : State) (cls : BitVec 7) (synd queue : Nat) : State :=
  s.machineCheck s.cx.coreNumber
    { sev := 2, cls := cls, synd := BitVec.ofNat 16 synd, addr := none, info := some (s.cx.mcInfo s.cx.item queue) }

/-- The trap of a residue mismatch. -/
def mismatchTrap (queue : Nat) (iaddr : Word) (cls : BitVec 16) : Trap :=
  { cause := 0x12, queue := queue, iaddr := iaddr, code := cls, mc := true, resumable := queue != 3 }

/-- The head of LQ or SQ meets an injected mismatch of its address sum: it stops at its restart point (26 R482). -/
def State.mismatchXfer (s : State) (q : Queue) (e : Entry) : State :=
  let s1 := s.clearInj s.cx.coreNumber
  let k := s1.cx.point e
  let c := if (s1.cx.queue q).issued then s1.cx else (opersOf e.instr).foldl Ctx.beginOper (s1.cx.accept q e)
  let c1 := c.setPoint e true k
  let s2 : State := { s1 with cx := c1.setQueue q { c1.queue q with issued := true, rstart := true } }
  (s2.residueCheck 0x75 k (queueCode q)).takeTrap (mismatchTrap (queueCode q) e.iaddr 0x75)

/-- The head of AQ meets one in row 0, where it issues: that row is not written, and the check's error is logged whether or not its trap is the
one reported (26 R475, R482). -/
def State.mismatchVector (s : State) (e : Entry) : State :=
  let s1 := s.issueVector e
  if s1.cx.aq.entries.length == s.cx.aq.entries.length then s1
  else
    let kept (x : Nat × Visible) : Bool := match x.2 with
      | .row _ 0 _ _ => s.cx.pending.contains x
      | _ => true
    let s2 : State := { s1 with cx := { s1.cx with pending := s1.cx.pending.filter kept } }
    ((s2.clearInj s.cx.coreNumber).residueCheck 0x74 0 3).takeTrap (mismatchTrap 3 e.iaddr 0x74)

/-- The issue of LQ's or SQ's head. -/
def State.issueLs (s : State) (q : Queue) (e : Entry) : State :=
  if s.injected s.cx.coreNumber && !atOnce e then s.mismatchXfer q e else s.issueXfer q e

/-- The issue of AQ's head. -/
def State.issueAq (s : State) (e : Entry) : State :=
  if s.injected s.cx.coreNumber then s.mismatchVector e else s.issueVector e

/-- The port's own effect of each NQ instruction. -/
def portBody : Instr → Option PortBody
  | .rstv _ => some (issueRstv false)
  | .rstvRel _ => some (issueRstv true)
  | .vexp _ => some issueVexp
  | .cname _ => some issueCname
  | .amsg _ => some issueAmsg
  | .mcst _ => some issueMcst
  | .redst _ => some issueRedst
  | .cpy _ => some issueCpy
  | .cpyw _ => some issueCpyw
  | .taskq _ => some issueTaskq
  | .taskdec _ => some issueTaskdec
  | .tend _ => some issueTend
  | .qsnap _ => some issueQsnap
  | .fcall _ => some issueFcall
  | .fwait _ => some issueFwait
  | .fpoll _ => some issueFpoll
  | .fdone _ => some issueFdone
  | .flink _ => some issueFlink
  | .fcancel _ => some issueFcancel
  | .adref _ => some issueAdref
  | .launch _ => some issueLaunch
  | .graphgo _ => some issueGraphgo
  | .hring _ => some issueHring
  | _ => none

/-- The port serves an entry: how its effect ends. -/
def State.portServes (s : State) (e : Entry) : Handed :=
  match portBody e.instr, fieldsOf e.instr with
  | some b, .n o => b s e o
  | _, _ => .stays

/-- The issue of NQ's head: it retires at the hand-over, stays in service, or stays unissued (16 R324). -/
def State.issuePort (s : State) (e : Entry) : State :=
  match s.portServes e with
  | .over s1 => { s1 with cx := (s1.cx.accept .nq e).retire .nq }
  | .waits s1 => { s1 with cx := s1.cx.accept .nq e }
  | .stays => s
  | .fails f => s.takeFail 5 e.iaddr f

/-- The issue of a queue's head. -/
def State.issueHead (s : State) (q : Queue) (e : Entry) : State :=
  match q with
  | .lq | .sq => s.issueLs q e
  | .aq => s.issueAq e
  | .mq => s.issueJoin e
  | .nq => s.issuePort e

/-- The head of a queue issues where its conditions held at the start of the cycle (snap; 02 R45), its bell has not been taken since, and no
SLIP moves it. The watchdog sees the issue in the queue's last cycle. -/
def State.tryIssue (s snap : State) (q : Queue) : State :=
  match (snap.cx.queue q).entries with
  | [] => s
  | e :: _ =>
    if snap.cx.mayIssue q e && snap.engineFree q e && s.cx.canTake (e.instr.sync.getD Sync.plain).takes && !s.cx.moving q then s.issueHead q e
    else s

/-! ## Completion (02 R42) -/

/-- LQ's or SQ's head, issued in an earlier cycle: it completes once every row has moved, and goes on where rows are left or where it stopped
at its restart point (07 R158). -/
def State.moveOn (s : State) (q : Queue) : State :=
  match (s.cx.queue q).entries with
  | [] => s
  | e :: _ =>
    let x := s.cx.queue q
    if !x.issued || x.last == some s.cx.now then s
    else if x.rstart || x.moved.isSome then (if s.injected s.cx.coreNumber then s.mismatchXfer q e else s.transfer q e)
    else if s.paced then s
    else { s with cx := s.cx.completeXfer q e }

/-- MQ's head ends once its last cycle has come, and the commands whose last chunk is in C complete. -/
def State.moveMatrix (s : State) : State :=
  let s1 := if s.cx.mqLast ≤ s.time && s.cx.mq.last != some s.cx.now then s.endMatrix false else s
  { s1 with cx := s1.cx.productsDone s1.time }

/-- NQ's head in service: TEND takes effect, FWAIT looks again (16 R341; 19 R398). -/
def State.movePort (s : State) : State :=
  match s.cx.nq.entries with
  | [] => s
  | e :: _ =>
    if !s.cx.nq.issued then s
    else if e.isTend then s.tendEffect
    else
      match s.portServes e with
      | .over s1 => { s1 with cx := s1.cx.retire .nq }
      | .waits s1 => s1
      | .stays => s
      | .fails f =>
        let s1 := s.takeFail 5 e.iaddr f
        { s1 with cx := { s1.cx with nq := { s1.cx.nq with issued := false } } }

/-! ## The phases of a cycle (02 R41 to R48; 12 R269) -/

/-- The place of a context's bank in the order of cores, and within its core of banks. -/
def Ctx.slotNumber (c : Ctx) : Nat := 2 * c.coreNumber + c.bank.toNat

/-- The resident contexts, in increasing package-wide core number (12 R269). -/
def State.inOrder (s : State) : List CtxRef :=
  ((s.ctxs.filter Ctx.resident).insertionSort fun a b => a.slotNumber ≤ b.slotNumber).map Ctx.ref

/-- The context may take a turn of its control unit, and its engines work. -/
def State.mayRun (s : State) (c : Ctx) : Bool := c.life == .running && !s.isFrozen c

/-- The head of a queue of the current context issues, which at the cycle's start (n) ran. -/
def State.issuePart (n : State) (q : Queue) (s : State) : State := if s.cx.resident then s.tryIssue n q else s

/-- Operations of a queue of the current context come to their ends, or go on, while it runs. -/
def State.movePart (q : Queue) (s : State) : State :=
  if !s.mayRun s.cx then s
  else match q with
    | .lq | .sq => s.moveOn q
    | .aq => { s with cx := s.cx.showRest s.cx.now }
    | .mq => s.moveMatrix
    | .nq => s.movePort

/-- The part of some queues of a context in a cycle, each in its turn: its head issues, and what has issued goes on (02 R45; 26 R475). snap is the
cycle's start, at which the context ran. -/
def State.queuePhase (snap : State) (qs : List Queue) (s : State) (r : CtxRef) : State :=
  match snap.focus r with
  | none => s
  | some n => if n.mayRun n.cx then s.withCtx r fun s => qs.foldl (fun s q => (State.issuePart n q s).movePart q) s else s

/-- The part of a core's engines in a cycle, after its control unit's turn: LQ, AQ, SQ and MQ. Its accesses to memory so stand with its control
unit's before those of the next core (12 R269). -/
def State.engines (snap s : State) (r : CtxRef) : State := snap.queuePhase [.lq, .aq, .sq, .mq] s r

/-- The arbiters of the benches that hold contexts (10 R222), among the commands that stood at the cycle's start. -/
def State.arbiters (snap s : State) : State :=
  (((snap.ctxs.filter fun c => c.resident && !c.isQuay && c.hasAcc && !snap.isFrozen c).map Ctx.benchNumber).eraseDups).foldl
    (fun s n => s.arbitrate snap n) s

/-- A context that has stopped: its issued operations complete, or stop at a boundary where a page fault drains it; the future that an FWAIT
in service awaits is looked at again; and after a page fault, where no line of another cause makes it a trap, the core's other bank runs (02
R47, R48; 13 R288; 14 R300). -/
def State.settle (s : State) : State :=
  let fault := s.cx.life == .faulted
  let s1 := s.drain fault
  let waits := s1.cx.nq.issued && s1.cx.nq.entries.head?.any fun e => match e.instr with | .fwait _ => true | _ => false
  let s2 := if waits then s1.movePort else s1
  if fault && s2.cx.trap.isNone then s2.wakeOther else s2

/-- The current context, idle, attempts a steal where one is due: in the cycle in which it became idle, and every 256 cycles from then (16
R333). -/
def State.idleSteal (s : State) : State :=
  if !s.isFrozen s.cx && s.cx.life == .idle && (s.cx.now - s.cx.idleAt) % 256 == 0 then s.steal else s

/-- A context that does not run: it settles, or begins what its inbox or run list holds (16 R332). -/
def State.restPhase (s : State) (r : CtxRef) : State :=
  s.withCtx r fun s =>
    if s.isFrozen s.cx then s
    else match s.cx.life with
      | .inactive | .trapped | .faulted => s.settle
      | .idle => if s.paced then s else s.chooseNext
      | .running | .unbound | .saved | .exited => s

/-- The steals of a cycle, after every owner's own dequeue, the lower member number first (16 R335). -/
def State.stealPhase (s : State) : State :=
  if s.paced then s
  else (s.inOrder.insertionSort fun a b => a.member ≤ b.member).foldl (fun s r => s.withCtx r State.idleSteal) s

/-- The watchdog of a context that runs; an operation in flight at the cycle's start holds it at zero (02 R46). -/
def State.watchPhase (snap s : State) (r : CtxRef) : State :=
  s.withCtx r fun s =>
    if !s.mayRun s.cx then s
    else if (snap.findCtx r).any Ctx.inFlight then { s with cx := { s.cx with wdog := 0 } }
    else s.watchdog

/-! ## The hub (16, 17, 19, 21, 23) -/

/-- The k-th flight takes one step. -/
def State.flightStep (s : State) (k : Nat) : State :=
  match s.flights[k]? with
  | none => s
  | some f => match f.load with
    | .arrival _ _ => s.arrive k
    | .packet _ _ _ _ => s.carryFlight k
    | .load _ _ | .store _ _ | .atomic _ _ _ _ _ => s.performRemote k

/-- The flights that p selects take a step each, in the list's order. -/
def State.flightSteps (p : Flight → Bool) (s : State) (k : Nat) : Nat → State
  | 0 => s
  | n + 1 =>
    let s1 := if s.flights[k]?.any p then s.flightStep k else s
    if s1.flights[k]? == s.flights[k]? then s1.flightSteps p (k + 1) n else s1.flightSteps p k n

/-- Who asks: a core by its number, then the hub's agents, then other packages by arrival port (12 R269). -/
def State.rank (s : State) (f : Flight) : Nat :=
  match f.origin with
  | .ctx c _ _ _ _ _ => (s.findCtx c).elim 1600 Ctx.coreNumber
  | .none | .link _ _ | .copy _ | .deferred => 1600
  | .node _ _ => 1601 + f.port

/-- The flights in the order in which one cycle serves them: packets that wait for their ports and task messages that wait at their target's port, in
the order in which they came (16 R331; 23 R442), then the rest by rank, those of one rank as they were launched (12 R269; 17 R354). -/
def State.orderFlights (s : State) : State :=
  let queued (f : Flight) : Bool := f.parked || match f.load with
    | .packet _ _ _ _ => true
    | .arrival _ _ | .load _ _ | .store _ _ | .atomic _ _ _ _ _ => false
  let key (f : Flight) : Nat := if queued f then 0 else s.rank f + 1
  { s with flights := s.flights.insertionSort fun f g => key f ≤ key g }

/-- The flights of this package's agents, or of others, take a step each. -/
def State.serveFlights (s : State) (others : Bool) : State :=
  let s1 := s.orderFlights
  s1.flightSteps (fun f => (match f.origin with | .node _ _ => true | .none | .link _ _ | .ctx _ _ _ _ _ _ | .copy _ | .deferred => false) == others) 0
    (2 * s1.flights.length)

/-- What reaches a cohort in the same cycle as its save takes effect before it: a member's waiting trap, its EXIT or TEND, and arrivals (02 R38; 16
R335; 17 R359). -/
def State.settleCohort (s : State) (n : BitVec 32) : State :=
  let member (s : State) : State :=
    let s1 := if s.cx.isRunning && !s.cx.after.isEmpty then s.takeAfter else s
    match s1.cx.exiting with
    | some st => if s1.cx.exitReady then s1.exitEffect st else s1
    | none => s1.tendEffect
  let s1 := (s.membersOf n).foldl (fun s m => s.withCtx ⟨n, m⟩ member) s
  let mine (f : Flight) : Bool := match f.load with
    | .arrival a _ => a.name == n
    | .load _ _ | .store _ _ | .atomic _ _ _ _ _ | .packet _ _ _ _ => false
  let s2 := s1.orderFlights
  s2.flightSteps mine 0 (2 * s2.flights.length)

/-- Saves and restores that a descriptor requested go on, a save after what its cycle brought to the cohort (14 R301, R306; 23 R468). -/
def State.transferStep (s : State) (t : Transfer) : State :=
  if t.isRestore then (if t.written || t.desc.isNone then s else s.acceptRestore t)
  else if t.written then s.saveDone t.name
  else if t.desc.isSome then
    let s1 := s.settleCohort t.name
    match s1.transferOf t.name false with
    | some t1 => s1.runSave t1
    | none => s1
  else s

/-- The stage of a cohort that is resident here. -/
def State.stageHere (s : State) (n : BitVec 32) : Option Nat := (s.ctxs.find? fun c => c.cohort == n && c.resident).map fun c => c.coord.stage.toNat

/-- A cohort of a launch is resident here in a higher stage, and is not among those saved with it: the management core frees its cores first (02
R28). A cohort one of whose members trapped for want of a feature moves whatever its stage (14 R307). -/
def State.higherStage (s : State) (n : BitVec 32) (with_ : List (BitVec 32)) : Bool :=
  (s.ctxs.find? fun c => c.cohort == n && c.resident).any fun c =>
    s.ctxs.any fun x => x.resident && x.launch == c.launch && decide (c.coord.stage.toNat < x.coord.stage.toNat) && !with_.contains x.cohort

/-- A member of a cohort trapped for want of a feature. -/
def State.lacksFeature (s : State) (n : BitVec 32) : Bool :=
  s.ctxs.any fun c => c.cohort == n && c.life == .trapped && c.trap.any fun t => t.cause == 0x03

/-- The management core may save a cohort: it can be saved, and each other cohort of a COLOC launch is saved with it (21 R419). -/
def State.mayPreempt (s : State) (r : SaveRequest) : Bool :=
  s.savable r.name && (s.transferOf r.name true).isNone && (s.fellows r.name).all (fun m => r.fellows.any (·.1 == m)) &&
    (!s.higherStage r.name (s.fellows r.name) || s.lacksFeature r.name)

/-- One cohort is saved by the management core, its images going where the request says. -/
def State.saveOne (s : State) (n : BitVec 32) (images : List (Nat × Word)) : State :=
  let s1 := match s.transferOf n false with
    | some t => s.putTransfer { t with images := images }
    | none => s.beginSave n none images
  match s1.transferOf n false with
  | some t => s1.runSave t
  | none => s1

/-- The management core pre-empts a cohort, and with it every other cohort of a COLOC launch, in non-increasing stage order (02 R28; 14 R301; 21
R419). -/
def State.preempt (s : State) (r : SaveRequest) : State :=
  let all := (r.name, r.images) :: r.fellows.filter fun x => (s.fellows r.name).contains x.1
  let order := all.insertionSort fun x y => (s.stageHere y.1).getD 0 ≤ (s.stageHere x.1).getD 0
  order.foldl (fun s x => s.saveOne x.1 x.2) s

/-- COHORT_SAVE: the save that a CTXST requested, or one that the management core decides on, with the images' addresses. -/
def execCohortSave (r : SaveRequest) (s0 : State) : Host.Outcome State Fault Refusal :=
  let s := (r.fellows.map Prod.fst).foldl State.settleCohort (s0.settleCohort r.name)
  .next (match s.transferOf r.name false with
    | some t => if t.desc.isSome then s.runSave t else if s.mayPreempt r then s.preempt r else s
    | none => if s.mayPreempt r then s.preempt r else s)

/-- Quay cores take one block each, and what waited for a page completes (23 R459, R462). -/
def State.quaySteps (s : State) : State :=
  let s0 := s.divertBlocks
  let s1 := ((s0.blocks.map BlockJob.quay).eraseDups).foldl State.blockStep s0
  s1.reductions.foldl (fun s r => s.reductionDone r.op) s1

/-- The submitted records are checked in their order (21 R412). -/
def State.submissionSteps (s : State) : State :=
  s.submissions.foldl (fun s x => s.checkSubmission x) { s with submissions := [] }

/-- What arrived in a cycle at a home that drains was decided there: it is delivered before DRAINING clears (17 R348, R359). -/
def State.endDrains (s : State) : State :=
  (s.dir.filter DirEntry.draining).foldl (fun s d => (s.drainDeferred d.name 4096).endDrain d.name) s

/-- A context saved by the management core stands in FWAIT on a future that has resolved, or on no future (19 R398). -/
def State.waitOver (s : State) (c : Ctx) : Bool :=
  c.life == .saved && c.imageAt.isSome && match c.nq.entries with
    | e :: _ => (match e.instr with
      | .fwait _ => !s.handleAway e.opa && (s.futureOf e.opa).all fun f => f.state == .resolved
      | _ => false)
    | [] => false

/-- The management core requests the restore of each cohort that it has saved and of which a member's FWAIT is over (19 R398). -/
def State.wakeSaved (s : State) : State :=
  (((s.ctxs.filter s.waitOver).map Ctx.cohort).eraseDups).foldl (fun s n =>
    if s.transfers.any (·.name == n) then s
    else
      let images := (s.savedOf n).filterMap fun m => ((s.findCtx ⟨n, m⟩).bind Ctx.imageAt).map fun a => (m, a)
      (s.mapCtxs fun c => if c.cohort == n then { c with imageAt := none } else c).beginRestore { name := n, images := images, slots := [], handed := none }) s

/-- The futures whose deadline comes with this cycle (19 R390). -/
def State.deadlines (s : State) : State := s.futures.foldl (fun s f => s.deadline f) s

/-- What the hub does in a cycle without an event: allocations and retirements of names first, then what arrives from this package's cores and
agents, the copies and blocks, what arrives from other packages (12 R269; 17 R359), and last the saves (02 R38). A deadline comes before the
end of its future's launch (19 R393). snap is the cycle's start: a walk that goes on in this cycle starts its node in a later one, and a
conditional node reads the memory of the cycle before (21 R423, R430). -/
def State.hub (s0 snap : State) : State :=
  let s1 := s0.deadlines.submissionSteps
  let s2 := s1.launches.foldl (fun s l => s.endLaunch l) s1.settleOwed
  let s3 := (s2.launches.foldl (fun s l => s.completeLaunch l false) s2).replayNext.bindPending.restorePending
  let s4 := (s3.walks.filter snap.walks.contains).foldl (fun s w => s.runWalk w.num none (some snap.mem)) s3
  let s5 := (s4.dir.filter DirEntry.draining).foldl (fun s d => s.drainDeferred d.name 4096) s4
  let s6 := s5.serveFlights false
  let s7 := s6.quaySteps.runCopies
  let s10 := (s7.finishFutures.serveFlights true).wakeSaved
  let s11 := s10.transfers.foldl (fun s t => s.transferStep t) (s10.endDrains.grantCredits)
  let s12 := (List.range 16).foldl (fun s r => if (s.hostRing r).late s.ns then s.raiseRing r else s) s11
  let s13 := s12.serveHead.switchFirmware
  (s13.benches.filter (·.toFence)).foldl (fun s b => s.endQuiesce b.num) s13

/-! ## A cycle -/

/-- The extra cycles that pass in this step. -/
def State.delay (s : State) : State × Nat :=
  match s.delays with
  | [] => (s, 0)
  | d :: rest => ({ s with delays := rest }, d)

/-- What the next cycle shows from its start: the rings of this one, data and channel entries that become visible, and what a WAITV is to read
again (02 R45; 08 R183; 12 R272). -/
def State.dawn (s : State) : State :=
  let s1 := s.inOrder.foldl (fun s r => s.withCtx r fun s =>
    if s.isFrozen s.cx then s else if s.cx.life == .running then s.showNow s.cx.now else s.showSends s.cx.now)
    { s.mapCtxs Ctx.cycleEnd with freed := [] }
  s1.mapCtxs s1.lookAgain

/-- A cycle after its turns and the core engines, snap being its start: the arbiters, NQ, the contexts that do not run, the hub unless it waits
for events, for the end of debug hold or is frozen, the bank switches, the watchdogs, the triggers and time. -/
def State.cycle (s snap : State) : State :=
  let s3 := snap.inOrder.foldl (snap.queuePhase [.nq]) (snap.arbiters s.stampFirst)
  let s4 := (s3.inOrder.foldl State.restPhase s3).stealPhase
  let s5 := if s4.paced then s4.deadlines else if s4.debugHold || bit s4.frozen 4 then s4 else s4.hub snap
  let s6 := if s5.paced then s5 else s5.bankTurns
  let s7 := (snap.captureNotes (s6.inOrder.foldl snap.watchPhase s6)).settleBarriers.settleTriggers.pass
  (if s7.paced || s7.debugHold || bit s7.frozen 4 then s7 else s7.traceCycle).dawn

/-- Cycles in which no control unit takes a turn (log entry 4). -/
def State.cycles_ (s : State) : Nat → State
  | 0 => s
  | n + 1 =>
    let snap := s.runLevels
    ((snap.inOrder.foldl snap.engines snap).cycle snap).cycles_ n

/-- The cycle around the turns, and the extra cycles that the schedule puts after it. -/
def State.around (s snap : State) : State :=
  let (s1, d) := s.delay
  (s1.cycle snap).cycles_ d

/-! ## Turns (02 R40, R41) -/

/-- NQ holds an instruction after which nothing is forwarded (16 R341; 19 R398). -/
def Ctx.portHolds (c : Ctx) : Bool :=
  c.nq.entries.any fun e => match e.instr with
    | .tend _ | .fwait _ => true
    | _ => false

/-- A cycle begins: the levels take the steps that are due (10 R234), and the contexts that take a turn in it are every one that runs, or the one
that the schedule names (log entry 4). -/
def State.turnOrder (s : State) : State × List CtxRef :=
  match s.turns with
  | r :: rest => (({ s with turns := rest } : State).runLevels, [r])
  | [] => (s.runLevels, s.inOrder.filter fun r => (s.findCtx r).any s.mayRun)

/-- What a turn meets. -/
inductive Turn where
  /-- No instruction is executed. -/
  | none (s : State)
  /-- The word at the program counter holds this instruction. -/
  | run (i : Instr) (s : State)

/-- The control unit's own check on an instruction fails, as injected: its result is not written (26 R482). -/
def State.mismatchCu (s : State) (i : Instr) : Bool :=
  s.injected s.cx.coreNumber &&
    match i.cuGuard with
    | some (pg, pn) => s.cx.guard pg pn && (s.decodeTrap i).isNone && s.cx.mayTurn (i.sync.getD Sync.plain)
    | none => false

/-- The turn of the current context: a trap that waits for this boundary, a wait behind NQ, or the instruction at its program
counter (05 R91, R95). -/
def State.meet (s : State) : Turn :=
  if !s.mayRun s.cx then .none s
  else if !s.cx.after.isEmpty then .none s.takeAfter
  else if s.cx.portHolds then .none (s.stalled false)
  else
    match s.fetch with
    | .error f => .none (s.takeFail 0 s.cx.pc f)
    | .ok (s1, w) =>
      match decode w with
      | none => .none (s1.badWord w)
      | some i =>
        if s1.mismatchCu i then
          .none (((s1.clearInj s1.cx.coreNumber).residueCheck 0x75 0 0).takeTrap (mismatchTrap 0 s1.cx.pc 0x75))
        else .run i s1

/-! ## The agenda (log entry 4) -/

/-- The instruction is an event, which the agenda may hold. -/
def isEvent (i : Instr) : Bool :=
  match i with
  | .unassignedMajorOpcode _ => false
  | _ => i.sync.isNone

/-- Events that take effect after a fatal machine check: a reset, the host's accesses to the window and its banks (26 R484), and its snoops,
whose answer nothing holds back (23 R467). -/
def whileFatal : Instr → Bool
  | .hostSnoop _ _ | .coldReset _ | .warmReset _ | .mcbStatusClear _ _ | .registerWindowWrite _ _ => true
  | _ => false

/-- An event of an agent whose clock domain is frozen: a core's, a bench's, or else one of the hub die; what ends a freeze is none (27 R493). -/
def State.standsStill (s : State) : Instr → Bool
  | .queueIssue c _ | .engineCompletion c _ | .watchdogExpiry c | .exitTakesEffect c | .tendTakesEffect c | .bankSwitch c | .matrixCompletion c
  | .taskDequeue c | .stealAttempt c | .runListRefill c | .redPoisonTrap c | .waitvReread c | .barrierWaitEnd c | .sample c =>
    (s.findCtx c).any s.isFrozen
  | .matrixGrant b | .levelStep b | .mhintHoldExpiry b | .recessStart b | .recessEnd b _ => bit s.frozen (min (b / 48) 3)
  | .freeze _ | .thaw _ | .debugHoldEnter | .debugHoldExit | .coldReset _ | .warmReset _ => false
  | _ => bit s.frozen 4

/-- What the agenda holds for this step. -/
inductive Due where
  | event (i : Instr) (s : State)
  | lost (s : State)
  | wrong
  /-- No event is due: the cycle, with the agenda one cycle nearer. -/
  | cycle (s : State)

/-- The agenda's head: due, lost to a fatal machine check or a freeze, no event, or still to come. -/
def State.due (s : State) : Due :=
  match s.agenda with
  | [] => .cycle s
  | (0, i) :: rest =>
    let s1 := { s with agenda := rest }
    if !isEvent i then .wrong else if (s.fatal && !whileFatal i) || s.standsStill i then .lost s1 else .event i s1
  | (n + 1, i) :: rest => .cycle { s with agenda := (n, i) :: rest }

/-! ## The events of chapter 2 -/

/-- QUEUE_ISSUE: the head of a queue issues, where every condition holds (02 R41). -/
def execQueueIssue (c : CtxRef) (q : Queue) (s : State) : Host.Outcome State Fault Refusal :=
  .next (s.withCtx c fun s => if s.cx.life == .running then s.tryIssue s q else s)

/-- The current context's issued operation of a queue completes (02 R42), in a later cycle than its issue: one of LQ or SQ at once, what the manual
times once its time has come (08 R182; 10 R233, R240 to R242). -/
def State.completeQueue (s : State) (q : Queue) : State :=
  match q with
  | .lq => if s.cx.lq.last == some s.cx.now then s else s.endXfer .lq false
  | .sq => if s.cx.sq.last == some s.cx.now then s else s.endXfer .sq false
  | .aq => let s1 := s.showNow s.cx.now; { s1 with cx := s1.cx.showRest s.cx.now }
  | .mq => s.moveMatrix
  | .nq => s.movePort

/-- ENGINE_COMPLETION (02 R42). -/
def execEngineCompletion (c : CtxRef) (q : Queue) (s : State) : Host.Outcome State Fault Refusal :=
  .next (s.withCtx c fun s => if s.cx.life == .running then s.completeQueue q else s)

/-- WATCHDOG_EXPIRY: the count of a context that is held reaches its limit with this cycle (02 R46). -/
def execWatchdogExpiry (c : CtxRef) (s : State) : Host.Outcome State Fault Refusal :=
  .next (s.withCtx c fun s => if s.cx.life == .running && s.cx.wdogOver then s.watchdog else s)

end Sys2Proof.Machine
end

