-- ==== Sys2Proof/Machine/Dispatch.lean ====
section
/-! DEFINITION. The dispatch of one instruction or event to its meaning, one arm per row of the opcode table. -/

namespace Sys2Proof.Machine

/-- The effect of an instruction of the current context, or of an event, on the package. -/
def exec (i : Instr) (s : State) : Host.Outcome State Fault Refusal :=
  match i with
  | .nop o => Sys2Proof.Machine.execNop o s
  | .add o => Sys2Proof.Machine.execAdd o s
  | .sub o => Sys2Proof.Machine.execSub o s
  | .mul o => Sys2Proof.Machine.execMul o s
  | .div o => Sys2Proof.Machine.execDiv o s
  | .divu o => Sys2Proof.Machine.execDivu o s
  | .rem o => Sys2Proof.Machine.execRem o s
  | .remu o => Sys2Proof.Machine.execRemu o s
  | .and_ o => Sys2Proof.Machine.execAnd o s
  | .or_ o => Sys2Proof.Machine.execOr o s
  | .xor_ o => Sys2Proof.Machine.execXor o s
  | .shl o => Sys2Proof.Machine.execShl o s
  | .shr o => Sys2Proof.Machine.execShr o s
  | .sra o => Sys2Proof.Machine.execSra o s
  | .slt o => Sys2Proof.Machine.execSlt o s
  | .sltu o => Sys2Proof.Machine.execSltu o s
  | .min o => Sys2Proof.Machine.execMin o s
  | .minu o => Sys2Proof.Machine.execMinu o s
  | .max o => Sys2Proof.Machine.execMax o s
  | .maxu o => Sys2Proof.Machine.execMaxu o s
  | .clz o => Sys2Proof.Machine.execClz o s
  | .ctz o => Sys2Proof.Machine.execCtz o s
  | .popc o => Sys2Proof.Machine.execPopc o s
  | .addi o => Sys2Proof.Machine.execAddi o s
  | .muli o => Sys2Proof.Machine.execMuli o s
  | .divi o => Sys2Proof.Machine.execDivi o s
  | .remi o => Sys2Proof.Machine.execRemi o s
  | .divui o => Sys2Proof.Machine.execDivui o s
  | .remui o => Sys2Proof.Machine.execRemui o s
  | .slti o => Sys2Proof.Machine.execSlti o s
  | .sltui o => Sys2Proof.Machine.execSltui o s
  | .andi o => Sys2Proof.Machine.execAndi o s
  | .ori o => Sys2Proof.Machine.execOri o s
  | .xori o => Sys2Proof.Machine.execXori o s
  | .shli o => Sys2Proof.Machine.execShli o s
  | .shri o => Sys2Proof.Machine.execShri o s
  | .srai o => Sys2Proof.Machine.execSrai o s
  | .li o => Sys2Proof.Machine.execLi o s
  | .lui o => Sys2Proof.Machine.execLui o s
  | .lea o => Sys2Proof.Machine.execLea o s
  | .sel o => Sys2Proof.Machine.execSel o s
  | .pcmp c o => Sys2Proof.Machine.execPcmp c o s
  | .pand o => Sys2Proof.Machine.execPand o s
  | .por o => Sys2Proof.Machine.execPor o s
  | .pnot o => Sys2Proof.Machine.execPnot o s
  | .b o => Sys2Proof.Machine.execB o s
  | .call o => Sys2Proof.Machine.execCall o s
  | .ret o => Sys2Proof.Machine.execRet o s
  | .loop o => Sys2Proof.Machine.execLoop o s
  | .rotset o => Sys2Proof.Machine.execRotset o s
  | .csrr o => Sys2Proof.Machine.execCsrr o s
  | .csrw o => Sys2Proof.Machine.execCsrw o s
  | .csrs o => Sys2Proof.Machine.execCsrs o s
  | .csrc o => Sys2Proof.Machine.execCsrc o s
  | .slip o => Sys2Proof.Machine.execSlip o s
  | .qsync o => Sys2Proof.Machine.execQsync o s
  | .shp o => Sys2Proof.Machine.execShp o s
  | .shpx c o => Sys2Proof.Machine.execShpx c o s
  | .feat o => Sys2Proof.Machine.execFeat o s
  | .bells o => Sys2Proof.Machine.execBells o s
  | .bellw o => Sys2Proof.Machine.execBellw o s
  | .trap o => Sys2Proof.Machine.execTrap o s
  | .brk o => Sys2Proof.Machine.execBrk o s
  | .exit o => Sys2Proof.Machine.execExit o s
  | .yield o => Sys2Proof.Machine.execYield o s
  | .snapr o => Sys2Proof.Machine.execSnapr o s
  | .ld o => Sys2Proof.Machine.execLd o s
  | .ldu o => Sys2Proof.Machine.execLdu o s
  | .st o => Sys2Proof.Machine.execSt o s
  | .lda o => Sys2Proof.Machine.execLda o s
  | .stl o => Sys2Proof.Machine.execStl o s
  | .amo o => Sys2Proof.Machine.execAmo o s
  | .amocas o => Sys2Proof.Machine.execAmocas o s
  | .red o => Sys2Proof.Machine.execRed o s
  | .fence o => Sys2Proof.Machine.execFence o s
  | .waitv o => Sys2Proof.Machine.execWaitv o s
  | .dcwb o => Sys2Proof.Machine.execDcwb o s
  | .dcinv o => Sys2Proof.Machine.execDcinv o s
  | .xlat o => Sys2Proof.Machine.execXlat o s
  | .migr o => Sys2Proof.Machine.execMigr o s
  | .halloc o => Sys2Proof.Machine.execHalloc o s
  | .hfree o => Sys2Proof.Machine.execHfree o s
  | .tlbinv o => Sys2Proof.Machine.execTlbinv o s
  | .ctxst o => Sys2Proof.Machine.execCtxst o s
  | .ctxld o => Sys2Proof.Machine.execCtxld o s
  | .mwrr o => Sys2Proof.Machine.execMwrr o s
  | .binit o => Sys2Proof.Machine.execBinit o s
  | .breg o => Sys2Proof.Machine.execBreg o s
  | .barv o => Sys2Proof.Machine.execBarv o s
  | .barw o => Sys2Proof.Machine.execBarw o s
  | .barvw o => Sys2Proof.Machine.execBarvw o s
  | .bdrop o => Sys2Proof.Machine.execBdrop o s
  | .btest o => Sys2Proof.Machine.execBtest o s
  | .tld o => Sys2Proof.Machine.execTld o s
  | .tldx o => Sys2Proof.Machine.execTldx o s
  | .tldv o => Sys2Proof.Machine.execTldv o s
  | .vldb o => Sys2Proof.Machine.execVldb o s
  | .tgath o => Sys2Proof.Machine.execTgath o s
  | .vgath o => Sys2Proof.Machine.execVgath o s
  | .tfill o => Sys2Proof.Machine.execTfill o s
  | .tcpy o => Sys2Proof.Machine.execTcpy o s
  | .vldt o => Sys2Proof.Machine.execVldt o s
  | .unfcfg o => Sys2Proof.Machine.execUnfcfg o s
  | .pft o => Sys2Proof.Machine.execPft o s
  | .tstat o => Sys2Proof.Machine.execTstat o s
  | .tst o => Sys2Proof.Machine.execTst o s
  | .tstv o => Sys2Proof.Machine.execTstv o s
  | .tscat o => Sys2Proof.Machine.execTscat o s
  | .vstt o => Sys2Proof.Machine.execVstt o s
  | .trel o => Sys2Proof.Machine.execTrel o s
  | .vadd o => Sys2Proof.Machine.execVadd o s
  | .vsub o => Sys2Proof.Machine.execVsub o s
  | .vmul o => Sys2Proof.Machine.execVmul o s
  | .vfma o => Sys2Proof.Machine.execVfma o s
  | .vfms o => Sys2Proof.Machine.execVfms o s
  | .vmin o => Sys2Proof.Machine.execVmin o s
  | .vmax o => Sys2Proof.Machine.execVmax o s
  | .vabs o => Sys2Proof.Machine.execVabs o s
  | .vneg o => Sys2Proof.Machine.execVneg o s
  | .vrcp o => Sys2Proof.Machine.execVrcp o s
  | .vrsq o => Sys2Proof.Machine.execVrsq o s
  | .vsqrt o => Sys2Proof.Machine.execVsqrt o s
  | .vexp2 o => Sys2Proof.Machine.execVexp2 o s
  | .vlog2 o => Sys2Proof.Machine.execVlog2 o s
  | .vcmp o => Sys2Proof.Machine.execVcmp o s
  | .vselm o => Sys2Proof.Machine.execVselm o s
  | .vand o => Sys2Proof.Machine.execVand o s
  | .vor o => Sys2Proof.Machine.execVor o s
  | .vxor o => Sys2Proof.Machine.execVxor o s
  | .vnot o => Sys2Proof.Machine.execVnot o s
  | .vshl o => Sys2Proof.Machine.execVshl o s
  | .vshr o => Sys2Proof.Machine.execVshr o s
  | .vcvt o => Sys2Proof.Machine.execVcvt o s
  | .vqnt o => Sys2Proof.Machine.execVqnt o s
  | .vdqnt o => Sys2Proof.Machine.execVdqnt o s
  | .vbcast o => Sys2Proof.Machine.execVbcast o s
  | .vmov o => Sys2Proof.Machine.execVmov o s
  | .vmovFrom o => Sys2Proof.Machine.execVmovFrom o s
  | .vmovTo o => Sys2Proof.Machine.execVmovTo o s
  | .vext o => Sys2Proof.Machine.execVext o s
  | .vins o => Sys2Proof.Machine.execVins o s
  | .vredsum o => Sys2Proof.Machine.execVredsum o s
  | .vredmax o => Sys2Proof.Machine.execVredmax o s
  | .vredmin o => Sys2Proof.Machine.execVredmin o s
  | .vargmax o => Sys2Proof.Machine.execVargmax o s
  | .vargmin o => Sys2Proof.Machine.execVargmin o s
  | .vscan o => Sys2Proof.Machine.execVscan o s
  | .vtrn o => Sys2Proof.Machine.execVtrn o s
  | .vshf o => Sys2Proof.Machine.execVshf o s
  | .vpermr o => Sys2Proof.Machine.execVpermr o s
  | .vbaddq o => Sys2Proof.Machine.execVbaddq o s
  | .vrng o => Sys2Proof.Machine.execVrng o s
  | .vmlog o => Sys2Proof.Machine.execVmlog o s
  | .mma o => Sys2Proof.Machine.execMma o s
  | .mmaz o => Sys2Proof.Machine.execMmaz o s
  | .mmau o => Sys2Proof.Machine.execMmau o s
  | .amld o => Sys2Proof.Machine.execAmld o s
  | .amldStat o => Sys2Proof.Machine.execAmldStat o s
  | .amst o => Sys2Proof.Machine.execAmst o s
  | .amz o => Sys2Proof.Machine.execAmz o s
  | .mhint o => Sys2Proof.Machine.execMhint o s
  | .msync o => Sys2Proof.Machine.execMsync o s
  | .rstv o => Sys2Proof.Machine.execRstv o s
  | .rstvRel o => Sys2Proof.Machine.execRstvRel o s
  | .vexp o => Sys2Proof.Machine.execVexp o s
  | .cname o => Sys2Proof.Machine.execCname o s
  | .amsg o => Sys2Proof.Machine.execAmsg o s
  | .mcst o => Sys2Proof.Machine.execMcst o s
  | .redst o => Sys2Proof.Machine.execRedst o s
  | .cpy o => Sys2Proof.Machine.execCpy o s
  | .cpyw o => Sys2Proof.Machine.execCpyw o s
  | .taskq o => Sys2Proof.Machine.execTaskq o s
  | .taskdec o => Sys2Proof.Machine.execTaskdec o s
  | .tend o => Sys2Proof.Machine.execTend o s
  | .qsnap o => Sys2Proof.Machine.execQsnap o s
  | .fcall o => Sys2Proof.Machine.execFcall o s
  | .fwait o => Sys2Proof.Machine.execFwait o s
  | .fpoll o => Sys2Proof.Machine.execFpoll o s
  | .fdone o => Sys2Proof.Machine.execFdone o s
  | .flink o => Sys2Proof.Machine.execFlink o s
  | .fcancel o => Sys2Proof.Machine.execFcancel o s
  | .adref o => Sys2Proof.Machine.execAdref o s
  | .launch o => Sys2Proof.Machine.execLaunch o s
  | .graphgo o => Sys2Proof.Machine.execGraphgo o s
  | .hring o => Sys2Proof.Machine.execHring o s
  | .unassignedMajorOpcode w => Sys2Proof.Machine.execUnassignedMajorOpcode w s
  | .queueIssue c q => Sys2Proof.Machine.execQueueIssue c q s
  | .engineCompletion c q => Sys2Proof.Machine.execEngineCompletion c q s
  | .pageFaultAnswer c a => Sys2Proof.Machine.execPageFaultAnswer c a s
  | .trapDecision c => Sys2Proof.Machine.execTrapDecision c s
  | .watchdogExpiry c => Sys2Proof.Machine.execWatchdogExpiry c s
  | .exitTakesEffect c => Sys2Proof.Machine.execExitTakesEffect c s
  | .tendTakesEffect c => Sys2Proof.Machine.execTendTakesEffect c s
  | .bankSwitch c => Sys2Proof.Machine.execBankSwitch c s
  | .cohortSave r => Sys2Proof.Machine.execCohortSave r s
  | .saveDone name => Sys2Proof.Machine.execSaveDone name s
  | .cohortRestore r => Sys2Proof.Machine.execCohortRestore r s
  | .cohortMigration name node cluster => Sys2Proof.Machine.execCohortMigration name node cluster s
  | .cohortBind launch k slots => Sys2Proof.Machine.execCohortBind launch k slots s
  | .standingBind launch k slots => Sys2Proof.Machine.execStandingBind launch k slots s
  | .launchRecordArrival r => Sys2Proof.Machine.execLaunchRecordArrival r s
  | .launchCompletion launch => Sys2Proof.Machine.execLaunchCompletion launch s
  | .launchDoorbell pa => Sys2Proof.Machine.execLaunchDoorbell pa s
  | .graphDoorbell pa => Sys2Proof.Machine.execGraphDoorbell pa s
  | .nodeLaunch walk => Sys2Proof.Machine.execNodeLaunch walk s
  | .nodeCopy walk => Sys2Proof.Machine.execNodeCopy walk s
  | .nodeWaitOnWord walk => Sys2Proof.Machine.execNodeWaitOnWord walk s
  | .nodeSignalWord walk => Sys2Proof.Machine.execNodeSignalWord walk s
  | .nodeConditional walk => Sys2Proof.Machine.execNodeConditional walk s
  | .nodeHostRingDrain walk => Sys2Proof.Machine.execNodeHostRingDrain walk s
  | .nodeEnd walk => Sys2Proof.Machine.execNodeEnd walk s
  | .graphWaitTimeout walk => Sys2Proof.Machine.execGraphWaitTimeout walk s
  | .hostRingTimeRule r => Sys2Proof.Machine.execHostRingTimeRule r s
  | .matrixGrant bench => Sys2Proof.Machine.execMatrixGrant bench s
  | .matrixCompletion c => Sys2Proof.Machine.execMatrixCompletion c s
  | .levelStep bench => Sys2Proof.Machine.execLevelStep bench s
  | .mhintHoldExpiry bench => Sys2Proof.Machine.execMhintHoldExpiry bench s
  | .taskDequeue c => Sys2Proof.Machine.execTaskDequeue c s
  | .stealAttempt c => Sys2Proof.Machine.execStealAttempt c s
  | .runListRefill c => Sys2Proof.Machine.execRunListRefill c s
  | .taskDecrementArrival k => Sys2Proof.Machine.execTaskDecrementArrival k s
  | .counterSettingArrival k => Sys2Proof.Machine.execCounterSettingArrival k s
  | .registerStoreArrival k => Sys2Proof.Machine.execRegisterStoreArrival k s
  | .busyRetry k => Sys2Proof.Machine.execBusyRetry k s
  | .deferredDelivery name => Sys2Proof.Machine.execDeferredDelivery name s
  | .activeMessageArrival k => Sys2Proof.Machine.execActiveMessageArrival k s
  | .remoteLoad k => Sys2Proof.Machine.execRemoteLoad k s
  | .remoteStore k => Sys2Proof.Machine.execRemoteStore k s
  | .remoteAtomic k => Sys2Proof.Machine.execRemoteAtomic k s
  | .blockReduction quay => Sys2Proof.Machine.execBlockReduction quay s
  | .copyComplete k => Sys2Proof.Machine.execCopyComplete k s
  | .redPoisonTrap c => Sys2Proof.Machine.execRedPoisonTrap c s
  | .waitvReread c => Sys2Proof.Machine.execWaitvReread c s
  | .barrierWaitEnd c => Sys2Proof.Machine.execBarrierWaitEnd c s
  | .resolveOk tool handle => Sys2Proof.Machine.execResolveOk tool handle s
  | .resolveErr tool handle => Sys2Proof.Machine.execResolveErr tool handle s
  | .resolveOutcome tool => Sys2Proof.Machine.execResolveOutcome tool s
  | .remoteResolve payload => Sys2Proof.Machine.execRemoteResolve payload s
  | .futureDeadline index => Sys2Proof.Machine.execFutureDeadline index s
  | .futureResolution index => Sys2Proof.Machine.execFutureResolution index s
  | .adapterLoadDone entry addr cause => Sys2Proof.Machine.execAdapterLoadDone entry addr cause s
  | .sandboxViolation tool addr => Sys2Proof.Machine.execSandboxViolation tool addr s
  | .pageMigration m => Sys2Proof.Machine.execPageMigration m s
  | .packetReceive port flits => Sys2Proof.Machine.execPacketReceive port flits s
  | .ackReceive port seq => Sys2Proof.Machine.execAckReceive port seq s
  | .nakReceive port seq => Sys2Proof.Machine.execNakReceive port seq s
  | .replayDone port => Sys2Proof.Machine.execReplayDone port s
  | .laneFailure port lane => Sys2Proof.Machine.execLaneFailure port lane s
  | .linkTrained port seq => Sys2Proof.Machine.execLinkTrained port seq s
  | .retrainTimeout port => Sys2Proof.Machine.execRetrainTimeout port s
  | .trainingRequest port => Sys2Proof.Machine.execTrainingRequest port s
  | .detourInstall dest order => Sys2Proof.Machine.execDetourInstall dest order s
  | .keyPhaseSwitch port => Sys2Proof.Machine.execKeyPhaseSwitch port s
  | .retireReceive port => Sys2Proof.Machine.execRetireReceive port s
  | .partitionDissolve ports => Sys2Proof.Machine.execPartitionDissolve ports s
  | .hostSnoop line exclusive => Sys2Proof.Machine.execHostSnoop line exclusive s
  | .hostAtomic pa op double x => Sys2Proof.Machine.execHostAtomic pa op double x s
  | .patrolScrub line bad synd => Sys2Proof.Machine.execPatrolScrub line bad synd s
  | .recessStart bench => Sys2Proof.Machine.execRecessStart bench s
  | .recessEnd bench failing => Sys2Proof.Machine.execRecessEnd bench failing s
  | .powerWindow watts celsius => Sys2Proof.Machine.execPowerWindow watts celsius s
  | .coldReset boots => Sys2Proof.Machine.execColdReset boots s
  | .warmReset boots => Sys2Proof.Machine.execWarmReset boots s
  | .traceTailFlush ring => Sys2Proof.Machine.execTraceTailFlush ring s
  | .sample c => Sys2Proof.Machine.execSample c s
  | .triggerArm n value => Sys2Proof.Machine.execTriggerArm n value s
  | .freeze domains => Sys2Proof.Machine.execFreeze domains s
  | .thaw domains => Sys2Proof.Machine.execThaw domains s
  | .mcbStatusClear bank value => Sys2Proof.Machine.execMcbStatusClear bank value s
  | .registerWindowWrite offset value => Sys2Proof.Machine.execRegisterWindowWrite offset value s
  | .hostMemoryAccess pa access => Sys2Proof.Machine.execHostMemoryAccess pa access s
  | .toolCoreAccess tool access => Sys2Proof.Machine.execToolCoreAccess tool access s
  | .creditReceive port cls vc n => Sys2Proof.Machine.execCreditReceive port cls vc n s
  | .waitOnWordReread walk => Sys2Proof.Machine.execWaitOnWordReread walk s
  | .hostLinkLoss lost synd => Sys2Proof.Machine.execHostLinkLoss lost synd s
  | .dieToDieLinkEvent link synd => Sys2Proof.Machine.execDieToDieLinkEvent link synd s
  | .podFormation dx dy dz place => Sys2Proof.Machine.execPodFormation dx dy dz place s
  | .clockStepUp => Sys2Proof.Machine.execClockStepUp s
  | .firmwareSwitch => Sys2Proof.Machine.execFirmwareSwitch s
  | .debugHoldEnter => Sys2Proof.Machine.execDebugHoldEnter s
  | .keyset => Sys2Proof.Machine.execKeyset s
  | .keyerase => Sys2Proof.Machine.execKeyerase s
  | .tool => Sys2Proof.Machine.execTool s
  | .adapter => Sys2Proof.Machine.execAdapter s
  | .handler => Sys2Proof.Machine.execHandler s
  | .binding => Sys2Proof.Machine.execBinding s
  | .terminate => Sys2Proof.Machine.execTerminate s
  | .stop => Sys2Proof.Machine.execStop s
  | .release => Sys2Proof.Machine.execRelease s
  | .sampleConfig => Sys2Proof.Machine.execSampleConfig s
  | .service => Sys2Proof.Machine.execService s
  | .update => Sys2Proof.Machine.execUpdate s
  | .attest => Sys2Proof.Machine.execAttest s
  | .debugHoldExit => Sys2Proof.Machine.execDebugHoldExit s
  | .lockstepMismatch => Sys2Proof.Machine.execLockstepMismatch s
  | .securityBlockFault => Sys2Proof.Machine.execSecurityBlockFault s

end Sys2Proof.Machine
end

