-- ==== Sys2Proof/Machine/Step.lean ====
section
/-! DEFINITION. One step of the package: an event that is due, or a cycle: the turns of the control units, and what surrounds them. -/

namespace Sys2Proof.Machine

/-- The cores of a list have their part of a cycle, in order: the control unit of a context that takes a turn meets what it holds (05 R91; 02
R40, R41), and its engines follow (12 R269). -/
def takeTurns (snap : State) (who : List CtxRef) : List CtxRef → State → Host.Outcome State Fault Refusal
  | [], s => .next s
  | r :: rest, s =>
    match (if who.contains r then s.focus r else none) with
    | none => takeTurns snap who rest (snap.engines s r)
    | some s1 =>
      match s1.meet with
      | .none s2 => takeTurns snap who rest (snap.engines s2 r)
      | .run i s2 =>
        match exec i s2 with
        | .next s3 => takeTurns snap who rest (snap.engines s3 r)
        | .fault f => .fault f
        | .refused r => .refused r

/-- The turns and the core engines of a cycle. -/
def State.turnsTaken (s : State) : Host.Outcome State Fault Refusal :=
  takeTurns s.turnOrder.1 s.turnOrder.2 s.turnOrder.1.inOrder s.turnOrder.1

/-- One step: the event at the head of the agenda, where one is due; else, unless a fatal machine check has stopped every issue (26
R484), a cycle: a turn of the control unit of every context that runs, and the engines and the hub (05 R91; 02 R40 to R49). -/
def step (s : State) : Host.Outcome State Fault Refusal :=
  match s.due with
  | .event i s1 => exec i s1
  | .lost s1 => .next s1
  | .wrong => .refused .agendaHoldsNoEvent
  | .cycle s1 =>
    if s1.fatal then .fault .fatalMachineCheck
    else
      match s1.turnsTaken with
      | .next s2 => .next (s2.around s1.turnOrder.1)
      | .fault f => .fault f
      | .refused r => .refused r

/-- The context that a host bind leaves ready to run one instruction: privileged, with accumulators and channels, its program at
virtual address 0x4000. -/
def fetchCtx : Ctx :=
  { Ctx.reset with life := .running, priv := true, hasAcc := true, hasChan := true, pc := 0x4000, root := 0x10000, asid := 1, nmem := 1,
                   cohort := 0x100, abext := 4096, wbext := 4096 }

/-- The page tables of that context: one page of 1 GiB, with every permission, at its own address. -/
def fetchTables (node : Nat) (m : List Host.Cell) : List Host.Cell :=
  Memory.write (Memory.write m (devKey node 0x10000) (wordBytes 0x8000000000020000)) (devKey node 0x20000) (wordBytes 0x8BE0000000000000)

/-- The state with an instruction stored where the next step fetches: a context is bound, since reset leaves none, and runs at the word
(log entry 28). -/
def State.withFetchWord (s : State) (_nbits w : Nat) : State :=
  { s with cx := fetchCtx, others := [], agenda := [], turns := [], tlbs := [], poison := [], fatal := false, frozen := 0, node := 0
           mem := Memory.write (fetchTables 0 s.mem) (devKey 0 0x4000) (leBytes 8 (w % 2 ^ 64)) }

end Sys2Proof.Machine
end

