-- ==== Sys2Proof/Laws/Word.lean ====
section
/-! SUPPORT. Lemmas about fields and their places in a word: what a placed field reads as below, within and above its bits. -/

namespace Sys2Proof

theorem place_below {n : Nat} (x : BitVec n) (off i : Nat) (h : i < off) : (place x off).getLsbD i = false := by
  simp [place, BitVec.getLsbD_shiftLeft, h]

theorem place_above {n : Nat} (x : BitVec n) (off i : Nat) (h : off + n ≤ i) : (place x off).getLsbD i = false := by
  simp only [place, BitVec.getLsbD_shiftLeft, Bool.and_eq_false_iff]
  exact .inr (by simp only [BitVec.getLsbD_setWidth, BitVec.getLsbD_of_ge x (i - off) (by omega), Bool.and_false])

theorem place_within {n : Nat} (x : BitVec n) (off i : Nat) (h : off + i < 64) : (place x off).getLsbD (off + i) = x.getLsbD i := by
  simp only [place, BitVec.getLsbD_shiftLeft, h, BitVec.getLsbD_setWidth]
  simp only [show ¬ off + i < off by omega, show off + i - off = i by omega, show i < 64 by omega, decide_true, decide_false,
    Bool.not_false, Bool.true_and]

theorem place_first {n : Nat} (x : BitVec n) (off : Nat) (h : off < 64) : (place x off).getLsbD off = x.getLsbD 0 := by
  simpa using place_within x off 0 (by omega)

/-- A field is what its bits are. -/
theorem field_eq_of_bits {n w : Nat} (x : BitVec n) (off : Nat) (y : BitVec w)
    (h : ∀ i, i < w → x.getLsbD (off + i) = y.getLsbD i) : field x off w = y := by
  ext i hi
  simp only [field, BitVec.getElem_extractLsb', h i hi, BitVec.getLsbD_eq_getElem hi]

/-- Bits of a field. -/
theorem field_getLsbD {n : Nat} (x : BitVec n) (off w i : Nat) (h : i < w) : (field x off w).getLsbD i = x.getLsbD (off + i) := by
  simp [field, h]

/-- s[n] of a zero word: no bit is set. -/
theorem place_zero {n : Nat} (off : Nat) : place (0 : BitVec n) off = 0 := by
  simp [place]

end Sys2Proof
end

