-- ==== Sys2Proof/Laws/Decode.lean ====
section
/-! SUPPORT. The fields of an encoded word read back as they were placed: one lemma per operand-field family for its fields, its
major opcode and its function code (05 R91, R99). -/

set_option linter.unusedSimpArgs false
set_option linter.unusedTactic false
set_option linter.unreachableTactic false

namespace Sys2Proof

theorem decode_control {w : Word} {m : Nat} (h : majorOf w = m) (k : m < 0x30) : decode w = decodeControl w m := by
  subst h; simp [decode, k]

theorem decode_memory {w : Word} {m : Nat} (h : majorOf w = m) (k : 0x30 ≤ m ∧ m < 0x40) : decode w = decodeMemory w m := by
  subst h; simp only [decode]; rw [if_neg (by omega), if_pos (by omega)]

theorem decode_tiles {w : Word} {m : Nat} (h : majorOf w = m) (k : 0x40 ≤ m ∧ m < 0x70) : decode w = decodeTiles w m := by
  subst h; simp only [decode]; rw [if_neg (by omega), if_neg (by omega), if_pos (by omega)]

theorem decode_port {w : Word} {m : Nat} (h : majorOf w = m) (k : 0x70 ≤ m ∧ m < 0x80) : decode w = decodePort w m := by
  subst h; simp only [decode]; rw [if_neg (by omega), if_neg (by omega), if_neg (by omega), if_pos (by omega)]

theorem decode_vector {w : Word} {m : Nat} (h : majorOf w = m) (k : 0x80 ≤ m ∧ m < 0xC0) : decode w = decodeVector w m := by
  subst h; simp only [decode]; rw [if_neg (by omega), if_neg (by omega), if_neg (by omega), if_neg (by omega), if_pos (by omega)]

theorem decode_matrix {w : Word} {m : Nat} (h : majorOf w = m) (k : 0xC0 ≤ m ∧ m < 0xD0) : decode w = decodeMatrix w m := by
  subst h; simp only [decode]
  rw [if_neg (by omega), if_neg (by omega), if_neg (by omega), if_neg (by omega), if_neg (by omega), if_pos (by omega)]

theorem decode_system {w : Word} {m : Nat} (h : majorOf w = m) (k : 0xD0 ≤ m) : decode w = decodeSystem w m := by
  subst h; simp only [decode]
  rw [if_neg (by omega), if_neg (by omega), if_neg (by omega), if_neg (by omega), if_neg (by omega), if_neg (by omega)]

theorem SR.major_toWord (o : SR) (maj f : Nat) : field (o.toWord maj f) 40 8 = BitVec.ofNat 8 maj := by
  refine field_eq_of_bits _ _ _ fun i hi => ?_
  simp only [SR.toWord]
  simp (disch := omega) only [BitVec.getLsbD_or, place_below, place_above, place_within, place_first, Bool.or_false, Bool.false_or]

theorem SR.fn_toWord (o : SR) (maj f : Nat) : field (o.toWord maj f) 16 5 = BitVec.ofNat 5 f := by
  refine field_eq_of_bits _ _ _ fun i hi => ?_
  simp only [SR.toWord]
  simp (disch := omega) only [BitVec.getLsbD_or, place_below, place_above, place_within, place_first, Bool.or_false, Bool.false_or]

theorem SR.zero_toWord (o : SR) (maj f : Nat) : field (o.toWord maj f) 0 16 = 0 := by
  refine field_eq_of_bits _ _ _ fun i hi => ?_
  simp only [SR.toWord]
  simp (disch := omega) only [BitVec.getLsbD_or, place_below, place_above, place_within, place_first, Bool.or_false, Bool.false_or]
  simp

theorem SR.ofWord_toWord (o : SR) (maj f : Nat) : SR.ofWord (o.toWord maj f) = o := by
  obtain ⟨⟨wait, sig⟩, _⟩ := o
  simp only [SR.ofWord, Sync.ofWord, SR.mk.injEq, Sync.mk.injEq]
  refine ⟨⟨?_, ?_⟩, ?_, ?_, ?_, ?_, ?_⟩
  all_goals first
    | (refine field_eq_of_bits _ _ _ fun i hi => ?_
       simp only [SR.toWord]
       simp (disch := omega) only [BitVec.getLsbD_or, place_below, place_above, place_within, place_first, Bool.or_false, Bool.false_or])
    | (simp only [bit, SR.toWord]
       simp (disch := omega) only [BitVec.getLsbD_or, place_below, place_above, place_within, place_first, Bool.or_false, Bool.false_or]
       simp)

theorem SI.major_toWord (o : SI) (maj f : Nat) : field (o.toWord maj f) 40 8 = BitVec.ofNat 8 maj := by
  refine field_eq_of_bits _ _ _ fun i hi => ?_
  simp only [SI.toWord]
  simp (disch := omega) only [BitVec.getLsbD_or, place_below, place_above, place_within, place_first, Bool.or_false, Bool.false_or]

theorem SI.fn_toWord (o : SI) (maj f : Nat) : field (o.toWord maj f) 24 2 = BitVec.ofNat 2 f := by
  refine field_eq_of_bits _ _ _ fun i hi => ?_
  simp only [SI.toWord]
  simp (disch := omega) only [BitVec.getLsbD_or, place_below, place_above, place_within, place_first, Bool.or_false, Bool.false_or]

theorem SI.ofWord_toWord (o : SI) (maj f : Nat) : SI.ofWord (o.toWord maj f) = o := by
  obtain ⟨⟨wait, sig⟩, _⟩ := o
  simp only [SI.ofWord, Sync.ofWord, SI.mk.injEq, Sync.mk.injEq]
  refine ⟨⟨?_, ?_⟩, ?_, ?_, ?_, ?_, ?_⟩
  all_goals first
    | (refine field_eq_of_bits _ _ _ fun i hi => ?_
       simp only [SI.toWord]
       simp (disch := omega) only [BitVec.getLsbD_or, place_below, place_above, place_within, place_first, Bool.or_false, Bool.false_or])
    | (simp only [bit, SI.toWord]
       simp (disch := omega) only [BitVec.getLsbD_or, place_below, place_above, place_within, place_first, Bool.or_false, Bool.false_or]
       simp)

theorem LI.major_toWord (o : LI) (maj f : Nat) : field (o.toWord maj f) 40 8 = BitVec.ofNat 8 maj := by
  refine field_eq_of_bits _ _ _ fun i hi => ?_
  simp only [LI.toWord]
  simp (disch := omega) only [BitVec.getLsbD_or, place_below, place_above, place_within, place_first, Bool.or_false, Bool.false_or]

theorem LI.fn_toWord (o : LI) (maj f : Nat) : field (o.toWord maj f) 32 3 = BitVec.ofNat 3 f := by
  refine field_eq_of_bits _ _ _ fun i hi => ?_
  simp only [LI.toWord]
  simp (disch := omega) only [BitVec.getLsbD_or, place_below, place_above, place_within, place_first, Bool.or_false, Bool.false_or]

theorem LI.ofWord_toWord (o : LI) (maj f : Nat) : LI.ofWord (o.toWord maj f) = o := by
  obtain ⟨⟨wait, sig⟩, _⟩ := o
  simp only [LI.ofWord, Sync.ofWord, LI.mk.injEq, Sync.mk.injEq]
  refine ⟨⟨?_, ?_⟩, ?_, ?_⟩
  all_goals first
    | (refine field_eq_of_bits _ _ _ fun i hi => ?_
       simp only [LI.toWord]
       simp (disch := omega) only [BitVec.getLsbD_or, place_below, place_above, place_within, place_first, Bool.or_false, Bool.false_or])
    | (simp only [bit, LI.toWord]
       simp (disch := omega) only [BitVec.getLsbD_or, place_below, place_above, place_within, place_first, Bool.or_false, Bool.false_or]
       simp)

theorem BR.major_toWord (o : BR) (maj f : Nat) : field (o.toWord maj f) 40 8 = BitVec.ofNat 8 maj := by
  refine field_eq_of_bits _ _ _ fun i hi => ?_
  simp only [BR.toWord]
  simp (disch := omega) only [BitVec.getLsbD_or, place_below, place_above, place_within, place_first, Bool.or_false, Bool.false_or]

theorem BR.fn_toWord (o : BR) (maj f : Nat) : field (o.toWord maj f) 28 3 = BitVec.ofNat 3 f := by
  refine field_eq_of_bits _ _ _ fun i hi => ?_
  simp only [BR.toWord]
  simp (disch := omega) only [BitVec.getLsbD_or, place_below, place_above, place_within, place_first, Bool.or_false, Bool.false_or]

theorem BR.ofWord_toWord (o : BR) (maj f : Nat) : BR.ofWord (o.toWord maj f) = o := by
  obtain ⟨⟨wait, sig⟩, _⟩ := o
  simp only [BR.ofWord, Sync.ofWord, BR.mk.injEq, Sync.mk.injEq]
  refine ⟨⟨?_, ?_⟩, ?_, ?_, ?_, ?_⟩
  all_goals first
    | (refine field_eq_of_bits _ _ _ fun i hi => ?_
       simp only [BR.toWord]
       simp (disch := omega) only [BitVec.getLsbD_or, place_below, place_above, place_within, place_first, Bool.or_false, Bool.false_or])
    | (simp only [bit, BR.toWord]
       simp (disch := omega) only [BitVec.getLsbD_or, place_below, place_above, place_within, place_first, Bool.or_false, Bool.false_or]
       simp)

theorem M.major_toWord (o : M) (maj : Nat) : field (o.toWord maj) 40 8 = BitVec.ofNat 8 maj := by
  refine field_eq_of_bits _ _ _ fun i hi => ?_
  simp only [M.toWord]
  simp (disch := omega) only [BitVec.getLsbD_or, place_below, place_above, place_within, place_first, Bool.or_false, Bool.false_or]

theorem M.ofWord_toWord (o : M) (maj : Nat) : M.ofWord (o.toWord maj) = o := by
  obtain ⟨⟨wait, sig⟩, _⟩ := o
  simp only [M.ofWord, Sync.ofWord, M.mk.injEq, Sync.mk.injEq]
  refine ⟨⟨?_, ?_⟩, ?_, ?_, ?_, ?_, ?_, ?_, ?_, ?_⟩
  all_goals first
    | (refine field_eq_of_bits _ _ _ fun i hi => ?_
       simp only [M.toWord]
       simp (disch := omega) only [BitVec.getLsbD_or, place_below, place_above, place_within, place_first, Bool.or_false, Bool.false_or])
    | (simp only [bit, M.toWord]
       simp (disch := omega) only [BitVec.getLsbD_or, place_below, place_above, place_within, place_first, Bool.or_false, Bool.false_or]
       simp)

theorem T.major_toWord (o : T) (maj : Nat) : field (o.toWord maj) 40 8 = BitVec.ofNat 8 maj := by
  refine field_eq_of_bits _ _ _ fun i hi => ?_
  simp only [T.toWord]
  simp (disch := omega) only [BitVec.getLsbD_or, place_below, place_above, place_within, place_first, Bool.or_false, Bool.false_or]

theorem T.fn_toWord (o : T) (maj : Nat) : field (o.toWord maj) 8 5 = 0 := by
  refine field_eq_of_bits _ _ _ fun i hi => ?_
  simp only [T.toWord]
  simp (disch := omega) only [BitVec.getLsbD_or, place_below, place_above, place_within, place_first, Bool.or_false, Bool.false_or]
  simp

theorem T.ofWord_toWord (o : T) (maj : Nat) : T.ofWord (o.toWord maj) = o := by
  obtain ⟨⟨wait, sig⟩, _⟩ := o
  simp only [T.ofWord, Sync.ofWord, T.mk.injEq, Sync.mk.injEq]
  refine ⟨⟨?_, ?_⟩, ?_, ?_, ?_, ?_, ?_, ?_, ?_, ?_⟩
  all_goals first
    | (refine field_eq_of_bits _ _ _ fun i hi => ?_
       simp only [T.toWord]
       simp (disch := omega) only [BitVec.getLsbD_or, place_below, place_above, place_within, place_first, Bool.or_false, Bool.false_or])
    | (simp only [bit, T.toWord]
       simp (disch := omega) only [BitVec.getLsbD_or, place_below, place_above, place_within, place_first, Bool.or_false, Bool.false_or]
       simp)

theorem V.major_toWord (o : V) (maj : Nat) : field (o.toWord maj) 40 8 = BitVec.ofNat 8 maj := by
  refine field_eq_of_bits _ _ _ fun i hi => ?_
  simp only [V.toWord]
  simp (disch := omega) only [BitVec.getLsbD_or, place_below, place_above, place_within, place_first, Bool.or_false, Bool.false_or]

theorem V.fn_toWord (o : V) (maj : Nat) : field (o.toWord maj) 0 5 = o.fn := by
  refine field_eq_of_bits _ _ _ fun i hi => ?_
  simp only [V.toWord]
  simp (disch := omega) only [BitVec.getLsbD_or, place_below, place_above, place_within, place_first, Bool.or_false, Bool.false_or]

theorem V.ofWord_toWord (o : V) (maj : Nat) : V.ofWord (o.toWord maj) = o := by
  obtain ⟨⟨wait, sig⟩, _⟩ := o
  simp only [V.ofWord, Sync.ofWord, V.mk.injEq, Sync.mk.injEq]
  refine ⟨⟨?_, ?_⟩, ?_, ?_, ?_, ?_, ?_, ?_, ?_, ?_⟩
  all_goals first
    | (refine field_eq_of_bits _ _ _ fun i hi => ?_
       simp only [V.toWord]
       simp (disch := omega) only [BitVec.getLsbD_or, place_below, place_above, place_within, place_first, Bool.or_false, Bool.false_or])
    | (simp only [bit, V.toWord]
       simp (disch := omega) only [BitVec.getLsbD_or, place_below, place_above, place_within, place_first, Bool.or_false, Bool.false_or]
       simp)

theorem X.major_toWord (o : X) (maj f : Nat) : field (o.toWord maj f) 40 8 = BitVec.ofNat 8 maj := by
  refine field_eq_of_bits _ _ _ fun i hi => ?_
  simp only [X.toWord]
  simp (disch := omega) only [BitVec.getLsbD_or, place_below, place_above, place_within, place_first, Bool.or_false, Bool.false_or]

theorem X.fn_toWord (o : X) (maj f : Nat) : field (o.toWord maj f) 8 4 = BitVec.ofNat 4 f := by
  refine field_eq_of_bits _ _ _ fun i hi => ?_
  simp only [X.toWord]
  simp (disch := omega) only [BitVec.getLsbD_or, place_below, place_above, place_within, place_first, Bool.or_false, Bool.false_or]

theorem X.ofWord_toWord (o : X) (maj f : Nat) : X.ofWord (o.toWord maj f) = o := by
  obtain ⟨⟨wait, sig⟩, _⟩ := o
  simp only [X.ofWord, Sync.ofWord, X.mk.injEq, Sync.mk.injEq]
  refine ⟨⟨?_, ?_⟩, ?_, ?_, ?_, ?_, ?_, ?_, ?_⟩
  all_goals first
    | (refine field_eq_of_bits _ _ _ fun i hi => ?_
       simp only [X.toWord]
       simp (disch := omega) only [BitVec.getLsbD_or, place_below, place_above, place_within, place_first, Bool.or_false, Bool.false_or])
    | (simp only [bit, X.toWord]
       simp (disch := omega) only [BitVec.getLsbD_or, place_below, place_above, place_within, place_first, Bool.or_false, Bool.false_or]
       simp)

theorem N.major_toWord (o : N) (maj f : Nat) : field (o.toWord maj f) 40 8 = BitVec.ofNat 8 maj := by
  refine field_eq_of_bits _ _ _ fun i hi => ?_
  simp only [N.toWord]
  simp (disch := omega) only [BitVec.getLsbD_or, place_below, place_above, place_within, place_first, Bool.or_false, Bool.false_or]

theorem N.fn_toWord (o : N) (maj f : Nat) : field (o.toWord maj f) 11 5 = BitVec.ofNat 5 f := by
  refine field_eq_of_bits _ _ _ fun i hi => ?_
  simp only [N.toWord]
  simp (disch := omega) only [BitVec.getLsbD_or, place_below, place_above, place_within, place_first, Bool.or_false, Bool.false_or]

theorem N.ofWord_toWord (o : N) (maj f : Nat) : N.ofWord (o.toWord maj f) = o := by
  obtain ⟨⟨wait, sig⟩, _⟩ := o
  simp only [N.ofWord, Sync.ofWord, N.mk.injEq, Sync.mk.injEq]
  refine ⟨⟨?_, ?_⟩, ?_, ?_, ?_, ?_, ?_, ?_⟩
  all_goals first
    | (refine field_eq_of_bits _ _ _ fun i hi => ?_
       simp only [N.toWord]
       simp (disch := omega) only [BitVec.getLsbD_or, place_below, place_above, place_within, place_first, Bool.or_false, Bool.false_or])
    | (simp only [bit, N.toWord]
       simp (disch := omega) only [BitVec.getLsbD_or, place_below, place_above, place_within, place_first, Bool.or_false, Bool.false_or]
       simp)

end Sys2Proof
end

