-- ==== Sys2Proof/Laws/PerInstr.lean ====
section
/-! SUPPORT. The family RoundTrip of per-instruction lemmas: the decoder gives back every well-formed instruction that the encoder
turned into a word (05 R91 to R109). -/

namespace Sys2Proof.Laws.RoundTrip

open Sys2Proof

set_option Elab.async false

/-- An instruction that has a word (an event has none) and whose fields are legal is what its word decodes to. -/
def Statement (i : Instr) : Prop := i.sync.isSome = true → i.wellFormed = true → decode (encode i) = some i

theorem nop (o : Sync) : Statement (.nop o) := by
  intro _ _
  have zero : ∀ (off w : Nat), off + w ≤ 48 → field (encode (.nop o)) off w = 0 := by
    intro off w h
    refine field_eq_of_bits _ _ _ fun i hi => ?_
    simp only [encode]
    simp (disch := omega) only [BitVec.getLsbD_or, place_below, Bool.or_false]
    simp
  rw [decode_control (m := 0) (by simp [majorOf, zero]) (by decide)]
  simp only [decodeControl, zero 0 40 (by omega), BEq.rfl, if_true]
  obtain ⟨wait, sig⟩ := o
  simp only [Sync.ofWord, Option.some.injEq, Instr.nop.injEq, Sync.mk.injEq]
  refine ⟨?_, ?_⟩ <;>
    (refine field_eq_of_bits _ _ _ fun i hi => ?_
     simp only [encode]
     simp (disch := omega) only [BitVec.getLsbD_or, place_below, place_above, place_within, Bool.or_false, Bool.false_or])

theorem add (o : SR) : Statement (.add o) := by
  intro _ _
  rw [show encode (.add o) = o.toWord 0x01 0 from rfl,
    decode_control (m := 0x01) (by simp [majorOf, SR.major_toWord]) (by decide)]
  simp [decodeControl, SR.ofWord_toWord, SR.fn_toWord, SR.zero_toWord]

theorem sub (o : SR) : Statement (.sub o) := by
  intro _ _
  rw [show encode (.sub o) = o.toWord 0x01 1 from rfl,
    decode_control (m := 0x01) (by simp [majorOf, SR.major_toWord]) (by decide)]
  simp [decodeControl, SR.ofWord_toWord, SR.fn_toWord, SR.zero_toWord]

theorem mul (o : SR) : Statement (.mul o) := by
  intro _ _
  rw [show encode (.mul o) = o.toWord 0x01 2 from rfl,
    decode_control (m := 0x01) (by simp [majorOf, SR.major_toWord]) (by decide)]
  simp [decodeControl, SR.ofWord_toWord, SR.fn_toWord, SR.zero_toWord]

theorem div (o : SR) : Statement (.div o) := by
  intro _ _
  rw [show encode (.div o) = o.toWord 0x01 3 from rfl,
    decode_control (m := 0x01) (by simp [majorOf, SR.major_toWord]) (by decide)]
  simp [decodeControl, SR.ofWord_toWord, SR.fn_toWord, SR.zero_toWord]

theorem divu (o : SR) : Statement (.divu o) := by
  intro _ _
  rw [show encode (.divu o) = o.toWord 0x01 4 from rfl,
    decode_control (m := 0x01) (by simp [majorOf, SR.major_toWord]) (by decide)]
  simp [decodeControl, SR.ofWord_toWord, SR.fn_toWord, SR.zero_toWord]

theorem rem (o : SR) : Statement (.rem o) := by
  intro _ _
  rw [show encode (.rem o) = o.toWord 0x01 5 from rfl,
    decode_control (m := 0x01) (by simp [majorOf, SR.major_toWord]) (by decide)]
  simp [decodeControl, SR.ofWord_toWord, SR.fn_toWord, SR.zero_toWord]

theorem remu (o : SR) : Statement (.remu o) := by
  intro _ _
  rw [show encode (.remu o) = o.toWord 0x01 6 from rfl,
    decode_control (m := 0x01) (by simp [majorOf, SR.major_toWord]) (by decide)]
  simp [decodeControl, SR.ofWord_toWord, SR.fn_toWord, SR.zero_toWord]

theorem and_ (o : SR) : Statement (.and_ o) := by
  intro _ _
  rw [show encode (.and_ o) = o.toWord 0x01 8 from rfl,
    decode_control (m := 0x01) (by simp [majorOf, SR.major_toWord]) (by decide)]
  simp [decodeControl, SR.ofWord_toWord, SR.fn_toWord, SR.zero_toWord]

theorem or_ (o : SR) : Statement (.or_ o) := by
  intro _ _
  rw [show encode (.or_ o) = o.toWord 0x01 9 from rfl,
    decode_control (m := 0x01) (by simp [majorOf, SR.major_toWord]) (by decide)]
  simp [decodeControl, SR.ofWord_toWord, SR.fn_toWord, SR.zero_toWord]

theorem xor_ (o : SR) : Statement (.xor_ o) := by
  intro _ _
  rw [show encode (.xor_ o) = o.toWord 0x01 10 from rfl,
    decode_control (m := 0x01) (by simp [majorOf, SR.major_toWord]) (by decide)]
  simp [decodeControl, SR.ofWord_toWord, SR.fn_toWord, SR.zero_toWord]

theorem shl (o : SR) : Statement (.shl o) := by
  intro _ _
  rw [show encode (.shl o) = o.toWord 0x01 12 from rfl,
    decode_control (m := 0x01) (by simp [majorOf, SR.major_toWord]) (by decide)]
  simp [decodeControl, SR.ofWord_toWord, SR.fn_toWord, SR.zero_toWord]

theorem shr (o : SR) : Statement (.shr o) := by
  intro _ _
  rw [show encode (.shr o) = o.toWord 0x01 13 from rfl,
    decode_control (m := 0x01) (by simp [majorOf, SR.major_toWord]) (by decide)]
  simp [decodeControl, SR.ofWord_toWord, SR.fn_toWord, SR.zero_toWord]

theorem sra (o : SR) : Statement (.sra o) := by
  intro _ _
  rw [show encode (.sra o) = o.toWord 0x01 14 from rfl,
    decode_control (m := 0x01) (by simp [majorOf, SR.major_toWord]) (by decide)]
  simp [decodeControl, SR.ofWord_toWord, SR.fn_toWord, SR.zero_toWord]

theorem slt (o : SR) : Statement (.slt o) := by
  intro _ _
  rw [show encode (.slt o) = o.toWord 0x01 16 from rfl,
    decode_control (m := 0x01) (by simp [majorOf, SR.major_toWord]) (by decide)]
  simp [decodeControl, SR.ofWord_toWord, SR.fn_toWord, SR.zero_toWord]

theorem sltu (o : SR) : Statement (.sltu o) := by
  intro _ _
  rw [show encode (.sltu o) = o.toWord 0x01 17 from rfl,
    decode_control (m := 0x01) (by simp [majorOf, SR.major_toWord]) (by decide)]
  simp [decodeControl, SR.ofWord_toWord, SR.fn_toWord, SR.zero_toWord]

theorem min (o : SR) : Statement (.min o) := by
  intro _ _
  rw [show encode (.min o) = o.toWord 0x01 18 from rfl,
    decode_control (m := 0x01) (by simp [majorOf, SR.major_toWord]) (by decide)]
  simp [decodeControl, SR.ofWord_toWord, SR.fn_toWord, SR.zero_toWord]

theorem minu (o : SR) : Statement (.minu o) := by
  intro _ _
  rw [show encode (.minu o) = o.toWord 0x01 19 from rfl,
    decode_control (m := 0x01) (by simp [majorOf, SR.major_toWord]) (by decide)]
  simp [decodeControl, SR.ofWord_toWord, SR.fn_toWord, SR.zero_toWord]

theorem max (o : SR) : Statement (.max o) := by
  intro _ _
  rw [show encode (.max o) = o.toWord 0x01 20 from rfl,
    decode_control (m := 0x01) (by simp [majorOf, SR.major_toWord]) (by decide)]
  simp [decodeControl, SR.ofWord_toWord, SR.fn_toWord, SR.zero_toWord]

theorem maxu (o : SR) : Statement (.maxu o) := by
  intro _ _
  rw [show encode (.maxu o) = o.toWord 0x01 21 from rfl,
    decode_control (m := 0x01) (by simp [majorOf, SR.major_toWord]) (by decide)]
  simp [decodeControl, SR.ofWord_toWord, SR.fn_toWord, SR.zero_toWord]

theorem clz (o : SR) : Statement (.clz o) := by
  intro _ _
  rw [show encode (.clz o) = o.toWord 0x01 24 from rfl,
    decode_control (m := 0x01) (by simp [majorOf, SR.major_toWord]) (by decide)]
  simp [decodeControl, SR.ofWord_toWord, SR.fn_toWord, SR.zero_toWord]

theorem ctz (o : SR) : Statement (.ctz o) := by
  intro _ _
  rw [show encode (.ctz o) = o.toWord 0x01 25 from rfl,
    decode_control (m := 0x01) (by simp [majorOf, SR.major_toWord]) (by decide)]
  simp [decodeControl, SR.ofWord_toWord, SR.fn_toWord, SR.zero_toWord]

theorem popc (o : SR) : Statement (.popc o) := by
  intro _ _
  rw [show encode (.popc o) = o.toWord 0x01 26 from rfl,
    decode_control (m := 0x01) (by simp [majorOf, SR.major_toWord]) (by decide)]
  simp [decodeControl, SR.ofWord_toWord, SR.fn_toWord, SR.zero_toWord]

theorem addi (o : SI) : Statement (.addi o) := by
  intro _ _
  rw [show encode (.addi o) = o.toWord 0x02 0 from rfl,
    decode_control (m := 0x02) (by simp [majorOf, SI.major_toWord]) (by decide)]
  simp [decodeControl, SI.ofWord_toWord, SI.fn_toWord]

theorem muli (o : SI) : Statement (.muli o) := by
  intro _ _
  rw [show encode (.muli o) = o.toWord 0x02 1 from rfl,
    decode_control (m := 0x02) (by simp [majorOf, SI.major_toWord]) (by decide)]
  simp [decodeControl, SI.ofWord_toWord, SI.fn_toWord]

theorem divi (o : SI) : Statement (.divi o) := by
  intro _ _
  rw [show encode (.divi o) = o.toWord 0x02 2 from rfl,
    decode_control (m := 0x02) (by simp [majorOf, SI.major_toWord]) (by decide)]
  simp [decodeControl, SI.ofWord_toWord, SI.fn_toWord]

theorem remi (o : SI) : Statement (.remi o) := by
  intro _ _
  rw [show encode (.remi o) = o.toWord 0x02 3 from rfl,
    decode_control (m := 0x02) (by simp [majorOf, SI.major_toWord]) (by decide)]
  simp [decodeControl, SI.ofWord_toWord, SI.fn_toWord]

theorem divui (o : SI) : Statement (.divui o) := by
  intro _ _
  rw [show encode (.divui o) = o.toWord 0x03 0 from rfl,
    decode_control (m := 0x03) (by simp [majorOf, SI.major_toWord]) (by decide)]
  simp [decodeControl, SI.ofWord_toWord, SI.fn_toWord]

theorem remui (o : SI) : Statement (.remui o) := by
  intro _ _
  rw [show encode (.remui o) = o.toWord 0x03 1 from rfl,
    decode_control (m := 0x03) (by simp [majorOf, SI.major_toWord]) (by decide)]
  simp [decodeControl, SI.ofWord_toWord, SI.fn_toWord]

theorem slti (o : SI) : Statement (.slti o) := by
  intro _ _
  rw [show encode (.slti o) = o.toWord 0x03 2 from rfl,
    decode_control (m := 0x03) (by simp [majorOf, SI.major_toWord]) (by decide)]
  simp [decodeControl, SI.ofWord_toWord, SI.fn_toWord]

theorem sltui (o : SI) : Statement (.sltui o) := by
  intro _ _
  rw [show encode (.sltui o) = o.toWord 0x03 3 from rfl,
    decode_control (m := 0x03) (by simp [majorOf, SI.major_toWord]) (by decide)]
  simp [decodeControl, SI.ofWord_toWord, SI.fn_toWord]

theorem andi (o : SI) : Statement (.andi o) := by
  intro _ _
  rw [show encode (.andi o) = o.toWord 0x04 0 from rfl,
    decode_control (m := 0x04) (by simp [majorOf, SI.major_toWord]) (by decide)]
  simp [decodeControl, SI.ofWord_toWord, SI.fn_toWord]

theorem ori (o : SI) : Statement (.ori o) := by
  intro _ _
  rw [show encode (.ori o) = o.toWord 0x04 1 from rfl,
    decode_control (m := 0x04) (by simp [majorOf, SI.major_toWord]) (by decide)]
  simp [decodeControl, SI.ofWord_toWord, SI.fn_toWord]

theorem xori (o : SI) : Statement (.xori o) := by
  intro _ _
  rw [show encode (.xori o) = o.toWord 0x04 2 from rfl,
    decode_control (m := 0x04) (by simp [majorOf, SI.major_toWord]) (by decide)]
  simp [decodeControl, SI.ofWord_toWord, SI.fn_toWord]

theorem shli (o : SI) : Statement (.shli o) := by
  intro _ _
  rw [show encode (.shli o) = o.toWord 0x05 0 from rfl,
    decode_control (m := 0x05) (by simp [majorOf, SI.major_toWord]) (by decide)]
  simp [decodeControl, SI.ofWord_toWord, SI.fn_toWord]

theorem shri (o : SI) : Statement (.shri o) := by
  intro _ _
  rw [show encode (.shri o) = o.toWord 0x05 1 from rfl,
    decode_control (m := 0x05) (by simp [majorOf, SI.major_toWord]) (by decide)]
  simp [decodeControl, SI.ofWord_toWord, SI.fn_toWord]

theorem srai (o : SI) : Statement (.srai o) := by
  intro _ _
  rw [show encode (.srai o) = o.toWord 0x05 2 from rfl,
    decode_control (m := 0x05) (by simp [majorOf, SI.major_toWord]) (by decide)]
  simp [decodeControl, SI.ofWord_toWord, SI.fn_toWord]

theorem li (o : LI) : Statement (.li o) := by
  intro _ _
  rw [show encode (.li o) = o.toWord 0x08 0 from rfl,
    decode_control (m := 0x08) (by simp [majorOf, LI.major_toWord]) (by decide)]
  simp [decodeControl, LI.ofWord_toWord, LI.fn_toWord]

theorem lui (o : LI) : Statement (.lui o) := by
  intro _ _
  rw [show encode (.lui o) = o.toWord 0x08 1 from rfl,
    decode_control (m := 0x08) (by simp [majorOf, LI.major_toWord]) (by decide)]
  simp [decodeControl, LI.ofWord_toWord, LI.fn_toWord]

theorem lea (o : LI) : Statement (.lea o) := by
  intro _ _
  rw [show encode (.lea o) = o.toWord 0x08 2 from rfl,
    decode_control (m := 0x08) (by simp [majorOf, LI.major_toWord]) (by decide)]
  simp [decodeControl, LI.ofWord_toWord, LI.fn_toWord]

theorem sel (o : SR) : Statement (.sel o) := by
  intro _ _
  rw [show encode (.sel o) = o.toWord 0x09 0 from rfl,
    decode_control (m := 0x09) (by simp [majorOf, SR.major_toWord]) (by decide)]
  simp [decodeControl, SR.ofWord_toWord, SR.fn_toWord, SR.zero_toWord]

theorem pcmp (c : PCond) (o : SR) : Statement (.pcmp c o) := by
  intro _ _
  cases c <;>
    (simp only [encode]
     rw [decode_control (m := 0x0A) (by simp [majorOf, SR.major_toWord]) (by decide)]
     simp [decodeControl, SR.ofWord_toWord, SR.fn_toWord, SR.zero_toWord])

theorem pand (o : SR) : Statement (.pand o) := by
  intro _ _
  rw [show encode (.pand o) = o.toWord 0x0B 0 from rfl,
    decode_control (m := 0x0B) (by simp [majorOf, SR.major_toWord]) (by decide)]
  simp [decodeControl, SR.ofWord_toWord, SR.fn_toWord, SR.zero_toWord]

theorem por (o : SR) : Statement (.por o) := by
  intro _ _
  rw [show encode (.por o) = o.toWord 0x0B 1 from rfl,
    decode_control (m := 0x0B) (by simp [majorOf, SR.major_toWord]) (by decide)]
  simp [decodeControl, SR.ofWord_toWord, SR.fn_toWord, SR.zero_toWord]

theorem pnot (o : SR) : Statement (.pnot o) := by
  intro _ _
  rw [show encode (.pnot o) = o.toWord 0x0B 2 from rfl,
    decode_control (m := 0x0B) (by simp [majorOf, SR.major_toWord]) (by decide)]
  simp [decodeControl, SR.ofWord_toWord, SR.fn_toWord, SR.zero_toWord]

theorem b (o : BR) : Statement (.b o) := by
  intro _ _
  rw [show encode (.b o) = o.toWord 0x10 0 from rfl,
    decode_control (m := 0x10) (by simp [majorOf, BR.major_toWord]) (by decide)]
  simp [decodeControl, BR.ofWord_toWord, BR.fn_toWord]

theorem call (o : BR) : Statement (.call o) := by
  intro _ _
  rw [show encode (.call o) = o.toWord 0x10 1 from rfl,
    decode_control (m := 0x10) (by simp [majorOf, BR.major_toWord]) (by decide)]
  simp [decodeControl, BR.ofWord_toWord, BR.fn_toWord]

theorem ret (o : BR) : Statement (.ret o) := by
  intro _ _
  rw [show encode (.ret o) = o.toWord 0x10 2 from rfl,
    decode_control (m := 0x10) (by simp [majorOf, BR.major_toWord]) (by decide)]
  simp [decodeControl, BR.ofWord_toWord, BR.fn_toWord]

theorem loop (o : BR) : Statement (.loop o) := by
  intro _ _
  rw [show encode (.loop o) = o.toWord 0x10 3 from rfl,
    decode_control (m := 0x10) (by simp [majorOf, BR.major_toWord]) (by decide)]
  simp [decodeControl, BR.ofWord_toWord, BR.fn_toWord]

theorem rotset (o : SI) : Statement (.rotset o) := by
  intro _ _
  rw [show encode (.rotset o) = o.toWord 0x11 0 from rfl,
    decode_control (m := 0x11) (by simp [majorOf, SI.major_toWord]) (by decide)]
  simp [decodeControl, SI.ofWord_toWord, SI.fn_toWord]

theorem csrr (o : SI) : Statement (.csrr o) := by
  intro _ _
  rw [show encode (.csrr o) = o.toWord 0x18 0 from rfl,
    decode_control (m := 0x18) (by simp [majorOf, SI.major_toWord]) (by decide)]
  simp [decodeControl, SI.ofWord_toWord, SI.fn_toWord]

theorem csrw (o : SI) : Statement (.csrw o) := by
  intro _ _
  rw [show encode (.csrw o) = o.toWord 0x18 1 from rfl,
    decode_control (m := 0x18) (by simp [majorOf, SI.major_toWord]) (by decide)]
  simp [decodeControl, SI.ofWord_toWord, SI.fn_toWord]

theorem csrs (o : SI) : Statement (.csrs o) := by
  intro _ _
  rw [show encode (.csrs o) = o.toWord 0x18 2 from rfl,
    decode_control (m := 0x18) (by simp [majorOf, SI.major_toWord]) (by decide)]
  simp [decodeControl, SI.ofWord_toWord, SI.fn_toWord]

theorem csrc (o : SI) : Statement (.csrc o) := by
  intro _ _
  rw [show encode (.csrc o) = o.toWord 0x18 3 from rfl,
    decode_control (m := 0x18) (by simp [majorOf, SI.major_toWord]) (by decide)]
  simp [decodeControl, SI.ofWord_toWord, SI.fn_toWord]

theorem slip (o : SI) : Statement (.slip o) := by
  intro _ _
  rw [show encode (.slip o) = o.toWord 0x19 0 from rfl,
    decode_control (m := 0x19) (by simp [majorOf, SI.major_toWord]) (by decide)]
  simp [decodeControl, SI.ofWord_toWord, SI.fn_toWord]

theorem qsync (o : SI) : Statement (.qsync o) := by
  intro _ _
  rw [show encode (.qsync o) = o.toWord 0x19 1 from rfl,
    decode_control (m := 0x19) (by simp [majorOf, SI.major_toWord]) (by decide)]
  simp [decodeControl, SI.ofWord_toWord, SI.fn_toWord]

theorem shp (o : SR) : Statement (.shp o) := by
  intro _ _
  rw [show encode (.shp o) = o.toWord 0x1A 0 from rfl,
    decode_control (m := 0x1A) (by simp [majorOf, SR.major_toWord]) (by decide)]
  simp [decodeControl, SR.ofWord_toWord, SR.fn_toWord, SR.zero_toWord]

theorem shpx (c : ShpxField) (o : SI) : Statement (.shpx c o) := by
  intro _ _
  cases c <;>
    (simp only [encode]
     rw [decode_control (m := 0x1B) (by simp [majorOf, SI.major_toWord]) (by decide)]
     simp [decodeControl, SI.ofWord_toWord, SI.fn_toWord])

theorem feat (o : SI) : Statement (.feat o) := by
  intro _ _
  rw [show encode (.feat o) = o.toWord 0x1D 0 from rfl,
    decode_control (m := 0x1D) (by simp [majorOf, SI.major_toWord]) (by decide)]
  simp [decodeControl, SI.ofWord_toWord, SI.fn_toWord]

theorem bells (o : SI) : Statement (.bells o) := by
  intro _ _
  rw [show encode (.bells o) = o.toWord 0xD3 0 from rfl,
    decode_system (m := 0xD3) (by simp [majorOf, SI.major_toWord]) (by decide)]
  simp [decodeSystem, SI.ofWord_toWord, SI.fn_toWord]

theorem bellw (o : SI) : Statement (.bellw o) := by
  intro _ _
  rw [show encode (.bellw o) = o.toWord 0xD3 1 from rfl,
    decode_system (m := 0xD3) (by simp [majorOf, SI.major_toWord]) (by decide)]
  simp [decodeSystem, SI.ofWord_toWord, SI.fn_toWord]

theorem trap (o : SI) : Statement (.trap o) := by
  intro _ _
  rw [show encode (.trap o) = o.toWord 0xD1 0 from rfl,
    decode_system (m := 0xD1) (by simp [majorOf, SI.major_toWord]) (by decide)]
  simp [decodeSystem, SI.ofWord_toWord, SI.fn_toWord]

theorem brk (o : SI) : Statement (.brk o) := by
  intro _ _
  rw [show encode (.brk o) = o.toWord 0xD1 1 from rfl,
    decode_system (m := 0xD1) (by simp [majorOf, SI.major_toWord]) (by decide)]
  simp [decodeSystem, SI.ofWord_toWord, SI.fn_toWord]

theorem exit (o : SI) : Statement (.exit o) := by
  intro _ _
  rw [show encode (.exit o) = o.toWord 0xD1 2 from rfl,
    decode_system (m := 0xD1) (by simp [majorOf, SI.major_toWord]) (by decide)]
  simp [decodeSystem, SI.ofWord_toWord, SI.fn_toWord]

theorem yield (o : SI) : Statement (.yield o) := by
  intro _ _
  rw [show encode (.yield o) = o.toWord 0xD1 3 from rfl,
    decode_system (m := 0xD1) (by simp [majorOf, SI.major_toWord]) (by decide)]
  simp [decodeSystem, SI.ofWord_toWord, SI.fn_toWord]

theorem snapr (o : SR) : Statement (.snapr o) := by
  intro _ _
  rw [show encode (.snapr o) = o.toWord 0xD2 0 from rfl,
    decode_system (m := 0xD2) (by simp [majorOf, SR.major_toWord]) (by decide)]
  simp [decodeSystem, SR.ofWord_toWord, SR.fn_toWord, SR.zero_toWord]

theorem ld (o : M) : Statement (.ld o) := by
  intro _ _
  rw [show encode (.ld o) = o.toWord 0x30 from rfl,
    decode_memory (m := 0x30) (by simp [majorOf, M.major_toWord]) (by decide)]
  simp [decodeMemory, M.ofWord_toWord]

theorem ldu (o : M) : Statement (.ldu o) := by
  intro _ _
  rw [show encode (.ldu o) = o.toWord 0x31 from rfl,
    decode_memory (m := 0x31) (by simp [majorOf, M.major_toWord]) (by decide)]
  simp [decodeMemory, M.ofWord_toWord]

theorem st (o : M) : Statement (.st o) := by
  intro _ _
  rw [show encode (.st o) = o.toWord 0x32 from rfl,
    decode_memory (m := 0x32) (by simp [majorOf, M.major_toWord]) (by decide)]
  simp [decodeMemory, M.ofWord_toWord]

theorem lda (o : M) : Statement (.lda o) := by
  intro _ _
  rw [show encode (.lda o) = o.toWord 0x33 from rfl,
    decode_memory (m := 0x33) (by simp [majorOf, M.major_toWord]) (by decide)]
  simp [decodeMemory, M.ofWord_toWord]

theorem stl (o : M) : Statement (.stl o) := by
  intro _ _
  rw [show encode (.stl o) = o.toWord 0x34 from rfl,
    decode_memory (m := 0x34) (by simp [majorOf, M.major_toWord]) (by decide)]
  simp [decodeMemory, M.ofWord_toWord]

theorem amo (o : M) : Statement (.amo o) := by
  intro _ _
  rw [show encode (.amo o) = o.toWord 0x35 from rfl,
    decode_memory (m := 0x35) (by simp [majorOf, M.major_toWord]) (by decide)]
  simp [decodeMemory, M.ofWord_toWord]

theorem amocas (o : M) : Statement (.amocas o) := by
  intro _ _
  rw [show encode (.amocas o) = o.toWord 0x36 from rfl,
    decode_memory (m := 0x36) (by simp [majorOf, M.major_toWord]) (by decide)]
  simp [decodeMemory, M.ofWord_toWord]

theorem red (o : M) : Statement (.red o) := by
  intro _ _
  rw [show encode (.red o) = o.toWord 0x37 from rfl,
    decode_memory (m := 0x37) (by simp [majorOf, M.major_toWord]) (by decide)]
  simp [decodeMemory, M.ofWord_toWord]

theorem fence (o : M) : Statement (.fence o) := by
  intro _ _
  rw [show encode (.fence o) = o.toWord 0x38 from rfl,
    decode_memory (m := 0x38) (by simp [majorOf, M.major_toWord]) (by decide)]
  simp [decodeMemory, M.ofWord_toWord]

theorem waitv (o : M) : Statement (.waitv o) := by
  intro _ _
  rw [show encode (.waitv o) = o.toWord 0x39 from rfl,
    decode_memory (m := 0x39) (by simp [majorOf, M.major_toWord]) (by decide)]
  simp [decodeMemory, M.ofWord_toWord]

theorem dcwb (o : M) : Statement (.dcwb o) := by
  intro _ _
  rw [show encode (.dcwb o) = o.toWord 0x3A from rfl,
    decode_memory (m := 0x3A) (by simp [majorOf, M.major_toWord]) (by decide)]
  simp [decodeMemory, M.ofWord_toWord]

theorem dcinv (o : M) : Statement (.dcinv o) := by
  intro _ _
  rw [show encode (.dcinv o) = o.toWord 0x3B from rfl,
    decode_memory (m := 0x3B) (by simp [majorOf, M.major_toWord]) (by decide)]
  simp [decodeMemory, M.ofWord_toWord]

theorem xlat (o : M) : Statement (.xlat o) := by
  intro _ _
  rw [show encode (.xlat o) = o.toWord 0x3C from rfl,
    decode_memory (m := 0x3C) (by simp [majorOf, M.major_toWord]) (by decide)]
  simp [decodeMemory, M.ofWord_toWord]

theorem migr (o : M) : Statement (.migr o) := by
  intro _ _
  rw [show encode (.migr o) = o.toWord 0x3D from rfl,
    decode_memory (m := 0x3D) (by simp [majorOf, M.major_toWord]) (by decide)]
  simp [decodeMemory, M.ofWord_toWord]

theorem halloc (o : M) : Statement (.halloc o) := by
  intro _ _
  rw [show encode (.halloc o) = o.toWord 0x3E from rfl,
    decode_memory (m := 0x3E) (by simp [majorOf, M.major_toWord]) (by decide)]
  simp [decodeMemory, M.ofWord_toWord]

theorem hfree (o : M) : Statement (.hfree o) := by
  intro _ _
  rw [show encode (.hfree o) = o.toWord 0x3F from rfl,
    decode_memory (m := 0x3F) (by simp [majorOf, M.major_toWord]) (by decide)]
  simp [decodeMemory, M.ofWord_toWord]

theorem tlbinv (o : SR) : Statement (.tlbinv o) := by
  intro _ _
  rw [show encode (.tlbinv o) = o.toWord 0xE2 0 from rfl,
    decode_system (m := 0xE2) (by simp [majorOf, SR.major_toWord]) (by decide)]
  simp [decodeSystem, SR.ofWord_toWord, SR.fn_toWord, SR.zero_toWord]

theorem ctxst (o : SR) : Statement (.ctxst o) := by
  intro _ _
  rw [show encode (.ctxst o) = o.toWord 0xE1 0 from rfl,
    decode_system (m := 0xE1) (by simp [majorOf, SR.major_toWord]) (by decide)]
  simp [decodeSystem, SR.ofWord_toWord, SR.fn_toWord, SR.zero_toWord]

theorem ctxld (o : SR) : Statement (.ctxld o) := by
  intro _ _
  rw [show encode (.ctxld o) = o.toWord 0xE0 0 from rfl,
    decode_system (m := 0xE0) (by simp [majorOf, SR.major_toWord]) (by decide)]
  simp [decodeSystem, SR.ofWord_toWord, SR.fn_toWord, SR.zero_toWord]

theorem mwrr (o : SI) : Statement (.mwrr o) := by
  intro _ _
  rw [show encode (.mwrr o) = o.toWord 0xE3 0 from rfl,
    decode_system (m := 0xE3) (by simp [majorOf, SI.major_toWord]) (by decide)]
  simp [decodeSystem, SI.ofWord_toWord, SI.fn_toWord]

theorem binit (o : SR) : Statement (.binit o) := by
  intro _ _
  rw [show encode (.binit o) = o.toWord 0xD0 0 from rfl,
    decode_system (m := 0xD0) (by simp [majorOf, SR.major_toWord]) (by decide)]
  simp [decodeSystem, SR.ofWord_toWord, SR.fn_toWord, SR.zero_toWord]

theorem breg (o : SR) : Statement (.breg o) := by
  intro _ _
  rw [show encode (.breg o) = o.toWord 0xD0 1 from rfl,
    decode_system (m := 0xD0) (by simp [majorOf, SR.major_toWord]) (by decide)]
  simp [decodeSystem, SR.ofWord_toWord, SR.fn_toWord, SR.zero_toWord]

theorem barv (o : SR) : Statement (.barv o) := by
  intro _ _
  rw [show encode (.barv o) = o.toWord 0xD0 2 from rfl,
    decode_system (m := 0xD0) (by simp [majorOf, SR.major_toWord]) (by decide)]
  simp [decodeSystem, SR.ofWord_toWord, SR.fn_toWord, SR.zero_toWord]

theorem barw (o : SR) : Statement (.barw o) := by
  intro _ _
  rw [show encode (.barw o) = o.toWord 0xD0 3 from rfl,
    decode_system (m := 0xD0) (by simp [majorOf, SR.major_toWord]) (by decide)]
  simp [decodeSystem, SR.ofWord_toWord, SR.fn_toWord, SR.zero_toWord]

theorem barvw (o : SR) : Statement (.barvw o) := by
  intro _ _
  rw [show encode (.barvw o) = o.toWord 0xD0 4 from rfl,
    decode_system (m := 0xD0) (by simp [majorOf, SR.major_toWord]) (by decide)]
  simp [decodeSystem, SR.ofWord_toWord, SR.fn_toWord, SR.zero_toWord]

theorem bdrop (o : SR) : Statement (.bdrop o) := by
  intro _ _
  rw [show encode (.bdrop o) = o.toWord 0xD0 5 from rfl,
    decode_system (m := 0xD0) (by simp [majorOf, SR.major_toWord]) (by decide)]
  simp [decodeSystem, SR.ofWord_toWord, SR.fn_toWord, SR.zero_toWord]

theorem btest (o : SR) : Statement (.btest o) := by
  intro _ _
  rw [show encode (.btest o) = o.toWord 0xD0 6 from rfl,
    decode_system (m := 0xD0) (by simp [majorOf, SR.major_toWord]) (by decide)]
  simp [decodeSystem, SR.ofWord_toWord, SR.fn_toWord, SR.zero_toWord]

theorem tld (o : T) : Statement (.tld o) := by
  intro _ _
  rw [show encode (.tld o) = o.toWord 0x40 from rfl,
    decode_tiles (m := 0x40) (by simp [majorOf, T.major_toWord]) (by decide)]
  simp [decodeTiles, T.ofWord_toWord, T.fn_toWord]

theorem tldx (o : T) : Statement (.tldx o) := by
  intro _ _
  rw [show encode (.tldx o) = o.toWord 0x4A from rfl,
    decode_tiles (m := 0x4A) (by simp [majorOf, T.major_toWord]) (by decide)]
  simp [decodeTiles, T.ofWord_toWord, T.fn_toWord]

theorem tldv (o : T) : Statement (.tldv o) := by
  intro _ _
  rw [show encode (.tldv o) = o.toWord 0x41 from rfl,
    decode_tiles (m := 0x41) (by simp [majorOf, T.major_toWord]) (by decide)]
  simp [decodeTiles, T.ofWord_toWord, T.fn_toWord]

theorem vldb (o : T) : Statement (.vldb o) := by
  intro _ _
  rw [show encode (.vldb o) = o.toWord 0x4B from rfl,
    decode_tiles (m := 0x4B) (by simp [majorOf, T.major_toWord]) (by decide)]
  simp [decodeTiles, T.ofWord_toWord, T.fn_toWord]

theorem tgath (o : T) : Statement (.tgath o) := by
  intro _ _
  rw [show encode (.tgath o) = o.toWord 0x42 from rfl,
    decode_tiles (m := 0x42) (by simp [majorOf, T.major_toWord]) (by decide)]
  simp [decodeTiles, T.ofWord_toWord, T.fn_toWord]

theorem vgath (o : T) : Statement (.vgath o) := by
  intro _ _
  rw [show encode (.vgath o) = o.toWord 0x43 from rfl,
    decode_tiles (m := 0x43) (by simp [majorOf, T.major_toWord]) (by decide)]
  simp [decodeTiles, T.ofWord_toWord, T.fn_toWord]

theorem tfill (o : T) : Statement (.tfill o) := by
  intro _ _
  rw [show encode (.tfill o) = o.toWord 0x44 from rfl,
    decode_tiles (m := 0x44) (by simp [majorOf, T.major_toWord]) (by decide)]
  simp [decodeTiles, T.ofWord_toWord, T.fn_toWord]

theorem tcpy (o : T) : Statement (.tcpy o) := by
  intro _ _
  rw [show encode (.tcpy o) = o.toWord 0x45 from rfl,
    decode_tiles (m := 0x45) (by simp [majorOf, T.major_toWord]) (by decide)]
  simp [decodeTiles, T.ofWord_toWord, T.fn_toWord]

theorem vldt (o : T) : Statement (.vldt o) := by
  intro _ _
  rw [show encode (.vldt o) = o.toWord 0x46 from rfl,
    decode_tiles (m := 0x46) (by simp [majorOf, T.major_toWord]) (by decide)]
  simp [decodeTiles, T.ofWord_toWord, T.fn_toWord]

theorem unfcfg (o : T) : Statement (.unfcfg o) := by
  intro _ _
  rw [show encode (.unfcfg o) = o.toWord 0x47 from rfl,
    decode_tiles (m := 0x47) (by simp [majorOf, T.major_toWord]) (by decide)]
  simp [decodeTiles, T.ofWord_toWord, T.fn_toWord]

theorem pft (o : T) : Statement (.pft o) := by
  intro _ _
  rw [show encode (.pft o) = o.toWord 0x48 from rfl,
    decode_tiles (m := 0x48) (by simp [majorOf, T.major_toWord]) (by decide)]
  simp [decodeTiles, T.ofWord_toWord, T.fn_toWord]

theorem tstat (o : T) : Statement (.tstat o) := by
  intro _ _
  rw [show encode (.tstat o) = o.toWord 0x49 from rfl,
    decode_tiles (m := 0x49) (by simp [majorOf, T.major_toWord]) (by decide)]
  simp [decodeTiles, T.ofWord_toWord, T.fn_toWord]

theorem tst (o : T) : Statement (.tst o) := by
  intro _ _
  rw [show encode (.tst o) = o.toWord 0x60 from rfl,
    decode_tiles (m := 0x60) (by simp [majorOf, T.major_toWord]) (by decide)]
  simp [decodeTiles, T.ofWord_toWord, T.fn_toWord]

theorem tstv (o : T) : Statement (.tstv o) := by
  intro _ _
  rw [show encode (.tstv o) = o.toWord 0x61 from rfl,
    decode_tiles (m := 0x61) (by simp [majorOf, T.major_toWord]) (by decide)]
  simp [decodeTiles, T.ofWord_toWord, T.fn_toWord]

theorem tscat (o : T) : Statement (.tscat o) := by
  intro _ _
  rw [show encode (.tscat o) = o.toWord 0x62 from rfl,
    decode_tiles (m := 0x62) (by simp [majorOf, T.major_toWord]) (by decide)]
  simp [decodeTiles, T.ofWord_toWord, T.fn_toWord]

theorem vstt (o : T) : Statement (.vstt o) := by
  intro _ _
  rw [show encode (.vstt o) = o.toWord 0x63 from rfl,
    decode_tiles (m := 0x63) (by simp [majorOf, T.major_toWord]) (by decide)]
  simp [decodeTiles, T.ofWord_toWord, T.fn_toWord]

theorem trel (o : T) : Statement (.trel o) := by
  intro _ _
  rw [show encode (.trel o) = o.toWord 0x64 from rfl,
    decode_tiles (m := 0x64) (by simp [majorOf, T.major_toWord]) (by decide)]
  simp [decodeTiles, T.ofWord_toWord, T.fn_toWord]

theorem vadd (o : V) : Statement (.vadd o) := by
  intro _ _
  rw [show encode (.vadd o) = o.toWord 0x80 from rfl,
    decode_vector (m := 0x80) (by simp [majorOf, V.major_toWord]) (by decide)]
  simp [decodeVector, V.ofWord_toWord]

theorem vsub (o : V) : Statement (.vsub o) := by
  intro _ _
  rw [show encode (.vsub o) = o.toWord 0x81 from rfl,
    decode_vector (m := 0x81) (by simp [majorOf, V.major_toWord]) (by decide)]
  simp [decodeVector, V.ofWord_toWord]

theorem vmul (o : V) : Statement (.vmul o) := by
  intro _ _
  rw [show encode (.vmul o) = o.toWord 0x82 from rfl,
    decode_vector (m := 0x82) (by simp [majorOf, V.major_toWord]) (by decide)]
  simp [decodeVector, V.ofWord_toWord]

theorem vfma (o : V) : Statement (.vfma o) := by
  intro _ _
  rw [show encode (.vfma o) = o.toWord 0x83 from rfl,
    decode_vector (m := 0x83) (by simp [majorOf, V.major_toWord]) (by decide)]
  simp [decodeVector, V.ofWord_toWord]

theorem vfms (o : V) : Statement (.vfms o) := by
  intro _ _
  rw [show encode (.vfms o) = o.toWord 0x84 from rfl,
    decode_vector (m := 0x84) (by simp [majorOf, V.major_toWord]) (by decide)]
  simp [decodeVector, V.ofWord_toWord]

theorem vmin (o : V) : Statement (.vmin o) := by
  intro _ _
  rw [show encode (.vmin o) = o.toWord 0x85 from rfl,
    decode_vector (m := 0x85) (by simp [majorOf, V.major_toWord]) (by decide)]
  simp [decodeVector, V.ofWord_toWord]

theorem vmax (o : V) : Statement (.vmax o) := by
  intro _ _
  rw [show encode (.vmax o) = o.toWord 0x86 from rfl,
    decode_vector (m := 0x86) (by simp [majorOf, V.major_toWord]) (by decide)]
  simp [decodeVector, V.ofWord_toWord]

theorem vabs (o : V) : Statement (.vabs o) := by
  intro _ _
  rw [show encode (.vabs o) = o.toWord 0x87 from rfl,
    decode_vector (m := 0x87) (by simp [majorOf, V.major_toWord]) (by decide)]
  simp [decodeVector, V.ofWord_toWord]

theorem vneg (o : V) : Statement (.vneg o) := by
  intro _ _
  rw [show encode (.vneg o) = o.toWord 0x88 from rfl,
    decode_vector (m := 0x88) (by simp [majorOf, V.major_toWord]) (by decide)]
  simp [decodeVector, V.ofWord_toWord]

theorem vrcp (o : V) : Statement (.vrcp o) := by
  intro _ _
  rw [show encode (.vrcp o) = o.toWord 0x89 from rfl,
    decode_vector (m := 0x89) (by simp [majorOf, V.major_toWord]) (by decide)]
  simp [decodeVector, V.ofWord_toWord]

theorem vrsq (o : V) : Statement (.vrsq o) := by
  intro _ _
  rw [show encode (.vrsq o) = o.toWord 0x8A from rfl,
    decode_vector (m := 0x8A) (by simp [majorOf, V.major_toWord]) (by decide)]
  simp [decodeVector, V.ofWord_toWord]

theorem vsqrt (o : V) : Statement (.vsqrt o) := by
  intro _ _
  rw [show encode (.vsqrt o) = o.toWord 0x8B from rfl,
    decode_vector (m := 0x8B) (by simp [majorOf, V.major_toWord]) (by decide)]
  simp [decodeVector, V.ofWord_toWord]

theorem vexp2 (o : V) : Statement (.vexp2 o) := by
  intro _ _
  rw [show encode (.vexp2 o) = o.toWord 0x8C from rfl,
    decode_vector (m := 0x8C) (by simp [majorOf, V.major_toWord]) (by decide)]
  simp [decodeVector, V.ofWord_toWord]

theorem vlog2 (o : V) : Statement (.vlog2 o) := by
  intro _ _
  rw [show encode (.vlog2 o) = o.toWord 0x8D from rfl,
    decode_vector (m := 0x8D) (by simp [majorOf, V.major_toWord]) (by decide)]
  simp [decodeVector, V.ofWord_toWord]

theorem vcmp (o : V) : Statement (.vcmp o) := by
  intro _ _
  rw [show encode (.vcmp o) = o.toWord 0x8E from rfl,
    decode_vector (m := 0x8E) (by simp [majorOf, V.major_toWord]) (by decide)]
  simp [decodeVector, V.ofWord_toWord]

theorem vselm (o : V) : Statement (.vselm o) := by
  intro _ _
  rw [show encode (.vselm o) = o.toWord 0x8F from rfl,
    decode_vector (m := 0x8F) (by simp [majorOf, V.major_toWord]) (by decide)]
  simp [decodeVector, V.ofWord_toWord]

theorem vand (o : V) : Statement (.vand o) := by
  intro _ _
  rw [show encode (.vand o) = o.toWord 0x90 from rfl,
    decode_vector (m := 0x90) (by simp [majorOf, V.major_toWord]) (by decide)]
  simp [decodeVector, V.ofWord_toWord]

theorem vor (o : V) : Statement (.vor o) := by
  intro _ _
  rw [show encode (.vor o) = o.toWord 0x91 from rfl,
    decode_vector (m := 0x91) (by simp [majorOf, V.major_toWord]) (by decide)]
  simp [decodeVector, V.ofWord_toWord]

theorem vxor (o : V) : Statement (.vxor o) := by
  intro _ _
  rw [show encode (.vxor o) = o.toWord 0x92 from rfl,
    decode_vector (m := 0x92) (by simp [majorOf, V.major_toWord]) (by decide)]
  simp [decodeVector, V.ofWord_toWord]

theorem vnot (o : V) : Statement (.vnot o) := by
  intro _ _
  rw [show encode (.vnot o) = o.toWord 0x93 from rfl,
    decode_vector (m := 0x93) (by simp [majorOf, V.major_toWord]) (by decide)]
  simp [decodeVector, V.ofWord_toWord]

theorem vshl (o : V) : Statement (.vshl o) := by
  intro _ _
  rw [show encode (.vshl o) = o.toWord 0x94 from rfl,
    decode_vector (m := 0x94) (by simp [majorOf, V.major_toWord]) (by decide)]
  simp [decodeVector, V.ofWord_toWord]

theorem vshr (o : V) : Statement (.vshr o) := by
  intro _ _
  rw [show encode (.vshr o) = o.toWord 0x95 from rfl,
    decode_vector (m := 0x95) (by simp [majorOf, V.major_toWord]) (by decide)]
  simp [decodeVector, V.ofWord_toWord]

theorem vcvt (o : V) : Statement (.vcvt o) := by
  intro _ _
  rw [show encode (.vcvt o) = o.toWord 0x96 from rfl,
    decode_vector (m := 0x96) (by simp [majorOf, V.major_toWord]) (by decide)]
  simp [decodeVector, V.ofWord_toWord]

theorem vqnt (o : V) : Statement (.vqnt o) := by
  intro _ _
  rw [show encode (.vqnt o) = o.toWord 0x97 from rfl,
    decode_vector (m := 0x97) (by simp [majorOf, V.major_toWord]) (by decide)]
  simp [decodeVector, V.ofWord_toWord]

theorem vdqnt (o : V) : Statement (.vdqnt o) := by
  intro _ _
  rw [show encode (.vdqnt o) = o.toWord 0x98 from rfl,
    decode_vector (m := 0x98) (by simp [majorOf, V.major_toWord]) (by decide)]
  simp [decodeVector, V.ofWord_toWord]

theorem vbcast (o : V) : Statement (.vbcast o) := by
  intro _ _
  rw [show encode (.vbcast o) = o.toWord 0x99 from rfl,
    decode_vector (m := 0x99) (by simp [majorOf, V.major_toWord]) (by decide)]
  simp [decodeVector, V.ofWord_toWord]

theorem vmov (o : V) : Statement (.vmov o) := by
  intro _ h
  rw [show encode (.vmov o) = o.toWord 0x9A from rfl,
    decode_vector (m := 0x9A) (by simp [majorOf, V.major_toWord]) (by decide)]
  simp only [Instr.wellFormed, Instr.fieldsOk, Bool.and_eq_true, beq_iff_eq] at h
  simp [decodeVector, V.fn_toWord, V.ofWord_toWord, h.1.1.1]

theorem vmovFrom (o : V) : Statement (.vmovFrom o) := by
  intro _ h
  rw [show encode (.vmovFrom o) = o.toWord 0x9A from rfl,
    decode_vector (m := 0x9A) (by simp [majorOf, V.major_toWord]) (by decide)]
  simp only [Instr.wellFormed, Instr.fieldsOk, Bool.and_eq_true, Bool.or_eq_true, beq_iff_eq] at h
  obtain ⟨⟨⟨⟨⟨⟨h | h, _⟩, _⟩, _⟩, _⟩, _⟩, _⟩ := h <;> simp [decodeVector, V.fn_toWord, V.ofWord_toWord, h]

theorem vmovTo (o : V) : Statement (.vmovTo o) := by
  intro _ h
  rw [show encode (.vmovTo o) = o.toWord 0x9A from rfl,
    decode_vector (m := 0x9A) (by simp [majorOf, V.major_toWord]) (by decide)]
  simp only [Instr.wellFormed, Instr.fieldsOk, Bool.and_eq_true, Bool.or_eq_true, beq_iff_eq] at h
  obtain ⟨⟨⟨⟨⟨⟨h | h, _⟩, _⟩, _⟩, _⟩, _⟩, _⟩ := h <;> simp [decodeVector, V.fn_toWord, V.ofWord_toWord, h]

theorem vext (o : V) : Statement (.vext o) := by
  intro _ _
  rw [show encode (.vext o) = o.toWord 0x9B from rfl,
    decode_vector (m := 0x9B) (by simp [majorOf, V.major_toWord]) (by decide)]
  simp [decodeVector, V.ofWord_toWord]

theorem vins (o : V) : Statement (.vins o) := by
  intro _ _
  rw [show encode (.vins o) = o.toWord 0x9C from rfl,
    decode_vector (m := 0x9C) (by simp [majorOf, V.major_toWord]) (by decide)]
  simp [decodeVector, V.ofWord_toWord]

theorem vredsum (o : V) : Statement (.vredsum o) := by
  intro _ _
  rw [show encode (.vredsum o) = o.toWord 0x9D from rfl,
    decode_vector (m := 0x9D) (by simp [majorOf, V.major_toWord]) (by decide)]
  simp [decodeVector, V.ofWord_toWord]

theorem vredmax (o : V) : Statement (.vredmax o) := by
  intro _ _
  rw [show encode (.vredmax o) = o.toWord 0x9E from rfl,
    decode_vector (m := 0x9E) (by simp [majorOf, V.major_toWord]) (by decide)]
  simp [decodeVector, V.ofWord_toWord]

theorem vredmin (o : V) : Statement (.vredmin o) := by
  intro _ _
  rw [show encode (.vredmin o) = o.toWord 0x9F from rfl,
    decode_vector (m := 0x9F) (by simp [majorOf, V.major_toWord]) (by decide)]
  simp [decodeVector, V.ofWord_toWord]

theorem vargmax (o : V) : Statement (.vargmax o) := by
  intro _ _
  rw [show encode (.vargmax o) = o.toWord 0xA0 from rfl,
    decode_vector (m := 0xA0) (by simp [majorOf, V.major_toWord]) (by decide)]
  simp [decodeVector, V.ofWord_toWord]

theorem vargmin (o : V) : Statement (.vargmin o) := by
  intro _ _
  rw [show encode (.vargmin o) = o.toWord 0xA1 from rfl,
    decode_vector (m := 0xA1) (by simp [majorOf, V.major_toWord]) (by decide)]
  simp [decodeVector, V.ofWord_toWord]

theorem vscan (o : V) : Statement (.vscan o) := by
  intro _ _
  rw [show encode (.vscan o) = o.toWord 0xA2 from rfl,
    decode_vector (m := 0xA2) (by simp [majorOf, V.major_toWord]) (by decide)]
  simp [decodeVector, V.ofWord_toWord]

theorem vtrn (o : V) : Statement (.vtrn o) := by
  intro _ _
  rw [show encode (.vtrn o) = o.toWord 0xA3 from rfl,
    decode_vector (m := 0xA3) (by simp [majorOf, V.major_toWord]) (by decide)]
  simp [decodeVector, V.ofWord_toWord]

theorem vshf (o : V) : Statement (.vshf o) := by
  intro _ _
  rw [show encode (.vshf o) = o.toWord 0xA4 from rfl,
    decode_vector (m := 0xA4) (by simp [majorOf, V.major_toWord]) (by decide)]
  simp [decodeVector, V.ofWord_toWord]

theorem vpermr (o : V) : Statement (.vpermr o) := by
  intro _ _
  rw [show encode (.vpermr o) = o.toWord 0xA5 from rfl,
    decode_vector (m := 0xA5) (by simp [majorOf, V.major_toWord]) (by decide)]
  simp [decodeVector, V.ofWord_toWord]

theorem vbaddq (o : V) : Statement (.vbaddq o) := by
  intro _ _
  rw [show encode (.vbaddq o) = o.toWord 0xA6 from rfl,
    decode_vector (m := 0xA6) (by simp [majorOf, V.major_toWord]) (by decide)]
  simp [decodeVector, V.ofWord_toWord]

theorem vrng (o : V) : Statement (.vrng o) := by
  intro _ _
  rw [show encode (.vrng o) = o.toWord 0xA7 from rfl,
    decode_vector (m := 0xA7) (by simp [majorOf, V.major_toWord]) (by decide)]
  simp [decodeVector, V.ofWord_toWord]

theorem vmlog (o : V) : Statement (.vmlog o) := by
  intro _ _
  rw [show encode (.vmlog o) = o.toWord 0xA8 from rfl,
    decode_vector (m := 0xA8) (by simp [majorOf, V.major_toWord]) (by decide)]
  simp [decodeVector, V.ofWord_toWord]

theorem mma (o : X) : Statement (.mma o) := by
  intro _ _
  rw [show encode (.mma o) = o.toWord 0xC0 0 from rfl,
    decode_matrix (m := 0xC0) (by simp [majorOf, X.major_toWord]) (by decide)]
  simp [decodeMatrix, X.ofWord_toWord, X.fn_toWord]

theorem mmaz (o : X) : Statement (.mmaz o) := by
  intro _ _
  rw [show encode (.mmaz o) = o.toWord 0xC1 0 from rfl,
    decode_matrix (m := 0xC1) (by simp [majorOf, X.major_toWord]) (by decide)]
  simp [decodeMatrix, X.ofWord_toWord, X.fn_toWord]

theorem mmau (o : X) : Statement (.mmau o) := by
  intro _ _
  rw [show encode (.mmau o) = o.toWord 0xC2 0 from rfl,
    decode_matrix (m := 0xC2) (by simp [majorOf, X.major_toWord]) (by decide)]
  simp [decodeMatrix, X.ofWord_toWord, X.fn_toWord]

theorem amld (o : X) : Statement (.amld o) := by
  intro _ _
  rw [show encode (.amld o) = o.toWord 0xC3 0 from rfl,
    decode_matrix (m := 0xC3) (by simp [majorOf, X.major_toWord]) (by decide)]
  simp [decodeMatrix, X.ofWord_toWord, X.fn_toWord]

theorem amldStat (o : X) : Statement (.amldStat o) := by
  intro _ _
  rw [show encode (.amldStat o) = o.toWord 0xC3 1 from rfl,
    decode_matrix (m := 0xC3) (by simp [majorOf, X.major_toWord]) (by decide)]
  simp [decodeMatrix, X.ofWord_toWord, X.fn_toWord]

theorem amst (o : X) : Statement (.amst o) := by
  intro _ _
  rw [show encode (.amst o) = o.toWord 0xC4 0 from rfl,
    decode_matrix (m := 0xC4) (by simp [majorOf, X.major_toWord]) (by decide)]
  simp [decodeMatrix, X.ofWord_toWord, X.fn_toWord]

theorem amz (o : X) : Statement (.amz o) := by
  intro _ _
  rw [show encode (.amz o) = o.toWord 0xC5 0 from rfl,
    decode_matrix (m := 0xC5) (by simp [majorOf, X.major_toWord]) (by decide)]
  simp [decodeMatrix, X.ofWord_toWord, X.fn_toWord]

theorem mhint (o : X) : Statement (.mhint o) := by
  intro _ _
  rw [show encode (.mhint o) = o.toWord 0xC6 0 from rfl,
    decode_matrix (m := 0xC6) (by simp [majorOf, X.major_toWord]) (by decide)]
  simp [decodeMatrix, X.ofWord_toWord, X.fn_toWord]

theorem msync (o : X) : Statement (.msync o) := by
  intro _ _
  rw [show encode (.msync o) = o.toWord 0xC7 0 from rfl,
    decode_matrix (m := 0xC7) (by simp [majorOf, X.major_toWord]) (by decide)]
  simp [decodeMatrix, X.ofWord_toWord, X.fn_toWord]

theorem rstv (o : N) : Statement (.rstv o) := by
  intro _ _
  rw [show encode (.rstv o) = o.toWord 0x70 0 from rfl,
    decode_port (m := 0x70) (by simp [majorOf, N.major_toWord]) (by decide)]
  simp [decodePort, N.ofWord_toWord, N.fn_toWord]

theorem rstvRel (o : N) : Statement (.rstvRel o) := by
  intro _ _
  rw [show encode (.rstvRel o) = o.toWord 0x70 1 from rfl,
    decode_port (m := 0x70) (by simp [majorOf, N.major_toWord]) (by decide)]
  simp [decodePort, N.ofWord_toWord, N.fn_toWord]

theorem vexp (o : N) : Statement (.vexp o) := by
  intro _ _
  rw [show encode (.vexp o) = o.toWord 0x71 0 from rfl,
    decode_port (m := 0x71) (by simp [majorOf, N.major_toWord]) (by decide)]
  simp [decodePort, N.ofWord_toWord, N.fn_toWord]

theorem cname (o : N) : Statement (.cname o) := by
  intro _ _
  rw [show encode (.cname o) = o.toWord 0x72 0 from rfl,
    decode_port (m := 0x72) (by simp [majorOf, N.major_toWord]) (by decide)]
  simp [decodePort, N.ofWord_toWord, N.fn_toWord]

theorem amsg (o : N) : Statement (.amsg o) := by
  intro _ _
  rw [show encode (.amsg o) = o.toWord 0x73 0 from rfl,
    decode_port (m := 0x73) (by simp [majorOf, N.major_toWord]) (by decide)]
  simp [decodePort, N.ofWord_toWord, N.fn_toWord]

theorem mcst (o : N) : Statement (.mcst o) := by
  intro _ _
  rw [show encode (.mcst o) = o.toWord 0x74 0 from rfl,
    decode_port (m := 0x74) (by simp [majorOf, N.major_toWord]) (by decide)]
  simp [decodePort, N.ofWord_toWord, N.fn_toWord]

theorem redst (o : N) : Statement (.redst o) := by
  intro _ _
  rw [show encode (.redst o) = o.toWord 0x75 0 from rfl,
    decode_port (m := 0x75) (by simp [majorOf, N.major_toWord]) (by decide)]
  simp [decodePort, N.ofWord_toWord, N.fn_toWord]

theorem cpy (o : N) : Statement (.cpy o) := by
  intro _ _
  rw [show encode (.cpy o) = o.toWord 0x76 0 from rfl,
    decode_port (m := 0x76) (by simp [majorOf, N.major_toWord]) (by decide)]
  simp [decodePort, N.ofWord_toWord, N.fn_toWord]

theorem cpyw (o : N) : Statement (.cpyw o) := by
  intro _ _
  rw [show encode (.cpyw o) = o.toWord 0x76 1 from rfl,
    decode_port (m := 0x76) (by simp [majorOf, N.major_toWord]) (by decide)]
  simp [decodePort, N.ofWord_toWord, N.fn_toWord]

theorem taskq (o : N) : Statement (.taskq o) := by
  intro _ _
  rw [show encode (.taskq o) = o.toWord 0x77 0 from rfl,
    decode_port (m := 0x77) (by simp [majorOf, N.major_toWord]) (by decide)]
  simp [decodePort, N.ofWord_toWord, N.fn_toWord]

theorem taskdec (o : N) : Statement (.taskdec o) := by
  intro _ _
  rw [show encode (.taskdec o) = o.toWord 0x77 1 from rfl,
    decode_port (m := 0x77) (by simp [majorOf, N.major_toWord]) (by decide)]
  simp [decodePort, N.ofWord_toWord, N.fn_toWord]

theorem tend (o : N) : Statement (.tend o) := by
  intro _ _
  rw [show encode (.tend o) = o.toWord 0x77 2 from rfl,
    decode_port (m := 0x77) (by simp [majorOf, N.major_toWord]) (by decide)]
  simp [decodePort, N.ofWord_toWord, N.fn_toWord]

theorem qsnap (o : N) : Statement (.qsnap o) := by
  intro _ _
  rw [show encode (.qsnap o) = o.toWord 0x77 3 from rfl,
    decode_port (m := 0x77) (by simp [majorOf, N.major_toWord]) (by decide)]
  simp [decodePort, N.ofWord_toWord, N.fn_toWord]

theorem fcall (o : N) : Statement (.fcall o) := by
  intro _ _
  rw [show encode (.fcall o) = o.toWord 0x78 0 from rfl,
    decode_port (m := 0x78) (by simp [majorOf, N.major_toWord]) (by decide)]
  simp [decodePort, N.ofWord_toWord, N.fn_toWord]

theorem fwait (o : N) : Statement (.fwait o) := by
  intro _ _
  rw [show encode (.fwait o) = o.toWord 0x78 1 from rfl,
    decode_port (m := 0x78) (by simp [majorOf, N.major_toWord]) (by decide)]
  simp [decodePort, N.ofWord_toWord, N.fn_toWord]

theorem fpoll (o : N) : Statement (.fpoll o) := by
  intro _ _
  rw [show encode (.fpoll o) = o.toWord 0x78 2 from rfl,
    decode_port (m := 0x78) (by simp [majorOf, N.major_toWord]) (by decide)]
  simp [decodePort, N.ofWord_toWord, N.fn_toWord]

theorem fdone (o : N) : Statement (.fdone o) := by
  intro _ _
  rw [show encode (.fdone o) = o.toWord 0x78 3 from rfl,
    decode_port (m := 0x78) (by simp [majorOf, N.major_toWord]) (by decide)]
  simp [decodePort, N.ofWord_toWord, N.fn_toWord]

theorem flink (o : N) : Statement (.flink o) := by
  intro _ _
  rw [show encode (.flink o) = o.toWord 0x78 4 from rfl,
    decode_port (m := 0x78) (by simp [majorOf, N.major_toWord]) (by decide)]
  simp [decodePort, N.ofWord_toWord, N.fn_toWord]

theorem fcancel (o : N) : Statement (.fcancel o) := by
  intro _ _
  rw [show encode (.fcancel o) = o.toWord 0x78 5 from rfl,
    decode_port (m := 0x78) (by simp [majorOf, N.major_toWord]) (by decide)]
  simp [decodePort, N.ofWord_toWord, N.fn_toWord]

theorem adref (o : N) : Statement (.adref o) := by
  intro _ _
  rw [show encode (.adref o) = o.toWord 0x79 0 from rfl,
    decode_port (m := 0x79) (by simp [majorOf, N.major_toWord]) (by decide)]
  simp [decodePort, N.ofWord_toWord, N.fn_toWord]

theorem launch (o : N) : Statement (.launch o) := by
  intro _ _
  rw [show encode (.launch o) = o.toWord 0x7A 0 from rfl,
    decode_port (m := 0x7A) (by simp [majorOf, N.major_toWord]) (by decide)]
  simp [decodePort, N.ofWord_toWord, N.fn_toWord]

theorem graphgo (o : N) : Statement (.graphgo o) := by
  intro _ _
  rw [show encode (.graphgo o) = o.toWord 0x7B 0 from rfl,
    decode_port (m := 0x7B) (by simp [majorOf, N.major_toWord]) (by decide)]
  simp [decodePort, N.ofWord_toWord, N.fn_toWord]

theorem hring (o : N) : Statement (.hring o) := by
  intro _ _
  rw [show encode (.hring o) = o.toWord 0x7C 0 from rfl,
    decode_port (m := 0x7C) (by simp [majorOf, N.major_toWord]) (by decide)]
  simp [decodePort, N.ofWord_toWord, N.fn_toWord]

theorem unassignedMajorOpcode (w : Word) : Statement (.unassignedMajorOpcode w) := fun h => nomatch h

theorem queueIssue (c : CtxRef) (q : Queue) : Statement (.queueIssue c q) := fun h => nomatch h

theorem engineCompletion (c : CtxRef) (q : Queue) : Statement (.engineCompletion c q) := fun h => nomatch h

theorem pageFaultAnswer (c : CtxRef) (a : FaultAnswer) : Statement (.pageFaultAnswer c a) := fun h => nomatch h

theorem trapDecision (c : CtxRef) : Statement (.trapDecision c) := fun h => nomatch h

theorem watchdogExpiry (c : CtxRef) : Statement (.watchdogExpiry c) := fun h => nomatch h

theorem exitTakesEffect (c : CtxRef) : Statement (.exitTakesEffect c) := fun h => nomatch h

theorem tendTakesEffect (c : CtxRef) : Statement (.tendTakesEffect c) := fun h => nomatch h

theorem bankSwitch (c : CtxRef) : Statement (.bankSwitch c) := fun h => nomatch h

theorem cohortSave (r : SaveRequest) : Statement (.cohortSave r) := fun h => nomatch h

theorem saveDone (name : BitVec 32) : Statement (.saveDone name) := fun h => nomatch h

theorem cohortRestore (r : RestoreRequest) : Statement (.cohortRestore r) := fun h => nomatch h

theorem cohortMigration (name : BitVec 32) (node : Nat) (cluster : Nat) : Statement (.cohortMigration name node cluster) := fun h => nomatch h

theorem cohortBind (launch : Nat) (k : Nat) (slots : List BindSlot) : Statement (.cohortBind launch k slots) := fun h => nomatch h

theorem standingBind (launch : Nat) (k : Nat) (slots : List BindSlot) : Statement (.standingBind launch k slots) := fun h => nomatch h

theorem launchRecordArrival (r : RecordArrival) : Statement (.launchRecordArrival r) := fun h => nomatch h

theorem launchCompletion (launch : Nat) : Statement (.launchCompletion launch) := fun h => nomatch h

theorem launchDoorbell (pa : Nat) : Statement (.launchDoorbell pa) := fun h => nomatch h

theorem graphDoorbell (pa : Nat) : Statement (.graphDoorbell pa) := fun h => nomatch h

theorem nodeLaunch (walk : Nat) : Statement (.nodeLaunch walk) := fun h => nomatch h

theorem nodeCopy (walk : Nat) : Statement (.nodeCopy walk) := fun h => nomatch h

theorem nodeWaitOnWord (walk : Nat) : Statement (.nodeWaitOnWord walk) := fun h => nomatch h

theorem nodeSignalWord (walk : Nat) : Statement (.nodeSignalWord walk) := fun h => nomatch h

theorem nodeConditional (walk : Nat) : Statement (.nodeConditional walk) := fun h => nomatch h

theorem nodeHostRingDrain (walk : Nat) : Statement (.nodeHostRingDrain walk) := fun h => nomatch h

theorem nodeEnd (walk : Nat) : Statement (.nodeEnd walk) := fun h => nomatch h

theorem graphWaitTimeout (walk : Nat) : Statement (.graphWaitTimeout walk) := fun h => nomatch h

theorem hostRingTimeRule (r : Nat) : Statement (.hostRingTimeRule r) := fun h => nomatch h

theorem matrixGrant (bench : Nat) : Statement (.matrixGrant bench) := fun h => nomatch h

theorem matrixCompletion (c : CtxRef) : Statement (.matrixCompletion c) := fun h => nomatch h

theorem levelStep (bench : Nat) : Statement (.levelStep bench) := fun h => nomatch h

theorem mhintHoldExpiry (bench : Nat) : Statement (.mhintHoldExpiry bench) := fun h => nomatch h

theorem taskDequeue (c : CtxRef) : Statement (.taskDequeue c) := fun h => nomatch h

theorem stealAttempt (c : CtxRef) : Statement (.stealAttempt c) := fun h => nomatch h

theorem runListRefill (c : CtxRef) : Statement (.runListRefill c) := fun h => nomatch h

theorem taskDecrementArrival (k : Nat) : Statement (.taskDecrementArrival k) := fun h => nomatch h

theorem counterSettingArrival (k : Nat) : Statement (.counterSettingArrival k) := fun h => nomatch h

theorem registerStoreArrival (k : Nat) : Statement (.registerStoreArrival k) := fun h => nomatch h

theorem busyRetry (k : Nat) : Statement (.busyRetry k) := fun h => nomatch h

theorem deferredDelivery (name : BitVec 32) : Statement (.deferredDelivery name) := fun h => nomatch h

theorem activeMessageArrival (k : Nat) : Statement (.activeMessageArrival k) := fun h => nomatch h

theorem remoteLoad (k : Nat) : Statement (.remoteLoad k) := fun h => nomatch h

theorem remoteStore (k : Nat) : Statement (.remoteStore k) := fun h => nomatch h

theorem remoteAtomic (k : Nat) : Statement (.remoteAtomic k) := fun h => nomatch h

theorem blockReduction (quay : Nat) : Statement (.blockReduction quay) := fun h => nomatch h

theorem copyComplete (k : Nat) : Statement (.copyComplete k) := fun h => nomatch h

theorem redPoisonTrap (c : CtxRef) : Statement (.redPoisonTrap c) := fun h => nomatch h

theorem waitvReread (c : CtxRef) : Statement (.waitvReread c) := fun h => nomatch h

theorem barrierWaitEnd (c : CtxRef) : Statement (.barrierWaitEnd c) := fun h => nomatch h

theorem resolveOk (tool : Nat) (handle : Word) : Statement (.resolveOk tool handle) := fun h => nomatch h

theorem resolveErr (tool : Nat) (handle : Word) : Statement (.resolveErr tool handle) := fun h => nomatch h

theorem resolveOutcome (tool : Nat) : Statement (.resolveOutcome tool) := fun h => nomatch h

theorem remoteResolve (payload : List Byte) : Statement (.remoteResolve payload) := fun h => nomatch h

theorem futureDeadline (index : Nat) : Statement (.futureDeadline index) := fun h => nomatch h

theorem futureResolution (index : Nat) : Statement (.futureResolution index) := fun h => nomatch h

theorem adapterLoadDone (entry : Nat) (addr : Nat) (cause : Nat) : Statement (.adapterLoadDone entry addr cause) := fun h => nomatch h

theorem sandboxViolation (tool : Nat) (addr : Word) : Statement (.sandboxViolation tool addr) := fun h => nomatch h

theorem pageMigration (m : Migration) : Statement (.pageMigration m) := fun h => nomatch h

theorem packetReceive (port : Nat) (flits : List (List Byte)) : Statement (.packetReceive port flits) := fun h => nomatch h

theorem ackReceive (port : Nat) (seq : Nat) : Statement (.ackReceive port seq) := fun h => nomatch h

theorem nakReceive (port : Nat) (seq : Nat) : Statement (.nakReceive port seq) := fun h => nomatch h

theorem replayDone (port : Nat) : Statement (.replayDone port) := fun h => nomatch h

theorem laneFailure (port : Nat) (lane : Nat) : Statement (.laneFailure port lane) := fun h => nomatch h

theorem linkTrained (port : Nat) (seq : Nat) : Statement (.linkTrained port seq) := fun h => nomatch h

theorem retrainTimeout (port : Nat) : Statement (.retrainTimeout port) := fun h => nomatch h

theorem trainingRequest (port : Nat) : Statement (.trainingRequest port) := fun h => nomatch h

theorem detourInstall (dest : Nat) (order : DimOrder) : Statement (.detourInstall dest order) := fun h => nomatch h

theorem keyPhaseSwitch (port : Nat) : Statement (.keyPhaseSwitch port) := fun h => nomatch h

theorem retireReceive (port : Nat) : Statement (.retireReceive port) := fun h => nomatch h

theorem partitionDissolve (ports : List Nat) : Statement (.partitionDissolve ports) := fun h => nomatch h

theorem hostSnoop (line : Nat) (exclusive : Bool) : Statement (.hostSnoop line exclusive) := fun h => nomatch h

theorem hostAtomic (pa : Nat) (op : BitVec 4) (double : Bool) (x : Word) : Statement (.hostAtomic pa op double x) := fun h => nomatch h

theorem patrolScrub (line : Nat) (bad : Bool) (synd : BitVec 16) : Statement (.patrolScrub line bad synd) := fun h => nomatch h

theorem recessStart (bench : Nat) : Statement (.recessStart bench) := fun h => nomatch h

theorem recessEnd (bench : Nat) (failing : Option (BitVec 16)) : Statement (.recessEnd bench failing) := fun h => nomatch h

theorem powerWindow (watts : Nat) (celsius : Nat) : Statement (.powerWindow watts celsius) := fun h => nomatch h

theorem coldReset (boots : BootEnd) : Statement (.coldReset boots) := fun h => nomatch h

theorem warmReset (boots : BootEnd) : Statement (.warmReset boots) := fun h => nomatch h

theorem traceTailFlush (ring : Nat) : Statement (.traceTailFlush ring) := fun h => nomatch h

theorem sample (c : CtxRef) : Statement (.sample c) := fun h => nomatch h

theorem triggerArm (n : Nat) (value : Word) : Statement (.triggerArm n value) := fun h => nomatch h

theorem freeze (domains : BitVec 5) : Statement (.freeze domains) := fun h => nomatch h

theorem thaw (domains : BitVec 5) : Statement (.thaw domains) := fun h => nomatch h

theorem mcbStatusClear (bank : Nat) (value : Word) : Statement (.mcbStatusClear bank value) := fun h => nomatch h

theorem registerWindowWrite (offset : Nat) (value : Word) : Statement (.registerWindowWrite offset value) := fun h => nomatch h

theorem hostMemoryAccess (pa : Nat) (access : HostAccess) : Statement (.hostMemoryAccess pa access) := fun h => nomatch h

theorem toolCoreAccess (tool : Nat) (access : ToolAccess) : Statement (.toolCoreAccess tool access) := fun h => nomatch h

theorem creditReceive (port : Nat) (cls : Nat) (vc : Nat) (n : Nat) : Statement (.creditReceive port cls vc n) := fun h => nomatch h

theorem waitOnWordReread (walk : Nat) : Statement (.waitOnWordReread walk) := fun h => nomatch h

theorem hostLinkLoss (lost : Bool) (synd : BitVec 16) : Statement (.hostLinkLoss lost synd) := fun h => nomatch h

theorem dieToDieLinkEvent (link : Nat) (synd : BitVec 16) : Statement (.dieToDieLinkEvent link synd) := fun h => nomatch h

theorem podFormation (dx : Nat) (dy : Nat) (dz : Nat) (place : PodPlace) : Statement (.podFormation dx dy dz place) := fun h => nomatch h

theorem clockStepUp : Statement .clockStepUp := fun h => nomatch h

theorem firmwareSwitch : Statement .firmwareSwitch := fun h => nomatch h

theorem debugHoldEnter : Statement .debugHoldEnter := fun h => nomatch h

theorem keyset : Statement .keyset := fun h => nomatch h

theorem keyerase : Statement .keyerase := fun h => nomatch h

theorem tool : Statement .tool := fun h => nomatch h

theorem adapter : Statement .adapter := fun h => nomatch h

theorem handler : Statement .handler := fun h => nomatch h

theorem binding : Statement .binding := fun h => nomatch h

theorem terminate : Statement .terminate := fun h => nomatch h

theorem stop : Statement .stop := fun h => nomatch h

theorem release : Statement .release := fun h => nomatch h

theorem sampleConfig : Statement .sampleConfig := fun h => nomatch h

theorem service : Statement .service := fun h => nomatch h

theorem update : Statement .update := fun h => nomatch h

theorem attest : Statement .attest := fun h => nomatch h

theorem debugHoldExit : Statement .debugHoldExit := fun h => nomatch h

theorem lockstepMismatch : Statement .lockstepMismatch := fun h => nomatch h

theorem securityBlockFault : Statement .securityBlockFault := fun h => nomatch h

end Sys2Proof.Laws.RoundTrip
end

