-- ==== Sys2Proof/Machine/Window.lean ====
section
/-! DEFINITION. What the host reads in the register window (28 R501, R503): descriptors, PSTAT (23 R449), standing bindings (21 R420), the
machine-check page (26 R480) and the dump of a stopped context (27 R492). A read changes no state. -/

namespace Sys2Proof.Machine

/-- A word of a host ring descriptor (21 R426). -/
def HostRing.word (x : HostRing) (k : Nat) : Word :=
  match k with
  | 0 => bitAt x.en 63 ||| at' x.base 0
  | 1 => at' x.log2 59 ||| at' x.tailAddr 0
  | 2 => place x.head 32 ||| place x.tail 0
  | _ => place x.vector 53 ||| at' x.cnt 32 ||| at' x.time 0

/-- A word of a trace ring descriptor (27 R487). -/
def TraceRing.word (x : TraceRing) (k : Nat) : Word :=
  match k with
  | 0 => bitAt x.en 63 ||| bitAt x.host 62 ||| at' x.base 0
  | 1 => at' x.log2 59 ||| at' x.tailAddr 0
  | 2 => place x.head 32 ||| place x.tail 0
  | _ => place x.dropcnt 32

/-- The code of a trigger's state. -/
def TriggerState.code : TriggerState → Nat
  | .idle => 0
  | .armed => 1
  | .tracing => 2
  | .done => 3

/-- A word of a trigger (27 R489). EN reads 1 from the write that arms the trigger until the one that disarms it. -/
def Trigger.word (t : Trigger) (k : Nat) : Word :=
  match k with
  | 0 => bitAt (t.state != .idle) 63 ||| at' t.state.code 61 ||| place t.startk 58 ||| place t.stopk 55 ||| bitAt t.brkpt 54 ||| place t.ring 50
  | 1 => t.tstart
  | 2 => t.tstop
  | _ => t.tfilt

/-- The code of a link's state. -/
def PortState.code : PortState → Nat
  | .down => 0
  | .train => 1
  | .up => 2
  | .retrain => 3
  | .replay => 4
  | .failed => 5
  | .fenced => 6

/-- PSTAT (23 R449). -/
def Port.pstat (p : Port) : Word :=
  at' p.state.code 61 ||| place p.width 59 ||| place p.lanesel 57 ||| bitAt p.kp 56 ||| bitAt p.oldv 55 ||| bitAt p.keyed 54 |||
    place p.failmask 32 ||| at' (p.ack % 2 ^ 24) 0

/-- Cohorts that wait for the slots of a standing binding: QUEUED (21 R421). -/
def State.queuedAt (s : State) (n : Nat) : Nat :=
  (s.launches.map fun l => if l.binding == some n then (l.cohorts.filter fun c => !c.bound).length else 0).sum

/-- A word of a standing binding (21 R420). -/
def State.bindingWord (s : State) (n k : Nat) : Word :=
  let b := s.binding n
  match k with
  | 0 => b.w0
  | 1 => b.w1
  | 2 => b.w2
  | _ => at' (b.stock.length % 65536) 48 ||| at' (s.queuedAt n % 65536) 32

/-- A word of a machine-check bank (26 R480). -/
def Mcb.word (b : Mcb) (k : Nat) : Word :=
  match k with
  | 0 => b.status
  | 1 => b.addr
  | 2 => b.info
  | _ => b.ctl

/-- The mask of the numbers below n that satisfy a predicate. -/
def maskOf (n : Nat) (p : Nat → Bool) : Nat := ((List.range n).map fun i => if p i then 2 ^ i else 0).sum

/-- The first dword of a capability entry: ID, VERSION 1, and NEXT. -/
def capabilityHead (id next : Nat) : Word := at' id 0 ||| at' 1 16 ||| at' next 32

/-- The offsets of the window's areas, in the order of the table of 28 R503. -/
def areaOffsets : List Nat :=
  [0, 0x10000, 0x20000, 0x21000, 0x22000, 0x23000, 0x24000, 0x30000, 0x30008, 0x100000, 0x200000]

/-- The capability list (28 R501): the header, the units in service, the feature masks and the area offsets, every field a dword and the bench
mask three; the mask of stacks is always that of all twelve (log entry 29). -/
def State.capabilities (s : State) : List Word :=
  let benches := maskOf 192 s.benchServes
  [capabilityHead 1 40, at' s.booted.toNat 0, at' s.node 0, at' s.fwVersion 0, 1] ++
  [capabilityHead 2 96, at' benches 0, at' (benches / 2 ^ 64) 0, at' (benches / 2 ^ 128) 0, at' (maskOf 24 s.quayInService) 0,
   at' (maskOf 6 fun p => (s.portAt p).state != .fenced && (s.portAt p).state != .failed && s.unitServes 2 p) 0, 4095] ++
  capabilityHead 3 1640 :: ((List.range 192).map fun n => (s.bench n).features) ++
  capabilityHead 4 0 :: areaOffsets.map (BitVec.ofNat 64)

/-- A dword of the capability list; beyond its end the area reads zero. -/
def State.capabilityWord (s : State) (i : Nat) : Word := s.capabilities.getD i 0

/-- The byte at an image offset of a stopped context's dump (27 R492): the values that a save at this boundary would write, zeros for a
sealed context, and zeros outside the offsets that the rule names. -/
def State.dumpByte (s : State) (c : Ctx) (off : Nat) : Byte :=
  let basin := s.basinOf c
  let ext := imageExt c.hasAcc basin.length
  if c.sealed || !s.isStopped c || c.life == .running then 0
  else if (256 ≤ off && off < 16384) || (ext ≤ off && off < ext + c.abext + c.wbext) then (s.imageBody c basin).getD (off - 256) 0
  else 0

/-- The dword at an offset of the register window; the dump window shows the context that the host has chosen (log entry 29). -/
def State.windowRead (s : State) (dumped : Option CtxRef) (off : Nat) : Word :=
  let k := off / 8 % 4
  if off < 0x10000 then s.capabilityWord (off / 8)
  else if off == 0x10000 then Config.mailboxRead s.free
  else if 0x10040 ≤ off && off < 0x10080 then recWord s.mailbox.toList (off - 0x10040)
  else if 0x20000 ≤ off && off < 0x20200 then (s.hostRing ((off - 0x20000) / 32)).word k
  else if 0x21000 ≤ off && off < 0x21200 then (s.traces.toList.getD ((off - 0x21000) / 32) TraceRing.reset).word k
  else if 0x22000 ≤ off && off < 0x22100 then (s.triggers.toList.getD ((off - 0x22000) / 32) Trigger.reset).word k
  else if 0x23000 ≤ off && off < 0x23030 then (s.portAt ((off - 0x23000) / 8)).pstat
  else if 0x24000 ≤ off && off < 0x24800 then s.bindingWord ((off - 0x24000) / 32) k
  else if 0x100000 ≤ off && off < 0x100000 + 32 * bankCount then (s.mcb ((off - 0x100000) / 32)).word k
  else if 0x200000 ≤ off && off < 0x300000 then
    match dumped.bind s.findCtx with
    | some c => BitVec.ofNat 64 (leNat ((List.range 8).map fun i => s.dumpByte c (off - 0x200000 + i)))
    | none => 0
  else 0

end Sys2Proof.Machine
end

