-- ==== Sys2Proof/Safety.lean ====
section
/-! DEFINITION. What counts as a safe run, in the terms that the claims use: when the control unit executes an instruction and what that
leaves beside the instruction's own effect, what a frame keeps, the states that steps reach, and the invariant that every step keeps. -/

namespace Sys2Proof.Safety

open Sys2Proof.Machine

/-! ## Executions of the control unit -/

/-- The WAIT and SIG bytes of an instruction; an event's are plain. -/
def syncOf (i : Instr) : Sync := i.sync.getD Sync.plain

/-- The control unit executes an instruction: the checks of 05 R95 pass, the WAIT byte's conditions hold (05 R92) and the guard, where the
instruction has one, is true (05 R97). -/
def Executes (i : Instr) (s : State) : Prop :=
  s.decodeTrap i = none ∧ s.cx.mayTurn (syncOf i) = true ∧ ∀ pg pn, i.cuGuard = some (pg, pn) → s.cx.guard pg pn = true

/-- The state after an executed instruction whose own effect leaves s: the bell of WAIT is taken and that of SIG rung (05 R92, R93), the
turn's cycle is noted, nothing is awaited and the watchdog starts again (02 R46), and the program counter is as given. -/
def executed (i : Instr) (s : State) (pc : Word) : State :=
  { s with cx := { s.cx with bells := (s.cx.settleBells (syncOf i)).bells, rung := (s.cx.settleBells (syncOf i)).rung,
                             lastTurn := some s.cx.now, wdog := 0, outside := .none, held := none, watch := none, pc := pc } }

/-- The state after an executed instruction that changes its context to c and goes on to the next word (05 R91). -/
def executedTo (i : Instr) (s : State) (c : Ctx) : State := executed i { s with cx := c } (s.cx.pc + 8)

/-! ## The results of 06 R127 to R131 -/

/-- Bits of a from the highest down that are zero. -/
def leading (a : Word) : Nat := ((List.range 64).takeWhile fun k => !a.getLsbD (63 - k)).length

/-- Bits of a from the lowest up that are zero. -/
def trailing (a : Word) : Nat := ((List.range 64).takeWhile fun k => !a.getLsbD k).length

/-- DIV: truncated towards zero; all ones by zero; −2^63 by −1 stays (06 R127). -/
def quotient (a b : Word) : Word := if b = 0 then BitVec.allOnes 64 else BitVec.ofInt 64 (a.toInt.tdiv b.toInt)

/-- REM: a − b DIV(a, b); a by zero (06 R127). -/
def remainder (a b : Word) : Word := if b = 0 then a else a - b * quotient a b

/-- DIVU. -/
def quotientU (a b : Word) : Word := if b = 0 then BitVec.allOnes 64 else BitVec.ofNat 64 (a.toNat / b.toNat)

/-- REMU. -/
def remainderU (a b : Word) : Word := if b = 0 then a else BitVec.ofNat 64 (a.toNat % b.toNat)

/-- 1 if a condition holds, else 0. -/
def oneIf (p : Prop) [Decidable p] : Word := if p then 1 else 0

/-- SHL, SHR and SRA by b[5:0]. -/
def shiftLeft (a b : Word) : Word := BitVec.ofNat 64 (a.toNat * 2 ^ (b.toNat % 64))
def shiftRight (a b : Word) : Word := BitVec.ofNat 64 (a.toNat / 2 ^ (b.toNat % 64))
def shiftArithmetic (a b : Word) : Word := BitVec.ofInt 64 (a.toInt / 2 ^ (b.toNat % 64))

/-- The register forms with the result that the table of 06 R127 gives for a = s[sa] and b = s[sb]. -/
def registerForms (o : SR) (a b : Word) : List (Instr × Word) :=
  [(.add o, a + b), (.sub o, a - b), (.mul o, BitVec.ofNat 64 (a.toNat * b.toNat)), (.div o, quotient a b), (.divu o, quotientU a b),
   (.rem o, remainder a b), (.remu o, remainderU a b), (.and_ o, a &&& b), (.or_ o, a ||| b), (.xor_ o, a ^^^ b),
   (.shl o, shiftLeft a b), (.shr o, shiftRight a b), (.sra o, shiftArithmetic a b), (.slt o, oneIf (a.toInt < b.toInt)),
   (.sltu o, oneIf (a.toNat < b.toNat)), (.min o, if a.toInt ≤ b.toInt then a else b), (.minu o, if a.toNat ≤ b.toNat then a else b),
   (.max o, if a.toInt ≤ b.toInt then b else a), (.maxu o, if a.toNat ≤ b.toNat then b else a), (.clz o, BitVec.ofNat 64 (leading a)),
   (.ctz o, BitVec.ofNat 64 (trailing a)), (.popc o, BitVec.ofNat 64 ((List.range 64).countP a.getLsbD))]

/-- The immediate forms of 06 R128 for a = s[sa] and b the sign-extended immediate. -/
def immediateForms (o : SI) (a b : Word) : List (Instr × Word) :=
  [(.addi o, a + b), (.muli o, BitVec.ofNat 64 (a.toNat * b.toNat)), (.divi o, quotient a b), (.remi o, remainder a b),
   (.divui o, quotientU a b), (.remui o, remainderU a b), (.slti o, oneIf (a.toInt < b.toInt)), (.sltui o, oneIf (a.toNat < b.toNat)),
   (.andi o, a &&& b), (.ori o, a ||| b), (.xori o, a ^^^ b), (.shli o, shiftLeft a b), (.shri o, shiftRight a b),
   (.srai o, shiftArithmetic a b)]

/-- The condition of PCMP on s[sa] and s[sb] (06 R131). -/
def compares (c : PCond) (a b : Word) : Prop :=
  match c with
  | .eq => a = b
  | .ne => a ≠ b
  | .lt => a.toInt < b.toInt
  | .ge => b.toInt ≤ a.toInt
  | .ltu => a.toNat < b.toNat
  | .geu => b.toNat ≤ a.toNat

/-! ## Records -/

/-- The trap record of a deliberate trap of the control unit at an address (06 R143; 26 R476). -/
def ownTrap (cause : BitVec 7) (code : BitVec 16) (pc : Word) : TrapRec :=
  { cause := cause, queue := 0, resumable := true, mc := false, secondary := false, code := code, pc := pc, iaddr := pc, vaddr := 0, info := 0 }

/-- The save that a CTXST with this descriptor requests (14 R313). -/
def requestedSave (name : BitVec 32) (desc : Word) (sp : Space) : Transfer :=
  { name := name, desc := some (desc, sp), images := [], place := none, isRestore := false, written := false, slots := [], count := 0, plains := [], handed := false }

/-- The restore that a CTXLD with this descriptor queues for a placement (14 R314). -/
def requestedRestore (name : BitVec 32) (desc : Word) (sp : Space) (images : List (Nat × Word)) (place : Nat) : Transfer :=
  { name := name, desc := some (desc, sp), images := images, place := if place = 0 then none else some (place - 1), isRestore := true,
    written := false, slots := [], count := 0, plains := [], handed := false }

/-! ## Frames -/

/-- The scalar register that an instruction of 06 R127 to R130 or FEAT writes. -/
def destination : Instr → Option (BitVec 5)
  | .add o | .sub o | .mul o | .div o | .divu o | .rem o | .remu o | .and_ o | .or_ o | .xor_ o | .shl o | .shr o | .sra o | .slt o
  | .sltu o | .min o | .minu o | .max o | .maxu o | .clz o | .ctz o | .popc o | .sel o => some o.sd
  | .addi o | .muli o | .divi o | .remi o | .divui o | .remui o | .slti o | .sltui o | .andi o | .ori o | .xori o | .shli o | .shri o
  | .srai o | .feat o => some o.sd
  | .li o | .lui o | .lea o => some o.sd
  | _ => none

/-- Every byte of memory, and its poison, is as it was. -/
def SameMemory (s t : State) : Prop := (∀ a, Memory.get t.mem a = Memory.get s.mem a) ∧ t.poison = s.poison

/-- Tiles, vector registers, masks, shapes, slots, holds, channels, accumulators and queues are as they were. -/
def SameEngines (c d : Ctx) : Prop :=
  d.v = c.v ∧ d.tags = c.tags ∧ d.m = c.m ∧ d.h = c.h ∧ d.t = c.t ∧ d.f = c.f ∧ d.holds = c.holds ∧ d.vprev = c.vprev ∧ d.vnext = c.vnext ∧
    d.acc = c.acc ∧ d.accstat = c.accstat ∧ d.lq = c.lq ∧ d.sq = c.sq ∧ d.aq = c.aq ∧ d.mq = c.mq ∧ d.nq = c.nq ∧ d.pending = c.pending ∧
    d.expects = c.expects ∧ d.handed = c.handed ∧ d.mqDone = c.mqDone

/-- FLAGS, ROT, LCNT and every other CSR but the bells are as they were, and the counts of cycles. -/
def SameSpecial (c d : Ctx) : Prop :=
  d.flags = c.flags ∧ d.rot = c.rot ∧ d.lcnt = c.lcnt ∧ d.slipd = c.slipd ∧ d.qwdog = c.qwdog ∧ d.srkey = c.srkey ∧ d.srctr = c.srctr ∧
    d.slip = c.slip ∧ d.priv = c.priv ∧ d.sealed = c.sealed ∧ d.bank = c.bank ∧ d.schk = c.schk ∧ d.coord = c.coord ∧ d.cohort = c.cohort ∧ d.nmem = c.nmem ∧
    d.launch = c.launch ∧ d.cycle = c.cycle ∧ d.clk = c.clk ∧ d.since = c.since ∧ d.keyslot = c.keyslot ∧ d.savectr = c.savectr

/-- The fault record and the traps that wait are as they were, and so is the address space. -/
def SameRecords (c d : Ctx) : Prop :=
  d.faultRec = c.faultRec ∧ d.after = c.after ∧ d.asid = c.asid ∧ d.root = c.root ∧ d.heapBase = c.heapBase ∧ d.heapSize = c.heapSize ∧
    d.inbox = c.inbox ∧ d.runList = c.runList ∧ d.runBlock = c.runBlock ∧ d.actno = c.actno

/-- Nothing of the package but the current context has changed. -/
def OnlyContext (s t : State) : Prop := t = { s with cx := t.cx }

/-! ## Forwarding -/

/-- A turn that forwards an instruction to a queue, once decode has passed (02 R40, R43; 05 R97; 16 R323): an instruction larger than the
depth traps with cause 0x41, one for which the queue has no room waits, one whose guard is false enters as a void entry, one whose own check
fails traps, one that would open a tile's epoch 128 fills ahead waits, and any other leaves t with its entry at the queue's end. -/
def Forwards (i : Instr) (q : Queue) (guard : Bool) (check : Option Trap) (t s : State) : Prop :=
  s.decodeTrap i = none →
    let n := entriesFor i (!guard)
    let e := s.cx.entryOf i (!guard)
    (s.cx.depth q < n → exec i s = .next (s.takeTrap (s.cuTrap 0x41))) ∧
    (n ≤ s.cx.depth q → s.cx.depth q < (s.cx.queue q).count + n → exec i s = .next (s.stalled false)) ∧
    ((s.cx.queue q).count + n ≤ s.cx.depth q →
      (guard = false → exec i s = .next (s.forwarded q e)) ∧
      (guard = true → ∀ x, check = some x → exec i s = .next (s.takeTrap x)) ∧
      (guard = true → check = none → s.cx.farAhead e = true → exec i s = .next (s.stalled false)) ∧
      (guard = true → check = none → s.cx.farAhead e = false → exec i s = .next (t.forwarded q e)))

/-- The port instructions with the check that each makes at forwarding. -/
def portForms (o : N) (s : State) : List (Instr × Option Trap) :=
  let e (i : Instr) : Entry := s.cx.entryOf i false
  [(.rstv o, rstvCheck s (e (.rstv o))), (.rstvRel o, rstvCheck s (e (.rstvRel o))), (.vexp o, vexpCheck s (e (.vexp o))),
   (.cname o, cnameCheck o s (e (.cname o))), (.amsg o, amsgCheck s (e (.amsg o))), (.mcst o, sourceCheck 1 s (e (.mcst o))),
   (.redst o, sourceCheck (redBytes (field o.ctl 0 4)) s (e (.redst o))), (.cpy o, cpyCheck s (e (.cpy o))), (.cpyw o, cpywCheck s (e (.cpyw o))),
   (.taskq o, taskCheck false o s (e (.taskq o))), (.taskdec o, taskCheck true o s (e (.taskdec o))), (.tend o, none),
   (.qsnap o, qsnapCheck s (e (.qsnap o))), (.fcall o, fcallCheck o s (e (.fcall o))), (.fwait o, recordCheck o true s (e (.fwait o))),
   (.fpoll o, recordCheck o true s (e (.fpoll o))), (.fdone o, recordCheck o true s (e (.fdone o))), (.fcancel o, recordCheck o false s (e (.fcancel o))),
   (.flink o, flinkCheck o s (e (.flink o))), (.adref o, adrefCheck o s (e (.adref o))), (.launch o, launchCheck o s (e (.launch o))),
   (.graphgo o, graphgoCheck s (e (.graphgo o))), (.hring o, hringCheck s (e (.hring o)))]

/-- The instructions of the vector engine. -/
def vectorForms (o : V) : List Instr :=
  [.vadd o, .vsub o, .vmul o, .vfma o, .vfms o, .vmin o, .vmax o, .vabs o, .vneg o, .vrcp o, .vrsq o, .vsqrt o, .vexp2 o, .vlog2 o, .vcmp o,
   .vselm o, .vand o, .vor o, .vxor o, .vnot o, .vshl o, .vshr o, .vcvt o, .vqnt o, .vdqnt o, .vbcast o, .vmov o, .vmovFrom o, .vmovTo o,
   .vext o, .vins o, .vredsum o, .vredmax o, .vredmin o, .vargmax o, .vargmin o, .vscan o, .vtrn o, .vshf o, .vpermr o, .vbaddq o, .vrng o,
   .vmlog o]

/-- Forwarding keeps every scalar register, predicate, bell, CSR but SRCTR, vector register and mask, accumulators, memory and every other
queue. -/
def ForwardFrame (q : Queue) (s t : State) : Prop :=
  (∀ k, t.cx.sreg k = s.cx.sreg k) ∧ (∀ k, t.cx.preg k = s.cx.preg k) ∧ t.cx.bells = s.cx.bells ∧ t.cx.rung = s.cx.rung ∧ t.cx.flags = s.cx.flags ∧
    t.cx.rot = s.cx.rot ∧ t.cx.lcnt = s.cx.lcnt ∧ t.cx.slipd = s.cx.slipd ∧ t.cx.srkey = s.cx.srkey ∧ t.cx.v = s.cx.v ∧ t.cx.tags = s.cx.tags ∧
    t.cx.m = s.cx.m ∧ t.cx.h = s.cx.h ∧ t.cx.f = s.cx.f ∧ t.cx.acc = s.cx.acc ∧ t.cx.accstat = s.cx.accstat ∧ t.cx.pending = s.cx.pending ∧
    SameRecords s.cx t.cx ∧ (∀ r, r ≠ q → t.cx.queue r = s.cx.queue r) ∧ SameMemory s t ∧ OnlyContext s t

/-! ## Issue -/

/-- The head e of a queue of the running current context can issue (02 R41): it has not issued, this is a later cycle than its forwarding and
than the last issue and the last retirement of its queue, its STALL count has passed, its bell can be taken, its tiles and registers are as it needs them, and its engine is free. -/
def Issues (s : State) (q : Queue) (e : Entry) (rest : List Entry) : Prop :=
  s.cx.life = .running ∧ (s.cx.queue q).entries = e :: rest ∧ (s.cx.queue q).issued = false ∧ e.born < s.cx.now ∧
    (∀ l, (s.cx.queue q).last = some l → l ≠ s.cx.now ∧ l + (e.instr.sync.getD Sync.plain).stall ≤ s.cx.now) ∧
    (s.cx.queue q).gone ≠ some s.cx.now ∧
    s.cx.canTake (e.instr.sync.getD Sync.plain).takes = true ∧ s.cx.opersOk e = true ∧ s.cx.moving q = false ∧ s.engineFree q e = true

/-- The current context's bells once a head has issued: its own is taken; and the bells rung in the cycle, its acceptance bell among them. -/
def issuedBells (s : State) (e : Entry) : Vector (BitVec 8) 32 × List (BitVec 5) :=
  let c := (s.cx.take (e.instr.sync.getD Sync.plain).takes).ringTaken e
  (c.bells, c.rung)

/-! ## Events -/

/-- No running context is on the core of a context. -/
def CoreFree (s : State) (x : Ctx) : Prop := ∀ y ∈ s.ctxs, y.sameCore x = true → y.life ≠ .running

/-- The walk w, at a node of a kind that it has not started, can start it: the node reads as b from s1 and is valid, and s2 is the state
once its start is stamped (21 R422, R425). -/
def NodeStarts (s : State) (w : Walk) (kind : Nat) (b : List Byte) (s1 s2 : State) : Prop :=
  s.walkOf w.num = some w ∧ w.failed = none ∧ w.started = false ∧ s.agentRead w.space w.addr 64 = .ok (s1, b) ∧ nodeBad b = false ∧
    nodeKind b = kind ∧ s1.injected 1828 = false ∧ s1.agentWrite w.space (w.addr + 52) (stampBytes s.ns) = .ok s2

/-- The walk once its node has started. -/
def startedWalk (s : State) (w : Walk) (b : List Byte) : Walk := { w with started := true, startedAt := s.ns, body := b }

/-- The seven node events of a walk. -/
def nodeEvents (num : Nat) : List Instr :=
  [.nodeLaunch num, .nodeCopy num, .nodeWaitOnWord num, .nodeSignalWord num, .nodeConditional num, .nodeHostRingDrain num, .nodeEnd num]

/-- The k-th flight is this arrival, here and due, with nothing before it, at its sender's port or at its own, and its completion words present
(17 R352 to R354). -/
def ArrivalDue (s : State) (k : Nat) (a : Arrival) (bytes : List Byte) (f : Flight) : Prop :=
  s.flights[k]? = some f ∧ f.load = .arrival a bytes ∧ f.away = false ∧ f.due ≤ s.time ∧
    heldBehind (s.flights.take k) f = false ∧ s.behindRefused f.origin a bytes = false ∧ s.outcomeAbsent a f.origin = false

/-- The event of an arrival of each kind at the k-th flight. -/
def arrivalEvents (k : Nat) : List (Nat × Instr) :=
  [(1, .registerStoreArrival k), (2, .counterSettingArrival k), (3, .taskDecrementArrival k), (4, .activeMessageArrival k)]

/-- No trigger is a breakpoint. -/
def NoBreaks (s : State) : Prop := ∀ t ∈ s.triggers.toList, t.brkpt = false

/-! ## Errors and commands -/

/-- The bank holds no record (26 R480). -/
def NoRecord (s : State) (bank : Nat) : Prop := (s.mcb bank).status.getLsbD 63 = false

/-- The bank holds a record of this severity and class with this detail (26 R480, R481). -/
def Logged (t : State) (bank : Nat) (sev : BitVec 2) (cls : BitVec 7) (synd : BitVec 16) : Prop :=
  let w := (t.mcb bank).status
  w.getLsbD 63 = true ∧ w.extractLsb' 60 2 = sev ∧ w.extractLsb' 50 7 = cls ∧ w.extractLsb' 0 16 = synd

/-- CECOUNT of the bank has gone up by one, saturating (26 R480). -/
def Counted (s t : State) (bank : Nat) : Prop :=
  ((t.mcb bank).status.extractLsb' 16 16).toNat = min 65535 (((s.mcb bank).status.extractLsb' 16 16).toNat + 1)

/-- The command events, each with its OP and SUBOP and what it does with its block (28 R503). -/
def commandEvents : List (Instr × (Nat × Nat) × Serve) :=
  [(.keyset, (1, 0), serveKeyset), (.keyerase, (1, 1), serveKeyerase), (.tool, (2, 0), serveTool), (.adapter, (3, 0), serveAdapter),
   (.handler, (4, 0), serveHandler), (.binding, (5, 0), serveBinding), (.terminate, (6, 0), serveTerminate), (.stop, (7, 0), serveStop),
   (.release, (7, 1), serveRelease), (.sampleConfig, (8, 0), serveSample), (.service, (9, 0), serveService), (.update, (10, 0), serveUpdate),
   (.attest, (10, 1), serveAttest)]

/-! ## Runs -/

/-- Steps lead from one state to another. -/
inductive Reaches : State → State → Prop where
  | here (s : State) : Reaches s s
  | step {s t u : State} (h : step s = .next t) (r : Reaches t u) : Reaches s u

/-- Memory has its canonical form (log entry 2). -/
def Inv (s : State) : Prop := Memory.wf s.mem = true

/-- No run from a state ends in a refusal. -/
def Safe (s : State) : Prop := ∀ t, Reaches s t → ∀ r, step t ≠ .refused r

end Sys2Proof.Safety
end

