-- ==== Sys2Proof/Certificates/Slice0/Obligations.lean ====
section
/-! DEFINITION. The statements for the provers, each formalising rules of spec/ as its docstring cites them. -/

open Sys2Proof Sys2Proof.Machine Sys2Proof.Safety

/-! ## Words -/

/-- 05 R99 to R106: words written out from the encodings decode to the instruction they stand for. -/
def Obligations.DecodedWords : Prop :=
  decode 0x0000_0140_C000_0000 = some (.add ⟨Sync.plain, 8, 3, 0, 0, false⟩) ∧
  decode 0x0000_0A11_4C02_0000 = some (.pcmp .lt ⟨Sync.plain, 2, 5, 6, 0, false⟩) ∧
  decode 0x0000_1801_0100_0003 = some (.csrw ⟨Sync.plain, 0, 4, 0, false, 3⟩) ∧
  decode 0x0000_1B11_8000_0000 = some (.shpx .vrows ⟨Sync.plain, 2, 6, 0, false, 0⟩) ∧
  decode 0x0000_3329_8350_0008 = some (.lda ⟨Sync.plain, 5, 6, 0, false, 3, 2, 4, 8⟩) ∧
  decode 0x0000_3749_021A_6000 = some (.red ⟨Sync.plain, 9, 4, 0, false, 2, 0, 6, 0x26000⟩) ∧
  decode 0x0000_1000_3FFF_FFF9 = some (.loop ⟨Sync.plain, 0, false, 0, 0xFFFFFF9⟩) ∧
  decode 0x0042_7A40_1404_0000 = some (.launch ⟨⟨0, 0x42⟩, 8, 0, 10, 0, 4, 0⟩)

/-- 05 R91 to R109: the word of every well-formed instruction decodes to that instruction, with every operand at every value that the
encoding admits. -/
def Obligations.DecodeEncode : Prop := ∀ i : Instr, Sys2Proof.Laws.RoundTrip.Statement i

/-- 05 R91 to R109: no two words decode to one instruction, since the decoded instruction encodes to the word it came from; every word of an
unassigned MAJOR decodes to the row of that name, and no other word does. -/
def Obligations.EncodeDecode : Prop :=
  (∀ (w : Word) (i : Instr), decode w = some i → encode i = w) ∧
  ((∀ w : Word, majorAssigned (majorOf w) = false → decode w = some (.unassignedMajorOpcode w)) ∧
    ∀ w : Word, majorAssigned (majorOf w) = true → ∀ x, decode w ≠ some (.unassignedMajorOpcode x))

/-! ## Turns of the control unit (05 R91 to R98; 06 R122) -/

/-- 05 R95: an instruction in 0xE0 to 0xEF traps with cause 0x04 in an unprivileged context; else one that needs a feature or a declared use
that is missing traps with cause 0x03; else one with a reserved field traps with cause 0x02; else a reserved SIG byte traps with cause 0x05.
One that fails no check passes decode. The check that fails traps at the instruction: the instruction is not forwarded, takes and rings no
bell, and the state keeps everything but the context's life and trap record. A word of an unassigned MAJOR traps with cause 0x01, or with
0x04 in 0xE0 to 0xEF in an unprivileged context; a word whose function code is not assigned traps with cause 0x04, 0x03 or 0x02. -/
def Obligations.DecodeChecks : Prop :=
  (∀ (s : State) (i : Instr),
      (privileged i = true ∧ s.cx.priv = false → s.decodeTrap i = some (s.cuTrap 0x04)) ∧
      ((privileged i = true → s.cx.priv = true) →
        (∀ code, s.lacks (needsOf i) = some code → s.decodeTrap i = some (s.cuTrap 0x03 code)) ∧
        (s.lacks (needsOf i) = none →
          (i.fieldsOk = false → s.decodeTrap i = some (s.cuTrap 0x02)) ∧
          (i.fieldsOk = true → (syncOf i).legal = false → s.decodeTrap i = some (s.cuTrap 0x05)) ∧
          (i.wellFormed = true → s.decodeTrap i = none)))) ∧
  (∀ (s : State) (i : Instr) (t : Trap), i.sync.isSome = true → s.decodeTrap i = some t →
      exec i s = .next (s.takeTrap t) ∧
        s.takeTrap t = { s with cx := { s.cx with life := (s.cx.takeTrap t).life, trap := (s.cx.takeTrap t).trap } }) ∧
  (∀ (s : State) (w : Word), majorAssigned (majorOf w) = false →
      let own : Prop := 0xE0 ≤ majorOf w ∧ majorOf w ≤ 0xEF
      (own → s.cx.priv = false → exec (.unassignedMajorOpcode w) s = .next (s.takeTrap (s.cuTrap 0x04))) ∧
      (¬ own ∨ s.cx.priv = true → exec (.unassignedMajorOpcode w) s = .next (s.takeTrap (s.cuTrap 0x01)))) ∧
  (∀ (s : State) (w : Word), majorAssigned (majorOf w) = true →
      let own : Prop := 0xE0 ≤ majorOf w ∧ majorOf w ≤ 0xEF
      (own → s.cx.priv = false → s.badWord w = s.takeTrap (s.cuTrap 0x04)) ∧
      (¬ own ∨ s.cx.priv = true →
        (∀ code, s.lacks (wordNeeds w) = some code → s.badWord w = s.takeTrap (s.cuTrap 0x03 code)) ∧
        (s.lacks (wordNeeds w) = none → s.badWord w = s.takeTrap (s.cuTrap 0x02))))

/-- 05 R92, R97, 06 R122: a control-unit instruction whose guard is false honours its WAIT and SIG bytes, goes on to the next word and has
no other effect; one whose WAIT byte's conditions do not hold waits, and only what it waits for is noted. -/
def Obligations.ControlUnitTurns : Prop :=
  (∀ (s : State) (i : Instr) (pg : BitVec 3) (pn : Bool), i.cuGuard = some (pg, pn) → s.decodeTrap i = none →
      s.cx.mayTurn (syncOf i) = true → s.cx.guard pg pn = false → exec i s = .next (executed i s (s.cx.pc + 8))) ∧
  (∀ (s : State) (i : Instr) (pg : BitVec 3) (pn : Bool), i.cuGuard = some (pg, pn) → s.decodeTrap i = none →
      s.cx.mayTurn (syncOf i) = false →
      exec i s = .next { s with cx := { s.cx with
        held := some true, outside := if s.cx.canTake (syncOf i).takes then .none else .bell (syncOf i).takes } })

/-! ## Registers and arithmetic (03 R51, R64; 06 R127 to R133) -/

/-- 03 R51, R64: s0 reads zero and p0 true, a write to either is discarded, a write to another register is read back, and every other scalar
register keeps its value; the predicates p4 upwards rotate. -/
def Obligations.RegisterFile : Prop :=
  ∀ (c : Ctx), c.sreg 0 = 0 ∧ c.preg 0 = true ∧
    (∀ (n k : BitVec 5) (x : Word), (c.setSreg n x).sreg k = if k = 0 then 0 else if k = n then x else c.sreg k) ∧
    (∀ (n k : BitVec 3) (b : Bool), c.rot.pw.toNat ≤ 4 →
      (c.setPreg n b).preg k = if k = 0 then true else if k = n then b else c.preg k) ∧
    ∀ n : BitVec 3, c.physP n = if 4 ≤ n.toNat ∧ n.toNat - 4 < c.rot.pw.toNat then
      BitVec.ofNat 3 (4 + (n.toNat - 4 + c.rot.pbase.toNat) % c.rot.pw.toNat) else n

/-- 06 R127, R128: each register form writes to s[sd] the value that the table gives, and each immediate form computes as the register form
of its name with the sign-extended immediate. -/
def Obligations.ArithmeticForms : Prop :=
  (∀ (o : SR) (s : State), ∀ f ∈ registerForms o (s.cx.sreg o.sa) (s.cx.sreg o.sb), Executes f.1 s →
      exec f.1 s = .next (executedTo f.1 s (s.cx.setSreg o.sd f.2))) ∧
  (∀ (o : SI) (s : State), ∀ f ∈ immediateForms o (s.cx.sreg o.sa) (o.imm24.signExtend 64), Executes f.1 s →
      exec f.1 s = .next (executedTo f.1 s (s.cx.setSreg o.sd f.2)))

/-- 06 R129, R130, R141: LI writes the sign-extended immediate, LUI the high word, LEA the instruction's own address plus the immediate; SEL
writes s[sa] where p[pg] XOR pn is true, else s[sb]; FEAT writes whether the core's mask holds the feature, 0 from feature 64 on. -/
def Obligations.ConstantsAndSelection : Prop :=
  (∀ (o : LI) (s : State), Executes (.li o) s →
    exec (.li o) s = .next (executedTo (.li o) s (s.cx.setSreg o.sd (o.imm32.signExtend 64)))) ∧
  (∀ (o : LI) (s : State), Executes (.lui o) s →
    exec (.lui o) s = .next (executedTo (.lui o) s (s.cx.setSreg o.sd (BitVec.ofNat 64 (o.imm32.toNat * 2 ^ 32 + (s.cx.sreg o.sd).toNat % 2 ^ 32))))) ∧
  (∀ (o : LI) (s : State), Executes (.lea o) s →
    exec (.lea o) s = .next (executedTo (.lea o) s (s.cx.setSreg o.sd (s.cx.pc + o.imm32.signExtend 64)))) ∧
  (∀ (o : SR) (s : State), Executes (.sel o) s →
    exec (.sel o) s = .next (executedTo (.sel o) s (s.cx.setSreg o.sd (if s.cx.preg o.pg ≠ o.pn then s.cx.sreg o.sa else s.cx.sreg o.sb)))) ∧
  ∀ (o : SI) (s : State), Executes (.feat o) s →
    exec (.feat o) s = .next (executedTo (.feat o) s (s.cx.setSreg o.sd
      (oneIf (o.imm24.toNat % 256 < 64 ∧ (s.featuresOf s.cx).getLsbD (o.imm24.toNat % 256) = true))))

/-- 06 R131 to R133: PCMP writes the comparison, PAND, POR and PNOT the operation, to the predicate of sd[2:0]; p0 discards it. -/
def Obligations.PredicateForms : Prop :=
  (∀ (c : PCond) (o : SR) (s : State) (b : Bool), Executes (.pcmp c o) s → (b = true ↔ compares c (s.cx.sreg o.sa) (s.cx.sreg o.sb)) →
    exec (.pcmp c o) s = .next (executedTo (.pcmp c o) s (s.cx.setPreg (field o.sd 0 3) b))) ∧
  (∀ (o : SR) (s : State), Executes (.pand o) s → exec (.pand o) s =
    .next (executedTo (.pand o) s (s.cx.setPreg (field o.sd 0 3) (s.cx.preg (field o.sa 0 3) && s.cx.preg (field o.sb 0 3))))) ∧
  (∀ (o : SR) (s : State), Executes (.por o) s → exec (.por o) s =
    .next (executedTo (.por o) s (s.cx.setPreg (field o.sd 0 3) (s.cx.preg (field o.sa 0 3) || s.cx.preg (field o.sb 0 3))))) ∧
  ∀ (o : SR) (s : State), Executes (.pnot o) s → exec (.pnot o) s =
    .next (executedTo (.pnot o) s (s.cx.setPreg (field o.sd 0 3) (!s.cx.preg (field o.sa 0 3))))

/-- 06 R127 to R130, R141, 02 R44: the frame of the scalar instructions with one destination register, on every path to a next state: every
other scalar register, every predicate, every CSR but the bells, tiles, vector registers, accumulators, queues, the records of faults, every
byte of memory, and the rest of the package are as they were. -/
def Obligations.ScalarFrame : Prop :=
  ∀ (i : Instr) (d : BitVec 5) (s t : State), destination i = some d → exec i s = .next t →
    (∀ k, k ≠ d → t.cx.sreg k = s.cx.sreg k) ∧ (∀ k, t.cx.preg k = s.cx.preg k) ∧ SameSpecial s.cx t.cx ∧ SameEngines s.cx t.cx ∧
      SameRecords s.cx t.cx ∧ SameMemory s t ∧ OnlyContext s t

/-! ## Control transfer (06 R134 to R136) -/

/-- 06 R134, 05 R91, R99: B transfers to pc + 8 off28; CALL also writes pc + 8 to s31; RET transfers to s[sa], and traps with cause 0x24,
the program counter unchanged, where that is no multiple of 8. -/
def Obligations.Branches : Prop :=
  (∀ (o : BR) (s : State), Executes (.b o) s → exec (.b o) s = .next (executed (.b o) s (s.cx.pc + 8 * o.off28.signExtend 64))) ∧
  (∀ (o : BR) (s : State), Executes (.call o) s → exec (.call o) s =
    .next (executed (.call o) { s with cx := s.cx.setSreg 31 (s.cx.pc + 8) } (s.cx.pc + 8 * o.off28.signExtend 64))) ∧
  (∀ (o : BR) (s : State), Executes (.ret o) s → (s.cx.sreg o.sa).toNat % 8 = 0 →
    exec (.ret o) s = .next (executed (.ret o) s (s.cx.sreg o.sa))) ∧
  ∀ (o : BR) (s : State), Executes (.ret o) s → (s.cx.sreg o.sa).toNat % 8 ≠ 0 →
    exec (.ret o) s = .next (s.takeTrap { cause := 0x24, queue := 0, iaddr := s.cx.pc, va := s.cx.sreg o.sa })

/-- 06 R135, R136: LOOP with LCNT of 2 or more rotates both bases, lowers LCNT and branches; else it clears LCNT and falls through. ROTSET
sets the window and clears both bases, and leaves LCNT. -/
def Obligations.Loops : Prop :=
  (∀ (o : BR) (s : State), Executes (.loop o) s → 2 ≤ s.cx.lcnt.toNat → exec (.loop o) s =
    .next (executed (.loop o) { s with cx := { s.cx with
      lcnt := s.cx.lcnt - 1
      rot := { s.cx.rot with
        vbase := if s.cx.rot.vw = 0 then s.cx.rot.vbase else BitVec.ofNat 5 ((s.cx.rot.vbase.toNat + s.cx.rot.vw.toNat - 1) % s.cx.rot.vw.toNat)
        pbase := if s.cx.rot.pw = 0 then s.cx.rot.pbase else BitVec.ofNat 2 ((s.cx.rot.pbase.toNat + s.cx.rot.pw.toNat - 1) % s.cx.rot.pw.toNat) } } }
      (s.cx.pc + 8 * o.off28.signExtend 64))) ∧
  (∀ (o : BR) (s : State), Executes (.loop o) s → s.cx.lcnt.toNat < 2 → exec (.loop o) s =
    .next (executedTo (.loop o) s { s.cx with lcnt := 0 })) ∧
  ∀ (o : SI) (s : State), Executes (.rotset o) s → exec (.rotset o) s =
    .next (executedTo (.rotset o) s { s.cx with
      rot := { vw := o.imm24.extractLsb' 0 6, vbase := 0, pw := o.imm24.extractLsb' 8 3, pbase := 0 } })

/-! ## CSRs, queues, shapes and bells (03 R57 to R67; 06 R125, R126, R137 to R142) -/

/-- 06 R137, 03 R66: a CSR instruction traps with cause 0x04 on 0xC00 to 0xFFF in an unprivileged context and with cause 0x02 on an unlisted
number; CSRR reads; CSRW, CSRS and CSRC write the new value and give the old one to s[sd], unless the new value is illegal, when neither is
written. 0xC80 has statements of its own. -/
def Obligations.CsrInstructions : Prop :=
  ∀ (o : SI) (s : State), csrNumber o ≠ 0xC80 →
    let forms : List (Instr × (Word → Option Word)) :=
      [(.csrr o, fun _ => none), (.csrw o, fun _ => some (s.cx.sreg o.sa)), (.csrs o, fun old => some (old ||| s.cx.sreg o.sa)),
       (.csrc o, fun old => some (old &&& ~~~s.cx.sreg o.sa))]
    ∀ f ∈ forms, Executes f.1 s →
      (0xC00 ≤ csrNumber o ∧ s.cx.priv = false → exec f.1 s = .next (s.takeTrap (s.cuTrap 0x04))) ∧
      ((0xC00 ≤ csrNumber o → s.cx.priv = true) →
        (s.csr (csrNumber o) = none → exec f.1 s = .next (s.takeTrap (s.cuTrap 0x02))) ∧
        ∀ old, s.csr (csrNumber o) = some old →
          (f.2 old = none → exec f.1 s = .next (executedTo f.1 s (s.cx.setSreg o.sd old))) ∧
          ∀ new, f.2 old = some new →
            (∀ c, s.cx.writeCsr (csrNumber o) new = .ok c → exec f.1 s = .next (executedTo f.1 s (c.setSreg o.sd old))) ∧
            ∀ cause, s.cx.writeCsr (csrNumber o) new = .error cause → exec f.1 s = .next (s.takeTrap (s.cuTrap cause)))

/-- 03 R66: what the CSRs of a context read as, and what a write leaves: CTX takes SCHK alone, FLAGS its six bits, ROT its fields where they
are legal (else cause 0x02), LCNT, QWDOG, SRKEY and SRCTR their value, and the read-only ones ignore the write. -/
def Obligations.CsrFields : Prop :=
  ∀ (s : State) (w : Word),
    (s.csr 0x001 = some (s.cx.flags.setWidth 64) ∧ s.csr 0x003 = some s.cx.lcnt ∧ s.csr 0x005 = some (s.cx.qwdog.setWidth 64) ∧
      s.csr 0x006 = some s.cx.srkey ∧ s.csr 0x007 = some s.cx.srctr ∧ s.csr 0x012 = some s.cx.launch ∧ s.csr 0x015 = some s.cx.cycle ∧
      s.csr 0x014 = some (BitVec.ofNat 64 (s.time / 756)) ∧ s.csr 0x008 = none) ∧
    (s.cx.writeCsr 0x000 w = .ok { s.cx with schk := w.getLsbD 0 } ∧ s.cx.writeCsr 0x001 w = .ok { s.cx with flags := w.extractLsb' 0 6 } ∧
      s.cx.writeCsr 0x003 w = .ok { s.cx with lcnt := w } ∧ s.cx.writeCsr 0x005 w = .ok { s.cx with qwdog := w.extractLsb' 0 32 } ∧
      s.cx.writeCsr 0x006 w = .ok { s.cx with srkey := w } ∧ s.cx.writeCsr 0x007 w = .ok { s.cx with srctr := w }) ∧
    (∀ n ∈ [0x004, 0x010, 0x011, 0x012, 0x013, 0x014, 0x015, 0x200, 0x240, 0x300], s.cx.writeCsr n w = .ok s.cx) ∧
    let vw := w.toNat / 2 ^ 8 % 64; let vb := w.toNat % 32; let pw := w.toNat / 2 ^ 24 % 8; let pb := w.toNat / 2 ^ 16 % 4
    ((vw ≤ 32 ∧ pw ≤ 4 ∧ (vb = 0 ∨ vb < vw) ∧ (pb = 0 ∨ pb < pw)) → s.cx.writeCsr 0x002 w =
      .ok { s.cx with rot := { vw := BitVec.ofNat 6 vw, vbase := BitVec.ofNat 5 vb, pw := BitVec.ofNat 3 pw, pbase := BitVec.ofNat 2 pb } }) ∧
    (¬ (vw ≤ 32 ∧ pw ≤ 4 ∧ (vb = 0 ∨ vb < vw) ∧ (pb = 0 ∨ pb < pw)) → s.cx.writeCsr 0x002 w = .error 0x02)

/-- 06 R125, R126, 16 R325: SLIP traps with cause 0x41 where the depths would pass 256 and waits until its queue is empty and its operations
have completed; then each entry of the later queues takes a cycle to move, and the depth is written in the last of them. QSYNC waits for the
queues of its mask, and a mask of zero makes it a NOP. -/
def Obligations.QueueControl : Prop :=
  (∀ (o : SI) (s : State) (q : Fin 5), Executes (.slip o) s → q.val = o.imm24.toNat % 8 →
    let n : BitVec 8 := o.imm24.extractLsb' 8 8
    let depths := s.cx.slipd.set q n
    let entries := ([s.cx.sq, s.cx.aq, s.cx.mq, s.cx.nq].drop q.val).foldl (fun x y => x + y.count) 0
    (256 < (depths.toList.map BitVec.toNat).sum → exec (.slip o) s = .next (s.takeTrap (s.cuTrap 0x41))) ∧
    ((depths.toList.map BitVec.toNat).sum ≤ 256 →
      (s.cx.quiet (queueOf q.val) = false →
        exec (.slip o) s = .next { s with cx := { s.cx with held := some true, outside := .drain } }) ∧
      (s.cx.quiet (queueOf q.val) = true → s.cx.slipd[q] = n → exec (.slip o) s = .next (executed (.slip o) s (s.cx.pc + 8))) ∧
      (s.cx.quiet (queueOf q.val) = true → s.cx.slipd[q] ≠ n →
        (s.cx.slip = none → entries ≤ 1 → exec (.slip o) s = .next (executedTo (.slip o) s
          { s.cx.setDepth q n with slip := some ⟨q.val, s.cx.now, false⟩ }) ∧ (s.cx.setDepth q n).slipd = depths) ∧
        (s.cx.slip = none → 1 < entries → exec (.slip o) s = .next { s with cx := { s.cx with
          slip := some ⟨q.val, s.cx.now + (entries - 1), true⟩, held := some true, outside := .none } }) ∧
        (∀ e, s.cx.slip = some ⟨q.val, e, true⟩ → e ≤ s.cx.now → exec (.slip o) s = .next (executedTo (.slip o) s
          { s.cx.setDepth q n with slip := some ⟨q.val, e, false⟩ }))))) ∧
  ∀ (o : SI) (s : State), Executes (.qsync o) s →
    ((∀ k < 5, o.imm24.getLsbD k = true → s.cx.quiet (queueOf k) = true) → exec (.qsync o) s = .next (executed (.qsync o) s (s.cx.pc + 8))) ∧
    ((∃ k, k < 5 ∧ o.imm24.getLsbD k = true ∧ s.cx.quiet (queueOf k) = false) →
      exec (.qsync o) s = .next { s with cx := { s.cx with held := some true, outside := .drain } })

/-- 06 R138, R139: SHP writes both words of a slot, or traps with cause 0x11 and leaves the slot, where FILL's reserved bits are set, the
stride lies outside −2^47 to 2^47 − 1 or a field check of 03 R58 fails. SHPX sets one field to the exact value s[sa] + imm24, or traps with
cause 0x11 and leaves the slot where that value is not permitted. Naming h0, or a set sd[4], fails decode (cause 0x02, as DecodeChecks
states). -/
def Obligations.ShapeInstructions : Prop :=
  (∀ (o : SR) (s : State), Executes (.shp o) s →
      let a := s.cx.sreg o.sa
      let b := s.cx.sreg o.sb
      let rows := a.toNat / 2 ^ 44 % 4096
      let vrows := a.toNat / 2 ^ 32 % 4096
      let legal := a.toNat / 2 ^ 56 % 4 = 0 ∧ -(2 ^ 47) ≤ b.toInt ∧ b.toInt < 2 ^ 47 ∧ 1 ≤ rows ∧ vrows ≤ rows ∧ 1 ≤ a.toNat % 65536 ∧
        a.toNat / 2 ^ 60 ≠ 15
      (legal → exec (.shp o) s = .next (executedTo (.shp o) s (s.cx.setShape (o.sd.extractLsb' 0 4) (Shape.ofWords a b)))) ∧
      (¬ legal → exec (.shp o) s = .next (s.takeTrap (s.cuTrap 0x11)))) ∧
  (∀ (f : ShpxField) (o : SI) (s : State), Executes (.shpx f o) s →
      let n : BitVec 4 := o.sd.extractLsb' 0 4
      let h := s.cx.shape n
      let x := (s.cx.sreg o.sa).toInt + o.imm24.toInt
      let permitted : Prop := match f with
        | .vrows => 0 ≤ x ∧ x ≤ h.rows.toNat
        | .vcols => 0 ≤ x ∧ x ≤ 65535
        | .rows => max 1 (h.vrows.toNat : Int) ≤ x ∧ x ≤ 4095
        | .stride => -(2 ^ 47) ≤ x ∧ x < 2 ^ 47
      let after : Shape := match f with
        | .vrows => { h with vrows := BitVec.ofInt 12 x }
        | .vcols => { h with vcols := BitVec.ofInt 16 x }
        | .rows => { h with rows := BitVec.ofInt 12 x }
        | .stride => { h with stride := BitVec.ofInt 48 x }
      (permitted → exec (.shpx f o) s = .next (executedTo (.shpx f o) s (s.cx.setShape n after))) ∧
      (¬ permitted → exec (.shpx f o) s = .next (s.takeTrap (s.cuTrap 0x11)))) ∧
  (∀ (o : SR) (p : SI) (f : ShpxField), (o.sd.extractLsb' 0 4 = 0 ∨ o.sd.getLsbD 4 = true → (Instr.shp o).fieldsOk = false) ∧
      (p.sd.extractLsb' 0 4 = 0 ∨ p.sd.getLsbD 4 = true → (Instr.shpx f p).fieldsOk = false))

/-- 06 R140, R142, 02 R45: BELLS rings its bell; the rings of a cycle are added at its end, to 255 at most; BELLW takes one count at once,
waiting where the WAIT byte's own take leaves none; NOP only honours its WAIT and SIG bytes. -/
def Obligations.Bells : Prop :=
  (∀ (o : SI) (s : State), Executes (.bells o) s → exec (.bells o) s = .next (executedTo (.bells o) s (s.cx.ring (o.imm24.extractLsb' 0 5)))) ∧
  (∀ (o : SI) (s : State), Executes (.bellw o) s →
    let left := (s.cx.take (syncOf (.bellw o)).takes).bell (o.imm24.extractLsb' 0 5)
    (left ≠ 0 → exec (.bellw o) s = .next (executedTo (.bellw o) s (s.cx.take (o.imm24.extractLsb' 0 5)))) ∧
    (o.imm24.extractLsb' 0 5 = 0 → exec (.bellw o) s = .next (executed (.bellw o) s (s.cx.pc + 8))) ∧
    (left = 0 → o.imm24.extractLsb' 0 5 ≠ 0 →
      exec (.bellw o) s = .next { s with cx := { s.cx with held := some true, outside := .bell (o.imm24.extractLsb' 0 5) } })) ∧
  (∀ (y : Sync) (s : State), Executes (.nop y) s → exec (.nop y) s = .next (executed (.nop y) s (s.cx.pc + 8))) ∧
  ∀ (c : Ctx) (b k : BitVec 5), b ≠ 0 →
    c.ring b = { c with rung := b :: c.rung } ∧
    (c.addRings.bell k).toNat = min 255 ((c.bell k).toNat + c.rung.count k) ∧ c.addRings.rung = [] ∧
    (c.take b).bell k = if k = b then c.bell b - 1 else c.bell k

/-! ## Traps and the return from them (06 R124, R143; 26 R475, R476) -/

/-- 26 R475, R476, 06 R120: a running context that takes a trap stops at its boundary in state trapped, and its trap record holds the cause,
the queue, the code, the boundary's program counter, the instruction's address and the faulting address; nothing else of the context
changes. A context that is trapped already keeps the reported trap and marks it SECONDARY. -/
def Obligations.TrapEntry : Prop :=
  ∀ (c : Ctx) (t : Trap),
    (c.life = .running → c.takeTrap t = { c with life := .trapped, trap := some (
      { cause := t.cause, queue := t.queue, resumable := t.resumable, mc := t.mc, secondary := false, code := t.code, pc := c.pc,
        iaddr := t.iaddr, vaddr := t.va, info := t.info } : TrapRec) }) ∧
    ∀ r, c.life = .trapped → c.trap = some r → c.takeTrap t = { c with trap := some { r with secondary := true } }

/-- 06 R143, R124: TRAP and BRK with a true guard trap with cause 0x07 and 0x08 and CODE imm24[15:0], and a resume goes on at the next word;
every other trap of the control unit resumes at the trapping instruction. BRK is a happening of kind 4 of its cycle, which is the model's
reading (log entry 19). -/
def Obligations.DeliberateTraps : Prop :=
  (∀ (o : SI) (s : State), Executes (.trap o) s → s.cx.life = .running → ∃ t, exec (.trap o) s = .next t ∧ t.mem = s.mem ∧
    t.cx = { s.cx with
      life := .trapped, bells := (s.cx.settleBells (syncOf (.trap o))).bells, rung := (s.cx.settleBells (syncOf (.trap o))).rung
      lastTurn := some s.cx.now, wdog := 0, outside := .none, held := none, watch := none
      trap := some (ownTrap 0x07 (o.imm24.extractLsb' 0 16) s.cx.pc) } ∧
    t.cx.resume.life = .running ∧ t.cx.resume.pc = s.cx.pc + 8) ∧
  (∀ (o : SI) (s : State), Executes (.brk o) s → s.cx.life = .running → ∃ t, exec (.brk o) s = .next t ∧ t.mem = s.mem ∧
    t.happened = (if s.triggers.toList.any Trigger.watches then s.happened ++ [s.happening s.cx 4 s.cx.pc false] else s.happened) ∧
    t.cx = { s.cx with
      life := .trapped, bells := (s.cx.settleBells (syncOf (.brk o))).bells, rung := (s.cx.settleBells (syncOf (.brk o))).rung
      lastTurn := some s.cx.now, wdog := 0, outside := .none, held := none, watch := none
      stopped := s.cx.stopped || s.breaksAt s.cx 4
      trap := some (ownTrap 0x08 (o.imm24.extractLsb' 0 16) s.cx.pc) } ∧
    t.cx.resume.life = .running ∧ t.cx.resume.pc = s.cx.pc + 8) ∧
  ∀ (c : Ctx) (r : TrapRec), c.trap = some r → (r.queue = 0 → r.cause ≠ 7 ∧ r.cause ≠ 8) →
    c.resume = { c with life := .running, trap := none, pc := r.pc }

/-- 13 R287, R288, 02 R48, 26 R476, R482: an access of a running context that finds no mapping (cause 0x20) adds its line to the fault
record and the context is faulted; with any other cause the context traps, with VADDR for causes 0x20 to 0x25 alone, and, where a home slice
failed the read, with FLAGS.MC set, CODE 0x72 and the slice's record; but an access that waits for the host link in debug hold is tried
again (27 R493). At the end of the cycle a faulted context's engines drain, and then a ready context of the core's other bank runs, where
none does and no other line of the record has made the fault a trap. -/
def Obligations.FailedAccess : Prop :=
  (∀ (s : State) (q : Nat) (a : Word) (f : Fail), s.cx.life = .running → s.cx.trap = none →
    let va : Word := if 0x20 ≤ f.cause.toNat ∧ f.cause.toNat ≤ 0x25 then f.va else 0
    (f.cause = 0x20 → s.takeFail q a f =
      { s with cx := { s.cx with life := .faulted, faultRec := s.cx.faultRec ++ [⟨q, a, f.va, f.access, f.cause, f.malformed⟩] } }) ∧
    (f.cause = 0 → s.takeFail q a f = s) ∧
    (f.cause ≠ 0x20 → f.cause ≠ 0 → s.sliceOf f = none → s.takeFail q a f = s.takeTrap { cause := f.cause, queue := q, iaddr := a, va := va }) ∧
    ∀ k, s.sliceOf f = some k → f.cause = 0x25 ∧ ∃ t : State, s.takeFail q a f = t ∧ t.mem = s.mem ∧ t.cx.life = .trapped ∧ ∃ r, t.cx.trap = some r ∧
      r.cause = 0x25 ∧ r.mc = true ∧ r.code = 0x72 ∧ r.queue = q ∧ r.iaddr = a ∧ r.vaddr = f.va ∧ r.pc = s.cx.pc ∧
      (NoRecord s (homeBank k) → Logged t (homeBank k) 2 0x72 0)) ∧
  (∀ (s : State), s.cx.life = .faulted → (s.drain true).cx.nq.issued = false →
    ((s.drain true).cx.trap = none → s.settle = (s.drain true).wakeOther) ∧ ((s.drain true).cx.trap ≠ none → s.settle = s.drain true)) ∧
  ∀ (s : State) (c : Ctx), s.cx.is c.ref = false → s.others.find? (fun x => x.sameCore s.cx && x.isReady) = some c →
    ((∀ x ∈ s.ctxs, x.sameCore s.cx = true → x.life ≠ .running) →
      s.wakeOther.cx = s.cx ∧ ∀ d ∈ s.wakeOther.others, d.is c.ref = true → d.life = .running) ∧
    ((∃ x ∈ s.ctxs, x.sameCore s.cx = true ∧ x.life = .running) → s.wakeOther = s)

/-! ## Ends of activations and contexts (06 R144; 14 R311 to R316; 10 R224) -/

/-- 06 R144, 02 R37, 14 R315: EXIT waits while a queue holds work; once every queue is quiet the context is exited, its queues empty and its
inbox gone. YIELD with no other context that can run goes on; with an inactive one on its core, the engines drain, that one runs, and the
context is at the next word, inactive unless the drain stopped it. -/
def Obligations.ExitAndYield : Prop :=
  (∀ (o : SI) (s : State), Executes (.exit o) s → s.cx.life = .running →
    (s.cx.allQuiet = true → ∃ t, exec (.exit o) s = .next t ∧ t.cx.life = .exited ∧ t.cx.inbox = [] ∧ t.cx.trap = none) ∧
    (s.cx.allQuiet = false → ∃ t, exec (.exit o) s = .next t ∧ t.cx.pc = s.cx.pc ∧ t.mem = s.mem ∧ t.cx.exiting = some (o.imm24.extractLsb' 0 16))) ∧
  ∀ (o : SI) (s : State), Executes (.yield o) s → s.cx.life = .running →
    (s.yieldTo = none → exec (.yield o) s = .next (executed (.yield o) s (s.cx.pc + 8))) ∧
    ∀ c, s.yieldTo = some c → c.life = .inactive → s.cx.is c.ref = false →
      ∃ t, exec (.yield o) s = .next t ∧ t.cx.life ≠ .running ∧ (s.cx.allQuiet = true → t.cx.life = .inactive) ∧ t.cx.pc = s.cx.pc + 8 ∧
        ∀ d ∈ t.others, d.is c.ref = true → d.life = .running

/-- 14 R311, R313, R314, R316: CTXST and CTXLD check their descriptor and answer a status in s[sd]: CTXST answers 3 for the caller's own
cohort, 1 while a save or restore of the cohort is under way, 2 for a name that is stale or retired or a cohort that is not resident, and 0
where it requests the save; CTXLD answers 4 where the placement is illegal or no member is named, 1 while a transfer of the cohort is under
way, and 0 where it queues the restore. A failed check traps or faults. SNAPR reads the dword of the context's image at s[sa], its scalar
registers, its own address and state 0 among them, or traps with cause 0x02. Which transfer the images of a CTXLD belong to before they are
written is the model's (log entry 18). -/
def Obligations.ContextInstructions : Prop :=
  (∀ (o : SR) (s : State), Executes (.ctxst o) s →
    let i := Instr.ctxst o
    let a := s.cx.sreg o.sa
    let n : BitVec 32 := (s.cx.sreg o.sb).extractLsb' 0 32
    let answers (s2 : State) (st : Nat) : Prop := exec i s = .next (executedTo i s2 (s2.cx.setSreg o.sd (BitVec.ofNat 64 st)))
    (a.toNat % 8 ≠ 0 → exec i s = .next (s.takeTrap { s.cuTrap 0x24 with va := a })) ∧
    (∀ f, a.toNat % 8 = 0 → s.access (some 0) a.toNat 520 .store true = .fail f → exec i s = .next (s.takeFail 0 s.cx.pc f)) ∧
    ∀ s1 gs, a.toNat % 8 = 0 → s.access (some 0) a.toNat 520 .store true = .ok s1 gs →
      (segsPoisoned s1.poison gs = true → exec i s = .next (s.takeTrap { s.cuTrap 0x25 with va := a })) ∧
      (segsPoisoned s1.poison gs = false →
        (n = s.cx.cohort → answers s1 3) ∧
        (n ≠ s.cx.cohort → (∃ x ∈ s1.transfers, x.name = n) → answers s1 1) ∧
        (n ≠ s.cx.cohort → (∀ x ∈ s1.transfers, x.name ≠ n) →
          ((∀ m c, s1.findCtx ⟨n, m⟩ = some c → c.resident = false) → answers s1 2) ∧
          (nameHome n = s1.node → s1.lookup n = .stale ∨ s1.lookup n = .invalid ∨ (∃ d, s1.lookup n = .retired d) → answers s1 2) ∧
          (∀ d, nameHome n = s1.node → s1.lookup n = .current d → d.state ≠ .resident ∨ d.node ≠ s1.node → answers s1 2) ∧
          ∀ m c, m < 64 → s1.findCtx ⟨n, m⟩ = some c → c.resident = true →
            nameHome n ≠ s1.node ∨ (∃ d, s1.lookup n = .current d ∧ d.state = .resident ∧ d.node = s1.node) →
            answers { s1 with transfers := s1.transfers ++ [requestedSave n a s.cx.space] } 0))) ∧
  (∀ (o : SR) (s : State), Executes (.ctxld o) s →
    let i := Instr.ctxld o
    let a := s.cx.sreg o.sa
    let p := (s.cx.sreg o.sb).toNat
    let answers (s2 : State) (st : Nat) : Prop := exec i s = .next (executedTo i s2 (s2.cx.setSreg o.sd (BitVec.ofNat 64 st)))
    (a.toNat % 8 ≠ 0 → exec i s = .next (s.takeTrap { s.cuTrap 0x24 with va := a })) ∧
    (∀ f, a.toNat % 8 = 0 → s.access (some 0) a.toNat 520 .load true = .fail f → exec i s = .next (s.takeFail 0 s.cx.pc f)) ∧
    ∀ s1 gs, a.toNat % 8 = 0 → s.access (some 0) a.toNat 520 .load true = .ok s1 gs →
      (segsPoisoned s1.poison gs = true → exec i s = .next (s.takeTrap { s.cuTrap 0x25 with va := a })) ∧
      (segsPoisoned s1.poison gs = false →
        let images := descImages (readSegs s1.mem gs)
        (24 < p ∨ images = [] → answers s1 4) ∧
        (p ≤ 24 → images ≠ [] → s1.transferring (s1.descName images) images = true → answers s1 1) ∧
        (p ≤ 24 → images ≠ [] → s1.transferring (s1.descName images) images = false →
          answers { s1 with transfers := s1.transfers ++ [requestedRestore (s1.descName images) a s.cx.space images p] } 0))) ∧
  (∀ (bs : List Byte) (m : Nat) (x : Word), (m, x) ∈ descImages bs ↔ m < 64 ∧ recWord bs (8 + 8 * m) = x ∧ x ≠ 0) ∧
  ∀ (o : SR) (s : State), Executes (.snapr o) s →
    let n := (s.cx.sreg o.sa).toNat
    let x := recWord (s.cx.imageRegs s.cx.pc) (n - 256)
    (n % 8 = 0 ∧ 256 ≤ n ∧ n ≤ 16383 → exec (.snapr o) s = .next (executedTo (.snapr o) s (s.cx.setSreg o.sd x))) ∧
    (∀ k : BitVec 5, n = 256 + 8 * k.toNat → x = s.cx.sreg k) ∧ (n = 648 → x = s.cx.pc) ∧ (n = 656 → s.cx.life = .running → x = 0) ∧
    (¬ (n % 8 = 0 ∧ 256 ≤ n ∧ n ≤ 16383) → exec (.snapr o) s = .next (s.takeTrap (s.cuTrap 0x02)))

/-! ## Scalar memory (06 R145 to R147; 12 R264 to R273) -/

/-- 06 R145: the checks of a scalar access in their order: an effective address outside 0 to 2^64 − 1 fails with cause 0x22, one that is not
a multiple of its size with cause 0x24, and then the extent and translation decide. -/
def Obligations.ScalarChecks : Prop :=
  ∀ (s : State) (a : Int) (n : Nat) (k : Access),
    (a < 0 ∨ 2 ^ 64 - 1 < a → s.scalar a n k = .fail ⟨0x22, BitVec.ofInt 64 a, k, false⟩) ∧
    (0 ≤ a → a ≤ 2 ^ 64 - 1 → a % n ≠ 0 → s.scalar a n k = .fail ⟨0x24, BitVec.ofInt 64 a, k, false⟩) ∧
    (0 ≤ a → a ≤ 2 ^ 64 - 1 → a % n = 0 → s.scalar a n k = s.access (some 0) a n k false)

/-- 06 R145, R146, 12 R265: LD, LDU and LDA of a size code's power of two bytes at the exact address s[sa] + off18: a failed check traps or
faults, a poisoned line traps with cause 0x25, and else s[sd] takes the little-endian value, sign-extended by LD and LDA and zero-extended
by LDU; no other register, flag or engine state changes, and memory is as the translation left it. -/
def Obligations.ScalarLoads : Prop :=
  ∀ (o : M) (s : State), ∀ f ∈ [(Instr.ld o, true), (.ldu o, false), (.lda o, true)], Executes f.1 s →
    let n := 2 ^ o.size.toNat
    let a : Int := (s.cx.sreg o.sa).toNat + o.off18.toInt
    (∀ x, s.scalar a n .load = .fail x → exec f.1 s = .next (s.takeFail 0 s.cx.pc x)) ∧
    ∀ s1 gs, s.scalar a n .load = .ok s1 gs →
      (segsPoisoned s1.poison gs = true → exec f.1 s = .next (s.takeFail 0 s.cx.pc ⟨0x25, BitVec.ofInt 64 a, .load, false⟩)) ∧
      (segsPoisoned s1.poison gs = false → ∃ t, exec f.1 s = .next t ∧ t.mem = s1.mem ∧ t.cx.pc = s.cx.pc + 8 ∧
        SameSpecial s.cx t.cx ∧ SameEngines s.cx t.cx ∧ t.poison = s.poison ∧
        let x := leNat (readSegs s1.mem gs)
        let v : Word := if f.2 ∧ 2 ^ (8 * n - 1) ≤ x then BitVec.ofInt 64 ((x : Int) - 2 ^ (8 * n)) else BitVec.ofNat 64 x
        ∀ k, t.cx.sreg k = if k = 0 then 0 else if k = o.sd then v else s.cx.sreg k)

/-- 06 R145, R147, 12 R265: ST and STL write the low bytes of s[sd], little-endian, at the exact address s[sa] + off18 once every check has
passed; a failed check writes nothing. Bytes outside the written runs read as the translation left them. -/
def Obligations.ScalarStores : Prop :=
  ∀ (o : M) (s : State), ∀ i ∈ [Instr.st o, .stl o], Executes i s →
    let n := 2 ^ o.size.toNat
    let a : Int := (s.cx.sreg o.sa).toNat + o.off18.toInt
    (∀ x, s.scalar a n .store = .fail x → exec i s = .next (s.takeFail 0 s.cx.pc x)) ∧
    ∀ s1 gs, s.scalar a n .store = .ok s1 gs →
      ∃ t, exec i s = .next t ∧ t.cx.pc = s.cx.pc + 8 ∧ t.mem = writeSegs s1.mem gs (leBytes n (s.cx.sreg o.sd).toNat) ∧
        (∀ k, t.cx.sreg k = s.cx.sreg k) ∧ SameSpecial s.cx t.cx ∧ SameEngines s.cx t.cx ∧ t.poison = s.poison ∧
        (Memory.wf s1.mem = true → ∀ p, (∀ g ∈ gs, p < g.1 ∨ g.1 + g.2 ≤ p) → Memory.get t.mem p = Memory.get s1.mem p)

/-- 13 R279: a translation of a virtual byte through a leaf changes, of memory, only the 8 bytes of that leaf's entry, and of those only the
A bit and, for an access that writes, the D bit; beside memory it changes the TLBs and the directory of the entry's line alone. A failed one
changes nothing at all. A cached translation is used as it was (log entry 8). -/
def Obligations.TranslationFrame : Prop :=
  ∀ (s s1 : State) (cache : Option Nat) (sp : Space) (va key : Nat) (k : Access), Memory.wf s.mem = true →
    s.translate cache sp va k = .ok s1 key →
    s1 = { s with mem := s1.mem, tlbs := s1.tlbs, lines := s1.lines } ∧
      (s1.mem = s.mem ∨ ∃ (pte : Nat) (e : Word), s1.mem = Memory.write s.mem pte (wordBytes (e ||| (1 <<< 54) ||| (if k.writes then 1 <<< 53 else 0))) ∧
        ∀ p, p < pte ∨ pte + 8 ≤ p → Memory.get s1.mem p = Memory.get s.mem p)

/-- 12 R266 to R268, R270: AMO, AMOCAS and RED read, combine and write b bits at s[sa] indivisibly; AMO and AMOCAS return the old value,
sign-extended, and AMOCAS writes only where the old value equals s[sd]. The operations on b bits are the sum modulo 2^b, the bitwise
operations, the signed and unsigned minima and maxima, and the swap. An atomic that reads a poisoned line writes nothing: RED leaves memory
as the translation left it, the line stays poisoned, AMO and AMOCAS trap with cause 0x25 and FLAGS.MC set, every scalar register and all of
memory unchanged (00 R8), and RED leaves a trap of cause 0x25 for the next boundary. -/
def Obligations.Atomics : Prop :=
  (∀ (o : M) (s s1 : State) (gs : List Seg),
      let b := if o.size = 2 then 32 else 64
      s.scalar (s.cx.sreg o.sa).toNat (b / 8) .rmw = .ok s1 gs → segsPoisoned s1.poison gs = false →
      let old := leNat (readSegs s1.mem gs)
      let x := (s.cx.sreg o.sd).toNat % 2 ^ b
      let v : Word := if 2 ^ (b - 1) ≤ old then BitVec.ofInt 64 ((old : Int) - 2 ^ b) else BitVec.ofNat 64 old
      (Executes (.amo o) s → ∃ t, exec (.amo o) s = .next t ∧ t.cx.pc = s.cx.pc + 8 ∧ SameSpecial s.cx t.cx ∧
        SameEngines s.cx t.cx ∧
        t.mem = writeSegs s1.mem gs (leBytes (b / 8) (atomicOp (o.off18.extractLsb' 14 4) b old x)) ∧
        ∀ k, t.cx.sreg k = if k = 0 then 0 else if k = o.sd then v else s.cx.sreg k) ∧
      (Executes (.amocas o) s → ∃ t, exec (.amocas o) s = .next t ∧ t.cx.pc = s.cx.pc + 8 ∧ SameSpecial s.cx t.cx ∧
        SameEngines s.cx t.cx ∧
        t.mem = (if old = x then writeSegs s1.mem gs (leBytes (b / 8) ((s.cx.sreg (o.sd + 1)).toNat % 2 ^ b)) else s1.mem) ∧
        ∀ k, t.cx.sreg k = if k = 0 then 0 else if k = o.sd then v else s.cx.sreg k) ∧
      (Executes (.red o) s → ∃ t, exec (.red o) s = .next t ∧ t.cx.pc = s.cx.pc + 8 ∧ SameSpecial s.cx t.cx ∧
        SameEngines s.cx t.cx ∧
        t.mem = writeSegs s1.mem gs (leBytes (b / 8) (atomicOp (o.off18.extractLsb' 14 4) b old x)) ∧
        ∀ k, t.cx.sreg k = s.cx.sreg k)) ∧
  (∀ (b old x : Nat), 0 < b → old < 2 ^ b → x < 2 ^ b →
      let si (v : Nat) : Int := if v < 2 ^ (b - 1) then (v : Int) else (v : Int) - 2 ^ b
      atomicOp 0 b old x = (old + x) % 2 ^ b ∧ atomicOp 1 b old x = Nat.land old x ∧ atomicOp 2 b old x = Nat.lor old x ∧
      atomicOp 3 b old x = Nat.xor old x ∧ si (atomicOp 4 b old x) = min (si old) (si x) ∧ atomicOp 5 b old x = min old x ∧
      si (atomicOp 6 b old x) = max (si old) (si x) ∧ atomicOp 7 b old x = max old x ∧ atomicOp 8 b old x = x) ∧
  ∀ (o : M) (s s1 : State) (gs : List Seg), s.cx.life = .running →
    s.scalar (s.cx.sreg o.sa).toNat ((if o.size = 2 then 32 else 64) / 8) .rmw = .ok s1 gs → segsPoisoned s1.poison gs = true →
    (∀ i ∈ [Instr.amo o, .amocas o], Executes i s → ∃ t r, exec i s = .next t ∧ t.mem = s.mem ∧ t.poison = s.poison ∧ t.tlbs = s.tlbs ∧
      (∀ k, t.cx.sreg k = s.cx.sreg k) ∧ t.cx.life = .trapped ∧ t.cx.trap = some r ∧ r.cause = 0x25 ∧ r.mc = true ∧ r.pc = s.cx.pc) ∧
    (Executes (.red o) s → ∃ t r, exec (.red o) s = .next t ∧ t.mem = s1.mem ∧ t.poison = s1.poison ∧ t.cx.pc = s.cx.pc + 8 ∧
      t.cx.after = s.cx.after ++ [r] ∧ r.cause = 0x25 ∧ r.mc = true ∧ r.iaddr = s.cx.pc)

/-- 12 R271 to R273: in a machine whose accesses take effect in order (log entry 1) FENCE has nothing left to order; WAITV reads its
location, and goes on once the value equals the low bytes of s[sd]; else it waits, and reads again what the start of a cycle finds there
once the line has been written or has left the core's L1, or, where no cache can hold it, every 1,024 cycles; DCWB and DCINV check their
line, and change no byte and no register. -/
def Obligations.FencesAndLines : Prop :=
  (∀ (o : M) (s : State), Executes (.fence o) s → exec (.fence o) s = .next (executed (.fence o) s (s.cx.pc + 8))) ∧
  (∀ (o : M) (s s1 : State) (gs : List Seg), Executes (.waitv o) s → (∀ w, s.cx.watch = some w → w.pc ≠ s.cx.pc) →
    let n := 2 ^ o.size.toNat
    s.scalar ((s.cx.sreg o.sa).toNat + o.off18.toInt) n .load = .ok s1 gs → segsPoisoned s1.poison gs = false →
    (leNat (readSegs s1.mem gs) = (s.cx.sreg o.sd).toNat % 2 ^ (8 * n) →
      ∃ t, exec (.waitv o) s = .next t ∧ t.cx.pc = s.cx.pc + 8 ∧ t.mem = s1.mem ∧ ∀ k, t.cx.sreg k = s.cx.sreg k) ∧
    (leNat (readSegs s1.mem gs) ≠ (s.cx.sreg o.sd).toNat % 2 ^ (8 * n) →
      ∃ t w, exec (.waitv o) s = .next t ∧ t.cx.pc = s.cx.pc ∧ t.mem = s1.mem ∧ (∀ k, t.cx.sreg k = s.cx.sreg k) ∧ t.cx.watch = some w ∧
        w.pc = s.cx.pc ∧ w.segs = gs ∧ w.last = s.cx.now)) ∧
  (∀ (o : M) (s : State) (w : Watch), Executes (.waitv o) s → s.cx.watch = some w → w.pc = s.cx.pc →
    (w.again = none → exec (.waitv o) s = .next { s with cx := { s.cx with held := some true } }) ∧
    ∀ g, w.again = some g → (∀ x ∈ w.segs, s.remote x.1 = false) → segsPoisoned s.poison w.segs = false →
      let equal : Prop := leNat g.bytes = (s.cx.sreg o.sd).toNat % 2 ^ (8 * 2 ^ o.size.toNat)
      (equal → ∃ t, exec (.waitv o) s = .next t ∧ t.cx.pc = s.cx.pc + 8 ∧ t.mem = s.mem ∧ ∀ k, t.cx.sreg k = s.cx.sreg k) ∧
      (¬ equal → ∃ t, exec (.waitv o) s = .next t ∧ t.cx.pc = s.cx.pc ∧ t.mem = s.mem ∧ ∀ k, t.cx.sreg k = s.cx.sreg k)) ∧
  (∀ (s : State) (c : Ctx) (w : Watch), c.watch = some w →
    let found : Option Glance := some ⟨readSegs s.mem w.segs, s.lineBytes w.segs⟩
    (w.away = false → s.lineBytes w.segs ≠ w.seen → s.lookAgain c = { c with watch := some { w with again := found } }) ∧
    (w.away = false → (∃ k ∈ segsLines w.segs, s.inL1 c k = false) → s.lookAgain c = { c with watch := some { w with again := found } }) ∧
    (w.away = true → w.last + 1024 ≤ c.now → s.lookAgain c = { c with watch := some { w with again := found } }) ∧
    (w.away = true → c.now < w.last + 1024 → s.lookAgain c = { c with watch := some { w with again := none } })) ∧
  ∀ (o : M) (s s1 : State) (gs : List Seg), ∀ f ∈ [(Instr.dcwb o, Access.load), (.dcinv o, .store)], Executes f.1 s →
    s.scalar ((s.cx.sreg o.sa).toNat + o.off18.toInt) 1 f.2 = .ok s1 gs →
    ∃ t, exec f.1 s = .next t ∧ t.cx.pc = s.cx.pc + 8 ∧ t.mem = s1.mem ∧ t.poison = s1.poison ∧ (∀ k, t.cx.sreg k = s.cx.sreg k) ∧
      SameSpecial s.cx t.cx ∧ SameEngines s.cx t.cx

/-! ## Pages (13 R293 to R297) -/

/-- 13 R293, R294, R297: XLAT writes its report to s[sd] and changes no byte of memory and no translation; MIGR of no bytes goes on, and one
whose pages pass its checks only adds requests; TLBINV with a legal control word drops the entries in its scope that match, and no other,
has a WAITV of its scope translate its location anew, and waits first for the writes that copy engines have translated in its scope. -/
def Obligations.PageInstructions : Prop :=
  (∀ (o : M) (s : State), Executes (.xlat o) s → exec (.xlat o) s = .next (executedTo (.xlat o) s (s.cx.setSreg o.sd
    (s.probe ((s.cx.sreg o.sa).toNat + o.off18.toInt)
      (if o.size = 0 then some .load else if o.size = 1 then some .store else if o.size = 2 then some .fetch else none))))) ∧
  (∀ (o : M) (s : State), Executes (.migr o) s →
    let n := min (s.cx.sreg o.sd).toNat (2 ^ 30)
    let a : Int := (s.cx.sreg o.sa).toNat + o.off18.toInt
    (n = 0 → exec (.migr o) s = .next (executed (.migr o) s (s.cx.pc + 8))) ∧
    (n ≠ 0 → (∀ key, s.placeOf a n false = .scratch key → exec (.migr o) s = .next (executed (.migr o) s (s.cx.pc + 8))) ∧
      (s.placeOf a n false = .bad 0x21 → exec (.migr o) s = .next (executed (.migr o) s (s.cx.pc + 8))) ∧
      ∀ c, c ≠ 0x21 → s.placeOf a n false = .bad c → exec (.migr o) s = .next (s.takeFail 0 s.cx.pc ⟨c, BitVec.ofInt 64 a, .load, false⟩)) ∧
    (n ≠ 0 → s.placeOf a n false = .virt → ∃ t, exec (.migr o) s = .next t ∧ t.cx.pc = s.cx.pc + 8 ∧ t.mem = s.mem ∧
      t.poison = s.poison ∧ (∀ k, t.cx.sreg k = s.cx.sreg k) ∧ ∀ x ∈ s.migrations, x ∈ t.migrations)) ∧
  ∀ (o : SR) (s : State), Executes (.tlbinv o) s →
    let w := s.cx.sreg o.sb
    (w.toNat / 2 ^ 6 % 2 ^ 42 = 0 ∧ w.toNat % 8 < 3 → w.toNat / 8 % 8 < 3 ∨ s.blocks = [] → exec (.tlbinv o) s = .next (executed (.tlbinv o)
      (({ s with tlbs := s.tlbs.filter fun e => !(s.tlbInScope w e && tlbMatches w (s.cx.sreg o.sa) e) } : State).mapCtxs fun c =>
        if s.ctxInScope w c then { c with watch := none } else c) (s.cx.pc + 8))) ∧
    (w.toNat / 2 ^ 6 % 2 ^ 42 = 0 ∧ w.toNat % 8 < 3 → 3 ≤ w.toNat / 8 % 8 → s.blocks ≠ [] →
      exec (.tlbinv o) s = .next { s with cx := { s.cx with held := some true } }) ∧
    (¬ (w.toNat / 2 ^ 6 % 2 ^ 42 = 0 ∧ w.toNat % 8 < 3) → exec (.tlbinv o) s = .next (s.takeTrap (s.cuTrap 0x02)))

/-- 13 R290, R295, R296: HALLOC answers status 4 without a heap, 2 for no bytes and 3 for more than 2 MiB, each with address 0; else the
block that the allocator finds with status 0, or address 0 with status 1. HFREE of 0 answers 0, of an address outside the heap 2, of one
that is no allocated block 1; a block that HALLOC gave is released with status 0. -/
def Obligations.HeapInstructions : Prop :=
  (∀ (o : M) (s : State), Executes (.halloc o) s →
    let n := (s.cx.sreg o.sa).toNat
    let answers (a st : Nat) : Prop := exec (.halloc o) s =
      .next (executedTo (.halloc o) s ((s.cx.setSreg o.sd (BitVec.ofNat 64 a)).setSreg (o.sd + 1) (BitVec.ofNat 64 st)))
    (s.cx.heapBase = 0 → answers 0 4) ∧ (s.cx.heapBase ≠ 0 → n = 0 → answers 0 2) ∧ (s.cx.heapBase ≠ 0 → 2 ^ 21 < n → answers 0 3) ∧
    (∀ h s1 a, s.heap = some h → 0 < n → n ≤ 2 ^ 21 → s.alloc h (classOf n) = (s1, some a) →
      exec (.halloc o) s = .next (executed (.halloc o)
        { s1 with cx := (s1.cx.setSreg o.sd (BitVec.ofNat 64 a)).setSreg (o.sd + 1) 0 } (s1.cx.pc + 8))) ∧
    (∀ h s1, s.heap = some h → 0 < n → n ≤ 2 ^ 21 → s.alloc h (classOf n) = (s1, none) →
      exec (.halloc o) s = .next (executed (.halloc o)
        { s1 with cx := (s1.cx.setSreg o.sd 0).setSreg (o.sd + 1) 1 } (s1.cx.pc + 8)))) ∧
  ∀ (o : M) (s : State), Executes (.hfree o) s →
    let a := (s.cx.sreg o.sa).toNat
    let answers (st : Nat) : Prop := exec (.hfree o) s = .next (executedTo (.hfree o) s (s.cx.setSreg o.sd (BitVec.ofNat 64 st)))
    (a = 0 → answers 0) ∧ (a ≠ 0 → s.cx.heapBase = 0 → answers 2) ∧
    ∀ h, a ≠ 0 → s.heap = some h →
      (a < h.base ∨ h.base + h.size ≤ a → answers 2) ∧
      (h.base ≤ a → a < h.base + h.size → (∀ c ∈ h.chunks, (a - h.base) ∉ c.used) → answers 1) ∧
      ∀ c, h.base ≤ a → a < h.base + h.size → h.chunks.find? (fun c => c.used.contains (a - h.base)) = some c →
        ∃ t, exec (.hfree o) s = .next t ∧ t.cx.pc = s.cx.pc + 8 ∧ t.mem = s.mem ∧ t.cx.sreg o.sd = 0 ∧
          ∃ h' ∈ t.heaps, h'.space = h.space ∧ (c.cls, a - h.base) ∈ h'.free

/-! ## Barriers (18 R366 to R378) -/

/-- 18 R366, R368, R369, R372 to R378: an arrival that is not the last adds one to ARR; the last one completes the phase, clears ARR and
takes EXP from BASE; a drop lowers BASE, and EXP where its own phase has completed; a phase has completed once it lies 1 to 2^31 − 1 behind
PHASE. A handle that is not a multiple of 64 traps with cause 0x24. On one whose checks pass (R372 steps 1 to 5), BREG registers the member
and counts it; BARV and BDROP arrive and return the phase; BARW and BARVW go on once the phase has completed; BTEST and BINIT report; a
dissolved barrier takes no arrival and no registration (cause 0x60). A cycle's drops are taken at its end, and its readers see what it
found. s1 is the state once the handle is translated, and k the key of the block. -/
def Obligations.BarrierInstructions : Prop :=
  (∀ (b : Barrier),
      (b.arr + 1 ≠ b.exp → b.arrive = ({ b with arr := b.arr + 1 }, b.phase)) ∧
      (b.arr + 1 = b.exp → b.arrive = ({ b with phase := (b.phase + 1) % 2 ^ 32, arr := 0, exp := b.base }, b.phase)) ∧
      (b.arr + 1 = b.exp → b.phase < 2 ^ 32 → b.arrive.1.completed b.phase = true) ∧
      (b.arr + 1 ≠ b.exp → b.phase < 2 ^ 32 → b.arrive.1.completed b.phase = false) ∧
      b.settle [] = b ∧ (∀ p, b.base = 1 → (b.settle [p]).dissolved = true) ∧
      (∀ p, 2 ≤ b.base → b.arr + 1 < b.exp → b.settle [p] = { b with base := b.base - 1, exp := if p = b.phase then b.exp else b.exp - 1 }) ∧
      ∀ p, 2 ≤ b.base → p = b.phase → b.arr < b.exp → b.settle [p] = { b with base := b.base - 1 }) ∧
  (∀ (o : SR) (s : State), (s.cx.sreg o.sa).toNat % 64 ≠ 0 →
      ∀ i ∈ [Instr.binit o, .breg o, .barv o, .barw o, .barvw o, .bdrop o, .btest o], Executes i s →
        exec i s = .next (s.takeTrap { s.cuTrap 0x24 with va := s.cx.sreg o.sa })) ∧
  (∀ (o : SR) (s s1 : State) (k : Nat) (gs : List Seg), (s.cx.sreg o.sa).toNat % 64 = 0 →
      s.access (some 0) (s.cx.sreg o.sa).toNat 64 .rmw true = .ok s1 gs → firstKey gs = k → isHost k = false →
      (s1.unitOf k).isSome = true ∨ segsPoisoned s1.poison gs = false →
      (Executes (.binit o) s → Memory.wf s1.mem = true → setupOk (s.cx.sreg o.sb) = true → s1.inUse k = false →
        ∃ t, exec (.binit o) s = .next t ∧ t.cx.pc = s.cx.pc + 8 ∧
          t.barrierAt k = some { Barrier.setup (s.cx.sreg o.sb) s.cx.cohort with bound := (t.unitOf k).isSome } ∧
          t.cx.sreg o.sd = if o.sd = 0 ∨ (t.unitOf k).isSome then 0 else 1) ∧
      (Executes (.btest o) s → s1.unitOf k = none → (Barrier.ofBytes (Memory.read s1.mem k 64)).init = false →
        exec (.btest o) s = .next (executed (.btest o) { s1 with cx := s1.cx.setSreg o.sd 0 } (s1.cx.pc + 8))) ∧
      ∀ (b : Barrier), s1.barrierAt k = some b → b.init = true → (b.wantsUnit = true → b.owner = s.cx.cohort) →
        (s1.meetings.find? (·.key == k) = none →
          (b.dissolved = false →
            (Executes (.barv o) s → exec (.barv o) s = .next (executed (.barv o)
              { (s1.operate k b b.arrive.1 []) with cx := s1.cx.setSreg o.sd (BitVec.ofNat 64 b.phase) } (s1.cx.pc + 8))) ∧
            (Executes (.breg o) s → s1.registered k = false → s1.tooMany k = false → exec (.breg o) s = .next (executed (.breg o)
              ((s1.register k).operate k b { b with regcount := b.regcount + 1 } []) (s1.cx.pc + 8))) ∧
            (Executes (.breg o) s → s1.registered k = true ∨ s1.tooMany k = true → exec (.breg o) s = .next (s.takeTrap (s.cuTrap 0x60))) ∧
            (Executes (.bdrop o) s → exec (.bdrop o) s = .next (executed (.bdrop o)
              { ((s1.unregister s.cx.cohort s.cx.coord.member.toNat k).operate k b
                  (({ b with regcount := if s1.registered k then b.regcount - 1 else b.regcount } : Barrier).arrive.1) [b.phase]) with
                cx := s1.cx.setSreg o.sd (BitVec.ofNat 64 b.phase) } (s1.cx.pc + 8))) ∧
            (Executes (.barvw o) s → 2 ^ 63 ≤ (s.cx.sreg o.sd).toNat → ∃ t, exec (.barvw o) s = .next t ∧ t.cx.pc = s.cx.pc ∧
              t.cx.sreg o.sd = (if o.sd = 0 then 0 else BitVec.ofNat 64 b.phase) ∧ t.units = (s1.operate k b b.arrive.1 []).units)) ∧
          (b.dissolved = true → ∀ i ∈ [Instr.barv o, .breg o, .bdrop o], Executes i s → exec i s = .next (s.takeTrap (s.cuTrap 0x60))) ∧
          (Executes (.btest o) s → exec (.btest o) s = .next (executed (.btest o)
            { s1 with cx := s1.cx.setSreg o.sd (b.report ((s.cx.sreg o.sb).toNat % 2 ^ 32)) } (s1.cx.pc + 8)))) ∧
        let v := ((s1.meetings.find? (·.key == k)).map Meeting.found).getD b
        (v.init = true →
          (Executes (.barw o) s → v.completed ((s.cx.sreg o.sb).toNat % 2 ^ 32) = true →
            exec (.barw o) s = .next (executed (.barw o) (s1.rebind k b) (s1.cx.pc + 8))) ∧
          (Executes (.barw o) s → v.completed ((s.cx.sreg o.sb).toNat % 2 ^ 32) = false → v.dissolved = false →
            ∃ t, exec (.barw o) s = .next t ∧ t.cx.pc = s.cx.pc ∧ t.mem = (s1.rebind k b).mem ∧ t.units = (s1.rebind k b).units) ∧
          (Executes (.barw o) s → v.completed ((s.cx.sreg o.sb).toNat % 2 ^ 32) = false → v.dissolved = true →
            exec (.barw o) s = .next (s.takeTrap (s.cuTrap 0x60))) ∧
          (Executes (.barvw o) s → (s.cx.sreg o.sd).toNat < 2 ^ 63 → v.completed ((s.cx.sreg o.sd).toNat % 2 ^ 32) = true →
            exec (.barvw o) s = .next (executed (.barvw o) { (s1.rebind k b) with
              cx := s1.cx.setSreg o.sd (BitVec.ofNat 64 ((s.cx.sreg o.sd).toNat % 2 ^ 32 + 2 ^ 63)) } (s1.cx.pc + 8))))) ∧
  (∀ (s : State) (k : Nat) (b b1 : Barrier) (ps : List Nat),
      (∀ u, s.unitOf k = some u → b1.dissolved = false →
        (s.operate k b b1 ps).mem = s.mem ∧ (s.operate k b b1 ps).barrierAt k = some b1) ∧
      (s.unitOf k = none → b1.wantsUnit = false → (s.operate k b b1 ps).units = s.units ∧
        (s.operate k b b1 ps).mem = Memory.write s.mem k ({ b1 with bound := false } : Barrier).bytes)) ∧
  ∀ (s : State) (k : Nat) (b v : Barrier) (p : Nat) (ps : List Nat), s.meetings = [⟨k, v, p :: ps⟩] → s.barrierAt k = some b →
    s.settleBarriers = { (s.keepBarrier k (b.settle (p :: ps))) with meetings := [] }

/-! ## Forwarding to the engines (02 R39 to R43; 07 to 10; 16 R321 to R323) -/

/-- 02 R40, R43, 07 R155, R163 to R175, 16 R323: the load-engine instructions enter LQ and the store-engine instructions SQ, or trap or wait
as the forwarding rules say; UNFCFG sets its slot as it is forwarded. -/
def Obligations.TileForwarding : Prop :=
  (∀ (o : T) (s : State),
      (∀ i ∈ [Instr.tld o, .tldx o, .tldv o, .vldb o, .tgath o, .vgath o, .tfill o, .tcpy o, .vldt o, .tstat o],
        Forwards i .lq (s.cx.guard o.pg o.pn) (s.tileCheck (s.cx.entryOf i false)) s s) ∧
      Forwards (.pft o) .lq (s.cx.guard o.pg o.pn) none s s ∧
      let x := Unfold.ofWords (s.cx.sreg o.sa) (s.cx.sreg o.sb)
      Forwards (.unfcfg o) .lq (s.cx.guard o.pg o.pn) (if x.legal then none else some (s.cuTrap 0x11))
        { s with cx := { s.cx with f := s.cx.f.set (o.t.toNat % 16) x (Nat.mod_lt _ (by decide)) } } s) ∧
  (∀ (o : T) (s : State),
      (∀ i ∈ [Instr.tst o, .tstv o, .tscat o, .vstt o], Forwards i .sq (s.cx.guard o.pg o.pn) (s.tileCheck (s.cx.entryOf i false)) s s) ∧
      Forwards (.trel o) .sq (s.cx.guard o.pg o.pn) none s s)

/-- 02 R40, 08 R177, R180, 16 R323: the instructions of the vector engine enter AQ, or trap or wait as the forwarding rules say; a tile
operand is to be of AB, to have been filled with rows of the shape's width (else cause 0x11) and with a format that agrees (else cause
0x10). -/
def Obligations.VectorForwarding : Prop :=
  ∀ (o : V) (s : State), ∀ i ∈ vectorForms o,
    let e := s.cx.entryOf i false
    let check := vectorCheck s e
    Forwards i .aq true check s s ∧
    (∀ p ∈ opersOf e.instr, p.isTile = true →
      ((s.cx.tile p.n).wb = true → check = some (s.cuTrap 0x40)) ∧
      ((s.cx.tile p.n).wb = false → e.own.rowbytes ≠ (s.cx.tile p.n).shape.rowbytes → check = some (s.cuTrap 0x11)) ∧
      ((s.cx.tile p.n).wb = false → e.own.rowbytes = (s.cx.tile p.n).shape.rowbytes →
        check = if (e.own.effective (s.cx.tile p.n).shape).isNone then some (s.cuTrap 0x10) else none)) ∧
    ((∀ p ∈ opersOf e.instr, p.isTile = false) → check = none)

/-- 02 R40, 10 R231, R240 to R244, 16 R323: the instructions of the matrix queue enter MQ, or trap or wait as the forwarding rules say. -/
def Obligations.MatrixForwarding : Prop :=
  ∀ (o : X) (s : State),
    (∀ i ∈ [Instr.mma o, .mmaz o, .mmau o], Forwards i .mq true (commandCheck s (s.cx.entryOf i false)) s s) ∧
    Forwards (.amst o) .mq true (amstCheck s (s.cx.entryOf (.amst o) false)) s s ∧
    ∀ i ∈ [Instr.amld o, .amldStat o, .amz o, .mhint o, .msync o], Forwards i .mq true none s s

/-- 02 R40, 16 R322, R323: the port instructions enter NQ, or trap or wait as the forwarding rules say. -/
def Obligations.PortForwarding : Prop :=
  ∀ (o : N) (s : State), ∀ f ∈ portForms o s, Forwards f.1 .nq true f.2 s s

/-- 02 R39, R40, 05 R97, 16 R322, R323: a forwarded instruction stands at the end of its queue with its word's address, its cycle, its
shapes and its scalar values as they were at forwarding; the program counter is at the next word. A void entry carries its instruction
alone, and changes no tile, hold or counter. Everything that forwarding does not name is as it was, memory among it. A void entry needs one
place; any other needs one, and one more for each 24 bytes, or part of 24 bytes, of captured shapes, slot and third scalar. -/
def Obligations.ForwardedEntry : Prop :=
  (∀ (s : State) (q : Queue) (i : Instr) (isVoid : Bool),
      let e := s.cx.entryOf i isVoid
      let t := s.forwarded q e
      (t.cx.queue q).entries = (s.cx.queue q).entries ++ [e] ∧ t.cx.pc = s.cx.pc + 8 ∧ e.iaddr = s.cx.pc ∧ e.born = s.cx.now ∧ e.isVoid = isVoid ∧
      ForwardFrame q s t ∧
      (isVoid = true → e.opa = 0 ∧ e.opb = 0 ∧ e.opc = 0 ∧ e.shapes = [] ∧ e.epochs = [] ∧ t.cx.t = s.cx.t ∧ t.cx.holds = s.cx.holds ∧
        t.cx.srctr = s.cx.srctr) ∧
      (isVoid = false →
        (∀ o, fieldsOf i = .n o → e.opa = s.cx.sreg o.sa ∧ e.opb = s.cx.sreg o.sb ∧ e.opc = s.cx.sreg o.sc ∧ e.shapes = []) ∧
        (∀ o, i = .tld o ∨ i = .tldx o ∨ i = .tst o →
          e.opa = s.cx.sreg o.sa + s.cx.sreg o.sb ∧ e.shapes = [s.cx.shape o.h]) ∧
        t.cx.srctr = if (needsOf i).features.contains 7 then s.cx.srctr + 512 else s.cx.srctr)) ∧
  ((∀ i, entriesFor i true = 1) ∧
    (∀ i o, fieldsOf i = .t o → entriesFor i false = if o.h = 0 then 1 else 2) ∧
    (∀ i o, fieldsOf i = .v o → entriesFor i false = if o.h = 0 then 1 else 2) ∧
    (∀ i o, fieldsOf i = .n o → entriesFor i false = if o.sc = 0 then 1 else 2) ∧
    ∀ i o, fieldsOf i = .x o → entriesFor i false =
      if o.ha = 0 ∧ o.hb = 0 ∧ o.unf = 0 then 1 else if (o.ha = 0 ∧ o.hb = 0) ∨ (o.ha = 0 ∧ o.unf = 0) ∨ (o.hb = 0 ∧ o.unf = 0) then 2
      else 3)

/-! ## Elements of the engines (04 R70 to R79, R88; 08 R188, R189) -/

/-- 04 R70, R88, 08 R188, R189: in an integer format of w bits the arithmetic instructions compute exactly and keep the value modulo 2^w,
or, with .sat, clamp it to the format's range and set SAT where they clamp; VMIN and VMAX return the smaller and the larger operand. An
integer chunk of the matrix unit adds its exact sum, clamped to INT32. -/
def Obligations.IntegerElements : Prop :=
  (∀ (op : ArithOp) (f : BitVec 4) (mode : Mode) (a b c : Nat), 1 ≤ f.toNat → f.toNat ≤ 7 →
    let w := match f.toNat with | 1 => 4 | 2 => 8 | 3 => 16 | 4 => 32 | 5 => 8 | 6 => 16 | _ => 32
    let isSigned := f.toNat ≤ 4
    let value (x : Nat) : Int := if isSigned ∧ 2 ^ (w - 1) ≤ x then (x : Int) - 2 ^ w else x
    let lo : Int := if isSigned then -(2 ^ (w - 1)) else 0
    let hi : Int := if isSigned then 2 ^ (w - 1) - 1 else 2 ^ w - 1
    a < 2 ^ w → b < 2 ^ w → c < 2 ^ w →
    let z : Int := match op with
      | .add => value a + value b
      | .sub => value a - value b
      | .mul => value a * value b
      | .fma => value a * value b + value c
      | .fms => value a * value b - value c
    let r := arithElem op f false mode a b c
    let t := arithElem op f true mode a b c
    ((r.code : Int) = z % 2 ^ w ∧ r.flags = 0) ∧
      (lo ≤ z → z ≤ hi → value t.code = z ∧ t.flags = 0) ∧
      (z < lo → value t.code = lo ∧ t.flags.getLsbD 5 = true) ∧ (hi < z → value t.code = hi ∧ t.flags.getLsbD 5 = true) ∧
      value (pick false f a b) = min (value a) (value b) ∧ value (pick true f a b) = max (value a) (value b)) ∧
  ∀ (c : Nat) (ps : List (FVal × FVal)) (xs : List (Int × Int)), ps = xs.map (fun x => (FVal.ofInt x.1, FVal.ofInt x.2)) → c < 2 ^ 32 →
    let value (x : Nat) : Int := if 2 ^ 31 ≤ x then (x : Int) - 2 ^ 32 else x
    value (addChunk true c ps).code = max (-(2 ^ 31)) (min (2 ^ 31 - 1) (value c + (xs.map fun x => x.1 * x.2).sum))

/-- 04 R71, R72, R77: every code of a floating format but its NaNs decodes to a value that rounds to that code again, in every mode, with no
flag: subnormals, both zeros and both infinities among them. -/
def Obligations.ExactValues : Prop :=
  ∀ (f : BitVec 4) (code : Nat) (mode : Mode), 8 ≤ f.toNat → f.toNat ≤ 12 → code < 2 ^ fmtWidth f → (elemValue f code).isNan = false →
    roundTo (ffmt f) (elemValue f code) mode = ⟨code, 0⟩

/-! ## Issue, completion and the watchdog (02 R41, R42, R46) -/

/-- 02 R41, R42, 07 R158, R162, 08 R180, 10 R242 to R244, 16 R324, R338, 23 R457: QUEUE_ISSUE leaves a head that a condition blocks; a void
head rings and leaves its queue; a transfer's head moves its rows and stays until it completes, or stops at its restart point where a row
fails; an AQ head leaves its queue with its results to become visible, or traps; a join of MQ stays for its cycles, and MSYNC and MHINT
leave at once. The port serves NQ's head: a served head leaves the queue, one in service stays issued, one that must follow another
operation of its queue stays unissued, and one whose access fails stops its context with no effect of its own (00 R8). How many rows of a
transfer move in a cycle is the model's schedule (log entry 4). -/
def Obligations.QueueIssue : Prop :=
  (∀ (s : State) (q : Queue) (e : Entry) (rest : List Entry), s.cx.life = .running → (s.cx.queue q).entries = e :: rest →
      (¬ Issues s q e rest → exec (.queueIssue s.cx.ref q) s = .next s) ∧
      (Issues s q e rest → s.injected s.cx.coreNumber = false →
        (q = .lq ∨ q = .sq → e.isVoid = true → ∃ t, exec (.queueIssue s.cx.ref q) s = .next t ∧ (t.cx.queue q).entries = rest ∧
          t.mem = s.mem ∧ t.cx.t = s.cx.t ∧ t.cx.holds = s.cx.holds ∧ t.cx.v = s.cx.v ∧
          let c := ({ s.cx with bells := (issuedBells s e).1, rung := (issuedBells s e).2 } : Ctx).ringDone e
          t.cx.bells = c.bells ∧ t.cx.rung = c.rung) ∧
        (q = .lq ∨ q = .sq → atOnce e = false →
          let s0 : State := { s with cx := (opersOf e.instr).foldl Ctx.beginOper (s.cx.accept q e) }
          let h := e.xferShape.getD e.own
          let k := s0.cx.reached q e
          k ≠ 0 ∨ s0.cx.tagBad e h = false →
          (s.spans = [] → ∀ s1 gs r, s0.moveRows e h k [] ((spanOf e.instr h).rows - k) = (s1, gs, r) →
            ∃ t, exec (.queueIssue s.cx.ref q) s = .next t ∧ t.mem = s1.mem ∧ (t.cx.queue q).entries = e :: rest ∧ (t.cx.queue q).issued = true ∧
              (t.cx.queue q).moved = none ∧ (r = none → (t.cx.queue q).rstart = false ∧ t.cx.life = .running) ∧
              ∀ i f, r = some (i, f) → (t.cx.queue q).rstart = true ∧
                t.cx.life = if f.cause = 0 then .running else if f.cause = 0x20 then .faulted else .trapped) ∧
          ∀ n ns s1 gs, s.spans = n :: ns → k + n < (spanOf e.instr h).rows →
            ({ s0 with spans := ns } : State).moveRows e h k [] n = (s1, gs, none) →
            ∃ t, exec (.queueIssue s.cx.ref q) s = .next t ∧ t.mem = s1.mem ∧ (t.cx.queue q).entries = e :: rest ∧
              (t.cx.queue q).issued = true ∧ (t.cx.queue q).moved = some (k + n) ∧ t.cx.life = .running) ∧
        (q = .aq → e.isVoid = false → ∀ o, e.vFields = some o →
          let k := aqTiming e.instr (aqFormat s.cx o e.own) (aqRows e.instr e.timingShape)
          let r := aqOut e.instr (s.aqIn (s.cx.readView s.cx.now k.rate (readRate e.instr k.rate)) e o)
          (∀ c, r = .error c → ∃ t, exec (.queueIssue s.cx.ref q) s = .next t ∧ t.cx.life = .trapped ∧ t.cx.aq = s.cx.aq ∧ t.mem = s.mem ∧
            ∃ x, t.cx.trap = some x ∧ x.cause = c ∧ x.queue = 3 ∧ x.iaddr = e.iaddr) ∧
          ∀ out, r = .ok out → e.schk = false → ∃ t, exec (.queueIssue s.cx.ref q) s = .next t ∧ t.cx.aq.entries = rest ∧ t.mem = s.mem ∧
            t.cx.v = s.cx.v ∧ (t.cx.bells, t.cx.rung) = issuedBells s e ∧
            ∀ x ∈ (timed out k (aqRows e.instr e.timingShape) s.cx.now).1, x ∈ t.cx.pending) ∧
        (q = .mq → e.isVoid = false →
          (∀ o, e.instr = .amz o ∨ e.instr = .amldStat o → ∃ t, exec (.queueIssue s.cx.ref q) s = .next t ∧ t.cx.mq.entries = e :: rest ∧
            t.cx.mq.issued = true ∧ t.mem = s.mem ∧ t.cx.acc = s.cx.acc ∧
            t.cx.mqLast = s.time + (if e.instr = .amz o then 4 else 9) * clockPeriod s.clock) ∧
          ∀ o, e.instr = .msync o ∨ e.instr = .mhint o → ∃ t, exec (.queueIssue s.cx.ref q) s = .next t ∧ t.cx.mq.entries = rest ∧
            t.mem = s.mem ∧ t.cx.acc = s.cx.acc))) ∧
  (∀ (s s1 : State) (e : Entry) (rest : List Entry), Issues s .nq e rest → s1.cx.nq = s.cx.nq → s1.cx.is s.cx.ref = true →
      (s.portServes e = .over s1 → ∃ t, exec (.queueIssue s.cx.ref .nq) s = .next t ∧ t.cx.nq.entries = rest ∧ t.cx.nq.issued = false ∧
        t.mem = s1.mem ∧ t.cx.handed = s1.cx.handed ∧ ∀ k, t.cx.sreg k = s1.cx.sreg k) ∧
      (s.portServes e = .waits s1 → ∃ t, exec (.queueIssue s.cx.ref .nq) s = .next t ∧ t.cx.nq.entries = e :: rest ∧ t.cx.nq.issued = true ∧
        t.mem = s1.mem) ∧
      (s.portServes e = .stays → exec (.queueIssue s.cx.ref .nq) s = .next s) ∧
      ∀ f, s.portServes e = .fails f → exec (.queueIssue s.cx.ref .nq) s = .next (s.takeFail 5 e.iaddr f))

/-- 02 R41, R42, 05 R97, 16 R324, R341, 17 R363: QUEUE_ISSUE completes. A head whose conditions hold issues in this cycle: a void one and
one that completes at issue leave their queue at once, with nothing stored; a transfer no row of which fails has moved every row and stays
for its completion; an AQ head whose operands pass its checks retires; MSYNC, MHINT and VEXP retire, and AMZ, AMLD.STAT and TEND stay in
service. -/
def Obligations.QueueIssueCompletes : Prop :=
  ∀ (s : State) (q : Queue) (e : Entry) (rest : List Entry), Issues s q e rest → s.injected s.cx.coreNumber = false →
    let gone (t : State) : Prop := (t.cx.queue q).entries = rest ∧ (t.cx.queue q).issued = false ∧ (t.cx.queue q).last = some s.cx.now ∧
      (t.cx.queue q).gone = some s.cx.now
    let stays (t : State) : Prop := (t.cx.queue q).entries = e :: rest ∧ (t.cx.queue q).issued = true ∧ (t.cx.queue q).last = some s.cx.now
    (q ≠ .nq → e.isVoid = true → ∃ t, exec (.queueIssue s.cx.ref q) s = .next t ∧ gone t ∧ t.mem = s.mem ∧ t.cx.v = s.cx.v ∧ t.cx.t = s.cx.t ∧
      t.cx.holds = s.cx.holds) ∧
    (q = .lq ∨ q = .sq → e.isVoid = false → (∃ o, e.instr = .pft o ∨ e.instr = .unfcfg o ∨ e.instr = .tstat o ∨ e.instr = .trel o) →
      ∃ t, exec (.queueIssue s.cx.ref q) s = .next t ∧ gone t ∧ t.mem = s.mem ∧ t.cx.v = s.cx.v) ∧
    (q = .lq ∨ q = .sq → atOnce e = false → s.spans = [] →
      let s0 : State := { s with cx := (opersOf e.instr).foldl Ctx.beginOper (s.cx.accept q e) }
      let h := e.xferShape.getD e.own
      let k := s0.cx.reached q e
      let r := s0.moveRows e h k [] ((spanOf e.instr h).rows - k)
      k ≠ 0 ∨ s0.cx.tagBad e h = false → r.2.2 = none →
      ∃ t, exec (.queueIssue s.cx.ref q) s = .next t ∧ stays t ∧ (t.cx.queue q).rstart = false ∧ t.mem = r.1.mem ∧ t.cx.life = .running) ∧
    (q = .aq → e.isVoid = false → e.schk = false → ∀ o, e.vFields = some o →
      let k := aqTiming e.instr (aqFormat s.cx o e.own) (aqRows e.instr e.timingShape)
      (∃ out, aqOut e.instr (s.aqIn (s.cx.readView s.cx.now k.rate (readRate e.instr k.rate)) e o) = .ok out) →
      ∃ t, exec (.queueIssue s.cx.ref q) s = .next t ∧ gone t ∧ t.mem = s.mem ∧ t.cx.aqFree = s.cx.now + k.occupancy) ∧
    (q = .mq → e.isVoid = false → ∀ o,
      (e.instr = .msync o ∨ e.instr = .mhint o → ∃ t, exec (.queueIssue s.cx.ref q) s = .next t ∧ gone t ∧ t.mem = s.mem ∧ t.cx.acc = s.cx.acc) ∧
      (e.instr = .amz o ∨ e.instr = .amldStat o → ∃ t, exec (.queueIssue s.cx.ref q) s = .next t ∧ stays t ∧ t.mem = s.mem ∧ t.cx.acc = s.cx.acc)) ∧
    (q = .nq → ∀ o,
      (e.instr = .tend o → ∃ t, exec (.queueIssue s.cx.ref q) s = .next t ∧ stays t ∧ t.mem = s.mem ∧ t.cx.life = .running) ∧
      (e.instr = .vexp o → ∃ t, exec (.queueIssue s.cx.ref q) s = .next t ∧ gone t ∧ t.mem = s.mem))

/-- 02 R42, R43, R46, 03 R61, 07 R151, R152, 08 R182, 10 R242, 16 R324: ENGINE_COMPLETION ends the head in service, in a later cycle than
its issue: its queue moves on, a filled tile is ready at its epoch, a left one is empty, a loaded register is free, every AQ result whose
cycle has come is visible, AMZ leaves zeros once its cycles have passed; a transfer with rows left moves them first. WATCHDOG_EXPIRY traps a
held context with cause 0x42 at its limit, and does nothing where the limit is 0, something has executed or issued in the cycle, an
operation is in flight or the wait is on an event outside. When an operation completes is the model's (log entry 4). -/
def Obligations.CompletionAndWatchdog : Prop :=
  (∀ (s : State) (q : Queue) (e : Entry) (rest : List Entry), s.cx.life = .running → (s.cx.queue q).entries = e :: rest →
    (s.cx.queue q).issued = true → (s.cx.queue q).rstart = false →
    (q = .lq ∨ q = .sq → (s.cx.queue q).last ≠ some s.cx.now → (s.cx.queue q).moved = none → ∃ t, exec (.engineCompletion s.cx.ref q) s = .next t ∧ (t.cx.queue q).entries = rest ∧
      (t.cx.queue q).issued = false ∧ t.mem = s.mem ∧ (∀ k, t.cx.sreg k = s.cx.sreg k) ∧
      ∀ p ep, e.opers.head? = some (p, ep) →
        (p.isTile = true ∧ p.role = .fill → (t.cx.tile p.n).state = .ready ∧ (t.cx.tile p.n).cepoch = ep) ∧
        (p.isTile = true ∧ p.role = .leave → (t.cx.tile p.n).state = .empty) ∧
        (p.isTile = false ∧ p.role = .load → (t.cx.hold p.n).cepoch = ep)) ∧
    (q = .lq ∨ q = .sq → (s.cx.queue q).last ≠ some s.cx.now → ∀ k, (s.cx.queue q).moved = some k → let s1 := s.transfer q e true
      s1.cx.is s.cx.ref = true → exec (.engineCompletion s.cx.ref q) s =
        .next (if (s1.cx.queue q).rstart then s1 else { s1 with cx := s1.cx.completeXfer q e })) ∧
    (q = .lq ∨ q = .sq → (s.cx.queue q).last = some s.cx.now → exec (.engineCompletion s.cx.ref q) s = .next s) ∧
    (q = .mq → e.isVoid = false → ∀ o, e.instr = .amz o →
      (s.cx.mqLast ≤ s.time → s.cx.mq.last ≠ some s.cx.now → ∃ t, exec (.engineCompletion s.cx.ref q) s = .next t ∧ t.cx.mq.entries = rest ∧
        t.cx.acc = 0 ∧ t.cx.accstat.int = (o.fmt == 4) ∧ t.cx.accstat.flags = 0 ∧ t.mem = s.mem) ∧
      (s.time < s.cx.mqLast → ∃ t, exec (.engineCompletion s.cx.ref q) s = .next t ∧ t.cx.mq = s.cx.mq ∧ t.cx.acc = s.cx.acc ∧ t.mem = s.mem))) ∧
  (∀ (s : State), s.cx.life = .running → ∃ t, exec (.engineCompletion s.cx.ref .aq) s = .next t ∧ t.mem = s.mem ∧ t.cx.aq = s.cx.aq ∧
    (∀ x, x ∈ t.cx.pending ↔ x ∈ s.cx.pending ∧ s.cx.now < x.1)) ∧
  ∀ (s : State), s.cx.life = .running →
    (s.cx.wdogLimit = 0 ∨ s.cx.progressed = true ∨ s.cx.inFlight = true ∨ s.cx.waitsOutside = true ∨ s.cx.stopped = true ∨
      s.cx.wdog + 1 < s.cx.wdogLimit → exec (.watchdogExpiry s.cx.ref) s = .next s) ∧
    (s.cx.wdogLimit ≠ 0 → s.cx.progressed = false → s.cx.inFlight = false → s.cx.wdogLimit ≤ s.cx.wdog + 1 → s.cx.waitsOutside = false →
      s.cx.stopped = false →
      ∃ t r, exec (.watchdogExpiry s.cx.ref) s = .next t ∧ t.cx.life = .trapped ∧ t.cx.trap = some r ∧ r.cause = 0x42 ∧ r.pc = s.cx.pc ∧
        t.mem = s.mem ∧ (s.cx.held ≠ some true → ∀ n a, s.cx.firstQueue = some (n, a) → r.queue = n ∧ r.iaddr = a) ∧
        (s.cx.held = some true ∨ s.cx.firstQueue = none → r.queue = 0 ∧ r.iaddr = s.cx.pc))

/-! ## The matrix unit (10 R222 to R237) -/

/-- 10 R222 to R225, R232 to R235, R237: MWRR sets one weight; MATRIX_GRANT leaves a busy unit and otherwise grants the one command that a
bench presents, once its kind suits the partition, for the cycles that its filler from the level of that cycle and its chunks take;
MATRIX_COMPLETION adds the chunks of a command whose last fetch cycle has come and ends it, its completion 18 cycles later; LEVEL_STEP and
MHINT_HOLD_EXPIRY move the bench's level where a step is due. -/
def Obligations.MatrixEvents : Prop :=
  (∀ (o : SI) (s : State), Executes (.mwrr o) s →
    let n := (s.cx.sreg o.sa).toNat
    let b := s.bench n
    (n ≤ 191 → exec (.mwrr o) s = .next (executed (.mwrr o)
      (s.setBench { b with weights := b.weights.set (o.imm24.toNat % 8) (o.imm24.extractLsb' 8 4) (Nat.mod_lt _ (by decide)) }) (s.cx.pc + 8))) ∧
    (191 < n → exec (.mwrr o) s = .next (s.takeTrap (s.cuTrap 0x02)))) ∧
  (∀ (s : State) (n : Nat), s.time < (s.bench n).busyUntil → exec (.matrixGrant n) s = .next s) ∧
  (∀ (s s1 : State) (n k : Nat) (r : CtxRef) (e : Entry) (o : X), (s.bench n).busyUntil ≤ s.time → s.presenting n = [(k, r)] →
    s.focus r = some s1 → s.isFrozen s1.cx = false → s1.cx.presents = some e → e.xFields = some o → s1.cx.mq.issued = false →
    s1.cx.life = .running →
    let p := productOf e o (formatA o (e.fills.headD Shape.reset))
    let suits : Prop := e.instr = .mmaz o ∨ s1.cx.accstat.int = p.int
    ∃ t, exec (.matrixGrant n) s = .next t ∧ t.mem = s.mem ∧
      (suits → 0 < p.chunks → t.cx.mq.entries = s1.cx.mq.entries ∧ t.cx.mq.issued = true ∧ t.cx.mqLast =
        s.time + ((8 - (s.levelSteps (s.bench n) 20).level) * 16 + (p.chunks * p.rate e.unf - 1)) * clockPeriod s.clock) ∧
      (suits → p.chunks = 0 → t.cx.mq.entries = s1.cx.mq.entries.tail) ∧
      (e.instr = .mmaz o → t.cx.acc = 0 ∧ t.cx.accstat.int = p.int) ∧
      (e.instr ≠ .mmaz o → s1.cx.accstat.int = p.int → t.cx.acc = s1.cx.acc ∧ t.cx.life = .running) ∧
      (¬ suits → t = s1.takeTrap { cause := 0x10, queue := 4, iaddr := e.iaddr })) ∧
  (∀ (s : State) (e : Entry) (rest : List Entry) (o : X), s.cx.life = .running → s.cx.mq.entries = e :: rest → e.xFields = some o →
    s.cx.mq.issued = true → s.cx.mq.rstart = false → e.isVoid = false → isCommand e.instr = true →
    (s.time < s.cx.mqLast → exec (.matrixCompletion s.cx.ref) s = .next { s with cx := s.cx.productsDone s.time }) ∧
    (s.cx.mqLast ≤ s.time → s.cx.accstat.rpv = false → s.injected (benchBank s.cx.benchNumber) = false →
      (∀ c, c < (productOf e o (formatA o (e.fills.headD Shape.reset))).chunks → s.chunkFails e o c false = false) →
      ∃ t, exec (.matrixCompletion s.cx.ref) s = .next t ∧ t.cx.mq.entries = rest ∧ t.mem = s.mem ∧
        (∀ x ∈ t.cx.mqDone, s.time < x.1) ∧
        (s.time < s.cx.mqLast + 18 * clockPeriod s.clock → (s.cx.mqLast + 18 * clockPeriod s.clock) ∈ t.cx.mqDone.map Prod.fst) ∧
        t.cx.acc = (s.addChunks e o 0 (productOf e o (formatA o (e.fills.headD Shape.reset))).chunks).cx.acc)) ∧
  ∀ (s : State) (n : Nat),
    let b := s.bench n
    (b.stepAt = 0 ∨ s.time < b.stepAt → exec (.levelStep n) s = .next s) ∧
    (b.stepAt ≠ 0 → b.stepAt ≤ s.time → ∃ t, exec (.levelStep n) s = .next t ∧
      (b.rising = true → (t.bench n).level = min 8 (b.level + 1)) ∧ (b.rising = false → (t.bench n).level = b.level - 1)) ∧
    (b.hint = none ∨ s.time < b.busyUntil → exec (.mhintHoldExpiry n) s = .next s) ∧
    ∀ h, b.hint = some h →
      (s.time < h + 4096 * clockPeriod s.clock → exec (.mhintHoldExpiry n) s = .next s) ∧
      (b.busyUntil ≤ s.time → h + 4096 * clockPeriod s.clock ≤ s.time → ∃ t, exec (.mhintHoldExpiry n) s = .next t ∧ (t.bench n).hint = none ∧
        (t.bench n).level = b.level)

/-! ## Contexts (02 R37, R48; 13 R287 to R289; 14 R300; 16 R341; 26 R477, R478) -/

/-- 13 R287, R288, 26 R477 to R479, R482, 02 R37, 16 R341, 14 R300, 12 R270, R272, 18 R376: PAGE_FAULT_ANSWER writes the entries and lets
the context go on, or traps it; TRAP_DECISION, while no save or restore of the cohort is under way, without a handler terminates the
context, or resumes it after its first residue mismatch; EXIT_TAKES_EFFECT ends the activation once every queue is quiet, after a trap that
waits (17 R361); TEND_TAKES_EFFECT leaves the context idle; BANK_SWITCH makes an inactive context run; RED_POISON_TRAP takes the trap that
waits; WAITV_REREAD and BARRIER_WAIT_END execute the instruction that waits once more. A handler's decision is not among the clauses (log
entry 23). -/
def Obligations.ContextEvents : Prop :=
  (∀ (s : State) (l : FaultLine), s.cx.life = .faulted → s.cx.faultRec = [l] → s.cx.trap = none →
    (∀ es, ∃ t, exec (.pageFaultAnswer s.cx.ref (.mapped es)) s = .next t ∧ t.cx.faultRec = [] ∧ t.cx.pc = s.cx.pc ∧ t.poison = s.poison ∧
      t.mem = es.foldl (fun m e => Memory.write m (devKey s.node e.1) (wordBytes e.2)) s.mem ∧
      (CoreFree s s.cx → t.cx.life = .running) ∧ (¬ CoreFree s s.cx → t.cx.life = .inactive)) ∧
    ∃ t r, exec (.pageFaultAnswer s.cx.ref .unanswerable) s = .next t ∧ t.cx.life = .trapped ∧ t.cx.trap = some r ∧ r.cause = l.cause ∧
      r.vaddr = l.vaddr ∧ r.iaddr = l.iaddr ∧ r.queue = l.queue ∧ r.pc = s.cx.pc ∧ t.mem = s.mem) ∧
  (∀ (s : State) (r : TrapRec), s.cx.life = .trapped → s.cx.trap = some r → (∀ h ∈ s.handlers, h.asid ≠ s.cx.asid) →
    ((∃ x ∈ s.transfers, x.name = s.cx.cohort) → exec (.trapDecision s.cx.ref) s = .next s)) ∧
  (∀ (s : State) (r : TrapRec), s.cx.life = .trapped → s.cx.trap = some r → (∀ h ∈ s.handlers, h.asid ≠ s.cx.asid) →
    (∀ x ∈ s.transfers, x.name ≠ s.cx.cohort) →
    (r.cause ≠ 0x03 → r.cause ≠ 0x12 → ∃ t, exec (.trapDecision s.cx.ref) s = .next t ∧ t.cx.life = .exited ∧ t.cx.trap = none) ∧
    (r.cause = 0x12 → r.queue ≠ 3 → r.queue ≠ 4 → s.retried s.cx r = false → s.isStopped s.cx = false → CoreFree s s.cx →
      ∃ t, exec (.trapDecision s.cx.ref) s = .next t ∧ t.cx.life = .running ∧ t.cx.trap = none ∧ t.cx.pc = r.pc ∧ t.mem = s.mem)) ∧
  (∀ (s : State) (n : BitVec 16), s.cx.life = .running → s.cx.exiting = some n →
    (s.cx.allQuiet = true → s.cx.after = [] →
      ∃ t, exec (.exitTakesEffect s.cx.ref) s = .next t ∧ t.cx.life = .exited ∧ t.cx.inbox = [] ∧ t.cx.exiting = none) ∧
    (s.cx.allQuiet = false ∨ s.cx.after ≠ [] → exec (.exitTakesEffect s.cx.ref) s = .next s)) ∧
  (∀ (s : State) (e : Entry) (rest : List Entry), s.cx.life = .running → s.cx.tendReady = true → s.cx.nq.entries = e :: rest →
    ∃ t, exec (.tendTakesEffect s.cx.ref) s = .next t ∧ t.cx.life = .idle ∧ t.cx.nq.entries = rest) ∧
  (∀ (s : State) (c : CtxRef) (x : Ctx), s.findCtx c = some x → x.life = .inactive →
    (s.isStopped x = true → exec (.bankSwitch c) s = .next s) ∧
    (s.isStopped x = false →
      (∀ y ∈ s.ctxs, y.sameCore x = true → y.life ≠ .running ∧ y.life ≠ .faulted ∧ y.life ≠ .trapped) → exec (.bankSwitch c) s =
      .next (s.mapCtxs fun y => if y.is c ∧ y.life = .inactive then { y with life := .running, since := y.clk } else y))) ∧
  (∀ (s : State) (r : TrapRec) (rest : List TrapRec), s.cx.life = .running → s.cx.after = r :: rest → exec (.redPoisonTrap s.cx.ref) s =
    .next { s with cx := { s.cx with after := rest, life := .trapped, trap := some { r with pc := s.cx.pc } } }) ∧
  ∀ (s s1 : State) (w : Word), s.cx.life = .running → s.fetch = .ok (s1, w) →
    (∀ o, decode w = some (.waitv o) → ∃ t, exec (.waitvReread s.cx.ref) s = .next t ∧ exec (.waitv o) s1 = .next t) ∧
    (∀ o, decode w = some (.barw o) → ∃ t, exec (.barrierWaitEnd s.cx.ref) s = .next t ∧ exec (.barw o) s1 = .next t) ∧
    ∀ o, decode w = some (.barvw o) → ∃ t, exec (.barrierWaitEnd s.cx.ref) s = .next t ∧ exec (.barvw o) s1 = .next t

/-! ## Cohorts and launches (02 R28; 14 R301 to R306; 17 R345; 21 R412 to R421) -/

/-- 02 R38, 14 R301 to R303, R306, 17 R345: COHORT_SAVE, once what reaches the cohort in its cycle has taken effect, quiesces every resident
member and writes its image, and a failure leaves the cohort resident; SAVE_DONE makes a written save's cohort saved; COHORT_RESTORE loads a
checked restore, after the pending cohorts of lower stages of its launch, into slots that meet its needs, and no others; COHORT_MIGRATION
starts to move a saved cohort. The second event of a migration, the cohorts that another package hands over, and a save whose cohort has no
member left are the model's (log entries 18 and 20). -/
def Obligations.CohortEvents : Prop :=
  (∀ (s u s2 : State) (r : SaveRequest) (x : Transfer) (d : Word × Space), (r.fellows.map Prod.fst).foldl State.settleCohort (s.settleCohort r.name) = u → u.transferOf r.name false = some x →
    x.name = r.name → x.written = false → x.desc = some d →
    let members := u.membersOf x.name
    let s1 := members.foldl (fun s m => s.withCtx ⟨x.name, m⟩ State.quiesce) (u.modDir x.name fun d => { d with state := .saving })
    (members = [] → exec (.cohortSave r) s = .next (u.endTransfer x (transferWord 0 0 0))) ∧
    (members ≠ [] → s1.saveMembers x.name x.space (x.addr s1) members = (s2, none) → ∃ t, exec (.cohortSave r) s = .next t ∧ t = s2.saveWritten x members ∧
      ∀ m ∈ members, ∀ c, t.findCtx ⟨x.name, m⟩ = some c → c.life = .saved) ∧
    (members ≠ [] → ∀ e m, s1.saveMembers x.name x.space (x.addr s1) members = (s2, some (e, m)) → ∃ t, exec (.cohortSave r) s = .next t ∧
      t = (s2.modDir x.name fun d => { d with state := .resident }).endTransfer x (transferWord e m 0))) ∧
  (∀ (s : State) (n : BitVec 32) (x : Transfer), s.transferOf n false = some x → x.name = n →
    (x.written = false → exec (.saveDone n) s = .next s) ∧
    (x.written = true → x.desc = none → ∃ t, exec (.saveDone n) s = .next t ∧ (∀ d ∈ t.dir, d.name = n → d.state = .saved) ∧ t.mem = s.mem ∧
      t.transfers = s.transfers.filter fun y => decide (y.name ≠ n ∨ y.isRestore ≠ x.isRestore))) ∧
  (∀ (s : State) (r : RestoreRequest), s.transferOf r.name true = none →
    (r.handed = none → s.dirOf r.name = none → s.savedOf r.name = [] → exec (.cohortRestore r) s = .next s) ∧
    (s.transferOf r.name false ≠ none → exec (.cohortRestore r) s = .next s) ∧
    ∀ h, r.handed = some h → s.comesHere r.name = false → exec (.cohortRestore r) s = .next s) ∧
  (∀ (s : State) (r : RestoreRequest) (x : Transfer), s.transferOf r.name true = some x → x.written = true →
    (s.restoreReady x = true → s.restoreFits x r.slots = true → exec (.cohortRestore r) s = .next (s.loadCohort x r.slots)) ∧
    (s.restoreReady x = false ∨ s.restoreFits x r.slots = false → exec (.cohortRestore r) s = .next s)) ∧
  ∀ (s : State) (n : BitVec 32) (node cluster : Nat) (d : DirEntry), s.dirOf n = some d → d.state = .saved → d.node = s.node → s.inPod node = true →
    (s.transfers.any (·.name == n)) = false → exec (.cohortMigration n node cluster) s =
      .next { s with dir := s.dir.map fun d => if d.name = n then { d with state := .migrating, moveTo := some (node, cluster) } else d }

/-- 21 R412 to R421, 28 R503: LAUNCH_RECORD_ARRIVAL checks the record and accepts or refuses the launch; LAUNCH_DOORBELL submits an aligned
record of the host; COHORT_BIND binds a pending cohort into slots that meet its needs, and only then, and its first member starts at the
image's entry with the launch's arguments; STANDING_BIND does so in reserved slots, in arrival order; LAUNCH_COMPLETION waits for the
cohorts, and then the launch is gone. Where cohorts of other nodes are named is the model's (log entry 17). -/
def Obligations.LaunchEvents : Prop :=
  (∀ (s : State) (k : Nat) (x : Submission), s.submissions[k]? = some x →
    let s0 : State := { s with submissions := s.submissions.eraseIdx k }
    (∀ c, s0.agentRead x.space x.record 128 = .error c → exec (.launchRecordArrival (.submitted k)) s = .next (s0.refuseLaunch x none 2 c)) ∧
    ∀ s1 b, s0.agentRead x.space x.record 128 = .ok (s1, b) → x.hostRead = false →
      let own : Space := if x.priv = false ∨ recNat b 26 2 % 65536 = 0 then x.space else ⟨BitVec.ofNat 16 (recNat b 26 2), some (recNat b 64 8)⟩
      (∀ c y, s1.checkLaunch b x.space own x.priv false = .error (c, y) →
        exec (.launchRecordArrival (.submitted k)) s = .next (s1.refuseLaunch x (some (x.space, recWord b 96)) c y)) ∧
      ∀ s2 y, s1.checkLaunch b x.space own x.priv false = .ok (s2, y) →
        exec (.launchRecordArrival (.submitted k)) s = .next (s2.acceptLaunch x b y x.space)) ∧
  (∀ (s : State) (h : HandedLaunch),
    let own : Space := ⟨h.asid, some h.root⟩
    (s.booted = false → exec (.launchRecordArrival (.handed h)) s = .next s) ∧
    (∀ c, s.readImage own (recWord h.record 0) = .error c → exec (.launchRecordArrival (.handed h)) s = .next s) ∧
    ∀ s1 image, s.booted = true → s.readImage own (recWord h.record 0) = .ok (s1, image) → (s1.launchOf h.id).isSome = false →
      (field h.id 55 9 : BitVec 9).toNat ≠ s.node →
      ((numbered ((unitsOf 8 h.table).map (cohortOf (field h.id 55 9 : BitVec 9).toNat))).filter (·.node == s.node)).length ≤ s1.freeSlots →
      ∃ t, exec (.launchRecordArrival (.handed h)) s = .next t ∧ t.mem = s1.mem ∧
        ∃ l, t.launches = s1.launches ++ [l] ∧ l.id = h.id ∧ l.image = image ∧ l.cohorts.length = h.table.length / 8) ∧
  (∀ (s : State) (pa : Nat), (pa % 128 ≠ 0 ∨ s.booted = false → exec (.launchDoorbell pa) s = .next s) ∧
    (pa % 128 = 0 → s.booted = true → exec (.launchDoorbell pa) s = .next { s with submissions := s.submissions ++
      [{ record := BitVec.ofNat 64 pa, space := ⟨0, none⟩, priv := true, hostRead := true, by_ := .host }] })) ∧
  (∀ (s : State) (id k : Nat) (l : Launch) (c : LCohort) (slots : List BindSlot), s.launchOf (BitVec.ofNat 64 id) = some l →
    l.cohorts[k]? = some c →
    let need : Demand := { req := l.image.reqfeat, ab := l.image.abext, wb := l.image.wbext, acc := l.image.acc, chan := l.image.chan, binding := l.binding }
    let fits : Prop := c.bound = false ∧ c.node = s.node ∧ l.terminated = false ∧ c.placed slots = true ∧
      s.slotsOk (List.range c.members) slots need = true
    (l.binding = none → ¬ (fits ∧ s.stageReady l c = true) → exec (.cohortBind id k slots) s = .next s) ∧
    (l.binding = none → fits → s.stageReady l c = true → l.coloc = false →
      exec (.cohortBind id k slots) s = .next (s.bindCohort l c slots none)) ∧
    (l.binding = none → fits → s.stageReady l c = true → l.coloc = true → exec (.cohortBind id k slots) s =
      .next (if (s.bindCohort l c slots none).colocOk l then s.bindCohort l c slots none else s)) ∧
    (l.binding.isSome = true → exec (.cohortBind id k slots) s = .next s) ∧
    (l.binding = none → exec (.standingBind id k slots) s = .next s) ∧
    ∀ b, l.binding = some b →
      ((∃ p ∈ slots, (s.binding b).reserves p = false) → exec (.standingBind id k slots) s = .next s) ∧
      (s.queueHead b ≠ some (l.id, k) → exec (.standingBind id k slots) s = .next s) ∧
      ((∀ p ∈ slots, (s.binding b).reserves p = true) → ¬ fits → exec (.standingBind id k slots) s = .next s) ∧
      ((∀ p ∈ slots, (s.binding b).reserves p = true) → s.queueHead b = some (l.id, k) → fits →
        exec (.standingBind id k slots) s = .next (s.bindCohort l c slots (some b)))) ∧
  (∀ (s : State) (l : Launch) (c : LCohort) (m : Nat) (p : BindSlot),
    let x := bindCtx s l c m p
    x.priv = l.priv ∧ x.sealed = l.isSealed ∧ x.cohort = c.name ∧ x.nmem = c.members ∧ x.launch = l.id ∧ x.bank = p.bank ∧
      x.flags = Ctx.reset.flags ∧ x.rot = Ctx.reset.rot ∧ x.lcnt = Ctx.reset.lcnt ∧ x.slipd = Ctx.reset.slipd ∧ x.acc = Ctx.reset.acc ∧
      (∀ k, 0 < k.toNat → k.toNat ≤ l.args.length → x.sreg k = l.args.getD (k.toNat - 1) 0) ∧
      (∀ k, l.args.length < k.toNat → x.sreg k = Ctx.reset.sreg k) ∧
      ∀ e, (s.enterCtx x e).cx.coord = x.coord ∧ (CoreFree s x → s.breaks { x with cause := .launch, entry := e, started := s.ns, actno := x.actno + 1 } = false →
        (s.enterCtx x e).cx.life = .running ∧ (s.enterCtx x e).cx.pc = e ∧ (s.enterCtx x e).cx.actno = x.actno + 1)) ∧
  ∀ (s : State) (id : Nat) (l : Launch), s.launchOf (BitVec.ofNat 64 id) = some l →
    (s.launchOver l true = false → exec (.launchCompletion id) s = .next s) ∧
    (s.launchOver l true = true → s.absent l.complSpace l.compl (64 + 8 * l.entries.length) .store = false → l.walk = none →
      ∃ t, exec (.launchCompletion id) s = .next t ∧ ∀ y ∈ t.launches, y.id ≠ l.id)

/-! ## Graphs and host rings (21 R422 to R434) -/

/-- 21 R413, R422 to R425, R429: a walk's node is read, stamped and has its kind's effect; an invalid node fails the walk with cause 0x65; a
wait looks again and fails at its limit; a graph doorbell starts a walk; the time rule raises a ring's interrupt. -/
def Obligations.GraphEvents : Prop :=
  (∀ (s s1 s2 : State) (w : Walk) (kind : Nat) (b : List Byte), NodeStarts s w kind b s1 s2 →
    let x := startedWalk s w b
    (kind = 0 → ∃ t, exec (.nodeLaunch w.num) s = .next t ∧ t.mem = s2.mem ∧ t.submissions = s2.submissions ++
      [{ record := recWord b 8, space := w.space, priv := w.priv, hostRead := false, by_ := .walk w.num w.node ((recNat b 1 1).testBit 0) }]) ∧
    (kind = 1 → ∃ t, exec (.nodeCopy w.num) s = .next t ∧ t.mem = s2.mem ∧ t.copies = s2.copies ++
      [{ num := s2.serial, serves := .node w.num w.node, space := w.space, src := recWord b 8, dst := recWord b 16, len := recNat b 24 8 }]) ∧
    (kind = 2 → exec (.nodeWaitOnWord w.num) s = .next (s2.nodeWaits x)) ∧
    (kind = 3 → (recNat b 1 1).testBit 1 = false → ∀ s3, s2.agentWrite w.space (recWord b 8) (wordBytes (recWord b 24)) = .ok s3 →
      exec (.nodeSignalWord w.num) s = .next (s3.putWalk (x.goTo s3.time (w.node + 1)))) ∧
    (kind = 3 → (recNat b 1 1).testBit 1 = true → ∀ s3 gs, s2.agentAccess w.space (recWord b 8) 8 .rmw = .ok s3 gs →
      segsPoisoned s3.poison gs = false → ∃ t, exec (.nodeSignalWord w.num) s = .next t ∧
        t.mem = writeSegs s3.mem gs (wordBytes (recWord (readSegs s3.mem gs) 0 + recWord b 24))) ∧
    (kind = 4 → exec (.nodeConditional w.num) s = .next (s2.nodeDecides x)) ∧
    (kind = 5 → ∃ t, exec (.nodeHostRingDrain w.num) s = .next t ∧ t.mem = s2.mem ∧ t.interrupts =
      if (s2.hostRing (recNat b 4 4)).pend = 0 then s2.interrupts else (s2.hostRing (recNat b 4 4)).vector.toNat :: s2.interrupts) ∧
    (kind = 6 → w.nowait = [] → w.compl = none → exec (.nodeEnd w.num) s = .next { s2 with walks := s2.walks.filter (·.num != w.num) })) ∧
  (∀ (s s1 : State) (w : Walk) (b : List Byte), s.walkOf w.num = some w → w.failed = none → w.started = false →
    s.agentRead w.space w.addr 64 = .ok (s1, b) → nodeBad b = true → ∀ i ∈ nodeEvents w.num,
      exec i s = .next (s1.putWalk { w with failed := some (w.node, 0x65, s1.time) })) ∧
  (∀ (s : State) (w : Walk), s.walkOf w.num = some w → w.started = true → w.failed = none → nodeKind w.body = 2 →
    exec (.waitOnWordReread w.num) s = .next (s.nodeWaits w) ∧
    (recNat w.body 36 4 = 0 → exec (.graphWaitTimeout w.num) s = .next s) ∧
    (recNat w.body 36 4 ≠ 0 → w.startedAt + 1000 * recNat w.body 36 4 ≤ s.ns → exec (.graphWaitTimeout w.num) s = .next (s.nodeWaits w)) ∧
    ∀ s1 bs, s.agentRead w.space (recWord w.body 8) 8 = .ok (s1, bs) →
      (nodeCompare w.body (recWord bs 0) = true → s.nodeWaits w = s1.putWalk (w.goTo s1.time (w.node + 1))) ∧
      (nodeCompare w.body (recWord bs 0) = false →
        s.nodeWaits w = if recNat w.body 36 4 ≠ 0 ∧ w.startedAt + 1000 * recNat w.body 36 4 ≤ s.ns then
          s1.putWalk { w with failed := some (w.node, 0x66, s1.time) } else s1.putWalk w)) ∧
  (∀ (s s1 : State) (w : Walk) (bs : List Byte), s.agentRead w.space (recWord w.body 8) 8 = .ok (s1, bs) →
    let taken : Prop := nodeCompare w.body (recWord bs 0) = true ∧ (recNat w.body 32 4 = 0 ∨ recNat w.body 48 4 < recNat w.body 32 4)
    ∀ s2, (taken → s1.agentWrite w.space (w.addr + 48) (leBytes 4 (recNat w.body 48 4 + 1)) = .ok s2 →
        s.nodeDecides w = s2.putWalk (w.goTo s2.time (recNat w.body 4 4))) ∧
      (¬ taken → s1.agentWrite w.space (w.addr + 48) (leBytes 4 0) = .ok s2 → s.nodeDecides w = s2.putWalk (w.goTo s2.time (w.node + 1)))) ∧
  (∀ (s : State) (pa : Nat), (pa % 32 ≠ 0 ∨ s.booted = false → exec (.graphDoorbell pa) s = .next s) ∧
    ∀ s1 b, pa % 32 = 0 → s.booted = true → s.agentRead ⟨0, none⟩ (BitVec.ofNat 64 pa) 32 = .ok (s1, b) → startBlockBad b = false → s1.walks.length < 64 →
      ∃ t, exec (.graphDoorbell pa) s = .next t ∧ t.mem = s1.mem ∧ t.walks.length = s1.walks.length + 1) ∧
  ∀ (s : State) (r : Nat), ((s.hostRing r).late s.ns = false → exec (.hostRingTimeRule r) s = .next s) ∧
    (r < 16 → (s.hostRing r).late s.ns = true → ∃ t, exec (.hostRingTimeRule r) s = .next t ∧ (t.hostRing r).pend = 0 ∧
      t.interrupts = (s.hostRing r).vector.toNat :: s.interrupts ∧ t.mem = s.mem)

/-! ## Arrivals, tasks and copies (16 R328 to R339; 17 R347 to R353; 23 R454 to R464) -/

/-- 16 R328, R331, 17 R347, R348, R352, R353, 23 R455: the arrival events decide a flight where it is due: a settled one leaves the list and
its outcome goes to its sender, one on hold or at a full ring stays, one whose cohort another node decides goes there, one answered busy is
tried again 1,024 cycles later, by its sender where that is another node, and the 4,096th busy answer fails it, but not what leaves a
deferred list. BUSY_RETRY is that trial. DEFERRED_DELIVERY delivers the oldest deferred arrival, here or to the node that holds the cohort,
or drops one whose member has exited. When a flight is due is the model's (log entry 4). -/
def Obligations.ArrivalEvents : Prop :=
  (∀ (s : State) (k : Nat) (a : Arrival) (bytes : List Byte) (x : Flight), ArrivalDue s k a bytes x →
    ∀ f ∈ arrivalEvents k, a.kind = f.1 →
      let retried : Flight := { x with busy := x.busy + 1, due := s.time + 1024 * clockPeriod s.clock }
      (∀ s1 code cause, s.placeArrival x.origin a bytes = .here s1 (.settled code cause) →
        exec f.2 s = .next ((s1.dropFlight k).outcome a x.origin code cause)) ∧
      (∀ n, s.placeArrival x.origin a bytes = .away n → exec f.2 s = .next (s.arriveAway k a bytes x.origin n)) ∧
      (∀ s1, s.placeArrival x.origin a bytes = .here s1 .hold → exec f.2 s = .next s) ∧
      (∀ s1, s.placeArrival x.origin a bytes = .here s1 .full → ∃ t, exec f.2 s = .next t ∧ t.mem = s.mem ∧ t.cx = s.cx ∧
        t.flights[k]? = some { x with parked := true }) ∧
      (∀ s1, s.placeArrival x.origin a bytes = .here s1 .busy →
        (∀ n tag, x.origin = .node n tag → exec f.2 s = .next ((s.dropFlight k).refuseFrom n tag a bytes)) ∧
        (x.origin = .deferred → ∃ t, exec f.2 s = .next t ∧ t.mem = s.mem ∧ t.cx = s.cx ∧ t.flights[k]? = some retried) ∧
        ((∀ n tag, x.origin ≠ .node n tag) → x.origin ≠ .deferred →
          (x.busy < 4095 → ∃ t, exec f.2 s = .next t ∧ t.mem = s.mem ∧ t.cx = s.cx ∧ t.flights[k]? = some retried) ∧
          (4095 ≤ x.busy → exec f.2 s = .next ((s.dropFlight k).outcome a x.origin 3 (if a.kind = 4 then 0x5B else 0x52))))) ∧
      (x.busy ≠ 0 → ∃ t, exec (.busyRetry k) s = .next t ∧ exec f.2 s = .next t)) ∧
  (∀ (s : State) (c : Ctx) (a : Arrival),
    (c.expecting (BitVec.ofNat 6 a.reg) = true → s.storeArrival c a = (s.modCtx c.ref fun x => x.applyArrival a, .settled 0 0)) ∧
    (c.expecting (BitVec.ofNat 6 a.reg) = false → s.basinCount c.coord.cluster.toNat c.coord.core.toNat < 16 →
      (s.storeArrival c a).2 = .settled 1 0 ∧ (s.storeArrival c a).1.basins = s.basins ++ [⟨c.coord.cluster.toNat, c.coord.core.toNat,
        { a with seq := s.arrivalSeq % 2 ^ 32, stamp := s.ns }⟩]) ∧
    (c.expecting (BitVec.ofNat 6 a.reg) = false → 16 ≤ s.basinCount c.coord.cluster.toNat c.coord.core.toNat → s.storeArrival c a = (s, .busy))) ∧
  (∀ (s : State) (c : Ctx) (a : Arrival) (bytes : List Byte),
    let off := 64 * recNat bytes 22 2
    (c.abext < off + bytes.length → s.messageArrival c a bytes = (s, .settled 3 0x5A)) ∧
    (off + bytes.length ≤ c.abext → 32 ≤ c.inbox.length → s.messageArrival c a bytes = (s, .busy)) ∧
    (off + bytes.length ≤ c.abext → c.inbox.length < 32 → (s.messageArrival c a bytes).2 = .settled 0 0 ∧
      (s.messageArrival c a bytes).1.mem = Memory.write s.mem (c.counterKey off) bytes)) ∧
  (∀ (s s1 : State) (c : Ctx) (a : Arrival) (bs : List Byte), s.absent c.space a.record 128 .store = false →
    s.agentRead c.space (a.record + 16) 4 = .ok (s1, bs) → counterOk c (recNat bs 0 4) = true → a.kind = 3 →
    let k := c.counterKey (recNat bs 0 4)
    let n := leNat (Memory.read s1.mem k 4)
    (n < a.value → s.taskArrival c a = (s1, .settled 2 0)) ∧
    (a.value < n → s.taskArrival c a = ({ s1 with mem := Memory.write s1.mem k (leBytes 4 (n - a.value)) }, .settled 0 0)) ∧
    (n = a.value → ∀ s2, State.queueTask { s1 with mem := Memory.write s1.mem k (leBytes 4 0) } c a.record = some s2 →
      s.taskArrival c a = (s2, .settled 1 0)) ∧
    (n = a.value → State.queueTask { s1 with mem := Memory.write s1.mem k (leBytes 4 0) } c a.record = none → s.taskArrival c a = (s, .full))) ∧
  ∀ (s : State) (name : BitVec 32) (d : DirEntry),
    (s.delivering name = true → s.endDrain name = s) ∧
    (s.delivering name = false → s.endDrain name = s.modDir name fun d => if d.deferred.isEmpty then { d with draining := false } else d) ∧
    (s.dirOf name = some d →
      (d.state ≠ .resident ∨ d.draining = false ∨ d.deferred = [] → exec (.deferredDelivery name) s = .next (s.endDrain name)) ∧
      ∀ a rest, d.state = .resident → d.draining = true → d.deferred = a :: rest → a.kind = 1 →
        let drop (s : State) : State := s.modDir name fun d => { d with deferred := rest, defhead := (d.defhead + 1) % max 1 d.defcap }
        (d.node ≠ s.node → s.delivering name = true → exec (.deferredDelivery name) s = .next s) ∧
        (d.node ≠ s.node → s.delivering name = false →
          exec (.deferredDelivery name) s = .next (((drop s).launchFlight (.arrival a []) .deferred).endDrain name)) ∧
        (d.node = s.node → (∀ c, s.findCtx ⟨name, a.member⟩ = some c → c.resident = false) →
          exec (.deferredDelivery name) s = .next ((drop s).endDrain name)) ∧
        ∀ c, d.node = s.node → s.findCtx ⟨name, a.member⟩ = some c → c.resident = true →
          (∀ s1, s.storeArrival c a = (s1, .busy) → exec (.deferredDelivery name) s = .next (s.endDrain name)) ∧
          ∀ s1 x y, s.storeArrival c a = (s1, .settled x y) → exec (.deferredDelivery name) s = .next ((drop s1).endDrain name))

/-- 16 R330 to R333, R508, 12 R252, R256, 23 R454, R462, R463, 26 R482, 01 R24: TASK_DEQUEUE begins an idle context's next activation, of
its inbox or its run list; STEAL_ATTEMPT counts a failure where its victim has nothing; RUN_LIST_REFILL moves one entry to the hardware
list; REMOTE_LOAD, REMOTE_STORE and REMOTE_ATOMIC act on memory at its home, unless its slice fails the read; BLOCK_REDUCTION performs the
oldest update of a quay core in service; COPY_COMPLETE carries a copy on, behind the operations that it follows, and ends it where it has
come to its end. That each access takes effect at once is the model's (log entry 1). -/
def Obligations.TaskAndCopyEvents : Prop :=
  (∀ (s : State), s.cx.life = .idle →
    (s.mayStart = false → exec (.taskDequeue s.cx.ref) s = .next s) ∧
    (s.mayStart = false → s.cx.inbox = [] → s.cx.runList = [] → 1 < s.cx.nmem → ∃ t, exec (.stealAttempt s.cx.ref) s = .next t ∧
      t.cx.stealFails = s.cx.stealFails + 1 ∧ t.cx.life = .idle) ∧
    (∀ m rest, s.mayStart = true → s.cx.inbox = m :: rest → s.cx.listTurn = false → NoBreaks s →
      ∃ t, exec (.taskDequeue s.cx.ref) s = .next t ∧ t.cx.life = .running ∧ t.cx.pc = m.arr.record ∧ t.cx.inbox = rest ∧
        t.cx.actno = s.cx.actno + 1) ∧
    (∀ rec rest s1, s.mayStart = true → s.cx.inbox = [] → (s.refill s.cx.ref 64).cx.runList = rec :: rest →
      (s.refill s.cx.ref 64).dequeue rec = .taken s1 → exec (.taskDequeue s.cx.ref) s =
        .next (State.refill { s1 with cx := { s1.cx with runList := s1.cx.runList.tail, listTurn := false } } s1.cx.ref 64)) ∧
    (s.cx.nmem ≤ 1 ∨ s.cx.inbox ≠ [] ∨ s.cx.runList ≠ [] → exec (.stealAttempt s.cx.ref) s = .next s) ∧
    (s.mayStart = true → s.cx.inbox = [] → s.cx.runList = [] → 1 < s.cx.nmem →
      let m := s.cx.coord.member.toNat
      let r : CtxRef := ⟨s.cx.cohort, if s.cx.stealPrev then (m + s.cx.nmem - 1) % s.cx.nmem else (m + 1) % s.cx.nmem⟩
      let s0 := s.refill r 64
      (s0.findCtx r = none → ∃ t, exec (.stealAttempt s.cx.ref) s = .next t ∧ t.cx.stealFails = s0.cx.stealFails + 1 ∧
        t.cx.stealPrev = !s0.cx.stealPrev) ∧
      ∀ v rec rest s1 s2, s0.findCtx r = some v → v.resident = true → s0.isStopped v = false → v.runList = rec :: rest →
        (∃ bs, s0.agentRead s.cx.space (rec + 13) 1 = .ok (s1, bs) ∧ (bs.headD 0).getLsbD 0 = false) ∨
          (∃ c, s0.agentRead s.cx.space (rec + 13) 1 = .error c) ∧ s1 = s0 → s1.dequeue rec = .taken s2 →
        let u := ((s2.modCtx r fun v => { v with runList := v.runList.tail }).refill r 64).bumpRun s.cx 40
        exec (.stealAttempt s.cx.ref) s =
          .next (if u.cx.life = .idle then { u with cx := { u.cx with stealPrev := !s.cx.stealPrev } } else u))) ∧
  (∀ (s : State) (r : CtxRef) (c : Ctx) (b : RunBlock), s.findCtx r = some c → s.runBlockOf c = some b →
    (64 ≤ c.runList.length ∨ b.count = 0 → exec (.runListRefill r) s = .next s) ∧
    ∀ s1 bs, c.runList.length < 64 → b.count ≠ 0 → s.agentRead c.space (b.slot b.head) 8 = .ok (s1, bs) → exec (.runListRefill r) s =
      .next ((s1.modCtx r fun c => { c with runList := c.runList ++ [recWord bs 0] }).putRun c 16 ((b.head + 1) % 2 ^ 64))) ∧
  (∀ (s : State) (k pa busy due n port : Nat) (away parked : Bool), s.flights[k]? = some ⟨.load pa n, .none, busy, due, away, parked, port⟩ →
    ∃ t, exec (.remoteLoad k) s = .next t ∧ t.mem = s.mem ∧ t.poison = s.poison ∧ t.flights = s.flights.eraseIdx k) ∧
  (∀ (s : State) (k pa busy due port : Nat) (away parked : Bool) (bs : List Byte),
    s.flights[k]? = some ⟨.store pa bs, .none, busy, due, away, parked, port⟩ →
    ∃ t, exec (.remoteStore k) s = .next t ∧ t.mem = Memory.write s.mem (devKey s.node pa) bs ∧ t.flights = s.flights.eraseIdx k) ∧
  (∀ (s : State) (k pa busy due port : Nat) (away parked double : Bool) (op : BitVec 4) (x y : Word),
    s.flights[k]? = some ⟨.atomic pa op double x y, .none, busy, due, away, parked, port⟩ →
    let w := if double then 64 else 32
    let old := leNat (Memory.read s.mem (devKey s.node pa) (w / 8))
    (segsPoisoned s.poison [(devKey s.node pa, w / 8)] = true → ∃ t, exec (.remoteAtomic k) s = .next t ∧ t.mem = s.mem) ∧
    (segsPoisoned s.poison [(devKey s.node pa, w / 8)] = false → s.sliceFault 0 [(devKey s.node pa, w / 8)] ≠ none →
      ∃ t, exec (.remoteAtomic k) s = .next t ∧ t.mem = s.mem) ∧
    (segsPoisoned s.poison [(devKey s.node pa, w / 8)] = false → s.sliceFault 0 [(devKey s.node pa, w / 8)] = none → ∃ t, exec (.remoteAtomic k) s = .next t ∧
      t.mem = Memory.write s.mem (devKey s.node pa) (leBytes (w / 8)
        (if op = 0xF then (if old = x.toNat % 2 ^ w then y.toNat % 2 ^ w else old) else atomicOp op w old (x.toNat % 2 ^ w))))) ∧
  (∀ (s : State) (quay : Nat) (b : BlockJob), (∀ x ∈ s.blocks, s.quayInService x.quay = true) → s.blocks.find? (·.quay == quay) = some b →
    (∀ r ∈ s.reductions, r.op ≠ b.op) →
    ∃ t, exec (.blockReduction quay) s = .next t ∧ t.mem = updateUnit b.fmt s.mem b.keys b.src ∧ t.blocks = s.blocks.erase b ∧ t.cx = s.cx) ∧
  (∀ (s : State) (quay : Nat), s.quayInService quay = false → ∃ t, exec (.blockReduction quay) s = .next t ∧ t.mem = s.mem ∧ t.cx = s.cx ∧
    ∀ q, s.quayFor (quay / 4) (quay % 4) = some q → ∀ x ∈ t.blocks, x.quay ≠ quay) ∧
  (∀ (s : State) (k engine : Nat) (c : Copy), s.copies[k]? = some c → s.copyEngines[k % max 1 s.copyEngines.length]? = some engine →
    (c.broken ≠ 0 → exec (.copyComplete k) s = .next (s.endCopy c.num c.broken 0)) ∧
    (c.broken = 0 → (s.copies.take k).any c.follows = true ∨ s.reductions.any c.followsReduction = true ∨ s.copyAbsent c = true →
      exec (.copyComplete k) s = .next s) ∧
    (c.broken = 0 → (s.copies.take k).any c.follows = false → s.reductions.any c.followsReduction = false → s.copyAbsent c = false →
      s.injected (1812 + engine) = false →
      (∀ s1, s.copyUnits engine c.num (c.len / 2048 + 2) = .under s1 → exec (.copyComplete k) s = .next s1) ∧
      (∀ s1, s.copyUnits engine c.num (c.len / 2048 + 2) = .ended s1 none → exec (.copyComplete k) s = .next (s1.endCopy c.num 0 0)) ∧
      ∀ s1 f, s.copyUnits engine c.num (c.len / 2048 + 2) = .ended s1 (some f) → exec (.copyComplete k) s = .next (s1.endCopy c.num f.cause f.va))) ∧
  ∀ (s s1 s2 : State) (engine done n : Nat) (c : Copy) (gs ds : List Seg), c.ahead = 0 →
    s.agentAccess c.space (c.src + BitVec.ofNat 64 done) n .load (some (4 + engine)) = .ok s1 gs → segsPoisoned s1.poison gs = false →
    s1.agentAccess c.space (c.dst + BitVec.ofNat 64 done) n .store (some (4 + engine)) = .ok s2 ds → (∀ g ∈ ds, s.remote g.1 = false) →
    ∃ t, s.copyUnit engine c done n = .moved t ∧ t.mem = writeSegs s2.mem ds (readSegs s1.mem gs) ∧ t.cx = s2.cx

/-! ## Futures and tools (19 R384 to R395) -/

/-- 19 R384 to R390, R393, R395: RESOLVE_OK and RESOLVE_ERR resolve the armed future that their handle names, and otherwise note the
outcome; RESOLVE_OUTCOME changes nothing; REMOTE_RESOLVE, after the tools' resolves of its cycle, resolves the armed future with its reply
and discards and counts what names none; FUTURE_DEADLINE resolves with TIMEOUT where the deadline came in an earlier cycle, and what comes
later finds the future so; FUTURE_RESOLUTION ends a resolution; ADAPTER_LOAD_DONE makes the adapter resident or frees its entry;
SANDBOX_VIOLATION and a TOOL_CORE_ACCESS outside the windows are logged and end the tool's context, and an admitted store writes memory. The
reply area of a remote resolve, and the outcome for another package's handle, are the model's (log entries 15 and 14). -/
def Obligations.FutureEvents : Prop :=
  (∀ (s : State) (n : Nat) (h : Word) (x : Tool), s.liveTool n = some x →
    ∀ i ∈ [Instr.resolveOk n h, .resolveErr n h],
      (s.handleAway h = true → ∃ t, exec i s = .next t ∧ t.futures = s.futures ∧ t.mem = s.mem) ∧
      (s.handleAway h = false →
        (s.futureOf h = none → exec i s = .next (s.putTool { x with outcome := 2 })) ∧
        ∀ f, s.futureOf h = some f →
          (f.state ≠ .armed → exec i s = .next (s.putTool { x with outcome := 1 })) ∧
          (f.state = .armed → s.overdue f = true → exec i s = .next ((s.resolve f 3 0).toolOutcome x.num 1)))) ∧
  (∀ (s s1 : State) (n : Nat) (h : Word) (x : Tool) (f : Future) (bs : List Byte), s.liveTool n = some x → s.handleAway h = false →
    s.futureOf h = some f → f.state = .armed → s.overdue f = false → f.adapter = none → s.absent f.space f.reply 8 .load = false →
    (s.putTool { x with outcome := 0 }).agentRead f.space f.reply 8 = .ok (s1, bs) → recNat bs 0 4 ≤ f.repcap →
    exec (.resolveOk n h) s = .next (s1.resolve f 1 (recNat bs 4 4)) ∧ exec (.resolveErr n h) s = .next (s1.resolve f 2 (recNat bs 4 4))) ∧
  (∀ (s : State) (n : Nat), exec (.resolveOutcome n) s = .next s) ∧
  (∀ (s : State) (p : List Byte), s.toolsFirst = true → exec (.remoteResolve p) s = .next (s.putOff (.remoteResolve p))) ∧
  (∀ (s : State) (p : List Byte), s.toolsFirst = false →
    (s.futureOf (recWord p 0) = none → exec (.remoteResolve p) s = .next { s with ueDiscards := s.ueDiscards + 1 }) ∧
    ∀ f, s.futureOf (recWord p 0) = some f →
      (f.state ≠ .armed → exec (.remoteResolve p) s = .next { s with ueDiscards := s.ueDiscards + 1 }) ∧
      (f.state = .armed → s.overdue f = true → ∃ t, exec (.remoteResolve p) s = .next t ∧ t.ueDiscards = s.ueDiscards + 1 ∧
        t.futures = (s.resolve f 3 0).futures ∧ t.mem = s.mem) ∧
      (f.state = .armed → s.overdue f = false → recNat p 8 1 ≠ 1 → recNat p 8 1 ≠ 2 →
        exec (.remoteResolve p) s = .next { s with ueDiscards := s.ueDiscards + 1 }) ∧
      (f.state = .armed → s.overdue f = false → recNat p 8 1 = 1 ∨ recNat p 8 1 = 2 →
        (f.repcap < recNat p 12 4 → exec (.remoteResolve p) s = .next (s.resolve f 2 0x55)) ∧
        (recNat p 12 4 ≤ f.repcap → f.adapter.isSome = true →
          exec (.remoteResolve p) s = .next (s.resolve f (recNat p 8 1) (recNat p 16 4))) ∧
        (recNat p 12 4 ≤ f.repcap → f.adapter = none →
          let bs := (p.drop 12).take 8 ++ (p.drop 24).take (4 * recNat p 12 4)
          let w := s.agentWrite f.space f.reply bs
          (s.absent f.space f.reply bs.length .store = true →
            exec (.remoteResolve p) s = .next (s.resolve { f with await := .remote bs } (recNat p 8 1) (recNat p 16 4))) ∧
          (s.absent f.space f.reply bs.length .store = false →
            (∀ s1, w = .ok s1 → exec (.remoteResolve p) s = .next (s1.resolve f (recNat p 8 1) (recNat p 16 4))) ∧
            ∀ c, w = .error c → exec (.remoteResolve p) s = .next (s.logFuture.resolve f (recNat p 8 1) (recNat p 16 4)))))) ∧
  (∀ (s : State) (i : Nat) (f : Future), s.futures.find? (·.index == i) = some f →
    (s.overdue f = true ↔ f.deadline ≤ (s.time - clockPeriod s.clock) / 756) ∧
    (f.state = .armed → s.overdue f = true → exec (.futureDeadline i) s = .next (s.resolve f 3 0)) ∧
    (f.state ≠ .armed ∨ s.overdue f = false → exec (.futureDeadline i) s = .next s) ∧
    (f.state = .armed → f.deadline ≤ s.ns → s.deadline f = s.resolve f 3 0) ∧
    (s.ringBefore f = [] → f.state ≠ .resolving → f.await = .nothing → exec (.futureResolution i) s = .next s) ∧
    (s.ringBefore f = [] → f.state = .resolving → f.await = .nothing → f.link = none → f.replies = [] → f.status = 4 →
      (f.launch ≠ 0 → exec (.futureResolution i) s = .next (s.putFuture { f with state := .resolved })) ∧
      (f.launch = 0 → ∃ t, exec (.futureResolution i) s = .next t ∧ t.mem = s.mem ∧
        ∃ g ∈ t.futures, g.index = f.index ∧ g.state = .free ∧ g.gen = (f.gen + 1) % 8192))) ∧
  (∀ (s : State) (f : Future) (st detail : Nat), let t := s.resolve f st detail
    ({ f with state := .resolving, status := st, detail := detail, stampr := s.ns } : Future) ∈ t.futures ∧ t.mem = s.mem ∧
      (∀ g ∈ t.futures, g.index = f.index → g.state = .resolving) ∧ ∀ g ∈ s.futures, g.index ≠ f.index → g ∈ t.futures) ∧
  (∀ (s : State) (e addr cause : Nat) (r : Residency), s.residency.find? (·.entry == e) = some r →
    (r.resident = true → exec (.adapterLoadDone e addr cause) s = .next s) ∧
    (r.resident = false → r.waiting = [] → cause ≠ 0 →
      exec (.adapterLoadDone e addr cause) s = .next { s with residency := s.residency.filter (·.entry != e) }) ∧
    ∀ a, r.resident = false → r.waiting = [] → s.adapters.find? (·.num == r.num) = some a →
      segsPoisoned s.poison [(if a.node = 0xFFFF then hostKey a.source else devKey a.node a.source, a.size)] = false → ∃ t,
      exec (.adapterLoadDone e addr 0) s = .next t ∧ ({ r with resident := true, addr := addr, waiting := [] } : Residency) ∈ t.residency ∧
      t.mem = copyCells s.mem (if a.node = 0xFFFF then hostKey a.source else devKey a.node a.source) (devKey s.node addr) a.size) ∧
  ∀ (s : State) (n : Nat) (x : Tool) (a : Word), s.liveTool n = some x →
    (∃ t, exec (.sandboxViolation n a) s = .next t ∧ t.violations = (x.num, a) :: s.violations ∧ t.mem = s.mem ∧ t.liveTool n = none) ∧
    (s.injected (toolBank x.unit) = true → ∀ y, ∃ t, exec (.toolCoreAccess n y) s = .next t ∧ t.mem = s.mem ∧ t.liveTool n = none) ∧
    ∀ bs, s.injected (toolBank x.unit) = false → (a.toNat < x.resolve ∨ x.resolve + 4096 ≤ a.toNat) →
      (x.windows.any (windowAdmits · 61 a.toNat bs.length) = true →
        ∃ t, exec (.toolCoreAccess n (.store a bs)) s = .next t ∧ t.mem = Memory.write s.mem (devKey s.node a.toNat) bs ∧ t.cx = s.cx ∧
          t.violations = s.violations ∧ t.poison = clearPoison s.poison [(devKey s.node a.toNat, bs.length)]) ∧
      (x.windows.any (windowAdmits · 61 a.toNat bs.length) = false → s.inQueue x a.toNat bs.length = false →
        ∃ t, exec (.toolCoreAccess n (.store a bs)) s = .next t ∧ t.violations = (x.num, a) :: s.violations ∧ t.mem = s.mem ∧ t.liveTool n = none)

/-! ## Links and the pod (23 R440 to R454) -/

/-- 23 R442, R446 to R448, R450 to R453, R468: a port trains at the width that its failed lanes leave, retrains, replays, acknowledges and
takes credits; its key phase switches where a switch is due, RETIRE zeroises the old slot once the port's own packets need it no more (log
entry 40), and a dissolved partition leaves its ports without keys; flits that pass CRC and carry the expected packet, whose tag verifies,
are accepted and acknowledged, a duplicate is acknowledged again, and any others are discarded and a NAK sent; a control flit says what its
CTL says; detours and the pod are set. How credits lie in a control flit's body is open (log entry 13). -/
def Obligations.LinkEvents : Prop :=
  (∀ (s : State) (n : Nat), n < 6 →
    let p := s.portAt n
    (p.state = .down → s.unitServes 2 n = true → ∃ t, exec (.trainingRequest n) s = .next t ∧
      t.portAt n = { p with state := .train, trainingAt := s.time } ∧ t.mem = s.mem ∧ t.cx = s.cx) ∧
    (p.state ≠ .down ∨ s.unitServes 2 n = false → exec (.trainingRequest n) s = .next s) ∧
    (∀ seq w l, p.state = .train → trainWidth p.failmask = some (w, l) → ∃ t, exec (.linkTrained n seq) s = .next t ∧
      t.portAt n = { p with state := .up, width := w, lanesel := l } ∧ t.mem = s.mem) ∧
    (∀ seq, p.state = .train ∨ p.state = .retrain → trainWidth p.failmask = none → p.replay = [] → ∃ t,
      exec (.linkTrained n seq) s = .next t ∧ (t.portAt n).state = .failed ∧ t.mem = s.mem) ∧
    (∀ seq, p.state = .retrain → p.trainingAt + 20000 * 756 < s.time → p.replay = [] → ∃ t,
      exec (.linkTrained n seq) s = .next t ∧ (t.portAt n).state = .failed ∧ t.mem = s.mem) ∧
    (∀ seq w l, p.state = .retrain → trainWidth p.failmask = some (w, l) → s.time ≤ p.trainingAt + 20000 * 756 → ∃ t, exec (.linkTrained n seq) s = .next t ∧
      (t.portAt n).state = .replay ∧ (t.portAt n).width = w ∧ (t.portAt n).lanesel = l ∧ (t.portAt n).ack = seq % 2 ^ 24 ∧
      (t.portAt n).replay = p.replay.filter (fun x => decide (seqGap seq x.pseq < 2 ^ 23))) ∧
    (p.state = .retrain → p.trainingAt + 20000 * 756 ≤ s.time → p.replay = [] → ∃ t, exec (.retrainTimeout n) s = .next t ∧
      (t.portAt n).state = .failed ∧ t.mem = s.mem) ∧
    (p.state ≠ .retrain ∨ s.time < p.trainingAt + 20000 * 756 → exec (.retrainTimeout n) s = .next s) ∧
    (∀ lane, lane < 16 → ∃ t, exec (.laneFailure n lane) s = .next t ∧ (t.portAt n).failmask = p.failmask ||| (1 <<< lane) ∧
      t.mem = s.mem ∧ (t.portAt n).state = if p.state = .up ∨ p.state = .replay then .retrain else p.state) ∧
    (∀ seq, ∃ t, exec (.ackReceive n seq) s = .next t ∧ (t.portAt n).ack = seq % 2 ^ 24 ∧ (t.portAt n).state = p.state ∧
      (t.portAt n).replay = p.replay.filter (fun x => decide (seqGap seq x.pseq < 2 ^ 23)) ∧
      ((∀ x ∈ p.replay, ∀ num, x.origin ≠ .copy num) → t.mem = s.mem)) ∧
    (∀ seq, ∃ t, exec (.nakReceive n seq) s = .next t ∧ (t.portAt n).state = (if p.state = .up then .replay else p.state) ∧
      (t.portAt n).replay = p.replay.filter (fun x => decide (seqGap seq x.pseq < 2 ^ 23)) ∧
      ((∀ x ∈ p.replay, ∀ num, x.origin ≠ .copy num) → t.mem = s.mem)) ∧
    (∃ t, exec (.replayDone n) s = .next t ∧ (t.portAt n).state = (if p.state = .replay then .up else p.state) ∧
      (t.portAt n).replay = p.replay) ∧
    (∀ cls vc k, cls < 3 → vc < 2 → ∃ t, exec (.creditReceive n cls vc k) s = .next t ∧ t.mem = s.mem ∧
      ∀ j : Fin 6, (t.portAt n).credits[j] = p.credits[j] + if j.val = 2 * cls + vc then k else 0) ∧
    (p.switchDue = true → p.oldv = false → (if p.kp then p.key0 else p.key1).isSome = true → p.state = .up → ∃ t,
      exec (.keyPhaseSwitch n) s = .next t ∧ (t.portAt n).kp = (!p.kp) ∧ (t.portAt n).switchDue = false ∧ t.mem = s.mem ∧
      (p.retireDue = false → p.farRetired = false ∨ p.replay.all (fun x => x.kp == !p.kp) = false →
        (t.portAt n).oldv = p.keyed ∧ (t.portAt n).key0 = p.key0 ∧ (t.portAt n).key1 = p.key1)) ∧
    (p.switchDue = false ∨ p.oldv = true ∨ p.state ≠ .up → exec (.keyPhaseSwitch n) s = .next s) ∧
    (p.oldv = true → p.retireDue = true → ∃ t, exec (.retireReceive n) s = .next t ∧ (t.portAt n).oldv = false ∧ (t.portAt n).kp = p.kp ∧
      t.mem = s.mem ∧ (p.kp = true → (t.portAt n).key0 = none ∧ (t.portAt n).key1 = p.key1) ∧
      (p.kp = false → (t.portAt n).key1 = none ∧ (t.portAt n).key0 = p.key0)) ∧
    ((p.oldv = true ∨ p.switchDue = true) → p.retireDue = false →
      exec (.retireReceive n) s = .next (s.setPort n { p with farRetired := true })) ∧
    (p.oldv = false → p.switchDue = false → exec (.retireReceive n) s = .next s) ∧
    (p.replay = [] → ∃ t, exec (.partitionDissolve [n]) s = .next t ∧ (t.portAt n).key0 = none ∧ (t.portAt n).key1 = none ∧
      (t.portAt n).replay = [] ∧ (t.portAt n).state = p.state ∧ t.mem = s.mem) ∧
    ∀ fs : List (List Byte), p.state = .up ∨ p.state = .replay → s.injected (1796 + n) = false →
      let kp := flitPhase (fs.headD [])
      let seq := flitPseq (fs.headD [])
      (fs.all flitIntact = false → exec (.packetReceive n fs) s = .next (s.oweNak n)) ∧
      (fs.all flitIntact = true →
        let s1 := fs.foldl (fun s f => s.takeCtl n f) s
        let p1 := s1.portAt n
        (fs.all flitControl = true → exec (.packetReceive n fs) s = .next s1) ∧
        (flitsFollow fs = true → p1.expected = p.expected ∧
          (seq = p.expected % 2 ^ 24 → ∀ h payload, s1.openFlits n fs = some (h, payload) →
            let s2 := s1.setPort n (p1.accepted kp)
            let vc := flitVc (fs.headD [])
            exec (.packetReceive n fs) s =
              .next (((if h.dest = s.node then s2.freeFlits n vc h payload else s2).acknowledge n).acceptPacket n vc h payload)) ∧
          (seq = p.expected % 2 ^ 24 → s1.openFlits n fs = none → exec (.packetReceive n fs) s = .next (s1.oweNak n)) ∧
          (seq ≠ p.expected % 2 ^ 24 → seqGap seq (p.expected % 2 ^ 24) < 2 ^ 23 → exec (.packetReceive n fs) s = .next (s1.acknowledge n)) ∧
          (seq ≠ p.expected % 2 ^ 24 → 2 ^ 23 ≤ seqGap seq (p.expected % 2 ^ 24) →
            exec (.packetReceive n fs) s = .next (s1.oweNak n)))) ∧
      ∀ f, fs = [f] → flitIntact f = true → flitControl f = true →
        (recNat f 7 1 % 8 = 1 → exec (.packetReceive n fs) s = exec (.ackReceive n (recNat f 4 3)) s) ∧
        (recNat f 7 1 % 8 = 3 → exec (.packetReceive n fs) s = exec (.nakReceive n (recNat f 4 3)) s) ∧
        (recNat f 7 1 % 8 = 4 → exec (.packetReceive n fs) s = exec (.retireReceive n) s)) ∧
  (∀ (s : State) (n : Nat), n < 6 →
    let p := s.portAt n
    let told (ctl : Nat) : Port := { p with
      control := flitOf 0 15 false false (p.expected % 2 ^ 24) ctl (Config.creditBody p.grants.toList) :: p.control, grants := Vector.replicate 6 0 }
    s.acknowledge n = s.setPort n (told 1) ∧ s.oweNak n = s.setPort n { told 3 with naks := p.naks + 1 }) ∧
  (∀ mask : BitVec 16,
    (mask = 0 → trainWidth mask = some (0, 0)) ∧
    (mask ≠ 0 → mask.extractLsb' 0 8 = 0 → trainWidth mask = some (1, 0)) ∧
    (mask.extractLsb' 0 8 ≠ 0 → mask.extractLsb' 8 8 = 0 → trainWidth mask = some (1, 1)) ∧
    (mask.extractLsb' 0 8 ≠ 0 → mask.extractLsb' 8 8 ≠ 0 → ∀ q : Fin 4, mask.extractLsb' (4 * q.val) 4 = 0 →
      (∀ r : Fin 4, r < q → mask.extractLsb' (4 * r.val) 4 ≠ 0) → trainWidth mask = some (2, BitVec.ofNat 2 q.val)) ∧
    ((∀ q : Fin 4, mask.extractLsb' (4 * q.val) 4 ≠ 0) → trainWidth mask = none)) ∧
  (∀ (s : State) (dest : Nat) (order : DimOrder), exec (.detourInstall dest order) s =
    .next { s with detours := (dest, order) :: s.detours.filter (·.1 != dest), lost := s.lost.filter (· != dest) }) ∧
  ∀ (s : State) (dx dy dz node : Nat) (lost : List Nat),
    let s1 : State := { s with dx := dx, dy := dy, dz := dz, node := node, lost := lost }
    (1 ≤ dx → dx ≤ 8 → 1 ≤ dy → dy ≤ 8 → 1 ≤ dz → dz ≤ 5 → s1.inPod node = true →
      exec (.podFormation dx dy dz ⟨node, lost⟩) s = .next s1.failFacing ∧
      ((∀ p < 6, (s.portAt p).state = .down ∨ (s.portAt p).state = .train ∨ (s.portAt p).state = .failed ∨ (s.portAt p).state = .fenced ∨
        s1.facing p ∉ lost) → exec (.podFormation dx dy dz ⟨node, lost⟩) s = .next s1)) ∧
    (dx = 0 ∨ 8 < dx ∨ dy = 0 ∨ 8 < dy ∨ dz = 0 ∨ 5 < dz → exec (.podFormation dx dy dz ⟨node, lost⟩) s = .next s)

/-! ## The host, memory errors and service (12 R250, R252; 13 R281; 23 R465, R467; 26 R480 to R485; 28 R503, R506) -/

/-- 12 R250, R252, 13 R281, 23 R465, R467, 28 R503: the host's snoops change no byte, its loads none, its stores write the bytes they carry,
and its atomics combine, unless the home slice fails the read; a write of the register window reaches its register; PAGE_MIGRATION first
marks the leaf as migrating and drops its translations, and then, once no write to the old frame is outstanding, copies the frame and
installs the new entry; a pinned page stays, and a request for the other tier waits. The states of the directory, and what a migrating
leaf's NODE reads as, are the model's (log entries 9 and 50). -/
def Obligations.HostEvents : Prop :=
  (∀ (s : State) (line : Nat) (ex : Bool), ∃ t, exec (.hostSnoop line ex) s = .next t ∧ t.mem = s.mem ∧ t.poison = s.poison ∧ t.cx = s.cx ∧
    (ex = true → ∀ d ∈ t.lines, d.line ≠ lineOf (hostKey (line * 128))) ∧
    (ex = false → ∀ d ∈ t.lines, d.line = lineOf (hostKey (line * 128)) → d.state = .s ∨ d.state = .o)) ∧
  (∀ (s : State) (pa n : Nat), ∃ t, exec (.hostMemoryAccess pa (.load n)) s = .next t ∧ t.mem = s.mem ∧ t.poison = s.poison ∧ t.cx = s.cx) ∧
  (∀ (s : State) (pa : Nat) (bs : List Byte), ∃ t, exec (.hostMemoryAccess pa (.store bs)) s = .next t ∧
    t.mem = Memory.write s.mem (devKey s.node pa) bs ∧ t.cx = s.cx ∧
    (Memory.wf s.mem = true → ∀ a, a < devKey s.node pa ∨ devKey s.node pa + bs.length ≤ a → Memory.get t.mem a = Memory.get s.mem a)) ∧
  (∀ (s : State) (pa : Nat) (op : BitVec 4) (double : Bool) (x : Word),
    let k := devKey s.node pa
    let w := if double then 64 else 32
    (segsPoisoned s.poison [(k, w / 8)] = true ∨ s.sliceFault 0 [(k, w / 8)] ≠ none → ∃ t, exec (.hostAtomic pa op double x) s = .next t ∧ t.mem = s.mem) ∧
    (segsPoisoned s.poison [(k, w / 8)] = false → s.sliceFault 0 [(k, w / 8)] = none → ∃ t, exec (.hostAtomic pa op double x) s = .next t ∧ t.cx = s.cx ∧
      t.mem = Memory.write s.mem k (leBytes (w / 8) (atomicOp op w (leNat (Memory.read s.mem k (w / 8))) (x.toNat % 2 ^ w))))) ∧
  (∀ (s : State) (off : Nat) (w : Word),
    (off % 8 ≠ 0 → exec (.registerWindowWrite off w) s = .next s) ∧
    (w = 1 → exec (.registerWindowWrite 0x10000 w) s = .next { s with commands := s.commands ++ [⟨s.mailbox.toList, ⟨0, none⟩⟩] }) ∧
    (w ≠ 1 → exec (.registerWindowWrite 0x10000 w) s = .next s) ∧
    exec (.registerWindowWrite 0x30000 w) s = exec (.launchDoorbell w.toNat) s ∧
    exec (.registerWindowWrite 0x30008 w) s = exec (.graphDoorbell w.toNat) s ∧
    (∀ i : Fin 8, ∃ t, exec (.registerWindowWrite (0x10040 + 8 * i.val) w) s = .next t ∧ t.mem = s.mem ∧ ∀ j : Fin 64, t.mailbox[j] =
      if 8 * i.val ≤ j.val ∧ j.val < 8 * i.val + 8 then w.extractLsb' (8 * (j.val % 8)) 8 else s.mailbox[j]) ∧
    (∀ n : Fin 8, exec (.registerWindowWrite (0x22000 + 32 * n.val) w) s = exec (.triggerArm n.val w) s) ∧
    ∀ b, b < 1866 → exec (.registerWindowWrite (0x100000 + 32 * b) w) s = exec (.mcbStatusClear b w) s) ∧
  ∀ (s : State) (m : Migration),
    let k := devKey s.node m.leaf
    let e := BitVec.ofNat 64 (leNat (Memory.read s.mem k 8))
    let size := if m.size = 0 then 0x10000 else if m.size = 1 then 2 ^ 21 else 2 ^ 30
    (s.moving.find? (·.pte == k) = none → e.getLsbD 63 = true → e.getLsbD 59 = true → s.leafMalformed e size = false → m.frame * 65536 % size = 0 →
      m.tier < 3 → (m.tier < 2 → ∀ g ∈ s.retiredFrames, g < m.frame ∨ m.frame + size / 65536 ≤ g) → (e.extractLsb' 60 3).toNat < 4 → s.pinnedPage e = false →
      ∃ t, exec (.pageMigration m) s = .next t ∧ t.mem = Memory.write s.mem k (wordBytes (putField (putField e 60 (4 : BitVec 3)) 7 (0 : BitVec 9))) ∧
        t.cx = s.cx ∧ (∀ x ∈ t.tlbs, x.pte ≠ k) ∧
        t.moving = s.moving ++ [{ pte := k, old := s.leafKey ⟨k, size, e⟩ 0, size := size, frame := m.frame, tier := m.tier }]) ∧
    (s.moving.find? (·.pte == k) = none → e.getLsbD 63 = false ∨ (e.extractLsb' 60 3).toNat ≥ 4 ∨ s.pinnedPage e = true ∨
      3 ≤ m.tier ∨ (m.tier < 2 ∧ ∃ g ∈ s.retiredFrames, m.frame ≤ g ∧ g < m.frame + size / 65536) → exec (.pageMigration m) s = .next s) ∧
    ∀ x, s.moving.find? (·.pte == k) = some x →
      (x.tier ≠ m.tier → ∃ t, exec (.pageMigration m) s = .next t ∧ t.mem = s.mem ∧ (k, m.tier) ∈ t.migrations ∧ t.moving = s.moving) ∧
      (x.tier = m.tier → s.writesTo x.old x.size = true → exec (.pageMigration m) s = .next s) ∧
      (x.tier = m.tier → s.writesTo x.old x.size = false → ∃ t, exec (.pageMigration m) s = .next t ∧ (∀ y ∈ t.tlbs, y.pte ≠ k) ∧
        t.moving = s.moving.erase x ∧ t.migrations = s.migrations.erase (k, x.tier) ∧ ∃ e1 : Word,
          e1.extractLsb' 16 36 = BitVec.ofNat 36 x.frame ∧ (e1.extractLsb' 60 3).toNat = x.tier % 8 ∧
          t.mem = Memory.write (copyCells s.mem x.old (if x.tier = 2 then hostKey (x.frame * 65536) else devKey s.node (x.frame * 65536)) x.size) k
            (wordBytes e1))

/-- 10 R220, 26 R480, R481, R484, R485, 28 R506: an error is recorded in its bank, and a fatal one stops the package; a write of MCB_STATUS
clears what it names; benches go into and out of recess; the clock steps down where a limit is passed, and up after ten cool windows. Which
bank holds an address of memory is the model's (log entry 21). -/
def Obligations.ErrorEvents : Prop :=
  (∀ (s : State) (line : Nat) (bad : Bool) (synd : BitVec 16), s.injected (memoryBank (line * 128)) = false →
    (bad = false → exec (.patrolScrub line bad synd) s = .next s) ∧
    (bad = true → NoRecord s (memoryBank (line * 128)) → ∃ t, exec (.patrolScrub line bad synd) s = .next t ∧ t.mem = s.mem ∧
      lineOf (devKey s.node (line * 128)) ∈ t.poison ∧ Logged t (memoryBank (line * 128)) 2 0x73 synd ∧ t.fatal = s.fatal)) ∧
  (∀ (s : State) (synd : BitVec 16), NoRecord s 1810 → s.injected 1810 = false → ∃ t, exec (.hostLinkLoss true synd) s = .next t ∧
    Logged t 1810 3 0x78 synd ∧ t.fatal = true ∧ t.mem = s.mem ∧ t.cx = s.cx) ∧
  (∀ (s : State) (synd : BitVec 16), s.injected 1810 = false → ∃ t, exec (.hostLinkLoss false synd) s = .next t ∧ t.fatal = s.fatal ∧
    t.mem = s.mem ∧ Counted s t 1810) ∧
  (∀ (s : State) (link : Nat) (synd : BitVec 16), link < 8 → s.injected (1802 + link) = false → ∃ t,
    exec (.dieToDieLinkEvent link synd) s = .next t ∧ t.fatal = s.fatal ∧ t.mem = s.mem ∧ Counted s t (1802 + link)) ∧
  (∀ s : State, NoRecord s 1863 → s.injected 1863 = false → ∃ t, exec .lockstepMismatch s = .next t ∧ Logged t 1863 3 0x7C 0 ∧
    t.fatal = true ∧ t.mem = s.mem) ∧
  (∀ s : State, NoRecord s 1864 → s.injected 1864 = false → ∃ t, exec .securityBlockFault s = .next t ∧ Logged t 1864 3 0x7D 0 ∧
    t.fatal = true ∧ t.mem = s.mem) ∧
  (∀ (s : State) (synd : BitVec 16) (k : Fin 8), ∀ f ∈ [(Instr.hostLinkLoss true synd, 1810, (0x78 : BitVec 7), synd),
      (.hostLinkLoss false synd, 1810, 0x78, synd), (.lockstepMismatch, 1863, 0x7C, 0), (.securityBlockFault, 1864, 0x7D, 0),
      (.dieToDieLinkEvent k.val synd, 1802 + k.val, 0x77, synd)],
    NoRecord s f.2.1 → s.injected f.2.1 = true → ∃ t, exec f.1 s = .next t ∧ Logged t f.2.1 2 f.2.2.1 f.2.2.2 ∧ t.fatal = s.fatal ∧
      t.injected f.2.1 = false ∧ t.mem = s.mem) ∧
  (∀ (s : State) (bank : Nat) (w : Word), bank < 1866 → ∃ t, exec (.mcbStatusClear bank w) s = .next t ∧ t.mem = s.mem ∧
    let b := s.mcb bank
    let c := t.mcb bank
    c.status.extractLsb' 16 16 = w.extractLsb' 16 16 ∧ c.ctl = b.ctl ∧ c.status.getLsbD 62 = (b.status.getLsbD 62 && !w.getLsbD 62) ∧
      (w.getLsbD 63 = true → c.status.getLsbD 63 = false ∧ c.addr = 0 ∧ c.info = 0) ∧
      (w.getLsbD 63 = false → c.addr = b.addr ∧ c.info = b.info ∧ ∀ k, k < 16 ∨ 32 ≤ k → k ≠ 62 → c.status.getLsbD k = b.status.getLsbD k)) ∧
  (∀ (s : State) (n : Nat), n < 192 →
    let b := s.bench n
    (b.state = .inService → s.clusterRests n = false → ∃ t, exec (.recessStart n) s = .next t ∧ (t.bench n).state = .quiescing ∧ t.mem = s.mem) ∧
    (b.state = .inService ∨ b.state = .fenced → s.clusterRests n = true → exec (.recessStart n) s = .next s) ∧
    (b.state = .fenced → s.clusterRests n = false → ∃ t, exec (.recessStart n) s = .next t ∧ (t.bench n).state = .recess ∧ t.mem = s.mem) ∧
    (b.state = .quiescing → s.benchHolds n = true ∨ s.time ≤ b.asked → exec (.recessStart n) s = .next s) ∧
    (b.state = .quiescing → s.benchHolds n = false → b.asked < s.time → ∃ t, exec (.recessStart n) s = .next t ∧
      (t.bench n).state = (if b.toFence then .fenced else .recess) ∧ t.mem = s.mem) ∧
    (b.state = .recess → s.injected (1560 + n) = false → ∃ t, exec (.recessEnd n none) s = .next t ∧ (t.bench n).state = (if b.wasFenced then .fenced else .inService) ∧
      t.mem = s.mem ∧ Counted s t (1560 + n)) ∧
    (∀ x, b.state = .recess → NoRecord s (1560 + n) → ∃ t, exec (.recessEnd n (some x)) s = .next t ∧ (t.bench n).state = .fenced ∧
      t.mem = s.mem ∧ Logged t (1560 + n) 2 0x7B x) ∧
    (b.state = .recess → NoRecord s (1560 + n) → s.injected (1560 + n) = true → ∃ t, exec (.recessEnd n none) s = .next t ∧
      (t.bench n).state = .fenced ∧ t.mem = s.mem ∧ Logged t (1560 + n) 2 0x7B 0) ∧
    ∀ x, b.state ≠ .recess → exec (.recessEnd n x) s = .next s) ∧
  ∀ (s : State) (w c : Nat),
    (3400 < w ∨ 105 < c → s.clock < 4 → ∃ t, exec (.powerWindow w c) s = .next t ∧ t.clock = s.clock + 1 ∧ t.fatal = s.fatal ∧ t.mem = s.mem) ∧
    (3400 < w ∨ 105 < c → 4 ≤ s.clock → ∃ t, exec (.powerWindow w c) s = .next t ∧ t.fatal = true ∧ t.mem = s.mem) ∧
    (s.injected powerBank = false → w * 100 < 3400 * 95 → c * 100 < 105 * 95 → exec (.powerWindow w c) s = .next { s with coolWindows := s.coolWindows + 1 }) ∧
    (s.injected powerBank = false → w ≤ 3400 → c ≤ 105 → 3400 * 95 ≤ w * 100 ∨ 105 * 95 ≤ c * 100 → exec (.powerWindow w c) s = .next { s with coolWindows := 0 }) ∧
    (10 ≤ s.coolWindows → s.clock ≠ 0 → ∃ t, exec .clockStepUp s = .next t ∧ t.clock = s.clock - 1 ∧ t.coolWindows = 0 ∧ t.mem = s.mem) ∧
    (s.coolWindows < 10 ∨ s.clock = 0 → exec .clockStepUp s = .next s)

/-! ## Resets, firmware and debug (27 R487 to R493; 28 R497, R499) -/

/-- 28 R497, R499, 27 R487 to R490, R493: a reset leaves every context unbound and every byte of this node's memory as an unlisted one, and
a warm one keeps latched fatal records; the firmware switch changes the image alone; trace tails, samples and triggers act on their ring,
which takes nothing in host memory during debug hold (log entry 53); the clocks stop and start in debug hold alone. What a reset keeps
beside the rule's list is the model's (log entry 24). -/
def Obligations.ResetAndDebugEvents : Prop :=
  (∀ (s : State), ∀ f ∈ [(Instr.coldReset .ready, ([] : List Mcb)), (.warmReset .ready, (s.mcbs.filter Mcb.isFatal).map fun b =>
      { b with ctl := mcbCtlReset, status := b.status &&& ~~~(0xFFFF0000 : Word) })], ∃ t, exec f.1 s = .next t ∧
    t.cx = Ctx.reset ∧ t.others = [] ∧ t.mcbs = f.2 ∧ t.fatal = false ∧ t.booted = true ∧ t.keys = [] ∧
    (∀ p : Fin 6, t.portAt p.val = if s.unitServes 2 p.val then Port.reset else { Port.reset with state := .fenced }) ∧
    t.launches = [] ∧ t.dir = [] ∧ t.flights = [] ∧ t.benches.map (fun b => (b.num, b.features)) = s.benches.map (fun b => (b.num, b.features)) ∧
    t.traces = State.reset.traces ∧ t.triggers = State.reset.triggers ∧ t.tlbs = [] ∧
    t.clock = 0 ∧ t.stagedOk = false ∧ t.fwMonotonic = s.fwMonotonic ∧ t.hssUsed = s.hssUsed ∧ t.retiredFrames = s.retiredFrames ∧
    (∀ c ∈ t.mem, isHost c.1 = true ∨ keyNode c.1 ≠ s.node) ∧
    ∀ c, c ∈ t.mem ↔ c ∈ s.mem ∧ (isHost c.1 = true ∨ (isScratch c.1 = false ∧ keyNode c.1 ≠ s.node))) ∧
  (∀ (s : State), ∀ e ∈ [BootEnd.unverified, .untrained], ∀ i ∈ [Instr.coldReset e, .warmReset e],
    ∃ t, exec i s = .next t ∧ t.booted = false ∧ t.fatal = true ∧ t.cx = Ctx.reset) ∧
  (∀ (s : State),
    (s.stagedOk = true → s.quiescent = true → ∃ t, exec .firmwareSwitch s = .next t ∧ t.fwImage = s.staged ∧ t.stagedOk = false ∧
      t.fwCounter = Config.firmwareCounter s.staged ∧ t.cx = s.cx ∧ t.others = s.others ∧ t.mem = s.mem ∧ t.launches = s.launches) ∧
    (s.stagedOk = false ∨ s.quiescent = false → exec .firmwareSwitch s = .next s)) ∧
  (∀ (s : State) (r : Fin 16),
    let x := s.traces[r]
    let held : Bool := x.host && s.debugHold
    (x.en = true → x.shown ≠ x.tail → held = false → ∃ t, exec (.traceTailFlush r.val) s = .next t ∧
      t.mem = Memory.write s.mem (s.physKey x.host x.tailAddr) (leBytes 8 x.tail.toNat) ∧ t.traces[r] = { x with shown := x.tail }) ∧
    (x.en = false ∨ x.shown = x.tail ∨ held = true → exec (.traceTailFlush r.val) s = .next s)) ∧
  (∀ (s : State) (c : CtxRef) (x : Ctx) (p : Sampling), s.findCtx c = some x → s.samplings.find? (fun q => q.asid == x.asid) = some p →
    let r := s.traces[p.ring.toNat]'(by omega)
    let held : Bool := r.host && s.debugHold
    (x.life = .running → p.period ≠ 0 → x.cycle.toNat % p.period = 0 → x.sealed = false → r.en = true → (r.tail - r.head).toNat ≠ 2 ^ r.log2 →
      held = false →
      ∃ t, exec (.sample c) s = .next t ∧ t.cx = s.cx ∧ (t.traces[p.ring.toNat]'(by omega)) = { r with tail := r.tail + 1 } ∧
        t.mem = Memory.write s.mem (s.physKey r.host (r.base + 64 * (r.tail.toNat % 2 ^ r.log2))) (s.traceRecord x 3 x.pc)) ∧
    (x.life = .running → p.period ≠ 0 → x.cycle.toNat % p.period = 0 → x.sealed = false → r.en = true →
      (r.tail - r.head).toNat = 2 ^ r.log2 ∨ held = true →
      ∃ t, exec (.sample c) s = .next t ∧ t.mem = s.mem ∧ (t.traces[p.ring.toNat]'(by omega)).tail = r.tail ∧
        (t.traces[p.ring.toNat]'(by omega)).dropcnt.toNat = min (2 ^ 32 - 1) (r.dropcnt.toNat + 1)) ∧
    (x.life ≠ .running ∨ p.period = 0 ∨ x.cycle.toNat % p.period ≠ 0 ∨ x.sealed = true → exec (.sample c) s = .next s)) ∧
  (∀ (s : State) (n : Fin 8) (w : Word),
    let start := w.extractLsb' 58 3
    ∃ t, exec (.triggerArm n.val w) s = .next t ∧ t.cx = s.cx ∧
      (w.getLsbD 63 = false → t.triggers[n].state = .idle ∧ t.mem = s.mem) ∧
      (w.getLsbD 63 = true → start ≠ 0 → t.triggers[n].state = .armed ∧ t.mem = s.mem) ∧
      (w.getLsbD 63 = true → start = 0 → t.triggers[n].state = .tracing) ∧
      t.triggers[n].startk = start ∧ t.triggers[n].stopk = w.extractLsb' 55 3 ∧ t.triggers[n].brkpt = w.getLsbD 54 ∧
      t.triggers[n].ring = w.extractLsb' 50 4 ∧ t.triggers[n].tstart = s.triggers[n].tstart) ∧
  (∀ (s : State) (d : BitVec 5), (s.debugHold = true → exec (.freeze d) s = .next { s with frozen := s.frozen ||| d }) ∧
    (s.debugHold = false → exec (.freeze d) s = .next s) ∧ exec (.thaw d) s = .next { s with frozen := s.frozen &&& ~~~d }) ∧
  ∀ (s : State), (∃ t, exec .debugHoldEnter s = .next t ∧ t.debugHold = true ∧ t.mem = s.mem ∧ t.cx = s.cx ∧
      ∀ d ∈ t.lines, isHost (d.line * 128) = false) ∧
    (s.frozen = 0 → exec .debugHoldExit s = .next { s with debugHold := false }) ∧
    (s.frozen ≠ 0 → exec .debugHoldExit s = .next s)

/-! ## Management commands (28 R503 to R507) -/

/-- 28 R503, R504: a command event leaves an empty queue, a head whose completion word's page is absent (which waits: log entry 40) and a
head of another command; a head that names no command, or whose reserved bytes are not zero, is answered with CODE 1 and leaves the queue; a
head of its own is served, answered with its CODE and leaves the queue, or waits. CSRW of 0xC80 submits the 64 bytes at s[sa]. That CSR
0xC80 reads its block at once is the model's (log entry 10). -/
def Obligations.ManagementCommands : Prop :=
  (∀ (s : State), ∀ f ∈ commandEvents,
    (s.commands = [] → exec f.1 s = .next s) ∧
    ∀ c rest, s.commands = c :: rest →
      let s0 : State := { s with commands := rest }
      let code := (recNat c.block 0 2, recNat c.block 2 1)
      let bad : Prop := code ∉ commandCodes ∨ ∃ b ∈ (c.block.drop 3).take 5, b ≠ 0
      let waits : Bool := s.absent c.space (recWord c.block 8) 8 .store
      (waits = true → exec f.1 s = .next s) ∧
      (waits = false → bad → exec f.1 s = .next (s0.answerCommand c 1)) ∧
      (¬ bad → code ≠ f.2.1 → exec f.1 s = .next s) ∧
      (¬ bad → code = f.2.1 → f.2.2 s0 c.space c.block = none → exec f.1 s = .next s) ∧
      ∀ s1 n, waits = false → ¬ bad → code = f.2.1 → f.2.2 s0 c.space c.block = some (s1, n) → exec f.1 s = .next (s1.answerCommand c n)) ∧
  ∀ (o : SI) (s : State), csrNumber o = 0xC80 → Executes (.csrw o) s →
    (s.cx.priv = false → exec (.csrw o) s = .next (s.takeTrap (s.cuTrap 0x04))) ∧
    (s.cx.priv = true → (∀ f, s.access (some 0) (s.cx.sreg o.sa).toNat 64 .load true = .fail f → exec (.csrw o) s = .next (s.takeFail 0 s.cx.pc f)) ∧
      ∀ s1 gs, s.access (some 0) (s.cx.sreg o.sa).toNat 64 .load true = .ok s1 gs → segsPoisoned s1.poison gs = false →
        ∃ t, exec (.csrw o) s = .next t ∧ t.cx.pc = s.cx.pc + 8 ∧ t.mem = s1.mem ∧
          t.commands = s1.commands ++ [⟨readSegs s1.mem gs, s.cx.space⟩])

/-- 28 R503 to R507, 14 R309, 19 R384, R394, 21 R417, R420, 26 R477, 27 R488, R491: what each command does with a block of 64 bytes: the
entry that it writes or removes, and the CODE it answers. That a binding is busy while a launch that is not complete names it is the model's
(log entry 27). -/
def Obligations.CommandEffects : Prop :=
  ∀ (s : State) (sp : Space) (b : List Byte), b.length = 64 →
    (∀ s1 w key, keyArgsBad b = false → recZero b 32 32 = true → s.agentRead sp (recWord b 24) 40 = .ok (s1, w) → keyUnwrap Config.deviceKek w = some key →
      (recNat b 18 1 = 0 → serveKeyset s sp b = some (s1.putKey { slot := recNat b 16 2, key := key, stored := 0, live := true }, 0)) ∧
      (recNat b 18 1 = 1 → (s1.portAt (recNat b 16 2)).oldv = false → serveKeyset s sp b =
        some (s1.setPort (recNat b 16 2) ((s1.portAt (recNat b 16 2)).install (recNat b 19 1 == 1) key), 0))) ∧
    (keyArgsBad b = true → serveKeyset s sp b = some (s, 1) ∧ serveKeyerase s sp b = some (s, 1)) ∧
    (keyArgsBad b = false → recZero b 24 40 = true → recNat b 18 1 = 0 →
      (∀ k, s.keySlot (recNat b 16 2) = some k → k.live = true → serveKeyerase s sp b = some (s, 1)) ∧
      (∀ k, s.keySlot (recNat b 16 2) = some k → k.live = false →
        serveKeyerase s sp b = some ({ s with keys := s.keys.filter (·.slot != recNat b 16 2) }, 0))) ∧
    (toolArgsBad b = false → recNat b 18 1 = 0 → serveTool s sp b = some ({ s with tools := s.tools.filter (·.num != recNat b 16 2) }, 0)) ∧
    (toolArgsBad b = true → serveTool s sp b = some (s, 1)) ∧
    (recZero b 52 12 = true → recZero b 18 2 = true → recZero b 25 7 = true → recNat b 20 4 = 0 → serveHandler s sp b =
      some ({ s with handlers := s.handlers.filter (·.asid != BitVec.ofNat 16 (recNat b 16 2)) }, 0)) ∧
    (∀ h : recNat b 16 2 < 64, recZero b 18 6 = true → recZero b 56 8 = true → (recWord b 24).getLsbD 63 = false →
      ((∃ l ∈ s.launches, l.binding = some (recNat b 16 2)) → serveBinding s sp b = some (s, 2)) ∧
      ((∀ l ∈ s.launches, l.binding ≠ some (recNat b 16 2)) →
        serveBinding s sp b =
          some ((s.binding (recNat b 16 2)).stock.foldl State.retireName { s with standing := s.standing.set (recNat b 16 2) Standing.reset }, 0))) ∧
    (64 ≤ recNat b 16 2 → serveBinding s sp b = some (s, 1)) ∧
    (recZero b 24 40 = true → (s.launchOf (recWord b 16) = none → serveTerminate s sp b = some (s, 1)) ∧
      ∀ l, s.launchOf (recWord b 16) = some l → ∃ t, serveTerminate s sp b = some (t, 0)) ∧
    (∀ p, stopOf b = some p → (∃ t, serveStop s sp b = some (t, 0) ∧ p ∈ t.stops) ∧
      ∃ t, serveRelease s sp b = some (t, 0) ∧ p ∉ t.stops) ∧
    (stopOf b = none → serveStop s sp b = some (s, 1) ∧ serveRelease s sp b = some (s, 1)) ∧
    (recNat b 18 1 ≤ 15 → recZero b 19 5 = true → recZero b 32 32 = true → recNat b 24 8 = 0 → serveSample s sp b =
      some ({ s with samplings := s.samplings.filter (·.asid != BitVec.ofNat 16 (recNat b 16 2)) }, 0)) ∧
    (recNat b 24 4 % 64 = 0 → recNat b 24 4 ≤ 65536 → recNat b 32 1 ≤ 1 → recZero b 33 31 = true →
      recNat b 28 4 + recNat b 24 4 ≤ 2 ^ 23 → s.stagedOk = true → serveUpdate s sp b = some (s, 2)) ∧
    (recNat b 48 8 % 8 = 0 → recZero b 60 4 = true → Config.hssCapacity ≤ s.hssUsed → serveAttest s sp b = some (s, 3)) ∧
    (∀ s1 w, toolArgsBad b = false → recNat b 18 1 ≠ 0 → s.agentRead sp (recWord b 40) (16 * recNat b 36 2) = .ok (s1, w) →
      ((∀ x ∈ windowsOf w, windowOk x = true) → ∃ t, serveTool s sp b = some (t, 0) ∧ t.mem = s1.mem ∧ ∃ x ∈ t.tools, x.num = recNat b 16 2 ∧
        (∀ i, i < 16 → x.windows[i]? = some ((windowsOf w).getD i windowReset)) ∧ x.requests = [] ∧ x.tail = 0 ∧ x.space = sp) ∧
      ((∃ x ∈ windowsOf w, windowOk x = false) → serveTool s sp b = some (s, 1))) ∧
    (recNat b 20 1 = 0 → recZero b 21 3 = true → recNat b 24 8 % 65536 = 0 → recNat b 40 2 ≤ 319 ∨ recNat b 40 2 = 0xFFFF →
      recZero b 42 22 = true → ∃ t, serveAdapter s sp b = some (t, 0) ∧ t.mem = s.mem ∧
        t.adapters.head? = some ⟨BitVec.ofNat 32 (recNat b 16 4), recNat b 24 8, recNat b 32 8, recNat b 40 2⟩) ∧
    (recZero b 18 2 = true → recZero b 25 7 = true → recZero b 52 12 = true → recNat b 20 4 ≠ 0 → recNat b 24 1 ≤ 63 → recNat b 32 8 % 8 = 0 →
      recNat b 40 8 % 64 = 0 → powerOfTwo (recNat b 48 4) 16 (2 ^ 16) = true → ∃ t, serveHandler s sp b = some (t, 0) ∧ t.mem = s.mem ∧
        ∃ h ∈ t.handlers, h.asid = BitVec.ofNat 16 (recNat b 16 2) ∧ h.cohort = BitVec.ofNat 32 (recNat b 20 4) ∧ h.member = recNat b 24 1 ∧
          h.address = recWord b 32 ∧ h.ring = recWord b 40 ∧ h.slots = recNat b 48 4) ∧
    (recNat b 16 2 < 64 → recZero b 18 6 = true → recZero b 56 8 = true → (recWord b 24).getLsbD 63 = true →
      ((recWord b 24).extractLsb' 50 6).toNat ≤ 23 → 1 ≤ ((recWord b 24).extractLsb' 42 7).toNat → ((recWord b 24).extractLsb' 42 7).toNat ≤ 64 →
      ∃ t, serveBinding s sp b = some (t, 0) ∧ t.mem = s.mem ∧ (t.binding (recNat b 16 2)).w0 = bindingWord0 (recWord b 24) ∧
        (t.binding (recNat b 16 2)).w2 = recWord b 40 ∧ (t.binding (recNat b 16 2)).stock = (s.binding (recNat b 16 2)).stock) ∧
    (recNat b 18 1 ≤ 15 → recZero b 19 5 = true → recZero b 32 32 = true → powerOfTwo (recNat b 24 8) 1024 (2 ^ 32) = true → recNat b 24 8 ≠ 0 →
      ∃ t, serveSample s sp b = some (t, 0) ∧ t.mem = s.mem ∧
        (⟨BitVec.ofNat 16 (recNat b 16 2), BitVec.ofNat 4 (recNat b 18 1), recNat b 24 8⟩ : Sampling) ∈ t.samplings) ∧
    (recNat b 16 1 = 0 → recZero b 18 2 = true → recZero b 24 40 = true → recNat b 20 4 < 192 →
      let n := recNat b 20 4
      ((s.bench n).state = .inService → recNat b 17 1 = 0 →
        serveService s sp b = some (s.setBench { s.bench n with state := .quiescing, toFence := true, asked := s.time }, 0)) ∧
      ((s.bench n).state = .fenced → recNat b 17 1 = 3 → serveService s sp b = some (s.setBench { s.bench n with state := .retired }, 0)) ∧
      ((s.bench n).state = .fenced → (s.bench n).passed = false → recNat b 17 1 = 2 → serveService s sp b = some (s, 1))) ∧
    (∀ s1 bs, recNat b 24 4 % 64 = 0 → recNat b 24 4 ≤ 65536 → recNat b 32 1 = 0 → recZero b 33 31 = true →
      recNat b 28 4 + recNat b 24 4 ≤ 2 ^ 23 → s.stagedOk = false → s.agentRead sp (recWord b 16) (recNat b 24 4) = .ok (s1, bs) →
      serveUpdate s sp b = some ({ s1 with staged := stageAt s.staged (recNat b 28 4) bs }, 0)) ∧
    ∀ s1, recNat b 48 8 % 8 = 0 → recZero b 60 4 = true → s.hssUsed < Config.hssCapacity →
      let r := s.report ((b.drop 16).take 32)
      let bs := r ++ Config.hssSignature s.hssUsed r
      bs.length ≤ recNat b 56 4 → ({ s with hssUsed := s.hssUsed + 1 } : State).agentWrite sp (recWord b 48) bs = .ok s1 →
        serveAttest s sp b = some (s1, 0)

/-- 28 R503, 23 R449, 21 R420, R426, 26 R480, 27 R487, R489, R492: what the host reads at the offsets of the register window, which changes
nothing: PSTAT's fields, the descriptors' and banks' words, the mailbox's block, zero at an offset that no area names, and zero for a sealed
context's dump; of the capability list its length, BOOTOK and the bench masks, whose places are the model's (log entry 29). -/
def Obligations.RegisterWindow : Prop :=
  ∀ (s : State) (d : Option CtxRef),
    (∀ n : Fin 6,
      let p := s.portAt n.val
      let w := s.windowRead d (0x23000 + 8 * n.val)
      (w.extractLsb' 61 3).toNat = p.state.code ∧ w.extractLsb' 59 2 = p.width ∧ w.extractLsb' 57 2 = p.lanesel ∧ w.getLsbD 56 = p.kp ∧
        w.getLsbD 55 = p.oldv ∧ w.getLsbD 54 = p.keyed ∧ w.extractLsb' 48 6 = 0 ∧ w.extractLsb' 32 16 = p.failmask ∧
        w.extractLsb' 24 8 = 0 ∧ (w.extractLsb' 0 24).toNat = p.ack % 2 ^ 24) ∧
    (∀ b, b < 1866 → ∀ k : Fin 4, s.windowRead d (0x100000 + 32 * b + 8 * k.val) = (s.mcb b).word k.val) ∧
    (∀ (r : Fin 16) (k : Fin 4), s.windowRead d (0x20000 + 32 * r.val + 8 * k.val) = (s.hostRing r.val).word k.val ∧
      s.windowRead d (0x21000 + 32 * r.val + 8 * k.val) = s.traces[r].word k.val) ∧
    (∀ (n : Fin 8) (k : Fin 4), s.windowRead d (0x22000 + 32 * n.val + 8 * k.val) = s.triggers[n].word k.val) ∧
    (∀ (n : Fin 64) (k : Fin 4), s.windowRead d (0x24000 + 32 * n.val + 8 * k.val) = s.bindingWord n.val k.val) ∧
    (∀ off, (0x10080 ≤ off ∧ off < 0x20000) ∨ (0x23030 ≤ off ∧ off < 0x24000) ∨ (0x24800 ≤ off ∧ off < 0x100000) ∨ 0x300000 ≤ off →
      s.windowRead d off = 0) ∧
    (s.windowRead d 8 = (if s.booted then 1 else 0) ∧ (∀ n : Fin 192, s.windowRead d (8 * (13 + n.val)) = (s.bench n.val).features) ∧
      ∀ off, 0x6C8 ≤ off → off < 0x10000 → s.windowRead d off = 0) ∧
    ∀ r c off, d = some r → s.findCtx r = some c → c.sealed = true → 0x200000 ≤ off → off < 0x300000 → s.windowRead d off = 0

/-! ## Reset and steps (03 R57 to R66; 05 R91) -/

/-- 02 R46, 03 R57, R59, R61, R64 to R66, 10 R227, 23 R449, 21 R420, R426, 27 R487, R489: the values that the layouts of the manual give for
reset, read as software reads them, memory lists nothing, and no context is bound. -/
def Obligations.ResetValues : Prop :=
  let s := State.reset
  s.csr 0x000 = some 0 ∧ s.csr 0x001 = some 0 ∧ s.csr 0x002 = some 0 ∧ s.csr 0x004 = some 0x2020602040 ∧ s.csr 0x005 = some 0x10000 ∧
    (∀ h : Fin 16, s.csr (0x300 + 2 * h.val) = some 0x8008FFFF0100 ∧ s.csr (0x301 + 2 * h.val) = some 0x100) ∧
    (∀ t : Fin 64, s.csr (0x400 + 4 * t.val) = some 0 ∧ s.csr (0x401 + 4 * t.val) = some 0 ∧
      s.csr (0x402 + 4 * t.val) = some 0x8008FFFF0100 ∧ s.csr (0x403 + 4 * t.val) = some 0x100) ∧
    (∀ v : Fin 64, s.csr (0x200 + v.val) = some 0) ∧ (∀ b : Fin 4, s.csr (0x240 + b.val) = some 0) ∧ s.cx.accstat.word = 0 ∧
    (∀ p : Fin 6, s.windowRead none (0x23000 + 8 * p.val) = 0x1800000000000000) ∧
    (∀ r : Fin 16, (s.hostRing r.val).word 0 = 0 ∧ (s.hostRing r.val).word 1 = 0x4000000000000000 ∧ (s.hostRing r.val).word 2 = 0 ∧
      (s.hostRing r.val).word 3 = 0x100000000 ∧ s.traces[r].word 0 = 0 ∧ s.traces[r].word 1 = 0x4000000000000000 ∧ s.traces[r].word 2 = 0 ∧
      s.traces[r].word 3 = 0) ∧
    (∀ n : Fin 8, s.triggers[n].word 0 = 0) ∧ (∀ n : Fin 64, ∀ k : Fin 4, s.bindingWord n.val k.val = 0) ∧
    s.mem = [] ∧ s.cx.life = .unbound ∧ s.others = []

/-- 05 R91, 02 R40, 26 R484, 27 R493: a context that may take a turn, has no trap that waits and fetches a word that decodes to an
instruction meets that instruction, and a word that does not decode traps; the turns of a cycle are exec of what each context meets, in
order, each followed by the engines of its core; a step whose agenda is empty and whose package is not stopped is those turns, from the
state whose matrix levels have taken the steps due, and the rest of the cycle around them, and for the one context that runs it is exec of
its instruction. An event that is due is executed alone, and is lost where its agent's clock domain is frozen. The order of the contexts and
the cycle around the turns are the model's (log entry 4). -/
def Obligations.StepRunsDecoded : Prop :=
  (∀ (s s1 : State) (w : Word), s.mayRun s.cx = true → s.cx.after = [] → s.cx.portHolds = false → s.fetch = .ok (s1, w) →
    (decode w = none → s.meet = .none (s1.badWord w)) ∧ ∀ i, decode w = some i → s1.mismatchCu i = false → s.meet = .run i s1) ∧
  (∀ (s snap : State) (who : List CtxRef) (r : CtxRef) (rest : List CtxRef),
    (who.contains r = false ∨ s.focus r = none → takeTurns snap who (r :: rest) s = takeTurns snap who rest (snap.engines s r)) ∧
    ∀ s1 s2, who.contains r = true → s.focus r = some s1 →
      (s1.meet = .none s2 → takeTurns snap who (r :: rest) s = takeTurns snap who rest (snap.engines s2 r)) ∧
      ∀ i, s1.meet = .run i s2 →
        (∀ t, exec i s2 = .next t → takeTurns snap who (r :: rest) s = takeTurns snap who rest (snap.engines t r)) ∧
        (∀ f, exec i s2 = .fault f → takeTurns snap who (r :: rest) s = .fault f) ∧
        ∀ x, exec i s2 = .refused x → takeTurns snap who (r :: rest) s = .refused x) ∧
  (∀ (s : State), s.agenda = [] → s.fatal = false →
    (∀ t, s.turnsTaken = .next t → step s = .next (t.around s.turnOrder.1)) ∧
    (∀ f, s.turnsTaken = .fault f → step s = .fault f) ∧ ∀ x, s.turnsTaken = .refused x → step s = .refused x) ∧
  (∀ (s s1 : State) (w : Word) (i : Instr), s.agenda = [] → s.fatal = false → s.turns = [] → s.others = [] → s.mayRun s.cx = true →
    s.cx.after = [] → s.cx.portHolds = false → s.runLevels.fetch = .ok (s1, w) → decode w = some i → s1.mismatchCu i = false →
    (∀ t, exec i s1 = .next t → step s = .next ((s.runLevels.engines t s.cx.ref).around s.runLevels)) ∧
      (∀ f, exec i s1 = .fault f → step s = .fault f) ∧ ∀ x, exec i s1 = .refused x → step s = .refused x) ∧
  (∀ (s : State) (i : Instr) (rest : List (Nat × Instr)), s.agenda = (0, i) :: rest → isEvent i = true →
    (s.standsStill i = true → step s = .next { s with agenda := rest }) ∧
    (s.standsStill i = false → s.fatal = false → step s = exec i { s with agenda := rest })) ∧
  ∀ (s : State), s.agenda = [] → s.fatal = true → step s = .fault .fatalMachineCheck

/-- 12 R248, log entry 2: a step keeps the canonical form of memory: addresses rise strictly and no listed byte equals what an unlisted one
reads as. -/
def Obligations.StepKeepsMemory : Prop := ∀ s t : State, Inv s → step s = .next t → Inv t

/-- 12 R248, log entry 2: the invariant of StepKeepsMemory holds after reset. -/
def Obligations.InvAtReset : Prop := Inv State.reset
end

