-- ==== Sys2Proof/Laws/Memory.lean ====
section
/-! SUPPORT. Memory as a canonical list: every operation keeps the canonical form, a read after a write gives what was written, and a
write leaves every other byte alone. -/

namespace Sys2Proof.Machine

/-! ## Canonical form -/

/-- The bound below the addresses of a canonical list can be lowered. -/
theorem Memory.wfAbove_mono {lo lo' : Option Nat} {m : List Host.Cell} (h : ∀ a, (∀ l, lo = some l → l < a) → ∀ l, lo' = some l → l < a)
    (w : Memory.wfAbove lo m = true) : Memory.wfAbove lo' m = true := by
  cases m with
  | nil => rfl
  | cons c r =>
    obtain ⟨a, b⟩ := c
    simp only [Memory.wfAbove, Bool.and_eq_true] at w ⊢
    refine ⟨⟨?_, w.1.2⟩, w.2⟩
    cases hl : lo' with
    | none => rfl
    | some l =>
      have : l < a := h a (fun k hk => by simpa [hk] using w.1.1) l hl
      simpa using this

/-- A write of one byte keeps every address above a bound that lies below it. -/
theorem Memory.wfAbove_set (m : List Host.Cell) (k : Nat) (v : Byte) :
    ∀ lo : Option Nat, (∀ l, lo = some l → l < k) → Memory.wfAbove lo m = true → Memory.wfAbove lo (Memory.set m k v) = true := by
  induction m with
  | nil =>
    intro lo hk _
    unfold Memory.set
    split
    · rfl
    · cases lo with
      | none => simpa [Memory.wfAbove] using ‹_›
      | some l => simp_all [Memory.wfAbove]
  | cons c r ih =>
    obtain ⟨a, b⟩ := c
    intro lo hk w
    have w' := w
    simp only [Memory.wfAbove, Bool.and_eq_true] at w
    unfold Memory.set
    split
    · rename_i lt
      split
      · exact w'
      · rename_i nb
        simp only [Memory.wfAbove, Bool.and_eq_true, bne_iff_ne, ne_eq, decide_eq_true_eq] at w ⊢
        refine ⟨⟨?_, nb⟩, ⟨lt, w.1.2⟩, w.2⟩
        cases lo with
        | none => rfl
        | some l => simpa using hk l rfl
    · split
      · rename_i ge eq
        subst eq
        split
        · exact Memory.wfAbove_mono (fun x hx l hl => Nat.lt_trans (hk l hl) (hx k rfl)) w.2
        · rename_i nb
          simp only [Memory.wfAbove, Bool.and_eq_true, bne_iff_ne, ne_eq] at w ⊢
          exact ⟨⟨w.1.1, nb⟩, w.2⟩
      · rename_i ge ne
        simp only [Memory.wfAbove, Bool.and_eq_true]
        exact ⟨w.1, ih (some a) (by intro l hl; cases hl; omega) w.2⟩

/-- A write of one byte keeps the canonical form. -/
theorem Memory.wf_set {m : List Host.Cell} (k : Nat) (v : Byte) (h : Memory.wf m = true) : Memory.wf (Memory.set m k v) = true :=
  Memory.wfAbove_set m k v none (by simp) h

/-- A write of bytes keeps the canonical form. -/
theorem Memory.wf_write {m : List Host.Cell} (k : Nat) (bs : List Byte) (h : Memory.wf m = true) :
    Memory.wf (Memory.write m k bs) = true := by
  induction bs generalizing m k with
  | nil => exact h
  | cons b bs ih => exact ih (k + 1) (Memory.wf_set k b h)

/-- A write over runs keeps the canonical form. -/
theorem writeSegs_wf {m : List Host.Cell} (gs : List Seg) (bs : List Byte) (h : Memory.wf m = true) : Memory.wf (writeSegs m gs bs) = true := by
  induction gs generalizing m bs with
  | nil => exact h
  | cons g r ih => exact ih (bs.drop g.2) (Memory.wf_write g.1 _ h)

/-! ## Reads after writes -/

/-- Below every address of the list a byte is that of an unlisted address. -/
theorem Memory.get_below {m : List Host.Cell} {a k : Nat} (h : Memory.wfAbove (some a) m = true) (hk : k ≤ a) : Memory.get m k = Memory.blank := by
  cases m with
  | nil => rfl
  | cons c r =>
    obtain ⟨x, b⟩ := c
    simp only [Memory.wfAbove, Bool.and_eq_true, decide_eq_true_eq] at h
    unfold Memory.get
    rw [if_neg (by omega), if_pos (by omega)]

/-- A byte that has been written reads as written. -/
theorem Memory.get_set_same {m : List Host.Cell} (k : Nat) (v : Byte) (h : Memory.wf m = true) : Memory.get (Memory.set m k v) k = v := by
  have key : ∀ (m : List Host.Cell) (lo : Option Nat), Memory.wfAbove lo m = true → Memory.get (Memory.set m k v) k = v := by
    intro m
    induction m with
    | nil => intro _ _; unfold Memory.set; split <;> simp_all [Memory.get]
    | cons c r ih =>
      obtain ⟨a, b⟩ := c
      intro lo w
      simp only [Memory.wfAbove, Bool.and_eq_true] at w
      unfold Memory.set
      split
      · split
        · unfold Memory.get; rw [if_neg (by omega), if_pos (by assumption)]; exact Eq.symm ‹_›
        · simp [Memory.get]
      · split
        · rename_i eq
          subst eq
          split
          · rw [Memory.get_below w.2 (Nat.le_refl _)]; exact Eq.symm ‹_›
          · simp [Memory.get]
        · unfold Memory.get
          rw [if_neg (by omega), if_neg (by omega)]
          exact ih (some a) w.2
  exact key m none h

/-- A byte that has not been written reads as before. -/
theorem Memory.get_set_other {m : List Host.Cell} {k j : Nat} (v : Byte) (h : Memory.wf m = true) (hj : j ≠ k) :
    Memory.get (Memory.set m k v) j = Memory.get m j := by
  have key : ∀ (m : List Host.Cell) (lo : Option Nat), Memory.wfAbove lo m = true → Memory.get (Memory.set m k v) j = Memory.get m j := by
    intro m
    induction m with
    | nil =>
      intro _ _
      unfold Memory.set
      split
      · rfl
      · simp only [Memory.get]; rw [if_neg (Ne.symm hj)]; split <;> rfl
    | cons c r ih =>
      obtain ⟨a, b⟩ := c
      intro lo w
      simp only [Memory.wfAbove, Bool.and_eq_true] at w
      unfold Memory.set
      split
      · split
        · rfl
        · rw [Memory.get, if_neg (Ne.symm hj)]
          split
          · rw [Memory.get, if_neg (by omega), if_pos (by omega)]
          · rfl
      · split
        · rename_i eq
          subst eq
          split
          · rw [Memory.get, if_neg (Ne.symm hj)]
            split
            · exact Memory.get_below w.2 (by omega)
            · rfl
          · simp only [Memory.get, if_neg (Ne.symm hj)]
        · simp only [Memory.get]
          rw [ih (some a) w.2]
  exact key m none h

/-- A byte outside a written range reads as before. -/
theorem Memory.get_write_other {m : List Host.Cell} {k j : Nat} (bs : List Byte) (h : Memory.wf m = true)
    (hj : j < k ∨ k + bs.length ≤ j) : Memory.get (Memory.write m k bs) j = Memory.get m j := by
  induction bs generalizing m k with
  | nil => rfl
  | cons b bs ih =>
    simp only [List.length_cons] at hj
    rw [Memory.write, ih (Memory.wf_set k b h) (by omega), Memory.get_set_other b h (by omega)]

/-- A byte inside a written range reads as written. -/
theorem Memory.get_write_within {m : List Host.Cell} {k : Nat} (bs : List Byte) (h : Memory.wf m = true) (i : Nat) (hi : i < bs.length) :
    Memory.get (Memory.write m k bs) (k + i) = bs[i] := by
  induction bs generalizing m k i with
  | nil => exact absurd hi (by simp)
  | cons b bs ih =>
    cases i with
    | zero =>
      exact (Memory.get_write_other bs (Memory.wf_set k b h) (.inl (Nat.lt_succ_self k))).trans (Memory.get_set_same k b h)
    | succ i =>
      have := ih (k := k + 1) (Memory.wf_set k b h) i (by simpa using hi)
      rw [Memory.write, show k + (i + 1) = k + 1 + i by omega, this]; rfl

/-- A range reads as it was written. -/
theorem Memory.read_write (m : List Host.Cell) (k : Nat) (bs : List Byte) (h : Memory.wf m = true) :
    Memory.read (Memory.write m k bs) k bs.length = bs := by
  have get : ∀ (m : List Host.Cell) (k n : Nat), Memory.read m k n = (List.range n).map fun i => Memory.get m (k + i) := by
    intro m k n
    induction n generalizing k with
    | zero => rfl
    | succ n ih =>
      rw [Memory.read, ih, List.range_succ_eq_map]
      simp only [List.map_cons, List.map_map, Nat.add_zero, List.cons.injEq, true_and]
      exact List.map_congr_left fun i _ => by simp only [Function.comp]; congr 1; omega
  rw [get]
  refine List.ext_getElem (by simp) fun i h1 h2 => ?_
  simp [Memory.get_write_within bs h i h2]

/-- Two canonical lists that read the same everywhere above a bound are the same data. -/
theorem Memory.ext_of_get {m n : List Host.Cell} {lo : Option Nat} (hm : Memory.wfAbove lo m = true) (hn : Memory.wfAbove lo n = true)
    (h : ∀ k, Memory.get m k = Memory.get n k) : m = n := by
  induction m generalizing n lo with
  | nil =>
    cases n with
    | nil => rfl
    | cons d t =>
      obtain ⟨a, b⟩ := d
      simp only [Memory.wfAbove, Bool.and_eq_true, bne_iff_ne] at hn
      exact absurd (by simpa [Memory.get] using (h a).symm) hn.1.2
  | cons c r ih =>
    obtain ⟨a, b⟩ := c
    have hm' := hm
    simp only [Memory.wfAbove, Bool.and_eq_true, bne_iff_ne] at hm
    cases n with
    | nil => exact absurd (by simpa [Memory.get] using h a) hm.1.2
    | cons d t =>
      obtain ⟨x, y⟩ := d
      have hn' := hn
      simp only [Memory.wfAbove, Bool.and_eq_true, bne_iff_ne] at hn
      have hax : a = x := by
        have h1 := h a
        have h2 := h x
        by_contra ne
        rcases Nat.lt_or_gt_of_ne ne with lt | gt
        · simp only [Memory.get, if_true, if_neg (Ne.symm ne), if_pos lt] at h1
          exact hm.1.2 h1
        · simp only [Memory.get, if_true, if_neg ne, if_pos gt] at h2
          exact hn.1.2 h2.symm
      subst hax
      have hby : b = y := by simpa [Memory.get] using h a
      subst hby
      congr 1
      refine ih hm.2 hn.2 fun k => ?_
      by_cases hk : k ≤ a
      · rw [Memory.get_below hm.2 hk, Memory.get_below hn.2 hk]
      · have := h k
        simpa only [Memory.get, if_neg (show ¬ a = k by omega), if_neg (show ¬ k < a by omega)] using this

/-- Canonical memories that read the same are the same data. -/
theorem Memory.ext {m n : List Host.Cell} (hm : Memory.wf m = true) (hn : Memory.wf n = true) (h : ∀ k, Memory.get m k = Memory.get n k) :
    m = n := Memory.ext_of_get hm hn h

/-! ## Little-endian numbers -/

@[simp] theorem leBytes_length (n x : Nat) : (leBytes n x).length = n := by
  induction n generalizing x with
  | zero => rfl
  | succ n ih => simp [leBytes, ih]

theorem leNat_leBytes (n x : Nat) : leNat (leBytes n x) = x % 256 ^ n := by
  induction n generalizing x with
  | zero => simp [leBytes, leNat, Nat.mod_one]
  | succ n ih =>
    simp only [leBytes, leNat, ih, BitVec.toNat_ofNat]
    rw [show 256 ^ (n + 1) = 256 * 256 ^ n by rw [Nat.pow_succ, Nat.mul_comm], Nat.mod_mul]

@[simp] theorem wordBytes_length (x : Word) : (wordBytes x).length = 8 := by simp [wordBytes]

end Sys2Proof.Machine
end

