-- ==== Sys2Proof/Laws/Image.lean ====
section
/-! SUPPORT. The sizes of a context image's parts (14 R304, R305). -/

namespace Sys2Proof.Machine

theorem length_flatMap_const {α : Type} (l : List α) (f : α → List Byte) (n : Nat) (h : ∀ x, (f x).length = n) :
    (l.flatMap f).length = l.length * n := by
  induction l with
  | nil => simp
  | cons a l ih => simp [ih, h, Nat.add_mul, Nat.add_comm]

@[simp] theorem Shape.bytes_length (x : Shape) : x.bytes.length = 16 := by simp [Shape.bytes]
@[simp] theorem Unfold.bytes_length (x : Unfold) : x.bytes.length = 16 := by simp [Unfold.bytes]
@[simp] theorem Ctx.queueSnap_length (c : Ctx) (q : Queue) : (c.queueSnap q).length = 16 := by simp [Ctx.queueSnap]

@[simp] theorem Ctx.trapSummary_length (c : Ctx) : c.trapSummary.length = 16 := by
  unfold Ctx.trapSummary
  split <;> simp

/-- Bytes 256 to 16,383 of the image, where the queue half has its 8,192. -/
theorem Ctx.imageRegs_length (c : Ctx) (pc : Word) (h : c.queueHalf.length = 8192) : (c.imageRegs pc).length = 16128 := by
  have hs := length_flatMap_const (List.range 32) (fun n => wordBytes (c.sreg (BitVec.ofNat 5 n))) 8 fun _ => wordBytes_length _
  have hh := length_flatMap_const c.h.toList Shape.bytes 16 Shape.bytes_length
  have hf := length_flatMap_const c.f.toList Unfold.bytes 16 Unfold.bytes_length
  have ht := length_flatMap_const c.t.toList (fun t => wordBytes t.word0 ++ wordBytes t.word1 ++ t.shape.bytes) 32 fun _ => by simp
  have hd := length_flatMap_const (List.range 64) (fun n => wordBytes (c.holdWord (BitVec.ofNat 6 n))) 8 fun _ => wordBytes_length _
  have hq := length_flatMap_const allQueues c.queueSnap 16 c.queueSnap_length
  have hm := length_flatMap_const (List.range 8) (fun n => leBytes 512 (c.mreg (BitVec.ofNat 3 n)).toNat) 512 fun _ => leBytes_length _ _
  have hb : c.bells.toList.tail.length = 31 := by simp
  have hz : allQueues.length = 5 := rfl
  unfold Ctx.imageRegs
  simp only [List.length_append]
  rw [hs, hh, hf, ht, hd, hq, hm, h]
  simp only [hb, hz, leBytes_length, wordBytes_length, Ctx.trapSummary_length,
    List.length_cons, List.length_nil, List.length_map, List.length_range, List.length_replicate, Vector.length_toList]

/-- The body of an unsealed context without accumulators, scratchpad or basin entries. -/
theorem State.imageBody_length (s : State) (c : Ctx) (h : c.queueHalf.length = 8192) (ha : c.hasAcc = false) (hb : c.abext = 0) (hw : c.wbext = 0)
    (hp : c.vprev = []) (hn : c.vnext = []) : (s.imageBody c []).length = 163584 := by
  have hv := length_flatMap_const c.v.toList (fun v => leBytes 2048 v.toNat) 2048 fun _ => leBytes_length _ _
  have hr (k : Nat) : (Memory.read s.mem k 0).length = 0 := rfl
  simp only [State.imageBody, List.length_append, hv, hb, hw, hr, ha, hp, hn, c.imageRegs_length _ h, Vector.length_toList, List.flatMap_nil, chanBytes,
    List.length_nil, List.length_replicate]
  rfl

end Sys2Proof.Machine
end

