-- ==== Sys2Proof/Laws/State.lean ====
section
/-! SUPPORT. What each update of a context or of the package changes and what it keeps: for every update one lemma that gives the whole
record after it, from which every other field follows, and one for each value read back. -/

namespace Sys2Proof.Machine

/-! ## Scalar registers -/

theorem Ctx.setSreg_eq (c : Ctx) (n : BitVec 5) (x : Word) :
    c.setSreg n x = { c with s := if n == 0 then c.s else c.s.set n.toNat x (by omega) } := by
  unfold Ctx.setSreg; split <;> simp_all

@[simp] theorem Ctx.sreg_zero (c : Ctx) : c.sreg 0 = 0 := rfl

@[simp] theorem Ctx.setSreg_zero (c : Ctx) (x : Word) : c.setSreg 0 x = c := rfl

@[simp] theorem Ctx.sreg_setSreg_same (c : Ctx) (n : BitVec 5) (x : Word) : (c.setSreg n x).sreg n = if n == 0 then 0 else x := by
  unfold Ctx.sreg Ctx.setSreg; split <;> simp_all

theorem Ctx.sreg_setSreg_other (c : Ctx) {n k : BitVec 5} (x : Word) (h : k ≠ n) : (c.setSreg n x).sreg k = c.sreg k := by
  have : k.toNat ≠ n.toNat := fun e => h (BitVec.eq_of_toNat_eq e)
  unfold Ctx.sreg Ctx.setSreg
  split
  · rfl
  · split
    · rfl
    · simp [Ne.symm this]

/-! ## Predicates -/

theorem Ctx.setPreg_eq (c : Ctx) (n : BitVec 3) (b : Bool) :
    c.setPreg n b = { c with p := if n == 0 then c.p else c.p.set (c.physP n).toNat b (by omega) } := by
  unfold Ctx.setPreg; split <;> simp_all

@[simp] theorem Ctx.preg_zero (c : Ctx) : c.preg 0 = true := rfl

@[simp] theorem Ctx.setPreg_zero (c : Ctx) (b : Bool) : c.setPreg 0 b = c := rfl

@[simp] theorem Ctx.guard_none (c : Ctx) : c.guard 0 false = true := rfl

@[simp] theorem Ctx.guard_never (c : Ctx) : c.guard 0 true = false := rfl

/-! ## Vector registers, masks, shapes, tiles and holds -/

@[simp] theorem Ctx.mreg_zero (c : Ctx) : c.mreg 0 = BitVec.allOnes 4096 := rfl

@[simp] theorem Ctx.setM_zero (c : Ctx) (x : Mask) : c.setM 0 x = c := rfl

theorem Ctx.setM_eq (c : Ctx) (n : BitVec 3) (x : Mask) :
    c.setM n x = { c with m := if n == 0 then c.m else c.m.set n.toNat x (by omega) } := by
  unfold Ctx.setM; split <;> simp_all

@[simp] theorem Ctx.vreg_setV (c : Ctx) (n : BitVec 6) (x : VReg) (t : BitVec 4) : (c.setV n x t).vreg n = x := by
  simp [Ctx.vreg, Ctx.setV]

@[simp] theorem Ctx.vtag_setV (c : Ctx) (n : BitVec 6) (x : VReg) (t : BitVec 4) : (c.setV n x t).vtag n = t := by
  simp [Ctx.vtag, Ctx.setV]

@[simp] theorem Ctx.shape_setShape (c : Ctx) (n : BitVec 4) (x : Shape) : (c.setShape n x).shape n = x := by
  simp [Ctx.shape, Ctx.setShape]

@[simp] theorem Ctx.tile_modTile (c : Ctx) (n : BitVec 6) (f : Tile → Tile) : (c.modTile n f).tile n = f (c.tile n) := by
  simp [Ctx.tile, Ctx.modTile]

@[simp] theorem Ctx.hold_modHold (c : Ctx) (n : BitVec 6) (f : Hold → Hold) : (c.modHold n f).hold n = f (c.hold n) := by
  simp [Ctx.hold, Ctx.modHold]

theorem Ctx.tile_modTile_other (c : Ctx) {n k : BitVec 6} (f : Tile → Tile) (h : k ≠ n) : (c.modTile n f).tile k = c.tile k := by
  have : n.toNat ≠ k.toNat := fun e => h (BitVec.eq_of_toNat_eq e.symm)
  simp [Ctx.tile, Ctx.modTile, this]

theorem Ctx.hold_modHold_other (c : Ctx) {n k : BitVec 6} (f : Hold → Hold) (h : k ≠ n) : (c.modHold n f).hold k = c.hold k := by
  have : n.toNat ≠ k.toNat := fun e => h (BitVec.eq_of_toNat_eq e.symm)
  simp [Ctx.hold, Ctx.modHold, this]

/-! ## Bells -/

theorem Ctx.ring_eq (c : Ctx) (b : BitVec 5) : c.ring b = { c with rung := if b == 0 then c.rung else b :: c.rung } := by
  unfold Ctx.ring; split <;> simp_all

theorem Ctx.take_eq (c : Ctx) (b : BitVec 5) :
    c.take b = { c with bells := if b == 0 then c.bells else c.bells.set b.toNat (c.bell b - 1) (by omega) } := by
  unfold Ctx.take; split <;> simp_all

@[simp] theorem Ctx.ring_zero (c : Ctx) : c.ring 0 = c := rfl

@[simp] theorem Ctx.take_zero (c : Ctx) : c.take 0 = c := rfl

/-- The bells taken and rung by an executed control-unit instruction, and nothing else. -/
theorem Ctx.settleBells_eq (c : Ctx) (y : Sync) :
    c.settleBells y = { c with bells := (c.settleBells y).bells, rung := (c.settleBells y).rung } := by
  simp only [Ctx.settleBells, Ctx.ring_eq, Ctx.take_eq]

@[simp] theorem Ctx.settleBells_plain (c : Ctx) : c.settleBells Sync.plain = c := rfl

/-! ## Turns -/

theorem Ctx.turned_eq (c : Ctx) : c.turned = { c with lastTurn := some c.now, wdog := 0, outside := .none, held := none, watch := none } := rfl

/-- The end of an executed instruction changes bells, the turn's marks and the program counter of the current context alone. -/
theorem State.finish_eq (s : State) (y : Sync) (pc : Word) :
    s.finish y pc = { s with cx := { s.cx with bells := (s.cx.settleBells y).bells, rung := (s.cx.settleBells y).rung, lastTurn := some s.cx.now,
                                               wdog := 0, outside := .none, held := none, watch := none, pc := pc } } := by
  simp only [State.finish, Ctx.turned]
  rw [Ctx.settleBells_eq]
  rfl

@[simp] theorem State.finish_mem (s : State) (y : Sync) (pc : Word) : (s.finish y pc).mem = s.mem := rfl

@[simp] theorem State.finish_pc (s : State) (y : Sync) (pc : Word) : (s.finish y pc).cx.pc = pc := rfl

@[simp] theorem State.finish_sreg (s : State) (y : Sync) (pc : Word) (n : BitVec 5) : (s.finish y pc).cx.sreg n = s.cx.sreg n := by
  rw [State.finish_eq]; rfl

@[simp] theorem State.finish_preg (s : State) (y : Sync) (pc : Word) (n : BitVec 3) : (s.finish y pc).cx.preg n = s.cx.preg n := by
  rw [State.finish_eq]; rfl

/-! ## Traps -/

/-- Taking a trap changes the life and the trap record of a context alone. -/
theorem Ctx.takeTrap_eq (c : Ctx) (t : Trap) :
    c.takeTrap t = { c with life := (c.takeTrap t).life, trap := (c.takeTrap t).trap } := by
  unfold Ctx.takeTrap; split <;> rfl

/-- A running context that takes a trap is trapped and holds its record. -/
theorem Ctx.takeTrap_running (c : Ctx) (t : Trap) (h : c.life = .running) :
    c.takeTrap t = { c with life := .trapped, trap := some (t.record c.pc) } := by
  unfold Ctx.takeTrap; simp [h]

@[simp] theorem State.takeTrap_mem (s : State) (t : Trap) : (s.takeTrap t).mem = s.mem := rfl

@[simp] theorem State.takeTrap_others (s : State) (t : Trap) : (s.takeTrap t).others = s.others := rfl

theorem State.takeTrap_sreg (s : State) (t : Trap) (n : BitVec 5) : (s.takeTrap t).cx.sreg n = s.cx.sreg n := by
  simp only [State.takeTrap]; rw [Ctx.takeTrap_eq]; rfl

end Sys2Proof.Machine
end

