-- ==== Sys2Proof/Laws/Turn.lean ====
section
/-! SUPPORT. A turn of the control unit, said once: one lemma for each way that it ends (05 R91 to R97), and what a stalled turn and a
failed access leave. -/

namespace Sys2Proof.Machine

open Sys2Proof.Safety

theorem executed_eq_finish (i : Instr) (s : State) (pc : Word) : executed i s pc = s.finish (i.sync.getD Sync.plain) pc :=
  (State.finish_eq s (i.sync.getD Sync.plain) pc).symm

theorem State.turn_trap {s : State} {i : Instr} {t : Trap} (g : Bool) (body : State → Done) (h : s.decodeTrap i = some t) :
    s.turn i g body = s.takeTrap t := by
  simp only [State.turn, h]

theorem State.turn_waits {s : State} {i : Instr} (g : Bool) (body : State → Done) (h : s.decodeTrap i = none)
    (w : s.cx.mayTurn (i.sync.getD Sync.plain) = false) : s.turn i g body = s.notYet (i.sync.getD Sync.plain) := by
  simp [State.turn, h, w]

theorem State.turn_void {s : State} {i : Instr} (body : State → Done) (h : s.decodeTrap i = none)
    (w : s.cx.mayTurn (i.sync.getD Sync.plain) = true) : s.turn i false body = executed i s (s.cx.pc + 8) := by
  rw [executed_eq_finish]; simp [State.turn, h, w, State.after]

theorem State.turn_next {s s1 : State} {i : Instr} {g : Bool} {body : State → Done} {pc : Word} (h : s.decodeTrap i = none)
    (w : s.cx.mayTurn (i.sync.getD Sync.plain) = true) (hg : g = true) (b : body s = .next s1 pc) : s.turn i g body = executed i s1 pc := by
  rw [executed_eq_finish]; simp [State.turn, h, w, hg, b]

theorem State.turn_wait {s s1 : State} {i : Instr} {g : Bool} {body : State → Done} (h : s.decodeTrap i = none)
    (w : s.cx.mayTurn (i.sync.getD Sync.plain) = true) (hg : g = true) (b : body s = .wait s1) : s.turn i g body = s1.stalled true := by
  simp [State.turn, h, w, hg, b]

theorem State.turn_stop {s s1 : State} {i : Instr} {g : Bool} {body : State → Done} (h : s.decodeTrap i = none)
    (w : s.cx.mayTurn (i.sync.getD Sync.plain) = true) (hg : g = true) (b : body s = .stop s1) : s.turn i g body = s1 := by
  simp [State.turn, h, w, hg, b]

theorem State.turn_last {s s1 : State} {i : Instr} {g : Bool} {body : State → Done} (h : s.decodeTrap i = none)
    (w : s.cx.mayTurn (i.sync.getD Sync.plain) = true) (hg : g = true) (b : body s = .last s1) :
    s.turn i g body = { s1 with cx := (s1.cx.settleBells (i.sync.getD Sync.plain)).turned } := by
  simp [State.turn, h, w, hg, b]

/-- Every way a turn can end, with the state that its body starts from: the inversion lemma of a turn. -/
theorem State.turn_cases (s : State) (i : Instr) (g : Bool) (body : State → Done) :
    (∃ t, s.decodeTrap i = some t ∧ s.turn i g body = s.takeTrap t) ∨ s.turn i g body = s.notYet (i.sync.getD Sync.plain) ∨
      s.turn i g body = executed i s (s.cx.pc + 8) ∨ (∃ s1 pc, body s = .next s1 pc ∧ s.turn i g body = executed i s1 pc) ∨
      (∃ s1, body s = .wait s1 ∧ s.turn i g body = s1.stalled true) ∨ (∃ s1, body s = .stop s1 ∧ s.turn i g body = s1) ∨
      ∃ s1, body s = .last s1 ∧ s.turn i g body = { s1 with cx := (s1.cx.settleBells (i.sync.getD Sync.plain)).turned } := by
  cases h : s.decodeTrap i with
  | some t => exact .inl ⟨t, rfl, State.turn_trap g body h⟩
  | none =>
    cases w : s.cx.mayTurn (i.sync.getD Sync.plain) with
    | false => exact .inr (.inl (State.turn_waits g body h w))
    | true =>
      cases g with
      | false => exact .inr (.inr (.inl (State.turn_void body h w)))
      | true =>
        cases b : body s with
        | next s1 pc => exact .inr (.inr (.inr (.inl ⟨s1, pc, rfl, State.turn_next h w rfl b⟩)))
        | wait s1 => exact .inr (.inr (.inr (.inr (.inl ⟨s1, rfl, State.turn_wait h w rfl b⟩))))
        | stop s1 => exact .inr (.inr (.inr (.inr (.inr (.inl ⟨s1, rfl, State.turn_stop h w rfl b⟩)))))
        | last s1 => exact .inr (.inr (.inr (.inr (.inr (.inr ⟨s1, rfl, State.turn_last h w rfl b⟩)))))

/-- A stalled turn notes what holds the control unit, and nothing else (02 R46). -/
theorem State.stalled_eq (s : State) (b : Bool) :
    s.stalled b = { s with cx := { s.cx with held := some b, outside := if b then s.cx.outside else .none } } := rfl

/-- A turn whose WAIT byte holds it notes the bell that it waits for, and nothing else (05 R92; 02 R46). -/
theorem State.notYet_eq (s : State) (y : Sync) :
    s.notYet y = { s with cx := { s.cx with held := some true, outside := if s.cx.canTake y.takes then .none else .bell y.takes } } := rfl

/-- The other bank wakes: the life and the activation time of contexts alone change (02 R48). -/
theorem State.wakeOther_eq (s : State) : s.wakeOther = { s with cx := s.wakeOther.cx, others := s.wakeOther.others } := by
  unfold State.wakeOther
  split
  · rfl
  · split <;> rfl

/-- Taking a page fault changes the life, the fault record and a trap's SECONDARY of the context alone (13 R287; 26 R476). -/
theorem State.takePageFault_eq (s : State) (l : FaultLine) :
    s.takePageFault l = { s with cx := { s.cx with life := .faulted, faultRec := s.cx.faultRec ++ [l],
                                                   trap := s.cx.trap.map fun r => { r with secondary := true } } } := rfl

/-- A contained machine check changes the banks and the notices alone (26 R481). -/
theorem State.machineCheck_contained (s : State) (n : Nat) (c : Check) (h : c.sev = 2) :
    s.machineCheck n c = { s with mcbs := (s.machineCheck n c).mcbs, notices := (s.machineCheck n c).notices } := by
  have h1 : (c.sev == 1) = false := by simp [h]
  have h3 : (c.sev == 3) = false := by simp [h]
  simp only [State.machineCheck, State.notify, h1, h3, Bool.false_eq_true, if_false]
  split <;> rfl

/-- A slice's failed check changes the banks and the notices alone. -/
theorem State.sliceCheck_eq (s : State) (a : Nat) (w : Option Word) :
    s.sliceCheck a w = { s with mcbs := (s.sliceCheck a w).mcbs, notices := (s.sliceCheck a w).notices } := by
  unfold State.sliceCheck
  rw [State.machineCheck_contained _ _ _ rfl]
  rfl

/-- A failed access changes the life and the records of its context, and, where a home slice's check found it, the banks and the notices. -/
theorem State.takeFail_eq (s : State) (q : Nat) (a : Word) (f : Fail) :
    s.takeFail q a f = { s with mcbs := (s.takeFail q a f).mcbs, notices := (s.takeFail q a f).notices,
                                cx := { s.cx with life := (s.takeFail q a f).cx.life, trap := (s.takeFail q a f).cx.trap,
                                                  faultRec := (s.takeFail q a f).cx.faultRec } } := by
  unfold State.takeFail
  split
  · rfl
  split
  · rw [State.takePageFault_eq]
  split
  · simp only [State.takeTrap]; rw [Ctx.takeTrap_eq, State.sliceCheck_eq]
  · simp only [State.takeTrap]; rw [Ctx.takeTrap_eq]

@[simp] theorem State.takeFail_mem (s : State) (q : Nat) (a : Word) (f : Fail) : (s.takeFail q a f).mem = s.mem := by
  rw [State.takeFail_eq]

@[simp] theorem State.stalled_mem (s : State) (b : Bool) : (s.stalled b).mem = s.mem := by
  rw [State.stalled_eq]

end Sys2Proof.Machine
end

