-- ==== Sys2Proof/Tests/Slice0.lean ====
section
/-! SUPPORT. Tests of the model: ill-formed terms that WellFormed refuses, words written out in the manual's tables, small steps whose
results the manual's rules give, and, for every statement of Certificates/Slice0 with hypotheses, a state and operands that meet them. -/

open Sys2Proof Sys2Proof.Machine Sys2Proof.Safety

namespace Sys2Proof.Tests

set_option Elab.async false

/-! ## Operands -/

def r3 (d a b : BitVec 5) : SR := ⟨Sync.plain, d, a, b, 0, false⟩
def ri (d a : BitVec 5) (x : BitVec 24) : SI := ⟨Sync.plain, d, a, 0, false, x⟩
def rm (d a : BitVec 5) (z : BitVec 2) (off : BitVec 18) : M := ⟨Sync.plain, d, a, 0, false, z, 0, 0, off⟩
def rt (t : BitVec 6) (a b : BitVec 5) (h : BitVec 4) (mode : BitVec 8) : T := ⟨Sync.plain, t, a, b, h, 0, 0, false, mode⟩
def rv (d a b c : BitVec 6) (fmt : BitVec 4) (fn : BitVec 5) : V := ⟨Sync.plain, d, a, b, c, 0, 0, fmt, fn⟩
def rx (ta tb : BitVec 6) (fmt : BitVec 4) (ctl : BitVec 8) : X := ⟨Sync.plain, ta, tb, 0, 0, 0, fmt, ctl⟩
def rn (a b c : BitVec 5) (vd : BitVec 6) (scope : BitVec 3) (ctl : BitVec 11) : N := ⟨Sync.plain, a, b, c, vd, scope, ctl⟩

/-! ## WellFormed: one ill-formed term for each check -/

def illFormedScalar : List Instr :=
  [.clz (r3 1 2 3), .ctz (r3 1 2 3), .popc (r3 1 2 3), .shli (ri 1 2 64), .shri (ri 1 2 64), .srai (ri 1 2 64), .pcmp .eq (r3 8 2 3),
   .pand (r3 8 2 3), .pand (r3 1 8 3), .por (r3 1 2 8), .pnot (r3 8 1 0), .pnot (r3 1 8 0), .pnot (r3 1 2 1), .b ⟨Sync.plain, 0, false, 1, 0⟩,
   .call ⟨Sync.plain, 0, false, 1, 0⟩, .loop ⟨Sync.plain, 0, false, 1, 0⟩, .ret ⟨Sync.plain, 0, false, 1, 1⟩, .rotset (ri 1 0 0),
   .rotset (ri 0 1 0), .rotset (ri 0 0 0x40), .rotset (ri 0 0 0x800), .rotset (ri 0 0 33), .rotset (ri 0 0 0x500), .csrr (ri 1 0 0x1000),
   .csrr (ri 1 1 0), .csrw (ri 1 1 0x1000), .csrs (ri 1 1 0x1000), .csrc (ri 1 1 0x1000), .slip (ri 1 0 0x100), .slip (ri 0 0 0x108),
   .slip (ri 0 0 0x10100), .slip (ri 0 0 0x105), .slip (ri 0 0 0), .qsync (ri 1 0 0), .qsync (ri 0 0 0x20), .shp (r3 0x10 1 2), .shp (r3 0 1 2),
   .shpx .rows (ri 0x11 1 2), .shpx .rows (ri 0 1 2), .feat (ri 1 1 0), .feat (ri 1 0 0x100)]

def illFormedSystem : List Instr :=
  [.bells (ri 1 0 1), .bells (ri 0 0 0x21), .bells (ri 0 0 0), .bellw (ri 0 0 0), .trap (ri 1 0 0), .trap (ri 0 0 0x10000), .brk (ri 0 1 0),
   .exit (ri 0 0 0x10000), .yield (ri 0 0 1), .snapr (r3 1 2 3), .breg (r3 1 2 0), .breg (r3 0 2 1), .barv (r3 1 2 3), .bdrop (r3 1 2 3),
   .barw (r3 1 2 3), .barvw (r3 1 2 3), .barvw (r3 0 2 0), .tlbinv (r3 1 2 3), .mwrr (ri 1 0 0), .mwrr (ri 0 1 8), .mwrr (ri 0 1 0x1000),
   .nop ⟨0, 0xC1⟩, .nop ⟨0, 0x61⟩, .nop ⟨0, 0x40⟩, .nop ⟨0, 1⟩]

def illFormedMemory : List Instr :=
  [.ld { rm 1 2 3 0 with scope := 1 }, .ldu { rm 1 2 3 0 with scope := 1 }, .st { rm 1 2 3 0 with scope := 1 }, .amo (rm 1 2 1 0),
   .amo (rm 1 2 3 1), .amo (rm 1 2 3 0x28000), .amo (rm 1 2 3 0x24000), .amocas (rm 1 2 1 0), .amocas (rm 1 2 3 0x4000), .amocas (rm 1 2 3 1),
   .amocas (rm 31 2 3 0), .red (rm 1 2 1 0), .red (rm 1 2 3 0x1000), .fence (rm 1 0 0 0), .fence (rm 0 1 0 0), .fence (rm 0 0 1 0),
   .fence { rm 0 0 0 0 with ac := 1 }, .fence (rm 0 0 0 0x20), .dcwb (rm 1 2 0 0), .dcinv (rm 0 2 1 0), .dcwb { rm 0 2 0 0 with ac := 1 }, .xlat { rm 1 2 0 0 with ac := 1 },
   .xlat { rm 1 2 0 0 with scope := 1 }, .migr (rm 1 2 2 0), .migr { rm 1 2 0 0 with ac := 1 }, .halloc (rm 0 2 0 0), .halloc (rm 31 2 0 0),
   .halloc (rm 1 2 1 0), .halloc (rm 1 2 0 1), .hfree (rm 1 2 1 0), .hfree (rm 1 2 0 1)]

def illFormedTile : List Instr :=
  [.tld (rt 1 2 3 0 3), .tld (rt 1 2 3 0 4), .tldx (rt 1 2 3 0 3), .tldv (rt 1 2 3 0 4), .vldb (rt 1 2 3 0 3), .tst (rt 1 2 3 0 3),
   .tstv (rt 1 2 3 0 4), .tgath (rt 1 2 3 0 0x40), .vgath (rt 1 2 3 0 0x40), .tscat (rt 1 2 3 0 0x80), .tfill (rt 1 2 3 0 0),
   .tfill (rt 1 2 0 0 1), .tfill { rt 1 2 0 0 0 with ac := 1 }, .tcpy (rt 1 2 3 0 1), .vldt (rt 1 2 3 0 0x40), .vldt { rt 1 2 3 0 0 with ac := 1 },
   .unfcfg (rt 1 2 3 1 0), .unfcfg (rt 1 2 3 0 1), .unfcfg (rt 0x11 2 3 0 0), .unfcfg (rt 0 2 3 0 0), .pft (rt 1 2 3 0 0), .pft (rt 0 2 3 0 2),
   .tstat (rt 1 2 0 0 0), .tstat (rt 1 0 3 0 0), .tstat (rt 1 0 0 0 1), .vstt (rt 1 2 0 0 0), .vstt (rt 1 0 0 0 0x40), .trel (rt 1 2 0 0 0),
   .trel (rt 1 0 0 1 0), .trel (rt 1 0 0 0 1)]

def illFormedVector : List Instr :=
  [.vadd (rv 1 2 3 0 8 5), .vadd (rv 1 2 3 4 8 0), .vadd (rv 1 2 3 0 0xD 0), .vfma (rv 1 2 3 4 8 5), .vmin (rv 1 2 3 0 8 1), .vmax (rv 1 2 3 0 8 0x10),
   .vabs (rv 1 2 3 0 8 0), .vneg (rv 1 2 0 0 8 1), .vcmp (rv 8 2 3 0 8 0), .vcmp (rv 1 2 3 0 8 0x10), .vselm (rv 1 2 3 0 0xF 0),
   .vand (rv 1 2 3 0 1 1), .vor (rv 1 2 3 1 1 0), .vxor (rv 1 2 3 0 0xF 0), .vnot (rv 1 2 3 0 1 0), .vshl (rv 1 2 3 0 8 0), .vshl (rv 1 2 3 0 4 2),
   .vshl (rv 1 2 3 0 4 1), .vshl (rv 1 2 0 3 4 0), .vshr (rv 1 2 3 0 4 4), .vcvt (rv 1 2 3 0 8 0), .vcvt (rv 1 2 0 8 8 0), .vcvt (rv 1 2 0 0 0 0),
   .vdqnt (rv 1 2 0 0 8 8), .vqnt (rv 1 2 0 0 8 0), .vbcast (rv 1 2 3 0 8 2), .vbcast (rv 1 2 8 0 8 1), .vmov (rv 1 2 3 0 8 0),
   .vmovFrom (rv 1 2 0 0 8 1), .vmovFrom (rv 1 0 0 0 8 3), .vmovTo (rv 1 2 0 0 8 3), .vmovTo (rv 0 2 0 0 8 1), .vext (rv 1 2 3 4 8 8),
   .vins (rv 1 2 3 4 8 0)]

def illFormedReduce : List Instr :=
  [.vmlog (rv 8 1 1 0 0 0), .vmlog (rv 1 8 1 0 0 0), .vmlog (rv 1 1 8 0 0 0), .vmlog (rv 1 1 1 0 0 5), .vmlog (rv 1 1 1 0 0 4), .vrcp (rv 1 2 3 0 8 0),
   .vrsq (rv 1 2 0 0 4 0), .vsqrt (rv 1 2 0 0 8 8), .vexp2 (rv 1 2 0 0 8 5), .vlog2 (rv 1 2 0 1 8 0), .vredsum (rv 1 2 3 0 8 0),
   .vredmax (rv 1 2 0 0 8 3), .vredmin (rv 1 2 0 0 0xD 0), .vargmax (rv 1 2 3 0 8 0), .vargmin (rv 1 2 0 3 8 4), .vscan (rv 1 2 0 0 8 5),
   .vtrn (rv 1 2 0 0 1 0), .vtrn (rv 1 2 0 0 8 1), .vshf (rv 1 2 3 0 8 0), .vpermr (rv 1 2 3 4 8 0), .vpermr (rv 1 2 3 0 8 2),
   .vbaddq (rv 1 2 3 4 0xD 0), .vbaddq (rv 1 2 3 0 8 0), .vrng (rv 1 0x20 0 0 8 0), .vrng (rv 1 2 0x20 0 8 0), .vrng (rv 1 2 3 1 8 0),
   .vrng (rv 1 2 3 0 9 0), .vrng (rv 1 2 3 0 8 1)]

def illFormedMatrix : List Instr :=
  [.mma (rx 1 2 1 0), .mma (rx 1 2 0xA 4), .mma (rx 1 2 0xA 2), .mmaz (rx 1 2 8 0), .mmau (rx 1 2 2 0), .mmau (rx 1 2 5 4), .mmau (rx 1 2 5 2),
   .amld (rx 1 2 8 0), .amld { rx 1 0 8 0 with ha := 1 }, .amld (rx 1 0 8 0x20), .amld (rx 1 0 1 0), .amld (rx 1 0 9 0x10), .amldStat (rx 1 2 7 0),
   .amldStat (rx 1 0 7 1), .amldStat (rx 1 0 8 0), .amst (rx 1 2 8 0), .amst (rx 1 0 8 1), .amst (rx 1 0 1 0), .amz (rx 1 0 8 0), .amz (rx 0 0 9 0),
   .mhint (rx 0 0 1 0), .mhint (rx 0 0 0 2), .msync (rx 0 0 0 1)]

def illFormedPort : List Instr :=
  [.rstv (rn 1 2 3 4 1 0), .rstv (rn 1 2 3 4 0 0x100), .rstvRel (rn 1 2 3 4 6 0x100), .vexp (rn 1 2 0 4 0 0), .vexp (rn 1 0 3 4 0 0),
   .cname (rn 1 2 3 4 0 1), .cname (rn 1 2 3 0 0 2), .cname (rn 1 2 3 0 0 0), .amsg (rn 1 2 3 0 0 0), .launch (rn 1 0 3 4 0 0), .mcst (rn 1 2 3 0 6 1),
   .cpy (rn 1 2 3 4 6 0), .cpyw (rn 1 2 3 0 6 1), .taskq (rn 1 2 3 0 6 1), .taskdec (rn 1 2 3 4 6 0), .graphgo (rn 1 2 3 4 6 0),
   .redst (rn 1 2 3 4 6 4), .redst (rn 1 2 3 0 6 5), .tend (rn 1 0 0 0 0 0), .tend (rn 0 0 0 0 1 0), .qsnap (rn 1 2 0 0 0 0), .qsnap (rn 1 0 3 0 0 0),
   .fcall (rn 1 2 3 4 0 0), .fwait (rn 1 2 3 0 0 0), .fpoll (rn 1 0 3 0 1 0), .fdone (rn 1 0 3 4 0 0), .fcancel (rn 1 0 3 0 0 1),
   .adref (rn 1 2 3 0 0 0), .flink (rn 1 2 3 4 0 0), .flink (rn 1 2 3 0 1 0), .flink (rn 1 2 3 0 0 0x100), .hring (rn 1 2 3 0 1 0),
   .hring (rn 1 2 3 4 0 0)]

theorem test_illFormedScalar : ∀ i ∈ illFormedScalar, i.wellFormed = false := by decide
theorem test_illFormedSystem : ∀ i ∈ illFormedSystem, i.wellFormed = false := by decide
theorem test_illFormedMemory : ∀ i ∈ illFormedMemory, i.wellFormed = false := by decide
theorem test_illFormedTile : ∀ i ∈ illFormedTile, i.wellFormed = false := by decide
theorem test_illFormedVector : ∀ i ∈ illFormedVector, i.wellFormed = false := by decide
theorem test_illFormedReduce : ∀ i ∈ illFormedReduce, i.wellFormed = false := by decide
theorem test_illFormedMatrix : ∀ i ∈ illFormedMatrix, i.wellFormed = false := by decide
theorem test_illFormedPort : ∀ i ∈ illFormedPort, i.wellFormed = false := by decide

/-! ## Words of the manual's tables, decoded -/

/-- 05, 06: words of the tables of the families SR, SI, LI, BR and of the control instructions. -/
theorem test_wordsScalar : decode 0x0000_0140_C000_0000 = some (.add (r3 8 3 0)) ∧ decode 0x0000_0221_00FF_FFFF = some (.addi (ri 4 4 0xFFFFFF)) ∧
    decode 0x0000_0848_1234_5678 = some (.li ⟨Sync.plain, 9, 0x12345678⟩) ∧
    decode 0x0000_1000_3FFF_FFFD = some (.loop ⟨Sync.plain, 0, false, 0, 0xFFFFFFD⟩) ∧
    decode 0x0000_0A11_4C02_0000 = some (.pcmp .lt (r3 2 5 6)) ∧ decode 0x0000_1801_0100_0003 = some (.csrw (ri 0 4 3)) ∧
    decode 0x0000_1900_0000_4000 = some (.slip (ri 0 0 0x4000)) ∧ decode 0x0000_1B11_8000_0000 = some (.shpx .vrows (ri 2 6 0)) ∧
    decode 0x0000_D300_0100_0004 = some (.bellw (ri 0 0 4)) ∧ decode 0x0000_D100_0000_002A = some (.trap (ri 0 0 0x2A)) ∧
    decode 0x0000_D100_0200_0000 = some (.exit (ri 0 0 0)) ∧ decode 0x0000_D100_0300_0000 = some (.yield (ri 0 0 0)) ∧
    decode 0x0000_D249_0000_0000 = some (.snapr (r3 9 4 0)) := by decide +kernel

/-- 06, 12, 13, 14, 18: words of the memory, page, context and barrier tables. -/
theorem test_wordsMemory : decode 0x0000_3039_8300_0010 = some (.ld (rm 7 6 3 16)) ∧
    decode 0x0000_3329_8350_0008 = some (.lda { rm 5 6 3 8 with ac := 2, scope := 4 }) ∧
    decode 0x0000_3529_8310_3000 = some (.amo { rm 5 6 3 0x3000 with scope := 4 }) ∧
    decode 0x0000_3749_021A_6000 = some (.red { rm 9 4 2 0x26000 with scope := 6 }) ∧
    decode 0x0000_3800_0014_0006 = some (.fence { rm 0 0 0 6 with scope := 5 }) ∧
    decode 0x0000_393B_0208_0040 = some (.waitv { rm 7 12 2 64 with scope := 2 }) ∧ decode 0x0000_3C29_8100_0000 = some (.xlat (rm 5 6 1 0)) ∧
    decode 0x0000_3D3A_0000_0000 = some (.migr (rm 7 8 0 0)) ∧ decode 0x0000_3E51_0000_0000 = some (.halloc (rm 10 4 0 0)) ∧
    decode 0x0000_3F62_8000_0000 = some (.hfree (rm 12 10 0 0)) ∧ decode 0x0000_E201_4C00_0000 = some (.tlbinv (r3 0 5 6)) ∧
    decode 0x0000_E129_8E00_0000 = some (.ctxst (r3 5 6 7)) ∧ decode 0x0000_E02A_0000_0000 = some (.ctxld (r3 5 8 0)) ∧
    decode 0x0000_E301_C000_0C03 = some (.mwrr (ri 0 7 0xC03)) ∧ decode 0x0000_D029_8E00_0000 = some (.binit (r3 5 6 7)) ∧
    decode 0x0000_D001_8803_0000 = some (.barw (r3 0 6 4)) ∧ decode 0x0000_D021_8004_0000 = some (.barvw (r3 4 6 0)) := by decide +kernel

/-- 05, 07 to 10, 16, 17: words of the engine tables. -/
theorem test_wordsEngines : decode 0x0041_400D_0020_0000 = some (.tld { rt 3 8 0 2 0 with sync := ⟨0, 0x41⟩ }) ∧
    decode 0x0000_4624_C020_0003 = some (.vldt (rt 9 6 0 2 3)) ∧
    decode 0x0000_8018_20C0_2358 = some (.vadd { rv 6 2 3 0 0xA 0x18 with h := 2, m := 1 }) ∧
    decode 0x0000_8E0C_4140_1102 = some (.vcmp { rv 3 4 5 0 8 2 with h := 1 }) ∧
    decode 0x0000_9625_4001_3544 = some (.vcvt { rv 9 20 0 1 0xA 4 with h := 3, m := 2 }) ∧
    decode 0x0000_A028_400B_2301 = some (.vargmax { rv 10 4 0 11 8 1 with h := 2, m := 1 }) ∧
    decode 0x0000_8D55_4000_4100 = some (.vlog2 { rv 21 20 0 0 8 0 with h := 4 }) ∧
    decode 0x0000_A620_8240_61C0 = some (.vbaddq { rv 8 8 9 0 0xE 0 with h := 6 }) ∧
    decode 0x0000_C00C_7230_A000 = some (.mma { rx 3 7 0xA 0 with ha := 2, hb := 3 }) ∧
    decode 0x0000_7052_D846_0800 = some (.rstvRel (rn 10 11 12 8 6 0)) ∧ decode 0x0000_7742_D802_0800 = some (.taskdec (rn 8 11 12 0 2 0)) ∧
    decode 0x0000_7700_0000_1000 = some (.tend (rn 0 0 0 0 0 0)) ∧ decode 0x0000_7738_0000_1800 = some (.qsnap (rn 7 0 0 0 0 0)) ∧
    decode 0x0000_7138_0060_0000 = some (.vexp (rn 7 0 0 12 0 0)) ∧ decode 0x0000_7210_D200_0001 = some (.cname (rn 2 3 9 0 0 1)) := by
  decide +kernel

/-! ## States and checks -/

/-- A privileged context that runs at 0x4000 with one page of 1 GiB, accumulators and channels; cycle 100. -/
def base : State := let s := State.reset.withFetchWord 64 0; { s with cx := { s.cx with cycle := 100 }, time := 252000 }

/-- Scalar registers set. -/
def State.with (s : State) (l : List (BitVec 5 × Word)) : State := { s with cx := l.foldl (fun c x => c.setSreg x.1 x.2) s.cx }

/-- The base state unprivileged. -/
def user : State := { base with cx := { base.cx with priv := false } }

/-- The control unit executes i: what Executes says, as one check. -/
def runs (i : Instr) (s : State) : Bool :=
  (s.decodeTrap i).isNone && s.cx.mayTurn (syncOf i) && (i.cuGuard.elim true fun g => s.cx.guard g.1 g.2)

theorem executes_of_runs {i : Instr} {s : State} (h : runs i s = true) : Executes i s := by
  simp only [runs, Bool.and_eq_true, Option.isNone_iff_eq_none] at h
  exact ⟨h.1.1, h.1.2, fun pg pn g => by simpa [g] using h.2⟩

/-- An access passes, and a check holds of what it leaves. -/
def passes (r : Ranged) (p : State → List Seg → Bool) : Bool :=
  match r with
  | .ok s gs => p s gs
  | .fail _ => false

theorem ok_of_passes {r : Ranged} {p : State → List Seg → Bool} (h : passes r p = true) : ∃ s gs, r = .ok s gs ∧ p s gs = true := by
  cases r with
  | ok s gs => exact ⟨s, gs, rfl, h⟩
  | fail f => cases h

theorem fail_of_not {r : Ranged} (h : passes r (fun _ _ => true) = false) : ∃ f, r = .fail f := by
  cases r with
  | ok s gs => cases h
  | fail f => exact ⟨f, rfl⟩

/-- An answer passes, and a check holds of it. -/
def okay {ε α : Type} (r : Except ε α) (p : α → Bool) : Bool :=
  match r with
  | .ok x => p x
  | .error _ => false

theorem ok_of_okay {ε α : Type} {r : Except ε α} {p : α → Bool} (h : okay r p = true) : ∃ x, r = .ok x ∧ p x = true := by
  cases r with
  | ok x => exact ⟨x, rfl, h⟩
  | error _ => cases h

/-- The next state of an instruction satisfies a check. -/
def leads (i : Instr) (s : State) (p : State → Bool) : Bool :=
  match exec i s with
  | .next t => p t
  | .fault _ => false
  | .refused _ => false

/-! ## Witnesses: the control unit -/

theorem witness_decodeChecks_privileged : privileged (.tlbinv (r3 0 1 2)) = true ∧ user.cx.priv = false := by decide +kernel
theorem witness_decodeChecks_lacks : (privileged (.mma (rx 1 2 0xA 0)) = false) ∧
    ({ base with cx := { base.cx with hasAcc := false } } : State).lacks (needsOf (.mma (rx 1 2 0xA 0))) = some 0 := by decide +kernel
theorem witness_decodeChecks_fields : base.lacks (needsOf (.clz (r3 1 2 3))) = none ∧ (Instr.clz (r3 1 2 3)).fieldsOk = false := by decide +kernel
theorem witness_decodeChecks_sig : base.lacks (needsOf (.nop ⟨0, 0xC1⟩)) = none ∧ (Instr.nop ⟨0, 0xC1⟩).fieldsOk = true ∧
    (syncOf (.nop ⟨0, 0xC1⟩)).legal = false := by decide +kernel
theorem witness_decodeChecks_none : base.lacks (needsOf (.add (r3 1 2 3))) = none ∧ (Instr.add (r3 1 2 3)).wellFormed = true := by decide +kernel
theorem witness_decodeChecks_taken : (Instr.clz (r3 1 2 3)).sync.isSome = true ∧ (base.decodeTrap (.clz (r3 1 2 3))).isSome = true := by decide +kernel
theorem witness_decodeChecks_major : majorAssigned (majorOf 0x0000_E400_0000_0000) = false ∧ majorAssigned (majorOf 0x0000_0600_0000_0000) = false ∧
    user.cx.priv = false := by decide +kernel
theorem witness_decodeChecks_function : majorAssigned (majorOf 0x0000_E000_0000_FFFF) = true ∧ majorAssigned (majorOf 0x0000_0800_FFFF_FFFF) = true ∧
    base.lacks (wordNeeds 0x0000_0800_FFFF_FFFF) = none ∧
    ({ base with cx := { base.cx with hasAcc := false } } : State).lacks (wordNeeds 0x0000_C000_0000_0100) = some 0 := by decide +kernel

theorem witness_controlUnitTurns_void : (Instr.add { r3 1 2 3 with pn := true }).cuGuard = some (0, true) ∧
    base.decodeTrap (.add { r3 1 2 3 with pn := true }) = none ∧ base.cx.mayTurn (syncOf (.add { r3 1 2 3 with pn := true })) = true ∧
    base.cx.guard 0 true = false := by decide +kernel
theorem witness_controlUnitTurns_waits : base.decodeTrap (.add { r3 1 2 3 with sync := ⟨3, 0⟩ }) = none ∧
    base.cx.mayTurn (syncOf (.add { r3 1 2 3 with sync := ⟨3, 0⟩ })) = false := by decide +kernel

theorem witness_registerFile : base.cx.rot.pw.toNat ≤ 4 := by decide +kernel
theorem witness_encodeDecode : decode 0x0000_0140_C000_0000 = some (.add (r3 8 3 0)) ∧ majorAssigned (majorOf 0x0000_0600_0000_0000) = false ∧
    majorAssigned (majorOf 0x0000_0140_C000_0000) = true := by decide +kernel

theorem witness_arithmeticForms : (∀ f ∈ registerForms (r3 1 2 0) 5 3, Executes f.1 base) ∧
    ∀ f ∈ immediateForms (ri 1 2 3) 5 3, Executes f.1 base := by
  refine ⟨fun f h => executes_of_runs ?_, fun f h => executes_of_runs ?_⟩
  · have : ∀ i ∈ (registerForms (r3 1 2 0) 5 3).map Prod.fst, runs i base = true := by decide +kernel
    exact this _ (List.mem_map_of_mem h)
  · have : ∀ i ∈ (immediateForms (ri 1 2 3) 5 3).map Prod.fst, runs i base = true := by decide +kernel
    exact this _ (List.mem_map_of_mem h)

theorem witness_scalars : ∀ i ∈ [Instr.li ⟨Sync.plain, 1, 5⟩, .lui ⟨Sync.plain, 1, 5⟩, .lea ⟨Sync.plain, 1, 16⟩, .sel (r3 1 2 3), .feat (ri 1 0 3),
    .pcmp .lt (r3 1 2 3), .pand (r3 1 2 3), .por (r3 1 2 3), .pnot (r3 1 2 0), .b ⟨Sync.plain, 0, false, 0, 2⟩, .call ⟨Sync.plain, 0, false, 0, 2⟩,
    .ret ⟨Sync.plain, 0, false, 0, 0⟩, .rotset (ri 0 0 0x304), .nop Sync.plain, .bells (ri 0 0 4), .trap (ri 0 0 9), .brk (ri 0 0 9),
    .qsync (ri 0 0 0x1F), .snapr (r3 1 2 0), .exit (ri 0 0 1), .yield (ri 0 0 0), .fence (rm 0 0 0 0), .xlat (rm 1 2 0 0), .migr (rm 0 2 0 0)],
    Executes i base := by
  intro i h
  refine executes_of_runs ?_
  revert i h; decide +kernel

theorem witness_predicateForms : (true = true ↔ compares .lt (3 : Word) 5) := by simp [compares]
theorem witness_scalarFrame : destination (.add (r3 1 2 3)) = some 1 ∧ leads (.add (r3 1 2 3)) base (fun _ => true) = true := by decide +kernel

theorem witness_branches : runs (.ret ⟨Sync.plain, 0, false, 2, 0⟩) (State.with base [(2, 12)]) = true ∧
    ((State.with base [(2, 12)]).cx.sreg 2).toNat % 8 ≠ 0 ∧ ((State.with base [(2, 16)]).cx.sreg 2).toNat % 8 = 0 := by decide +kernel

/-- A base state with LCNT. -/
def looped (n : Word) : State := { base with cx := { base.cx with lcnt := n } }

theorem witness_loops : runs (.loop ⟨Sync.plain, 0, false, 0, 0xFFFFFFD⟩) (looped 2) = true ∧
    runs (.loop ⟨Sync.plain, 0, false, 0, 0xFFFFFFD⟩) (looped 1) = true ∧ 2 ≤ (looped 2).cx.lcnt.toNat ∧ (looped 1).cx.lcnt.toNat < 2 := by
  decide +kernel

theorem witness_csrInstructions : runs (.csrr (ri 1 0 0xC00)) user = true ∧ user.cx.priv = false ∧ runs (.csrr (ri 1 0 8)) base = true ∧
    base.csr 8 = none ∧ base.csr 1 = some 0 ∧ runs (.csrw (ri 1 2 1)) base = true ∧ runs (.csrs (ri 1 2 2)) base = true ∧
    runs (.csrc (ri 1 2 2)) base = true ∧ okay (base.cx.writeCsr 1 5) (fun _ => true) = true ∧ okay (base.cx.writeCsr 2 0x2100) (fun _ => true) = false := by
  decide +kernel
theorem witness_csrFields : (0x2020 / 2 ^ 8 % 64 ≤ 32 ∧ 0x2020 % 32 < 32) ∧ ¬ (0x2100 / 2 ^ 8 % 64 ≤ 32 : Prop) := by decide

/-- The base state with one instruction in LQ. -/
def busy : State := base.forwarded .lq (base.cx.entryOf (.pft (rt 0 0 0 0 0)) false)

/-- The base state with two instructions in NQ, and one whose SLIP of LQ has moved them for their cycle. -/
def moving : State := (base.forwarded .nq (base.cx.entryOf (.tend (rn 0 0 0 0 0 0)) false)).forwarded .nq (base.cx.entryOf (.tend (rn 0 0 0 0 0 0)) false)
def slipped : State := { moving with cx := { moving.cx with slip := some ⟨0, 0, true⟩ } }

theorem witness_queueControl : runs (.slip (ri 0 0 0x4100)) base = true ∧ runs (.slip (ri 0 0 0x3F00)) base = true ∧ runs (.slip (ri 0 0 0x4000)) base = true ∧
    256 < ((base.cx.slipd.set 0 0x41).toList.map BitVec.toNat).sum ∧ ((base.cx.slipd.set 0 0x3F).toList.map BitVec.toNat).sum ≤ 256 ∧
    base.cx.slipd[0] = 0x40 ∧ base.cx.slip = none ∧ runs (.slip (ri 0 0 0x3F00)) moving = true ∧ runs (.slip (ri 0 0 0x3F00)) slipped = true ∧
    moving.cx.nq.count = 2 ∧ moving.cx.quiet (queueOf 0) = true ∧ 0 ≤ slipped.cx.now ∧
    base.cx.quiet (queueOf 0) = true ∧ busy.cx.quiet (queueOf 0) = false ∧ runs (.slip (ri 0 0 0x3F00)) busy = true ∧
    runs (.qsync (ri 0 0 1)) busy = true := by decide +kernel

theorem witness_shapeInstructions : runs (.shp (r3 2 3 4)) (State.with base [(3, 0x0000800800000100), (4, 0x100)]) = true ∧
    (0x0000800800000100 / 2 ^ 44 % 4096 = 8 ∧ 0x0000800800000100 / 2 ^ 32 % 4096 = 8) ∧ runs (.shp (r3 2 3 4)) base = true ∧
    (base.cx.sreg 3).toNat / 2 ^ 44 % 4096 = 0 ∧ (∀ f ∈ [ShpxField.vrows, .vcols, .rows, .stride], runs (.shpx f (ri 2 3 8)) base = true) ∧
    (base.cx.shape 2).rows = 8 := by decide +kernel

/-- The base state with a count on bell 4. -/
def rung : State := { base with cx := (base.cx.ring 4).addRings }

theorem witness_bells : runs (.bellw (ri 0 0 4)) rung = true ∧ rung.cx.bell 4 ≠ 0 ∧ runs (.bellw (ri 0 0 4)) base = true ∧ base.cx.bell 4 = 0 ∧
    (4 : BitVec 5) ≠ 0 := by decide +kernel

/-! ## Witnesses: traps and contexts -/

theorem witness_trapEntry : base.cx.life = .running ∧ (base.cx.takeTrap (base.cuTrap 0x24)).life = .trapped ∧
    (base.cx.takeTrap (base.cuTrap 0x24)).trap.isSome = true := by decide +kernel
theorem witness_deliberateTraps : (∃ r, (base.cx.takeTrap (base.cuTrap 0x24)).trap = some r ∧ r.queue = 0 ∧ r.cause ≠ 7 ∧ r.cause ≠ 8) :=
  ⟨_, rfl, by decide +kernel⟩
/-- A faulted context beside an inactive one of its core, and beside a running one. -/
def faultedPair (l : Life) : State :=
  { base with cx := { base.cx with life := .faulted }, others := [{ base.cx with life := l, bank := true, coord := { base.cx.coord with member := 1 } }] }

theorem witness_failedAccess_settles : (faultedPair .inactive).cx.life = .faulted ∧ ((faultedPair .inactive).drain true).cx.nq.issued = false ∧
    ((faultedPair .inactive).others.find? fun x => x.sameCore (faultedPair .inactive).cx && x.isReady).elim false
      (fun c => !(faultedPair .inactive).cx.is c.ref) = true ∧
    (∀ x ∈ (faultedPair .inactive).ctxs, x.sameCore (faultedPair .inactive).cx = true → x.life ≠ .running) ∧
    (∃ x ∈ (faultedPair .running).ctxs, x.sameCore (faultedPair .running).cx = true ∧ x.life = .running) := by decide +kernel
theorem witness_failedAccess : base.cx.life = .running ∧ (⟨0x20, 0, .load, false⟩ : Fail).cause = 0x20 ∧ (⟨0x25, 0, .load, false⟩ : Fail).cause ≠ 0x20 ∧
    (⟨0x25, 0, .load, false⟩ : Fail).cause ≠ 0 ∧ (⟨0, 0, .load, false⟩ : Fail).cause = 0 ∧ base.cx.trap = none ∧
    base.sliceOf ⟨0x25, 0x5000, .load, false⟩ = none ∧
    (let s : State := { base with mcbs := [⟨homeBank (devKey 0 0x5000), 0, 0, 0, 4, 0⟩] }
     s.sliceOf ⟨0x25, 0x5000, .load, false⟩ = some (devKey 0 0x5000) ∧ NoRecord s (homeBank (devKey 0 0x5000))) := by
  unfold NoRecord; decide +kernel

/-- Another context of the same core, inactive. -/
def pair : State := { base with others := [{ base.cx with life := .inactive, bank := true, coord := { base.cx.coord with member := 1 } }] }

theorem witness_exitAndYield : base.cx.allQuiet = true ∧ busy.cx.allQuiet = false ∧ runs (.exit (ri 0 0 1)) busy = true ∧ (base.yieldTo).isNone = true ∧
    runs (.yield (ri 0 0 0)) pair = true ∧ ∃ c, pair.yieldTo = some c ∧ c.life = .inactive ∧ pair.cx.is c.ref = false := by
  refine ⟨by decide +kernel, by decide +kernel, by decide +kernel, by decide +kernel, by decide +kernel, ?_⟩
  have h : (pair.yieldTo.elim false fun c => c.life == .inactive && !pair.cx.is c.ref) = true := by decide +kernel
  cases hy : pair.yieldTo with
  | none => simp [hy] at h
  | some c => exact ⟨c, rfl, by simpa [hy] using h⟩

/-- The base state with a cohort 0x501 beside it, a descriptor at 0x6000 of one image at 0x9000 whose header names that cohort, and space for
another descriptor at 0x7000. -/
def described : State :=
  State.with { base with dir := [⟨0x00000501, .resident, 0, 1, false, 1, 0, 0, 0, 64, 0, 0, [], [], 0, none⟩]
                         others := [{ base.cx with cohort := 0x00000501, life := .idle }]
                         mem := Memory.write (Memory.write base.mem (devKey 0 0x6008) (leBytes 8 0x9000)) (devKey 0 0x9020) (leBytes 4 0x501) }
    [(6, 0x7000), (7, 0x00000501), (8, 0x6000), (9, 25), (10, 24), (11, 0x7001), (12, 0x80000000), (13, 0x00000100)]

/-- The state once a save of cohort 0x501 is under way, one without members of it, and ones where its name has retired or its cohort is saved. -/
def inTransfer : State := { described with transfers := [requestedSave 0x501 0x7000 base.cx.space] }
def alone : State := { described with others := [] }
def namesNone : State := { described with dir := [] }
def savedAlready : State := { described with dir := described.dir.map fun d => { d with state := .saved } }

/-- A check of the state and the segments that the access to a descriptor leaves. -/
def descPasses (s : State) (a : Nat) (k : Access) (p : State → Bool) : Bool :=
  passes (s.access (some 0) a 520 k true) fun s1 gs => !segsPoisoned s1.poison gs && p s1

theorem witness_contextInstructions_ctxst :
    (∀ o ∈ [r3 5 6 7, r3 5 11 7, r3 5 12 7, r3 5 6 13], runs (.ctxst o) described = true ∧ runs (.ctxst o) inTransfer = true ∧ runs (.ctxst o) alone = true ∧
      runs (.ctxst o) savedAlready = true ∧ runs (.ctxst o) namesNone = true) ∧
    (0x7001 % 8 ≠ 0 ∧ 0x7000 % 8 = 0) ∧ descPasses described 0x7000 .store (fun s => s.transfers.isEmpty && (s.findCtx ⟨0x501, 0⟩).elim false fun c => c.resident) = true ∧
    passes (described.access (some 0) 0x80000000 520 .store true) (fun _ _ => true) = false ∧
    passes (({ described with poison := [lineOf (devKey 0 0x7000)] } : State).access (some 0) 0x7000 520 .store true) (fun s gs => segsPoisoned s.poison gs) = true ∧
    descPasses inTransfer 0x7000 .store (fun s => s.transfers.any fun x => x.name == 0x501) = true ∧
    descPasses alone 0x7000 .store (fun s => s.others.isEmpty && s.cx.cohort != 0x501) = true ∧
    descPasses namesNone 0x7000 .store (fun s => match s.lookup 0x501 with | .stale => true | _ => false) = true ∧
    descPasses savedAlready 0x7000 .store (fun s => match s.lookup 0x501 with | .current d => d.state != .resident | _ => false) = true ∧
    descPasses described 0x7000 .store (fun s => match s.lookup 0x501 with | .current d => d.state == .resident && d.node == s.node | _ => false) = true ∧
    nameHome 0x501 = base.node := by decide +kernel
theorem witness_contextInstructions_ctxld :
    (∀ o ∈ [r3 5 8 9, r3 5 8 10, r3 5 6 10, r3 5 11 10, r3 5 12 10], runs (.ctxld o) described = true ∧ runs (.ctxld o) inTransfer = true) ∧
    passes (described.access (some 0) 0x80000000 520 .load true) (fun _ _ => true) = false ∧
    passes (({ described with poison := [lineOf (devKey 0 0x6000)] } : State).access (some 0) 0x6000 520 .load true) (fun s gs => segsPoisoned s.poison gs) = true ∧
    passes (described.access (some 0) 0x7000 520 .load true) (fun s gs => !segsPoisoned s.poison gs && descImages (readSegs s.mem gs) == []) = true ∧
    passes (described.access (some 0) 0x6000 520 .load true) (fun s gs => !segsPoisoned s.poison gs && descImages (readSegs s.mem gs) == [(0, 0x9000)] &&
      !s.transferring (s.descName [(0, 0x9000)]) [(0, 0x9000)]) = true ∧
    passes (inTransfer.access (some 0) 0x6000 520 .load true) (fun s gs => !segsPoisoned s.poison gs && descImages (readSegs s.mem gs) == [(0, 0x9000)] &&
      s.transferring (s.descName [(0, 0x9000)]) [(0, 0x9000)]) = true := by decide +kernel
theorem witness_contextInstructions_snapr : runs (.snapr (r3 5 6 0)) (State.with base [(6, 256)]) = true ∧
    runs (.snapr (r3 5 6 0)) (State.with base [(6, 648)]) = true ∧ runs (.snapr (r3 5 6 0)) (State.with base [(6, 656)]) = true ∧
    runs (.snapr (r3 5 6 0)) (State.with base [(6, 16376)]) = true ∧ runs (.snapr (r3 5 6 0)) (State.with base [(6, 16384)]) = true ∧
    runs (.snapr (r3 5 6 0)) (State.with base [(6, 257)]) = true ∧ base.cx.life = .running := by decide +kernel

/-! ## Witnesses: memory -/

/-- Address 0x5000 in s6, a value in s5; the line of 0x5000 poisoned, and a state whose page is absent. -/
def ready : State := State.with base [(5, 0x1122334455667788), (6, 0x5000)]
def tainted : State := { ready with poison := [lineOf (devKey 0 0x5000)] }
def unmapped : State := State.with base [(6, 0x80000000)]

theorem witness_scalarChecks : (-1 : Int) < 0 ∧ (2 ^ 64 - 1 : Int) < 2 ^ 64 ∧ (0x5001 : Int) % (8 : Nat) ≠ 0 ∧ (0x5000 : Int) % (8 : Nat) = 0 := by decide

theorem witness_loads : (∀ i ∈ [Instr.ld (rm 5 6 3 0), .ldu (rm 5 6 3 0), .lda (rm 5 6 3 0), .st (rm 5 6 3 0), .stl (rm 5 6 3 0), .waitv (rm 5 6 3 0),
      .dcwb (rm 0 6 0 0), .dcinv (rm 0 6 0 0), .amo (rm 5 6 3 0), .amocas (rm 5 6 3 0), .red (rm 5 6 3 0)],
      runs i ready = true ∧ runs i tainted = true ∧ runs i unmapped = true) ∧
    passes (ready.scalar 0x5000 8 .load) (fun s gs => !segsPoisoned s.poison gs && leNat (readSegs s.mem gs) == 0) = true ∧
    passes (tainted.scalar 0x5000 8 .load) (fun s gs => segsPoisoned s.poison gs) = true ∧
    passes (unmapped.scalar 0x80000000 8 .load) (fun _ _ => true) = false := by decide +kernel
theorem witness_stores : passes (ready.scalar 0x5000 8 .store) (fun s _ => Memory.wf s.mem) = true ∧
    passes (ready.scalar 0x5000 8 .rmw) (fun s gs => !segsPoisoned s.poison gs) = true ∧
    passes (tainted.scalar 0x5000 8 .rmw) (fun s gs => segsPoisoned s.poison gs) = true ∧ tainted.cx.life = .running ∧
    passes (unmapped.scalar 0x80000000 8 .store) (fun _ _ => true) = false ∧ passes (ready.scalar 0x5000 1 .store) (fun _ _ => true) = true := by
  decide +kernel
theorem witness_waitv : passes ((State.with base [(6, 0x5000)]).scalar 0x5000 8 .load) (fun s gs => leNat (readSegs s.mem gs) == 0) = true ∧
    ((State.with base [(6, 0x5000)]).cx.sreg 5).toNat = 0 ∧ (ready.cx.sreg 5).toNat ≠ 0 := by decide +kernel
/-- A context that waits in WAITV at its own word on 0x5000, which read 8 zeros in cycle 0 and has been written since. -/
def watching (away : Bool) (seen : List Byte) : State :=
  { ready with cx := { ready.cx with clk := 1024, watch := some ⟨ready.cx.pc, [(devKey 0 0x5000, 8)], away, seen, none, 0⟩ } }

theorem witness_waitv_again : (∀ s ∈ [watching true [], watching false [1], watching false ((watching false []).lineBytes [(devKey 0 0x5000, 8)])],
      runs (.waitv (rm 5 6 3 0)) s = true ∧ segsPoisoned s.poison [(devKey 0 0x5000, 8)] = false) ∧
    (let s := watching false [1]
     let g : Glance := ⟨readSegs s.mem [(devKey 0 0x5000, 8)], s.lineBytes [(devKey 0 0x5000, 8)]⟩
     let t : State := { s with cx := { s.cx with watch := s.cx.watch.map fun w => { w with again := some g } } }
     runs (.waitv (rm 5 6 3 0)) t = true ∧ s.remote (devKey 0 0x5000) = false ∧ t.cx.watch.any (fun w => w.pc == t.cx.pc && w.again == some g) = true ∧
       (leNat g.bytes == (t.cx.sreg 5).toNat % 2 ^ 64) = false) ∧
    (∃ k ∈ segsLines [(devKey 0 0x5000, 8)], base.inL1 base.cx k = false) ∧
    (0 : Nat) + 1024 ≤ (watching true []).cx.now ∧ (watching false []).lineBytes [(devKey 0 0x5000, 8)] ≠ [1] ∧
    ready.cx.watch = none := by decide +kernel
theorem witness_translationFrame : Memory.wf base.mem = true ∧
    (match base.translate (some 0) base.cx.space 0x5000 .store with | .ok _ _ => true | .fail _ => false) = true := by decide +kernel
theorem witness_atomics_poisoned : passes (tainted.scalar 0x5000 8 .rmw) (fun s gs => segsPoisoned s.poison gs) = true ∧ tainted.cx.life = .running := by
  decide +kernel
theorem witness_atomicOperations : (0 : Nat) < 32 ∧ (5 : Nat) < 2 ^ 32 := by decide

theorem witness_pages : runs (.migr (rm 7 6 0 0)) (State.with base [(7, 0x10000), (6, 0x5000)]) = true ∧
    (match (State.with base [(7, 0x10000), (6, 0x5000)]).placeOf 0x5000 0x10000 false with | .virt => true | _ => false) = true ∧
    (match base.placeOf 0x8000000000000000 16 false with | .scratch _ => true | _ => false) = true ∧
    (match base.placeOf (-1) 16 false with | .bad c => c != 0x21 | _ => false) = true ∧
    (match base.placeOf 0xA000000000400000 16 false with | .bad c => c == 0x21 | _ => false) = true ∧
    runs (.tlbinv (r3 0 5 6)) base = true ∧ runs (.tlbinv (r3 0 5 6)) (State.with base [(6, 3)]) = true ∧
    (State.with { base with blocks := [{ quay := 3, op := 9, fmt := 8, keys := [], src := [] }] } [(6, 24)]).blocks ≠ [] ∧ runs (.tlbinv (r3 0 5 6)) (State.with { base with blocks := [{ quay := 3, op := 9, fmt := 8, keys := [], src := [] }] } [(6, 24)]) = true := by decide +kernel

/-! ## Witnesses: heaps and barriers -/

/-- The base state with a heap of 4 MiB at 0x1000000, in a context of that heap: s6 holds a size, s7 the address of its first block, which is
allocated in heaped. -/
def withHeap (n a : Word) : State := State.with { base with cx := { base.cx with heapBase := 0x1000000, heapSize := 2 ^ 22 } } [(6, n), (7, a)]
def heaped : State := ((withHeap 64 0x1000000).heap.elim base fun h => ((withHeap 64 0x1000000).alloc h (classOf 64)).1)

theorem witness_heapInstructions_halloc : runs (.halloc (rm 10 6 0 0)) base = true ∧ base.cx.heapBase = 0 ∧ (withHeap 0 0).cx.heapBase ≠ 0 ∧
    ((withHeap 0 0).cx.sreg 6).toNat = 0 ∧ ((withHeap 0x200001 0).cx.sreg 6).toNat > 2 ^ 21 ∧
    ((withHeap 64 0).heap.elim false fun h => ((withHeap 64 0).alloc h (classOf 64)).2.isSome) = true ∧
    ((withHeap 64 0).heap.elim false fun h => ((withHeap 64 0).alloc { h with size := 0 } (classOf 64)).2.isNone &&
      (({ withHeap 64 0 with heaps := [{ h with size := 0 }] } : State).heap == some { h with size := 0 })) = true := by decide +kernel
theorem witness_heapInstructions_hfree : runs (.hfree (rm 10 7 0 0)) heaped = true ∧ (heaped.cx.sreg 7).toNat = 0x1000000 ∧ heaped.cx.sreg 5 = 0 ∧
    runs (.hfree (rm 10 5 0 0)) heaped = true ∧ runs (.hfree (rm 10 7 0 0)) (State.with base [(7, 0x1000000)]) = true ∧ base.cx.heapBase = 0 ∧
    (heaped.heap.elim false fun h => (h.chunks.find? fun c => c.used.contains (0x1000000 - h.base)).isSome && decide (h.base ≤ 0x1000000) &&
      decide (0x1000000 < h.base + h.size) && h.chunks.all fun c => !c.used.contains (0x1000040 - h.base)) = true := by decide +kernel

/-- A barrier of the base context's cohort for n arrivals, and a state that holds it in a unit at 0x5000, with its handle in s6, what BINIT
takes in s7 and a phase in s3 and s5. -/
def barrier (n : Nat) (phase : Nat) : Barrier :=
  { exp := n, arr := 0, base := n, phase := phase, scope := 2, init := true, wantsUnit := true, bound := true, dissolved := false, owner := 0x100, regcount := 0 }
def barred (phase : Nat) (x y : Word) : State :=
  State.with { base with units := [⟨0, devKey 0 0x5000, barrier 2 phase⟩], dir := [⟨0x100, .resident, 0, 1, false, 1, 0, 0, 0, 64, 0, 0, [], [], 0, none⟩] }
    [(6, 0x5000), (7, 0x82000002), (3, x), (5, y), (8, 0x5008)]

theorem witness_barriers_arrive : (barrier 2 0).arr + 1 ≠ (barrier 2 0).exp ∧ (barrier 1 0xFFFFFFFF).arr + 1 = (barrier 1 0xFFFFFFFF).exp ∧
    (barrier 1 0xFFFFFFFF).phase < 2 ^ 32 ∧ (barrier 1 0).base = 1 ∧ 2 ≤ (barrier 2 0).base ∧ (barrier 2 0).arr + 1 < (barrier 2 0).exp ∧
    (barrier 2 7).phase = 7 ∧ (barrier 2 7).arr < (barrier 2 7).exp := by decide
theorem witness_barriers_misaligned : ((barred 0 0 0).cx.sreg 8).toNat % 64 ≠ 0 ∧
    ∀ i ∈ [Instr.binit (r3 5 8 7), .breg (r3 0 8 0), .barv (r3 5 8 0), .barw (r3 0 8 3), .barvw (r3 5 8 0), .bdrop (r3 5 8 0), .btest (r3 5 8 3)],
      runs i (barred 0 0 0) = true := by decide +kernel
theorem witness_barriers_handle : passes ((State.with base [(6, 0x5000), (7, 0x82000002)]).access (some 0) 0x5000 64 .rmw true) (fun s gs =>
      !isHost (firstKey gs) && !segsPoisoned s.poison gs && Memory.wf s.mem && !s.inUse (firstKey gs) && (s.unitOf (firstKey gs)).isNone &&
      !(Barrier.ofBytes (Memory.read s.mem (firstKey gs) 64)).init) = true ∧
    setupOk ((State.with base [(6, 0x5000), (7, 0x82000002)]).cx.sreg 7) = true ∧
    runs (.binit (r3 5 6 7)) (State.with base [(6, 0x5000), (7, 0x82000002)]) = true ∧
    runs (.btest (r3 5 6 7)) (State.with base [(6, 0x5000), (7, 0x82000002)]) = true := by decide +kernel
/-- The barrier dissolved, or met in this cycle as one whose phase 0 had completed and phase 1 had not, or registered by the member already. -/
def ended (phase : Nat) (x y : Word) : State :=
  let s := barred phase x y
  { s with units := s.units.map fun u => { u with block := { u.block with dissolved := true } } }
def metAt (s : State) (b : Barrier) : State := { s with meetings := [⟨devKey 0 0x5000, b, []⟩] }
def enrolled (s : State) : State := { s with dir := s.dir.map fun d => { d with regs := [(0, devKey 0 0x5000)] } }

/-- The barrier that an access to 0x5000 finds, with a check of it and of the state. -/
def meets (s : State) (p : State → Barrier → Bool) : Bool :=
  passes (s.access (some 0) 0x5000 64 .rmw true) fun s gs => !isHost (firstKey gs) && (s.unitOf (firstKey gs)).isSome &&
    (s.barrierAt (firstKey gs)).elim false fun b => b.init && (!b.wantsUnit || b.owner == s.cx.cohort) && p s b

theorem witness_barriers_member : meets (barred 1 0 0) (fun s b => s.meetings.isEmpty && !b.dissolved && b.completed 0 && !b.completed 1 &&
      !s.registered (devKey 0 0x5000) && !s.tooMany (devKey 0 0x5000)) = true ∧
    meets (ended 1 0 0) (fun s b => s.meetings.isEmpty && b.dissolved && b.completed 0 && !b.completed 1) = true ∧
    meets (metAt (barred 2 0 0) (barrier 2 1)) (fun s b => b.completed 1 && !(barrier 2 1).completed 1 && (barrier 2 1).completed 0 && !s.meetings.isEmpty) = true ∧
    meets (enrolled (barred 1 0 0)) (fun s _ => s.meetings.isEmpty && s.registered (devKey 0 0x5000)) = true ∧
    (∀ s ∈ [barred 1 0 0, barred 1 1 0x8000000000000000, ended 1 0 0, ended 1 1 1, enrolled (barred 1 0 0), metAt (barred 2 0 0) (barrier 2 1)],
      ∀ i ∈ [Instr.barv (r3 5 6 0), .breg (r3 0 6 0), .bdrop (r3 5 6 0), .barw (r3 0 6 3), .barvw (r3 5 6 0), .btest (r3 5 6 3)], runs i s = true) ∧
    2 ^ 63 ≤ ((barred 1 1 0x8000000000000000).cx.sreg 5).toNat ∧ ((barred 1 0 0).cx.sreg 5).toNat < 2 ^ 63 ∧ ((barred 1 0 0).cx.sreg 3).toNat = 0 ∧
    ((barred 1 1 0).cx.sreg 3).toNat = 1 := by decide +kernel
theorem witness_barriers_kept : ((barred 0 0 0).unitOf (devKey 0 0x5000)).isSome = true ∧ (barrier 2 0).arrive.1.dissolved = false ∧
    (base.unitOf (devKey 0 0x5000)).isNone = true ∧ ({ barrier 2 0 with wantsUnit := false, owner := 0 } : Barrier).wantsUnit = false ∧
    (let s : State := { barred 0 0 0 with meetings := [⟨devKey 0 0x5000, barrier 2 0, [0]⟩] }
     s.meetings = [⟨devKey 0 0x5000, barrier 2 0, 0 :: []⟩] ∧ s.barrierAt (devKey 0 0x5000) = some (barrier 2 0)) := by decide +kernel

/-! ## Witnesses: forwarding -/

/-- Which case of Forwards a state and an instruction are in: 0 a failed decode, 1 larger than the queue, 2 no room, 3 void, 4 a failed check,
5 far ahead, 6 forwarded. -/
def caseOf (i : Instr) (q : Queue) (guard : Bool) (check : Option Trap) (s : State) : Nat :=
  let n := entriesFor i (!guard)
  if (s.decodeTrap i).isSome then 0
  else if s.cx.depth q < n then 1
  else if s.cx.depth q < (s.cx.queue q).count + n then 2
  else if !guard then 3
  else if check.isSome then 4
  else if s.cx.farAhead (s.cx.entryOf i false) then 5
  else 6

/-- The base state with a depth of n for every queue. -/
def deep (s : State) (n : BitVec 8) : State := { s with cx := { s.cx with slipd := Vector.replicate 5 n } }

/-- A state with tiles t1 and t2 of AB and t3 of WB, 4,096 bytes each, t2 and t3 ready, the shapes h1 of such rows, h2 of FP32 rows and h4 of a matrix
operand, and 0x5000,
8 and AB's window in s6, s3 and s7. -/
def engine : State :=
  let h : Shape := { Shape.reset with fmt := 0xA }
  let t : Tile := { Tile.reset with extent := 4096 }
  let r : Tile := { t with state := .ready, fepoch := 1, cepoch := 1 }
  let c := (((((base.cx.modTile 1 fun _ => t).modTile 2 fun _ => r).modTile 3 fun _ => { r with wb := true }).setShape 1 h).setShape 2 { h with fmt := 8 }).setShape 4 { h with stride := 0 }
  State.with { base with cx := c } [(6, 0x5000), (3, 8), (7, 0x8000000000000000), (8, 0x100), (9, 0x6000), (10, 16)]

/-- Instructions handed to a queue one after the other. -/
def State.queued (s : State) (q : Queue) (l : List Instr) : State := l.foldl (fun s i => s.forwarded q (s.cx.entryOf i false)) s

def rx2 (f : BitVec 4) : X := { rx 2 3 f 1 with ha := 4, hb := 4 }
def tileLoads : List Instr :=
  [.tld (rt 1 6 0 0 0), .tldx (rt 1 6 0 1 0), .tldv (rt 1 6 0 0 0), .vldb (rt 1 6 0 0 0), .tgath (rt 1 6 0 1 2), .vgath (rt 1 6 0 2 2),
   .tfill (rt 1 6 0 1 0), .tcpy (rt 1 7 0 0 0), .vldt (rt 2 0 3 1 2), .tstat (rt 1 0 0 0 0)]
def tileStores : List Instr := [.tst (rt 2 6 0 0 0), .tstv (rt 2 6 0 0 0), .tscat (rt 2 6 0 0 2), .vstt (rt 2 0 0 0 2)]

def commands : List Instr := [.mma (rx2 0xA), .mmaz (rx2 0xA), .mmau (rx2 5)]
def joins : List Instr := [.amld (rx 1 0 8 0), .amldStat (rx 1 0 7 0), .amz (rx 0 0 8 0), .mhint (rx 0 0 0 0), .msync (rx 0 0 0 0)]

def vectorOperands : List V := [rv 9 10 11 12 8 0, rv 9 10 11 0 8 0, rv 9 10 0 0 8 0, rv 1 2 3 0 8 0, rv 1 2 3 0 4 0, rv 1 2 0 0 4 0, rv 1 2 3 0 0 0, rv 1 2 0 0 0 0,
  rv 1 0 0 0 8 0, rv 1 1 1 0 0 0, rv 1 2 3 0 9 0, rv 1 0 0 0 8 1, rv 1 2 0 0 0 1, rv 0 2 0 0 8 3, rv 0 2 0 0 0 2, rv 0 2 0 0 8 0, rv 1 2 0 0 0xD 0, rv 1 2 0 2 8 8, rv 1 2 0 8 8 8, rv 1 2 0 8 1 0, rv 1 2 0 8 2 0, rv 1 2 3 2 0xD 0]
def portOperands : List N := [rn 8 10 9 4 0 0, rn 10 0 9 4 0 0, rn 10 0 0 4 0 0, rn 8 0 9 0 0 1, rn 9 10 0 0 0 0, rn 9 0 0 0 0 0, rn 9 10 9 0 0 0, rn 0 9 9 0 0 1, rn 9 0 9 0 0 0,
   rn 0 0 0 0 0 0, rn 9 0 0 0 1 0, rn 9 10 9 0 0 1, rn 10 0 9 0 0 0, rn 0 0 9 0 0 0, rn 9 10 9 0 0 4]
def tileCase (q : Queue) (guard : Bool) (s : State) (i : Instr) : Nat := caseOf i q guard (s.tileCheck (s.cx.entryOf i false)) s

/-- Queues of two places with both taken, and tile t1 128 fills ahead. -/
def full : State := State.queued (deep engine 2) .lq [.pft (rt 0 0 0 0 0), .pft (rt 0 0 0 0 0)]
def fullSq : State := State.queued (deep engine 1) .sq [.trel (rt 2 0 0 0 0)]
def ahead : State := { engine with cx := engine.cx.modTile 1 fun t => { t with fepoch := 127 } }

theorem witness_tileForwarding : (∀ i ∈ tileLoads, tileCase .lq true engine i = 6 ∧ tileCase .lq true (deep engine 0) i = 1 ∧
      tileCase .lq true full i = 2 ∧ tileCase .lq false engine i = 3) ∧
    (∀ i ∈ tileStores, tileCase .sq true engine i = 6 ∧ tileCase .sq true (deep engine 0) i = 1 ∧ tileCase .sq true fullSq i = 2 ∧
      tileCase .sq false engine i = 3) ∧
    tileCase .lq true base (.tld (rt 1 6 0 0 0)) = 4 ∧ tileCase .sq true base (.tst (rt 1 6 0 0 0)) = 4 ∧
    tileCase .lq true ahead (.tld (rt 1 6 0 0 0)) = 5 ∧ caseOf (.unfcfg (rt 1 6 3 0 0)) .lq true none engine = 6 ∧
    (Unfold.ofWords (engine.cx.sreg 6) (engine.cx.sreg 3)).legal = false ∧
    (Unfold.ofWords 0x0101111100000000 0x0001000100010000).legal = true ∧
    caseOf (.trel (rt 2 0 0 0 0)) .sq true none engine = 6 := by decide +kernel

theorem witness_vectorForwarding : (∀ k < 43, (vectorOperands.any fun o => ((vectorForms o)[k]?).elim false fun i =>
      caseOf i .aq true (vectorCheck engine (engine.cx.entryOf i false)) engine == 6) = true) ∧
    (let i := Instr.vadd (rv 9 10 2 0 8 8); caseOf i .aq true (vectorCheck engine (engine.cx.entryOf i false)) engine = 6 ∧
      ((opersOf (engine.cx.entryOf i false).instr).any Oper.isTile) = true) ∧
    (let i := Instr.vadd (rv 9 10 3 0 8 8); vectorCheck engine (engine.cx.entryOf i false) = some (engine.cuTrap 0x40)) := by decide +kernel

theorem witness_matrixForwarding : (∀ i ∈ commands, caseOf i .mq true (commandCheck engine (engine.cx.entryOf i false)) engine = 6 ∧
      caseOf i .mq true (commandCheck base (base.cx.entryOf i false)) base = 4) ∧
    (let i := Instr.amst { rx 2 0 0 0 with ha := 4 }; caseOf i .mq true (amstCheck engine (engine.cx.entryOf i false)) engine = 6) ∧
    ∀ i ∈ joins, caseOf i .mq true none engine = 6 ∧ caseOf i .mq true none (deep engine 0) = 1 := by decide +kernel

theorem witness_portForwarding : ∀ k < 23, (portOperands.any fun o => ((portForms o engine)[k]?).elim false fun f =>
    caseOf f.1 .nq true f.2 engine == 6) = true := by decide +kernel

theorem witness_forwardedEntry : fieldsOf (.tld (rt 1 6 0 1 0)) = .t (rt 1 6 0 1 0) ∧ fieldsOf (.vadd (rv 1 2 3 0 8 0)) = .v (rv 1 2 3 0 8 0) ∧
    fieldsOf (.tend (rn 0 0 0 0 0 0)) = .n (rn 0 0 0 0 0 0) ∧ fieldsOf (.msync (rx 0 0 0 0)) = .x (rx 0 0 0 0) := by decide +kernel

/-! ## Witnesses: elements -/

theorem witness_integerElements : 1 ≤ (2 : BitVec 4).toNat ∧ (2 : BitVec 4).toNat ≤ 7 ∧ (127 : Nat) < 2 ^ 8 ∧ (127 : Int) < 127 + 1 ∧ -128 + -1 < (-128 : Int) := by
  decide
theorem witness_exactValues : 8 ≤ (0xA : BitVec 4).toNat ∧ 0x3F80 < 2 ^ fmtWidth 0xA ∧ (elemValue 0xA 0x3F80).isNan = false := by decide +kernel

/-! ## Witnesses: issue, completion, the watchdog -/

/-- Issues, as one check of a queue's head that has followed no other. -/
def issues (s : State) (q : Queue) (e : Entry) : Bool :=
  s.cx.life == .running && !(s.cx.queue q).issued && decide (e.born < s.cx.now) && (s.cx.queue q).last.isNone &&
    (s.cx.queue q).gone.isNone && s.cx.canTake (e.instr.sync.getD Sync.plain).takes && s.cx.opersOk e && !s.cx.moving q && s.engineFree q e

/-- A check of the head of a queue. -/
def headed (s : State) (q : Queue) (p : Entry → Bool) : Bool := (s.cx.queue q).entries.head?.elim false p

theorem head_of_headed {s : State} {q : Queue} {p : Entry → Bool} (h : headed s q p = true) :
    ∃ e rest, (s.cx.queue q).entries = e :: rest ∧ p e = true := by
  unfold headed at h
  cases hq : (s.cx.queue q).entries with
  | nil => simp [hq] at h
  | cons e rest => exact ⟨e, rest, rfl, by simpa [hq] using h⟩

theorem issues_of_headed {s : State} {q : Queue} {p : Entry → Bool} (h : headed s q (fun e => issues s q e && p e) = true) :
    ∃ e rest, Issues s q e rest ∧ p e = true := by
  obtain ⟨e, rest, hq, hp⟩ := head_of_headed h
  simp only [issues, Bool.and_eq_true, Bool.not_eq_true', decide_eq_true_eq, beq_iff_eq, Option.isNone_iff_eq_none] at hp
  obtain ⟨⟨⟨⟨⟨⟨⟨⟨⟨a, b⟩, c⟩, d⟩, n⟩, f⟩, g⟩, j⟩, k⟩, m⟩ := hp
  exact ⟨e, rest, ⟨a, hq, b, c, fun l hl => by simp [d] at hl, by simp [n], f, g, j, k⟩, m⟩

/-- One instruction at the head of a queue, five cycles after its forwarding. -/
def at_ (s : State) (q : Queue) (i : Instr) (isVoid : Bool := false) : State :=
  let t := s.forwarded q (s.cx.entryOf i isVoid)
  { t with cx := { t.cx with cycle := 105, clk := t.cx.clk + 5 }, time := 105 * 252 }

/-- At most n rows of a transfer's head move, ending as the check says. -/
def rowsMove (s : State) (q : Queue) (e : Entry) (p : Option (BitVec 7) → Bool) (n : Nat := 4096) : Bool :=
  let s0 : State := { s with cx := (opersOf e.instr).foldl Ctx.beginOper (s.cx.accept q e) }
  let h := e.xferShape.getD e.own
  let k := s0.cx.reached q e
  !atOnce e && (k != 0 || !s0.cx.tagBad e h) && p ((s0.moveRows e h k [] (min n ((spanOf e.instr h).rows - k))).2.2.map fun f => f.2.cause)

/-- The state with 0x80000000, which no page maps, in s11. -/
def astray : State := State.with engine [(11, 0x80000000)]

theorem witness_queueIssue_blocked : ∃ e rest, (busy.cx.queue .lq).entries = e :: rest ∧ busy.cx.life = .running ∧ ¬ Issues busy .lq e rest := by
  obtain ⟨e, rest, h, k⟩ := head_of_headed (s := busy) (q := .lq) (p := fun e => !decide (e.born < busy.cx.now)) (by decide +kernel)
  exact ⟨e, rest, h, rfl, fun i => by simp [i.2.2.2.1] at k⟩

theorem witness_queueIssue_transfer :
    (∃ e rest, Issues (at_ engine .lq (.tld (rt 1 6 0 0 0)) true) .lq e rest ∧ e.isVoid = true) ∧
    (∃ e rest, Issues (at_ engine .lq (.tld (rt 1 6 0 0 0))) .lq e rest ∧
      rowsMove (at_ engine .lq (.tld (rt 1 6 0 0 0))) .lq e (fun r => r == none) = true) ∧
    (∃ e rest, Issues (at_ engine .sq (.tst (rt 2 6 0 0 0))) .sq e rest ∧
      rowsMove (at_ engine .sq (.tst (rt 2 6 0 0 0))) .sq e (fun r => r == none) = true) ∧
    (∃ e rest, Issues (at_ astray .lq (.tld (rt 1 11 0 0 0))) .lq e rest ∧
      rowsMove (at_ astray .lq (.tld (rt 1 11 0 0 0))) .lq e (fun r => r == some 0x20) = true) ∧
    (∃ e rest, Issues (at_ { engine with poison := [lineOf (devKey 0 0x5000)] } .lq (.tld (rt 1 6 0 0 0))) .lq e rest ∧
      rowsMove (at_ { engine with poison := [lineOf (devKey 0 0x5000)] } .lq (.tld (rt 1 6 0 0 0))) .lq e (fun r => r == some 0x25) = true) ∧
    (∃ e rest, Issues (at_ { engine with spans := [1] } .lq (.tld (rt 1 6 0 0 0))) .lq e rest ∧
      (rowsMove { at_ engine .lq (.tld (rt 1 6 0 0 0)) with spans := [] } .lq e (fun r => r == none) 1 && decide (1 < (spanOf e.instr (e.xferShape.getD e.own)).rows)) = true) ∧
    engine.injected engine.cx.coreNumber = false ∧ (at_ engine .lq (.tld (rt 1 6 0 0 0))).spans = [] :=
  ⟨issues_of_headed (by decide +kernel), issues_of_headed (by decide +kernel), issues_of_headed (by decide +kernel),
   issues_of_headed (by decide +kernel), issues_of_headed (by decide +kernel), issues_of_headed (by decide +kernel), by decide +kernel⟩

/-- What an AQ head gives. -/
def aqGives (s : State) (e : Entry) (p : AqResult → Bool) : Bool :=
  e.vFields.elim false fun o => !e.isVoid && !e.schk &&
    let k := (aqTiming e.instr (aqFormat s.cx o e.own) (aqRows e.instr e.timingShape)).rate
    p (aqOut e.instr (s.aqIn (s.cx.readView s.cx.now k (readRate e.instr k)) e o))

theorem witness_queueIssue_vector :
    (∃ e rest, Issues (at_ engine .aq (.vand (rv 9 10 11 0 0 0))) .aq e rest ∧
      aqGives (at_ engine .aq (.vand (rv 9 10 11 0 0 0))) e (fun r => okay r fun _ => true) = true) ∧
    (∃ e rest, Issues (at_ engine .aq (.vadd (rv 9 10 11 0 0 0))) .aq e rest ∧
      aqGives (at_ engine .aq (.vadd (rv 9 10 11 0 0 0))) e (fun r => !okay r fun _ => true) = true) :=
  ⟨issues_of_headed (by decide +kernel), issues_of_headed (by decide +kernel)⟩

theorem witness_queueIssue_matrix : ∀ i ∈ [Instr.amz (rx 0 0 8 0), .amldStat (rx 1 0 7 0), .msync (rx 0 0 0 0), .mhint (rx 0 0 0 0)],
    ∃ e rest, Issues (at_ engine .mq i) .mq e rest ∧ (!e.isVoid) = true := by
  intro i h
  refine issues_of_headed ?_
  revert i h; decide +kernel

/-- How the port serves a head. -/
def served (s : State) (e : Entry) : Nat :=
  match s.portServes e with
  | .over s1 => if s1.cx.nq = s.cx.nq && s1.cx.is s.cx.ref then 1 else 0
  | .waits s1 => if s1.cx.nq = s.cx.nq && s1.cx.is s.cx.ref then 2 else 0
  | .stays => 3
  | .fails _ => 4

/-- The state while a copy to 0x6000 of its context is under way. -/
def copying : State :=
  let s := at_ engine .nq (.cpy (rn 6 9 10 0 0 0))
  { engine with copies := ((s.cx.nq.entries.head?).elim s fun e => s.issueHead .nq e).copies }

theorem witness_queueIssue_port :
    (∃ e rest, Issues (at_ engine .nq (.launch (rn 9 0 9 0 0 0))) .nq e rest ∧ (served (at_ engine .nq (.launch (rn 9 0 9 0 0 0))) e == 1) = true) ∧
    (∃ e rest, Issues (at_ engine .nq (.tend (rn 0 0 0 0 0 0))) .nq e rest ∧ (served (at_ engine .nq (.tend (rn 0 0 0 0 0 0))) e == 2) = true) ∧
    (∃ e rest, Issues (at_ copying .nq (.qsnap (rn 9 0 0 0 0 0))) .nq e rest ∧ (served (at_ copying .nq (.qsnap (rn 9 0 0 0 0 0))) e == 3) = true) ∧
    (∃ e rest, Issues (at_ astray .nq (.hring (rn 11 0 9 0 0 0))) .nq e rest ∧ (served (at_ astray .nq (.hring (rn 11 0 9 0 0 0))) e == 4) = true) :=
  ⟨issues_of_headed (by decide +kernel), issues_of_headed (by decide +kernel), issues_of_headed (by decide +kernel), issues_of_headed (by decide +kernel)⟩

theorem witness_queueIssueCompletes :
    (∃ e rest, Issues (at_ engine .aq (.vand (rv 9 10 11 0 0 0)) true) .aq e rest ∧ e.isVoid = true) ∧
    (∀ i ∈ [Instr.pft (rt 0 6 0 1 0), .unfcfg (rt 1 6 0 0 0), .tstat (rt 1 0 0 1 0)], ∃ e rest, Issues (at_ engine .lq i) .lq e rest ∧
      (!e.isVoid && e.instr == i) = true) ∧
    (∃ e rest, Issues (at_ engine .sq (.trel (rt 2 0 0 0 0))) .sq e rest ∧ (!e.isVoid && e.instr == .trel (rt 2 0 0 0 0)) = true) ∧
    (∀ i ∈ [Instr.tend (rn 0 0 0 0 0 0), .vexp (rn 10 0 0 9 0 0)], ∃ e rest, Issues (at_ engine .nq i) .nq e rest ∧ (e.instr == i) = true) ∧
    engine.injected engine.cx.coreNumber = false := by
  refine ⟨issues_of_headed (by decide +kernel), ?_, issues_of_headed (by decide +kernel), ?_, by decide +kernel⟩
  · intro i h
    refine issues_of_headed ?_
    revert i h; decide +kernel
  · intro i h
    refine issues_of_headed ?_
    revert i h; decide +kernel

/-- The state once the head of a queue has issued. -/
def issued (s : State) (q : Queue) : State := (s.cx.queue q).entries.head?.elim s fun e => s.issueHead q e

/-- The state a cycle later. -/
def later (s : State) (n : Nat := 1) : State := { s with cx := { s.cx with clk := s.cx.clk + n }, time := s.time + n * clockPeriod s.clock }

theorem witness_completion :
    (let s := issued (at_ engine .lq (.tld (rt 1 6 0 0 0))) .lq; s.cx.lq.last = some s.cx.now ∧ (later s).cx.lq.last ≠ some (later s).cx.now) ∧
    (let s := issued (at_ engine .mq (.amz (rx 0 0 8 0))) .mq
     s.time < s.cx.mqLast ∧ (later s 4).cx.mqLast ≤ (later s 4).time ∧ (later s 4).cx.mq.last ≠ some (later s 4).cx.now) ∧
    (∀ p ∈ [(at_ engine .lq (.tld (rt 1 6 0 0 0)), Queue.lq), (at_ engine .sq (.tst (rt 2 6 0 0 0)), .sq), (at_ engine .mq (.amz (rx 0 0 8 0)), .mq),
        (at_ engine .lq (.tldv (rt 1 6 0 0 0)), .lq)],
      (issued p.1 p.2).cx.life = .running ∧ ((issued p.1 p.2).cx.queue p.2).issued = true ∧ ((issued p.1 p.2).cx.queue p.2).rstart = false ∧
        ((issued p.1 p.2).cx.queue p.2).moved = none ∧ headed (issued p.1 p.2) p.2 (fun e => !e.isVoid) = true) ∧
    (let s := issued { at_ engine .lq (.tld (rt 1 6 0 0 0)) with spans := [1] } .lq
     s.cx.life = .running ∧ s.cx.lq.issued = true ∧ s.cx.lq.rstart = false ∧ s.cx.lq.moved = some 1 ∧
      headed s .lq (fun e => (s.transfer .lq e true).cx.is s.cx.ref) = true) ∧
    headed (issued (at_ engine .lq (.tld (rt 1 6 0 0 0))) .lq) .lq (fun e => e.opers.head?.elim false fun p => p.1.isTile && p.1.role == .fill) = true ∧
    headed (issued (at_ engine .sq (.tst (rt 2 6 0 0 0))) .sq) .sq (fun e => e.opers.head?.elim false fun p => p.1.isTile && p.1.role == .leave) = true ∧
    headed (issued (at_ engine .lq (.tldv (rt 1 6 0 0 0))) .lq) .lq (fun e => e.opers.head?.elim false fun p => !p.1.isTile && p.1.role == .load) = true := by
  decide +kernel

/-- The base state one cycle before the watchdog's limit, its control unit's own instruction held, and the same with work in NQ and nothing held. -/
def patient : State := { base with cx := { base.cx with wdog := 0x3FFFFFF, held := some true } }
def stuck : State := let s := at_ engine .nq (.launch (rn 9 0 9 0 0 0)); { s with cx := { s.cx with wdog := 0x3FFFFFF, held := some false } }

theorem witness_watchdog : base.cx.life = .running ∧ base.cx.wdogLimit ≠ 0 ∧ base.cx.wdog + 1 < base.cx.wdogLimit ∧
    (∀ s ∈ [patient, stuck], s.cx.life = .running ∧ s.cx.wdogLimit ≠ 0 ∧ s.cx.progressed = false ∧ s.cx.inFlight = false ∧ s.cx.wdogLimit ≤ s.cx.wdog + 1 ∧
      s.cx.waitsOutside = false ∧ s.cx.stopped = false) ∧
    patient.cx.held = some true ∧ stuck.cx.held ≠ some true ∧ stuck.cx.firstQueue.isSome = true := by decide +kernel

/-! ## Witnesses: the matrix unit -/

/-- The next state that exec answers, or the state itself. -/
def after (i : Instr) (s : State) : State :=
  match exec i s with
  | .next t => t
  | .fault _ => s
  | .refused _ => s

/-- A state in which the base context presents a command to bench 0, and one in which its partition holds integers. -/
def presenting (i : Instr) : State := at_ engine .mq i
def integral : State := { presenting (.mma (rx2 0xA)) with cx := { (presenting (.mma (rx2 0xA))).cx with accstat := { engine.cx.accstat with int := true } } }

theorem witness_matrixEvents_grant : (∀ s ∈ [presenting (.mma (rx2 0xA)), presenting (.mmaz (rx2 0xA)), integral],
      (s.bench 0).busyUntil ≤ s.time ∧ s.presenting 0 = [(0, s.cx.ref)] ∧
      ((s.focus s.cx.ref).elim false fun s1 => s1.cx.life == .running && !s1.cx.mq.issued && s1.cx.presents.elim false fun e =>
        e.xFields.elim false fun o => (s1.cx.accstat.int == (productOf e o (formatA o (e.fills.headD Shape.reset))).int) != s1.cx.accstat.int) = true) ∧
    (base.setBench { base.bench 0 with busyUntil := 252001 }).time < ((base.setBench { base.bench 0 with busyUntil := 252001 }).bench 0).busyUntil := by
  decide +kernel

/-- The command once it is granted. -/
def granted : State := after (.matrixGrant 0) (presenting (.mma (rx2 0xA)))

theorem witness_matrixEvents_completion : granted.cx.life = .running ∧ granted.cx.mq.issued = true ∧ granted.cx.mq.rstart = false ∧
    granted.cx.accstat.rpv = false ∧ granted.injected (benchBank granted.cx.benchNumber) = false ∧ granted.time < granted.cx.mqLast ∧
    (let s : State := { granted with time := granted.cx.mqLast }
     s.cx.mqLast ≤ s.time ∧ s.time < s.cx.mqLast + 18 * clockPeriod s.clock ∧ s.injected (benchBank s.cx.benchNumber) = false ∧
      headed s .mq (fun e => e.xFields.elim false fun o => !e.isVoid && isCommand e.instr &&
        (List.range (productOf e o (formatA o (e.fills.headD Shape.reset))).chunks).all fun c => !s.chunkFails e o c false) = true) := by decide +kernel

/-- Bench 3 on its way up, with a hint, and on its way down. -/
def rising : State := base.setBench { base.bench 3 with stepAt := 1, rising := true, hint := some 0 }
def falling : State := base.setBench { base.bench 3 with stepAt := 1 }

theorem witness_matrixEvents_bench : runs (.mwrr (ri 0 7 0x203)) (State.with base [(7, 191)]) = true ∧ ((State.with base [(7, 191)]).cx.sreg 7).toNat ≤ 191 ∧
    191 < ((State.with base [(7, 192)]).cx.sreg 7).toNat ∧ (base.bench 3).stepAt = 0 ∧ (base.bench 3).hint.isSome = false ∧
    (rising.bench 3).stepAt ≠ 0 ∧ (rising.bench 3).stepAt ≤ rising.time ∧ (rising.bench 3).rising = true ∧ (rising.bench 3).hint = some 0 ∧
    (rising.bench 3).busyUntil ≤ rising.time ∧ rising.time < 4096 * clockPeriod rising.clock ∧ 4096 * clockPeriod rising.clock ≤ 2000000 ∧
    (falling.bench 3).stepAt ≠ 0 ∧ (falling.bench 3).stepAt ≤ falling.time ∧ (falling.bench 3).rising = false ∧
    ({ falling with time := 0 } : State).time < (falling.bench 3).stepAt := by decide +kernel

/-! ## Witnesses: contexts and cohorts -/

/-- A context's fault on its own instruction, a trap, and states of the base context in them. -/
def line0 : FaultLine := ⟨0, 0x4000, 0x80000000, .load, 0x20, false⟩
def alive (l : Life) : State := { base with cx := { base.cx with life := l } }
def faulty : State := { base with cx := { base.cx with life := .faulted, faultRec := [line0] } }
def trappedBy (cause : BitVec 7) : State := { base with cx := { base.cx with life := .trapped, trap := some (ownTrap cause 0 0x4000) } }

/-- Another context of the base context's core, in a state. -/
def beside (s : State) (l : Life) : State := { s with others := [{ base.cx with life := l, bank := true, coord := { base.cx.coord with member := 1 } }] }

theorem witness_contextEvents_faults : faulty.cx.life = .faulted ∧ faulty.cx.faultRec = [line0] ∧ faulty.cx.trap = none ∧ CoreFree faulty faulty.cx ∧
    ¬ CoreFree (beside faulty .running) (beside faulty .running).cx ∧ (trappedBy 0x07).handlers = [] ∧ (0x07 : BitVec 7) ≠ 0x03 ∧
    (trappedBy 0x12).retried (trappedBy 0x12).cx (ownTrap 0x12 0 0x4000) = false ∧ (trappedBy 0x12).isStopped (trappedBy 0x12).cx = false ∧
    CoreFree (trappedBy 0x12) (trappedBy 0x12).cx := by unfold CoreFree; decide +kernel
theorem witness_contextEvents_ends : (let s : State := { base with cx := { base.cx with exiting := some 1 } }; s.cx.allQuiet = true ∧ s.cx.life = .running) ∧
    (issued (at_ engine .nq (.tend (rn 0 0 0 0 0 0))) .nq).cx.tendReady = true ∧
    headed (issued (at_ engine .nq (.tend (rn 0 0 0 0 0 0))) .nq) .nq (fun _ => true) = true ∧
    (∀ s ∈ [beside (alive .trapped) .inactive], CoreFree s s.cx ∧ (s.findCtx ⟨0x100, 1⟩).elim false (fun x => x.life == .inactive && !s.isStopped x) = true) ∧
    ((beside { alive .trapped with stops := [⟨0, 0x100, 0⟩] } .inactive).findCtx ⟨0x100, 1⟩).elim false (fun x =>
      (beside { alive .trapped with stops := [⟨0, 0x100, 0⟩] } .inactive).isStopped x) = true := by unfold CoreFree; decide +kernel
theorem witness_contextEvents_reread : ∀ i ∈ [Instr.waitv (rm 5 6 3 0), .barw (r3 0 6 4), .barvw (r3 4 6 0)],
    okay (State.fetch (base.withFetchWord 64 (encode i).toNat)) (fun x => decode x.2 == some i) = true := by decide +kernel

/-- A save of cohort 0x501, with a descriptor at 0x6000, none of whose members is resident. -/
def saveOf (written : Bool) (desc : Option (Word × Space)) : Transfer :=
  { name := 0x501, desc := desc, images := [], place := none, isRestore := false, written := written, slots := [], count := 0, plains := [], handed := false }
def saves (t : Transfer) : State := { described with others := [], transfers := [t] }
def savesOne (t : Transfer) : State :=
  { described with others := [{ base.cx with cohort := 0x501, life := .idle, hasAcc := false, hasChan := false, abext := 0, wbext := 0 }], transfers := [t] }

/-- The state of a save once what reaches the cohort in its cycle has taken effect, and once its members are quiet. -/
def settled (t : Transfer) (s : State) : State := s.settleCohort t.name
def quieted (t : Transfer) (s : State) : State :=
  ((settled t s).membersOf t.name).foldl (fun s m => s.withCtx ⟨t.name, m⟩ State.quiesce) ((settled t s).modDir t.name fun d => { d with state := .saving })

/-- The images of a save's members are written: its one member is small, and the access to its image passes. -/
def imageFits (s : State) (x : Transfer) : Bool :=
  (s.findCtx ⟨x.name, 0⟩).elim false fun c => c.queueHalf.length == 8192 && !c.hasAcc && !c.sealed && c.abext == 0 && c.wbext == 0 && c.vprev == [] && c.vnext == [] &&
    s.basinOf c == [] && okay (x.addr s 0) fun a => aligned a 256 &&
      passes (s.agentAccess x.space a 163840 .store) fun s gs => !segsPoisoned s.poison gs

theorem saved_of_imageFits {s : State} {x : Transfer} (h : imageFits s x = true) : ∃ t, s.saveMembers x.name x.space (x.addr s) [0] = (t, none) := by
  unfold imageFits at h
  cases hf : s.findCtx ⟨x.name, 0⟩ with
  | none => simp [hf] at h
  | some c =>
    simp only [hf, Option.elim_some, Bool.and_eq_true, beq_iff_eq, Bool.not_eq_true'] at h
    obtain ⟨⟨⟨⟨⟨⟨⟨⟨hq, ha⟩, hs⟩, hb⟩, hw⟩, hp⟩, hn⟩, hl⟩, hx⟩ := h
    obtain ⟨a, hx, hy⟩ := ok_of_okay hx
    rw [Bool.and_eq_true] at hy
    obtain ⟨s1, gs, hg, hz⟩ := ok_of_passes hy.2
    have hlen : (c.imageHead 0 0 0 ++ List.replicate 176 0 ++ s.imageBody c []).length = 163840 := by
      rw [List.length_append, s.imageBody_length c hq ha hb hw hp hn]
      simp [Ctx.imageHead, leBytes_length, -List.reduceReplicate]
    have hm : s.saveMember c x.space a = (s1.homeWrite gs (c.imageHead 0 0 0 ++ List.replicate 176 0 ++ s.imageBody c []), 0) := by
      have hz' : segsPoisoned s1.poison gs = false := by simpa using hz
      simp only [State.saveMember, State.makeImage, hl, hs, Bool.not_false, if_true, List.length_nil, State.writeImage, State.recordWrite, hy.1, Bool.not_true, Bool.false_eq_true,
        if_false, hlen, hg, hz', -List.reduceReplicate]
    simp [State.saveMembers, hf, hx, hm, -List.reduceReplicate]

/-- The cause with which the images of a save's members are written. -/
def saveCause (t : Transfer) (s : State) : Option (BitVec 7) :=
  ((quieted t s).saveMembers t.name t.space (t.addr (quieted t s)) ((settled t s).membersOf t.name)).2.map Prod.fst

theorem witness_cohortEvents_save :
    (let t := saveOf false (some (0x6000, base.cx.space))
     t.name = 0x501 ∧ (settled t (saves t)).transferOf 0x501 false = some t ∧ (settled t (saves t)).membersOf 0x501 = [] ∧
      (settled t (savesOne t)).transferOf 0x501 false = some t ∧ (settled t (savesOne t)).membersOf 0x501 = [0] ∧ imageFits (quieted t (savesOne t)) t = true) ∧
    (let t := saveOf false (some (0x80000000, base.cx.space))
     (settled t (savesOne t)).transferOf 0x501 false = some t ∧ (settled t (savesOne t)).membersOf 0x501 = [0] ∧ saveCause t (savesOne t) = some 0x20) := by
  decide +kernel
theorem witness_cohortEvents_done : (saves (saveOf true none)).transferOf 0x501 false = some (saveOf true none) ∧
    (saves (saveOf false none)).transferOf 0x501 false = some (saveOf false none) ∧ base.transferOf 0x501 true = none ∧ base.comesHere 0x501 = false ∧
    (saves (saveOf false none)).transferOf 0x501 true = none ∧
    base.dirOf 0x501 = none ∧ (let t := { saveOf true none with isRestore := true }; (saves t).transferOf 0x501 true = some t ∧ (saves t).restoreFits t [] = false) ∧
    (let d : DirEntry := ⟨0x501, .saved, 0, 1, false, 0, 0, 0, 0, 64, 0, 0, [], [], 0, none⟩
     let s : State := { base with dir := [d] }
     s.dirOf 0x501 = some d ∧ s.inPod 0 = true ∧ s.transfers.any (·.name == 0x501) = false) := by decide +kernel

/-- A restore whose one image is of a member that declares nothing. -/
def restoring : Transfer := { saveOf true none with isRestore := true, plains := [(0, List.replicate 512 0)] }

theorem witness_cohortEvents_fits : (saves restoring).transferOf 0x501 true = some restoring ∧
    (saves restoring).restoreFits restoring [⟨1, 5, false, 0, 0⟩] = true := by decide +kernel

/-! ## Witnesses: launches -/

/-- Bytes at device addresses. -/
def State.store (s : State) (l : List (Nat × Nat × Nat)) : State :=
  { s with mem := l.foldl (fun m x => Memory.write m (devKey 0 x.1) (leBytes x.2.1 x.2.2)) s.mem }

/-- A launch record at 0x200000 with its image at 0x100000, one cohort of one member and its run list. -/
def recorded : State := State.store base
  [(0x100000, 4, 0x31534E4C), (0x100004, 2, 1), (0x100008, 2, 0x400), (0x100018, 2, 0x101), (0x100026, 1, 1), (0x100030, 2, 0x380), (0x100038, 2, 0x1000),
   (0x100380, 2, 0x400), (0x100388, 2, 0x100), (0x100390, 1, 1), (0x200000, 3, 0x100000), (0x200008, 3, 0x200100), (0x200010, 1, 1), (0x200014, 2, 0xFFFF),
   (0x200058, 3, 0x200200), (0x200060, 3, 0x200300), (0x200100, 1, 1), (0x200102, 2, 0xFFFF), (0x200208, 1, 128)]
def submits (s : State) (a : Word) : State := { s with submissions := [⟨a, base.cx.space, true, false, .host⟩] }

/-- The record's check passes as told. -/
def checks (s : State) (a : Word) (p : Except (Nat × BitVec 7) (State × Checked) → Bool) : Bool :=
  okay (({ s with submissions := [] } : State).agentRead base.cx.space a 128) fun x =>
    recNat x.2 26 2 % 65536 == 0 && p (x.1.checkLaunch x.2 base.cx.space base.cx.space true false)

theorem witness_launchEvents_check : okay (recorded.agentRead base.cx.space 0x80000000 128) (fun _ => true) = false ∧
    checks recorded 0x200000 (fun r => okay r fun _ => true) = true ∧ checks recorded 0x300000 (fun r => !okay r fun _ => true) = true ∧
    (submits recorded 0x200000).submissions[0]? = some ⟨0x200000, base.cx.space, true, false, .host⟩ := by decide +kernel

/-- The launch once it is accepted. -/
def acceptedOne : State := after (.launchRecordArrival (.submitted 0)) (submits recorded 0x200000)

/-- The launch's cohort as another node hands it over, and whether this node takes it. -/
def handedOver : HandedLaunch := { id := 0x0080000000000001, record := recorded.mem |> fun m => Memory.read m (devKey 0 0x200000) 128, table := List.replicate 8 0, asid := base.cx.asid, root := base.cx.root }

/-- The launch with one cohort, colocated or not. -/
def colocated (c : Bool) : State := { acceptedOne with launches := acceptedOne.launches.map fun l => { l with coloc := c } }

/-- Its cohort fits these slots. -/
def fitsAt (s : State) (slots : List BindSlot) : Bool :=
  (s.launchOf 1).elim false fun l => (l.cohorts[0]?).elim false fun c =>
    !c.bound && c.node == s.node && !l.terminated && c.placed slots && s.slotsOk (List.range c.members) slots
      { req := l.image.reqfeat, ab := l.image.abext, wb := l.image.wbext, acc := l.image.acc, chan := l.image.chan, binding := l.binding }

/-- The launch with a standing binding for core 7 of cluster 1. -/
def stands : State := { acceptedOne with
  launches := acceptedOne.launches.map fun l => { l with binding := some 2 }
  standing := acceptedOne.standing.set 2 { Standing.reset with w0 := 0x8004000000000000, w2 := 0x80 } }

theorem witness_launchEvents_bind : (∀ c ∈ [true, false], fitsAt (colocated c) [⟨0, 7, false, 0, 0⟩] = true ∧
      ((colocated c).launchOf 1).elim false (fun l => l.coloc == c && l.binding.isNone && l.cohorts.all fun x => (colocated c).stageReady l x) = true) ∧
    fitsAt acceptedOne [] = false ∧ fitsAt stands [⟨0, 7, false, 0, 0⟩] = true ∧
    fitsAt stands [⟨1, 7, false, 0, 0⟩] = false ∧ (stands.binding 2).reserves ⟨1, 7, false, 0, 0⟩ = true ∧
    (stands.binding 2).reserves ⟨1, 8, false, 0, 0⟩ = false := by decide +kernel
theorem witness_launchEvents_handed : recorded.booted = true ∧ okay (recorded.readImage base.cx.space (recWord handedOver.record 0)) (fun x =>
      (x.1.launchOf handedOver.id).isNone && (field handedOver.id 55 9 : BitVec 9).toNat != x.1.node && decide (1 ≤ x.1.freeSlots)) = true ∧
    okay (recorded.readImage base.cx.space 0x80000000) (fun _ => true) = false := by decide +kernel
theorem witness_launchEvents_rest : (2 : Nat) % 128 ≠ 0 ∧ base.booted = true ∧ NoBreaks base ∧ CoreFree (alive .trapped) (alive .trapped).cx ∧
    base.breaks { base.cx with cause := .launch, entry := 0x4000 } = false ∧
    ((acceptedOne.launchOf 1).elim false fun l => !acceptedOne.launchOver l true) = true ∧
    ((acceptedOne.launchOf 1).elim false fun l => ({ acceptedOne with launches := [{ l with terminated := true }] } : State).launchOver { l with terminated := true } true &&
      !acceptedOne.absent l.complSpace l.compl (64 + 8 * l.entries.length) .store && l.walk.isNone) = true := by
  unfold CoreFree NoBreaks; decide +kernel

/-! ## Witnesses: graphs and host rings -/

/-- A walk at its node at 0x400000, which has not started. -/
def walk0 : Walk :=
  { num := 0, g := 0x400000, nnodes := 4, space := base.cx.space, priv := true, compl := some 0, node := 0, started := false, startedAt := 0, body := []
    nowait := [], failed := none }

/-- The state with that walk, its node's bytes stored. -/
def walks (w : Walk) (l : List (Nat × Nat × Nat)) : State := { State.store base (l.map fun x => (0x400000 + x.1, x.2)) with walks := [w] }

/-- NodeStarts, with a check of the node's bytes and of the state after its start. -/
def starts (s : State) (w : Walk) (kind : Nat) (p : State → List Byte → Bool) : Bool :=
  s.walkOf w.num == some w && w.failed.isNone && !w.started && okay (s.agentRead w.space w.addr 64) fun x =>
    !nodeBad x.2 && nodeKind x.2 == kind && !x.1.injected 1828 && okay (x.1.agentWrite w.space (w.addr + 52) (stampBytes s.ns)) fun s2 => p s2 x.2

theorem nodeStarts_of_starts {s : State} {w : Walk} {kind : Nat} {p : State → List Byte → Bool} (h : starts s w kind p = true) :
    ∃ b s1 s2, NodeStarts s w kind b s1 s2 ∧ p s2 b = true := by
  simp only [starts, Bool.and_eq_true, beq_iff_eq, Option.isNone_iff_eq_none, Bool.not_eq_true'] at h
  obtain ⟨⟨⟨a, b⟩, c⟩, d⟩ := h
  obtain ⟨⟨s1, bs⟩, e, f⟩ := ok_of_okay d
  simp only [Bool.and_eq_true, beq_iff_eq, Bool.not_eq_true'] at f
  obtain ⟨⟨⟨g, k⟩, j⟩, m⟩ := f
  obtain ⟨s2, n, q⟩ := ok_of_okay m
  exact ⟨bs, s1, s2, ⟨a, b, c, e, g, k, j, n⟩, q⟩

theorem witness_graphEvents_start : ∀ k ∈ [(0, (1, 1, 0)), (1, (24, 1, 64)), (2, (8, 2, 0x5000)), (3, (8, 2, 0x5000)), (4, (8, 2, 0x5000)), (5, (4, 1, 3)), (6, (4, 0, 0))],
    ∃ b s1 s2, NodeStarts (walks walk0 [(0, 1, k.1), k.2]) walk0 k.1 b s1 s2 ∧ (fun _ _ => true) s2 b = true := by
  intro k h
  refine nodeStarts_of_starts ?_
  revert k h; decide +kernel
theorem witness_graphEvents_signal : starts (walks walk0 [(0, 1, 3), (8, 2, 0x5000)]) walk0 3 (fun s b =>
      !(recNat b 1 1).testBit 1 && okay (s.agentWrite base.cx.space (recWord b 8) (wordBytes (recWord b 24))) fun _ => true) = true ∧
    starts (walks walk0 [(0, 1, 3), (1, 1, 2), (8, 2, 0x5000)]) walk0 3 (fun s b => (recNat b 1 1).testBit 1 &&
      passes (s.agentAccess base.cx.space (recWord b 8) 8 .rmw) fun s gs => !segsPoisoned s.poison gs) = true := by decide +kernel
theorem witness_graphEvents_bad : okay ((walks walk0 [(0, 1, 7)]).agentRead base.cx.space walk0.addr 64) (fun x => nodeBad x.2) = true ∧
    (walks walk0 [(0, 1, 7)]).walkOf 0 = some walk0 := by decide +kernel

/-- A walk that waits on the word at 0x5000, with a limit of n µs. -/
def waiting (n c : Nat) : Walk :=
  { walk0 with started := true, startedAt := 0, body := (List.replicate 8 0).set 0 2 ++ leBytes 8 0x5000 ++ List.replicate 8 0 ++ leBytes 8 c ++ leBytes 4 0 ++ leBytes 4 n ++ List.replicate 24 0 }

theorem witness_graphEvents_wait : (∀ w ∈ [waiting 0 0, waiting 0 1], (walks w []).walkOf 0 = some w ∧ nodeKind w.body = 2 ∧ recNat w.body 36 4 = 0) ∧
    (let s : State := { walks (waiting 1 1) [] with time := 756000 }; 1000 * recNat (waiting 1 1).body 36 4 ≤ s.ns ∧ recNat (waiting 1 1).body 36 4 ≠ 0) ∧
    okay ((walks (waiting 0 0) []).agentRead base.cx.space (recWord (waiting 0 0).body 8) 8) (fun x => nodeCompare (waiting 0 0).body (recWord x.2 0)) = true ∧
    okay ((walks (waiting 0 1) []).agentRead base.cx.space (recWord (waiting 0 1).body 8) 8) (fun x => !nodeCompare (waiting 0 1).body (recWord x.2 0)) = true := by
  decide +kernel
theorem witness_graphEvents_decides : ∀ n ∈ [(0 : Nat), 1], okay ((walks (waiting 0 0) []).agentRead base.cx.space (recWord (waiting 0 n).body 8) 8) (fun x =>
    (nodeCompare (waiting 0 n).body (recWord x.2 0) == (n == 0)) && okay (x.1.agentWrite base.cx.space (walk0.addr + 48) (leBytes 4 0)) fun _ => true) = true := by
  decide +kernel

/-- A graph start block at 0x300000, and a ring with a late record. -/
def startBlock : State := State.store base [(0x300000, 4, 0x400000), (0x300008, 1, 1), (0x30000C, 1, 1), (0x300010, 4, 0x10000)]
def lateRing : State := { base with hostRings := base.hostRings.set 3 { HostRing.reset with time := 1, pend := 1 } }

theorem witness_graphEvents_rest : okay (startBlock.agentRead ⟨0, none⟩ 0x300000 32) (fun x => !startBlockBad x.2 && decide (x.1.walks.length < 64)) = true ∧
    startBlock.booted = true ∧ ({ base with booted := false } : State).booted = false ∧ (3 : Nat) % 32 ≠ 0 ∧ (lateRing.hostRing 3).late lateRing.ns = true ∧ (lateRing.hostRing 4).late lateRing.ns = false := by decide +kernel

/-! ## Witnesses: arrivals -/

/-- An arrival of a kind for member 0 of the base context's cohort, and the state in which it is due. -/
def arrives (kind : Nat) (record : Word) (value : Nat) : Arrival :=
  { name := 0x100, member := 0, reg := 5, rows := 0xFF, tag := 0, kind := kind, rel := false, scope := 0, seq := 0, sender := 0, stataddr := 0, stamp := 0
    record := record, value := value, data := 0 }
def dirBase : State := { base with dir := [⟨0x100, .resident, 0, 1, false, 1, 0, 0, 0, 64, 0, 0, [], [], 0, none⟩] }
def flightOf (a : Arrival) (bytes : List Byte) (busy : Nat) : Flight := ⟨.arrival a bytes, .none, busy, 0, false, false, 0⟩
def dueOf (s : State) (a : Arrival) (bytes : List Byte) (busy : Nat) : State := { s with flights := [flightOf a bytes busy] }

theorem due_of_dueOf (s : State) (a : Arrival) (bytes : List Byte) (busy : Nat) : ArrivalDue (dueOf s a bytes busy) 0 a bytes (flightOf a bytes busy) :=
  ⟨rfl, rfl, rfl, Nat.zero_le _, by simp [heldBehind, behindRing, flightOf], rfl, rfl⟩

/-- How an arrival is answered. -/
def answered (s : State) (a : Arrival) (bytes : List Byte) (x : Answer) : Bool :=
  match s.placeArrival .none a bytes with
  | .here _ y => y == x
  | _ => false

/-- The base state with a full basin, a full inbox, or v5 expected. -/
def fullBasin : State := { dirBase with basins := List.replicate 16 ⟨0, 0, arrives 1 0 0⟩ }
def fullInbox : State := { dirBase with cx := { dirBase.cx with inbox := List.replicate 32 ⟨arrives 4 0 0, []⟩ } }
def expectant : State := { dirBase with cx := { dirBase.cx with expects := [⟨5, 0⟩] } }

theorem witness_arrivalEvents_places : answered (dueOf dirBase (arrives 1 0 0) [] 0) (arrives 1 0 0) [] (.settled 1 0) = true ∧
    answered (dueOf fullBasin (arrives 1 0 0) [] 0) (arrives 1 0 0) [] .busy = true ∧ answered (dueOf fullBasin (arrives 1 0 0) [] 4095) (arrives 1 0 0) [] .busy = true ∧
    answered (dueOf dirBase (arrives 3 0x80000000 1) [] 0) (arrives 3 0x80000000 1) [] .hold = true ∧
    answered (dueOf dirBase (arrives 2 0x5000 1) [] 0) (arrives 2 0x5000 1) [] (.settled 0 0) = true ∧
    answered (dueOf dirBase (arrives 4 0x5000 1) (List.replicate 64 0) 0) (arrives 4 0x5000 1) (List.replicate 64 0) (.settled 0 0) = true ∧
    (∀ k ∈ [1, 2, 3, 4], ∃ f ∈ arrivalEvents 0, (arrives k 0 0).kind = f.1) := by decide +kernel
theorem witness_arrivalEvents_members : expectant.cx.expecting 5 = true ∧ dirBase.cx.expecting 5 = false ∧ dirBase.basinCount 0 0 < 16 ∧
    16 ≤ fullBasin.basinCount 0 0 ∧ dirBase.cx.abext < 64 * recNat (List.replicate 22 0 ++ [65, 0]) 22 2 + 64 ∧ 32 ≤ fullInbox.cx.inbox.length ∧
    64 * recNat (List.replicate 64 0) 22 2 + 64 ≤ dirBase.cx.abext ∧ dirBase.cx.inbox.length < 32 := by decide +kernel

/-- The counter of the record at 0x5000 holds n. -/
def counted (n : Nat) : State := { dirBase with mem := Memory.write dirBase.mem (dirBase.cx.counterKey 0) (leBytes 4 n) }

theorem witness_arrivalEvents_tasks : ∀ n ∈ [(0 : Nat), 1, 2], (counted n).absent base.cx.space 0x5000 128 .store = false ∧
    okay ((counted n).agentRead base.cx.space (0x5000 + 16) 4) (fun x => counterOk (counted n).cx (recNat x.2 0 4) &&
      leNat (Memory.read x.1.mem ((counted n).cx.counterKey (recNat x.2 0 4)) 4) == n &&
      (n != 1 || (State.queueTask { x.1 with mem := Memory.write x.1.mem ((counted n).cx.counterKey (recNat x.2 0 4)) (leBytes 4 0) } (counted n).cx 0x5000).isSome)) = true := by
  decide +kernel

/-- The base cohort's directory entry while it drains its deferred arrivals. -/
def draining (l : List Arrival) : State := { base with dir := [⟨0x100, .resident, 0, 1, true, 1, 0, 0, 0, 64, 0, 0, l, [], 0, none⟩] }

theorem witness_arrivalEvents_deferred : (draining []).dirOf 0x100 = some ⟨0x100, .resident, 0, 1, true, 1, 0, 0, 0, 64, 0, 0, [], [], 0, none⟩ ∧
    (dirBase.dirOf 0x100).elim false (fun d => !d.draining) = true ∧
    (({ draining [arrives 1 0 0] with cx := { base.cx with life := .exited } } : State).findCtx ⟨0x100, 0⟩).elim true (fun c => !c.resident) = true ∧
    ((draining [arrives 1 0 0]).findCtx ⟨0x100, 0⟩).elim false (fun c => c.resident && ((draining [arrives 1 0 0]).storeArrival c (arrives 1 0 0)).2 == .settled 1 0) = true ∧
    (({ draining [arrives 1 0 0] with basins := fullBasin.basins } : State).findCtx ⟨0x100, 0⟩).elim false (fun c =>
      (({ draining [arrives 1 0 0] with basins := fullBasin.basins } : State).storeArrival c (arrives 1 0 0)).2 == .busy) = true := by decide +kernel

/-! ## Witnesses: tasks, remote accesses and copies -/

/-- An idle context with a run-list block at 0x7000 of n entries, and a neighbour with one task at 0x6000. -/
def idles (n : Nat) : State :=
  let s := State.store base [(0x7001, 1, 0x80), (0x7008, 1, 128), (0x7018, 1, n)]
  { s with cx := { base.cx with life := .idle, runBlock := 0x7000, nmem := 2 } }
def neighbour : State := { idles 0 with others := [{ base.cx with nmem := 2, runList := [0x6000], coord := { base.cx.coord with core := 1, member := 1 } }] }

/-- The idle context while a debugger stops it. -/
def halted (n : Nat) : State := { idles 0 with cx := { (idles 0).cx with nmem := n }, stops := [⟨0, 0x100, 0⟩] }

/-- A dequeue takes its entry. -/
def takes (s : State) (rec : Word) : Bool := match s.dequeue rec with | .taken _ => true | .left _ => false

theorem witness_tasks_own : (idles 0).mayStart = true ∧ (halted 2).cx.life = .idle ∧ (halted 2).mayStart = false ∧ (halted 2).cx.inbox = [] ∧ (halted 2).cx.runList = [] ∧ 1 < (halted 2).cx.nmem ∧ NoBreaks (idles 0) ∧ (idles 0).cx.inbox = [] ∧
    (let s : State := { idles 0 with cx := { (idles 0).cx with inbox := [⟨arrives 4 0x5000 0, List.replicate 64 0⟩] } }
     s.mayStart = true ∧ s.cx.listTurn = false ∧ NoBreaks s) ∧
    (let s : State := { idles 0 with cx := { (idles 0).cx with runList := [0x6000] } }
     s.mayStart = true ∧ (s.refill s.cx.ref 64).cx.runList = [0x6000] ∧ takes (s.refill s.cx.ref 64) 0x6000 = true) := by
  unfold NoBreaks; decide +kernel
theorem witness_tasks_steal : (idles 0).mayStart = true ∧ 1 < (idles 0).cx.nmem ∧ (((idles 0).refill ⟨0x100, 1⟩ 64).findCtx ⟨0x100, 1⟩).isNone = true ∧
    neighbour.mayStart = true ∧ ((neighbour.refill ⟨0x100, 1⟩ 64).findCtx ⟨0x100, 1⟩).elim false (fun v => v.resident && v.runList == [0x6000] &&
      !(neighbour.refill ⟨0x100, 1⟩ 64).isStopped v && okay ((neighbour.refill ⟨0x100, 1⟩ 64).agentRead neighbour.cx.space (0x6000 + 13) 1) fun x =>
        !(x.2.headD 0).getLsbD 0 && takes x.1 0x6000) = true ∧ base.cx.nmem ≤ 1 := by decide +kernel
theorem witness_tasks_refill : ((idles 1).findCtx ⟨0x100, 0⟩).elim false (fun c => decide (c.runList.length < 64) && ((idles 1).runBlockOf c).elim false fun b =>
      b.count == 1 && okay ((idles 1).agentRead c.space (b.slot b.head) 8) fun _ => true) = true ∧
    ((idles 0).findCtx ⟨0x100, 0⟩).elim false (fun c => ((idles 0).runBlockOf c).elim false fun b => b.count == 0) = true := by decide +kernel

theorem witness_remoteAccesses : (let s : State := { base with poison := [lineOf (devKey 0 0x5000)] }
      segsPoisoned s.poison [(devKey s.node 0x5000, 64 / 8)] = true ∧ segsPoisoned s.poison [(devKey s.node 0x6000, 64 / 8)] = false) ∧
    (let s : State := { base with flights := [⟨.load 0x5000 8, .none, 0, 0, false, false, 0⟩, ⟨.store 0x5000 [1], .none, 0, 0, false, false, 0⟩, ⟨.atomic 0x5000 0xF true 0 1, .none, 0, 0, false, false, 0⟩] }
     s.flights[0]? = some ⟨.load 0x5000 8, .none, 0, 0, false, false, 0⟩ ∧ s.flights[1]? = some ⟨.store 0x5000 [1], .none, 0, 0, false, false, 0⟩ ∧
      s.flights[2]? = some ⟨.atomic 0x5000 0xF true 0 1, .none, 0, 0, false, false, 0⟩) := by decide +kernel

/-- A copy of 64 bytes, and a block update. -/
def copy0 : Copy := { num := 1, serves := .cpy .none, space := base.cx.space, src := 0x5000, dst := 0x6000, len := 64 }
def job0 : BlockJob := { quay := 3, op := 9, fmt := 8, keys := [devKey 0 0x5000], src := [1] }

theorem witness_copies : (let s : State := { base with copies := [copy0] }
      s.copies[0]? = some copy0 ∧ (s.copyEngines[0 % max 1 s.copyEngines.length]?).isSome = true ∧ (s.copies.take 0).any copy0.follows = false ∧ s.copyAbsent copy0 = false ∧
        s.injected (1812 + (s.copyEngines[0 % max 1 s.copyEngines.length]?).getD 0) = false) ∧
    (let s : State := { base with blocks := [job0] }
     s.blocks.find? (·.quay == 3) = some job0 ∧ ∀ r ∈ s.reductions, r.op ≠ job0.op) := by decide +kernel

/-! ## Witnesses: futures and tools -/

/-- A future of the base context's space, and a tool with one window over 0x9000 to 0x9FFF. -/
def future0 (st : FutureState) : Future :=
  { index := 3, state := st, gen := 0, key := 7, launch := 0, space := base.cx.space, args := 0x5000, narg := 0, repcap := 64, reply := 0x6000, ring := 0, fbaddr := 0
    fblen := 0, deadline := 1000, status := 4, detail := 0, link := none, code := 0, count := 0, dropped := false, stampr := 0, adapter := none, await := .nothing, replies := [] }
def tool0 : Tool :=
  { num := 2, peer := false, ring := 0xA000, entries := 64, windows := [(0xB000000000009000, 0x9FFF)], resolve := 0x8000, tailAddr := 0, space := base.cx.space
    tail := 0, outcome := 0, requests := [], unit := 2 }
def calls (st : FutureState) : State := { base with futures := [future0 st], tools := [tool0] }

theorem witness_futureEvents_resolve : (∀ st ∈ [FutureState.armed, .resolving, .resolved], (calls st).liveTool 2 = some tool0 ∧
      (calls st).futureOf ((calls st).handleOf (future0 st)) = some (future0 st)) ∧ (calls .armed).futureOf 0 = none ∧
    (calls .armed).absent base.cx.space 0x6000 8 .load = false ∧
    okay (((calls .armed).putTool { tool0 with outcome := 0 }).agentRead base.cx.space 0x6000 8) (fun x => decide (recNat x.2 0 4 ≤ 64)) = true ∧
    (calls .armed).futureOf (recWord (wordBytes ((calls .armed).handleOf (future0 .armed)) ++ [1, 0, 0, 0, 65, 0, 0, 0]) 0) = some (future0 .armed) ∧
    recNat (wordBytes ((calls .armed).handleOf (future0 .armed)) ++ [1, 0, 0, 0, 65, 0, 0, 0]) 8 1 = 1 ∧
    64 < recNat (wordBytes ((calls .armed).handleOf (future0 .armed)) ++ [1, 0, 0, 0, 65, 0, 0, 0]) 12 4 := by decide +kernel
/-- The payload of a resolve: the handle of the armed future, a status and the size of its reply; and a future whose reply area is absent. -/
def payload (st n : Byte) : List Byte := wordBytes ((calls .armed).handleOf (future0 .armed)) ++ [st, 0, 0, 0, n, 0, 0, 0, 7, 0, 0, 0, 0, 0, 0, 0]
def callsAway (a : Word) : State := { base with futures := [{ future0 .armed with reply := a }], tools := [tool0] }

theorem witness_futureEvents_remote : (∀ st ∈ [(1 : Byte), 2, 3], ∀ n ∈ [(64 : Byte), 65], (calls .armed).futureOf (recWord (payload st n) 0) = some (future0 .armed) ∧
      recNat (payload st n) 8 1 = st.toNat ∧ recNat (payload st n) 12 4 = n.toNat) ∧
    (∀ st ∈ [FutureState.resolving, .resolved], (calls st).futureOf (recWord (payload 1 64) 0) = some (future0 st)) ∧
    okay ((calls .armed).agentWrite base.cx.space 0x6000 (((payload 1 64).drop 12).take 8 ++ ((payload 1 64).drop 24).take (4 * 64))) (fun _ => true) = true ∧
    (calls .armed).absent base.cx.space 0x6000 (((payload 1 64).drop 12).take 8 ++ ((payload 1 64).drop 24).take (4 * 64)).length .store = false ∧
    ((callsAway 0x80000000).futureOf (recWord (payload 2 0) 0)).isSome = true ∧ (callsAway 0x80000000).absent base.cx.space 0x80000000 8 .store = true ∧
    (((payload 2 0).drop 12).take 8 ++ ((payload 2 0).drop 24).take 0).length = 8 ∧
    ((callsAway 0x200000000000000).futureOf (recWord (payload 2 0) 0)).isSome = true ∧ (callsAway 0x200000000000000).absent base.cx.space 0x200000000000000 8 .store = false ∧
    okay ((callsAway 0x200000000000000).agentWrite base.cx.space 0x200000000000000 (((payload 2 0).drop 12).take 8 ++ ((payload 2 0).drop 24).take 0)) (fun _ => true) = false := by decide +kernel
theorem witness_futureEvents_deadline : (calls .armed).futures.find? (·.index == 3) = some (future0 .armed) ∧ (calls .armed).ns < (future0 .armed).deadline ∧
    (future0 .armed).deadline ≤ ({ calls .armed with time := 756000 } : State).ns ∧ (future0 .resolving).link = none ∧ (future0 .resolving).await = .nothing ∧ (future0 .resolving).status = 4 ∧
    (future0 .resolving).launch = 0 ∧ ({ future0 .resolving with launch := 1 } : Future).launch ≠ 0 := by decide +kernel

/-- A residency entry that loads an adapter, and one that holds it. -/
def loading (r : Bool) : State :=
  { base with residency := [⟨1, 9, r, 0, [], []⟩], adapters := [⟨9, 64, 0x70000, 0⟩] }

theorem witness_futureEvents_tools : (loading true).residency.find? (·.entry == 1) = some ⟨1, 9, true, 0, [], []⟩ ∧
    (loading false).residency.find? (·.entry == 1) = some ⟨1, 9, false, 0, [], []⟩ ∧ (loading false).adapters.find? (·.num == 9) = some ⟨9, 64, 0x70000, 0⟩ ∧
    segsPoisoned (loading false).poison [(if (0 : Nat) = 0xFFFF then hostKey 0x70000 else devKey 0 0x70000, 64)] = false ∧
    (tool0.windows.any (windowAdmits · 61 0x9000 8)) = true ∧ (tool0.windows.any (windowAdmits · 61 0x9FFC 8)) = false ∧
    (calls .armed).inQueue tool0 0x9FFC 8 = false ∧ (0x9000 : Nat) ≥ tool0.resolve + 4096 := by decide +kernel

/-! ## Witnesses: links -/

/-- Port 2 as given, and the header of a packet that carries nothing. -/
def ported (p : Port) : State := { base with ports := base.ports.set 2 p }
def header0 : MsgHeader := headerOf (leBytes 64 0)
/-- The flits of that packet as port 3 of node 0 sends them under the key 5. -/
def flits0 : List (List Byte) :=
  let p := ({ Port.reset with key0 := some 5 } : Port).send header0 [] .none 0
  p.replay.flatMap (p.wire 0 3)
def control0 (ctl : Nat) : List Byte := flitOf 0 15 false false 7 ctl []
def upPort : Port := { Port.reset with state := .up, key0 := some 5, key1 := some 6, switchDue := true }

theorem witness_linkEvents_units : base.unitServes 2 0 = true ∧ ({ base with outUnits := [⟨2, 0, true, none⟩] } : State).unitServes 2 0 = false := by decide +kernel
theorem witness_linkEvents_states : (∀ st ∈ [PortState.down, .train, .up, .retrain, .replay, .failed, .fenced],
      ((ported { Port.reset with state := st }).portAt 2).state = st ∧ ((ported { Port.reset with state := st }).portAt 2).replay = []) ∧
    trainWidth 0 = some (0, 0) ∧ trainWidth 0x0100 = some (1, 0) ∧ trainWidth 0x0001 = some (1, 1) ∧ trainWidth 0x0101 = some (2, 1) ∧
    trainWidth 0x1111 = none ∧ ((ported { Port.reset with failmask := 0x1111 }).portAt 2).failmask = 0x1111 ∧
    ({ ported { Port.reset with state := .retrain } with time := 20000 * 756 } : State).time ≥ ((ported { Port.reset with state := .retrain }).portAt 2).trainingAt + 20000 * 756 ∧
    (ported { Port.reset with state := .retrain }).time < ((ported { Port.reset with state := .retrain }).portAt 2).trainingAt + 20000 * 756 := by decide +kernel
theorem witness_linkEvents_keys : (let p := (ported upPort).portAt 2
      p.switchDue = true ∧ p.oldv = false ∧ (if p.kp then p.key0 else p.key1).isSome = true ∧ p.state = .up ∧ p.replay = []) ∧
    (let p := (ported { upPort with oldv := true, retireDue := true }).portAt 2; p.oldv = true ∧ p.retireDue = true ∧ p.kp = false) ∧
    (let p := (ported { upPort with oldv := true }).portAt 2; p.oldv = true ∧ p.retireDue = false ∧ p.farRetired = false) ∧
    ((ported upPort).portAt 2).retireDue = false ∧ ((ported { upPort with switchDue := false }).portAt 2).switchDue = false ∧
    ((ported { upPort with replay := [⟨0, false, 0, false, header0, [], .none⟩] }).portAt 2).replay.all (fun x => x.kp == true) = false ∧
    ((ported { upPort with kp := true, oldv := true, retireDue := true }).portAt 2).kp = true ∧ (ported upPort).injected (1796 + 2) = false ∧
    ((ported upPort).portAt 2).expected = 0 := by decide +kernel
theorem witness_linkEvents_packet : (let fs := flits0
      let after (p : Port) : State := fs.foldl (fun s f => s.takeCtl 2 f) (ported p)
      fs.all flitIntact = true ∧ flitsFollow fs = true ∧ flitPseq (fs.headD []) = 0 ∧
      (after upPort).openFlits 2 fs = some (header0, []) ∧ (after { upPort with key0 := none }).openFlits 2 fs = none ∧
      (after { upPort with key0 := some 4 }).openFlits 2 fs = none) := by decide +kernel
theorem witness_linkEvents_flits : [leBytes 256 1].all flitIntact = false ∧
    (∀ ctl ∈ [0, 1, 3, 4], flitIntact (control0 ctl) = true ∧ flitControl (control0 ctl) = true ∧ recNat (control0 ctl) 7 1 % 8 = ctl) ∧
    (∀ seq ∈ [1, 0xFFFFFF], let fs := [flitOf seq 0 true false 0 0 []]
      fs.all flitIntact = true ∧ flitsFollow fs = true ∧ flitPseq (fs.headD []) ≠ 0) ∧
    seqGap 0xFFFFFF 0 < 2 ^ 23 ∧ 2 ^ 23 ≤ seqGap 1 0 := by decide +kernel
theorem witness_linkEvents_pod : ({ base with dx := 8, dy := 8, dz := 5, node := 319 } : State).inPod 319 = true := by decide +kernel

/-! ## Witnesses: the host, errors, benches and power -/

/-- A leaf entry at 0x20000 that maps 64 KiB in HBM, one that is migrating. -/
def leafState (w : Word) : State := State.store base [(0x20000, 8, w.toNat)]

theorem witness_hostEvents : Memory.wf base.mem = true ∧ (9 : Nat) % 8 ≠ 0 ∧ segsPoisoned base.poison [(devKey base.node 0x5000, 8)] = false ∧
    segsPoisoned [lineOf (devKey 0 0x5000)] [(devKey base.node 0x5000, 8)] = true := by decide +kernel
/-- The entry of a migration of 64 KiB from a state, its premises of a start checked; and a state in which that page moves. -/
def starts64 (s : State) (frame : Nat) : Bool :=
  let e := BitVec.ofNat 64 (leNat (Memory.read s.mem (devKey s.node 0x20000) 8))
  (s.moving.find? (·.pte == devKey s.node 0x20000)).isNone && e.getLsbD 63 && e.getLsbD 59 && !s.leafMalformed e 0x10000 && frame * 65536 % 0x10000 == 0 &&
    decide (∀ g ∈ s.retiredFrames, g < frame ∨ frame + 0x10000 / 65536 ≤ g) && decide ((e.extractLsb' 60 3).toNat < 4) && !s.pinnedPage e
def movesNow (blocks : List BlockJob) : State :=
  { leafState 0xCBE0000000050000 with moving := [⟨devKey 0 0x20000, devKey 0 0x50000, 0x10000, 7, 0⟩], blocks := blocks }

theorem witness_hostEvents_migration : starts64 (leafState 0x8BE0000000050000) 7 = true ∧ starts64 { leafState 0x8BE0000000050000 with retiredFrames := [6, 8] } 7 = true ∧
    starts64 { leafState 0x8BE0000000050000 with retiredFrames := [7] } 7 = false ∧ starts64 (leafState 0x0BE0000000050000) 7 = false ∧
    starts64 (leafState 0xCBE0000000050000) 7 = false ∧
    ({ leafState 0x8BE0000000050000 with pinned := [5] } : State).pinnedPage 0x8BE0000000050000 = true ∧
    (∀ bs ∈ [[], [({ quay := 3, op := 9, fmt := 8, keys := [devKey 0 0x50000], src := [1] } : BlockJob)]],
      (movesNow bs).moving.find? (·.pte == devKey (movesNow bs).node 0x20000) = some ⟨devKey 0 0x20000, devKey 0 0x50000, 0x10000, 7, 0⟩ ∧
        (movesNow bs).writesTo (devKey 0 0x50000) 0x10000 = !bs.isEmpty) := by decide +kernel

/-- Bench 3 in a state, and with another bench of its cluster at rest. -/
def benchIn (st : BenchState) : State := base.setBench { base.bench 3 with state := st }
def neighbourRests (st : BenchState) : State := (benchIn st).setBench { base.bench 4 with state := .recess }

theorem witness_errorEvents : base.injected (memoryBank 0) = false ∧ NoRecord base (memoryBank 0) ∧ NoRecord base 1810 ∧ NoRecord base 1863 ∧ NoRecord base 1864 ∧ (∀ n ∈ [1802, 1810, 1863, 1864, 1563], base.injected n = false) ∧
    NoRecord base (1560 + 3) ∧ (∀ st ∈ [BenchState.inService, .quiescing, .recess, .fenced], ((benchIn st).bench 3).state = st ∧ (benchIn st).clusterRests 3 = false ∧
      (benchIn st).benchHolds 3 = false ∧ ((benchIn st).bench 3).asked < (benchIn st).time) ∧ (∀ st ∈ [BenchState.inService, .fenced], (neighbourRests st).clusterRests 3 = true) ∧
    ({ benchIn .quiescing with cx := { base.cx with coord := { base.cx.coord with core := 24 } } } : State).benchHolds 3 = true ∧
    base.clock < 4 ∧ 4 ≤ ({ base with clock := 4 } : State).clock ∧ 3229 * 100 < 3400 * 95 ∧ 99 * 100 < 105 * 95 ∧ 3400 * 95 ≤ 3230 * 100 ∧
    105 * 95 ≤ 100 * 100 := by unfold NoRecord; decide +kernel
theorem witness_errorEvents_injected : (∀ n ∈ [1810, 1863, 1864, 1802, 1809], ∀ s ∈ [({ base with mcbs := [⟨n, 0, 0, 0, 4, 0⟩] } : State)],
    NoRecord s n ∧ s.injected n = true) ∧
    ∀ s ∈ [({ benchIn .recess with mcbs := [⟨1563, 0, 0, 0, 4, 0⟩] } : State)], (s.bench 3).state = .recess ∧ NoRecord s (1560 + 3) ∧
      s.injected (1560 + 3) = true := by unfold NoRecord; decide +kernel

/-! ## Witnesses: debug and commands -/

/-- Trace ring 4 enabled with a tail that memory does not show, and full; a sampling of the base context's address space by it. -/
def traced (head tail : BitVec 32) : State :=
  { base with traces := base.traces.set 4 { TraceRing.reset with en := true, head := head, tail := tail }, samplings := [⟨1, 4, 50⟩] }

theorem witness_debug_traces : (traced 0 1).traces[4].en = true ∧ (traced 0 1).traces[4].shown ≠ (traced 0 1).traces[4].tail ∧
    base.traces[4].en = false ∧ (traced 0 1).findCtx ⟨0x100, 0⟩ = some (traced 0 1).cx ∧
    (traced 0 1).samplings.find? (fun q => q.asid == (traced 0 1).cx.asid) = some ⟨1, 4, 50⟩ ∧ (traced 0 1).cx.life = .running ∧
    (traced 0 1).cx.cycle.toNat % 50 = 0 ∧ (50 : Nat) ≠ 0 ∧ (traced 0 1).cx.sealed = false ∧ ((traced 0 1).traces[4].tail - (traced 0 1).traces[4].head).toNat ≠ 2 ^ 8 ∧
    ((traced 0 256).traces[4].tail - (traced 0 256).traces[4].head).toNat = 2 ^ 8 := by decide +kernel
theorem witness_debug_rest : (0x8400000000000000 : Word).getLsbD 63 = true ∧ (0x8400000000000000 : Word).extractLsb' 58 3 ≠ 0 ∧
    (0x8000000000000000 : Word).extractLsb' 58 3 = 0 ∧ ({ base with stagedOk := true } : State).quiescent = true ∧ base.frozen = 0 := by decide +kernel

/-- A command block with these fields. -/
def block (l : List (Nat × Nat × Nat)) : List Byte :=
  l.foldl (fun b x => b.take x.1 ++ leBytes x.2.1 x.2.2 ++ b.drop (x.1 + x.2.1)) (List.replicate 64 0)
def commanded (b : List Byte) : State := { base with commands := [⟨b, base.cx.space⟩] }

theorem witness_commands_heads : (∀ c ∈ commandCodes, (recNat (block [(0, 2, c.1), (2, 1, c.2)]) 0 2, recNat (block [(0, 2, c.1), (2, 1, c.2)]) 2 1) = c ∧
      ∀ b ∈ ((block [(0, 2, c.1), (2, 1, c.2)]).drop 3).take 5, b = 0) ∧ (recNat (block [(0, 2, 11)]) 0 2, recNat (block [(0, 2, 11)]) 2 1) ∉ commandCodes ∧
    (∃ b ∈ ((block [(0, 2, 1), (5, 1, 1)]).drop 3).take 5, b ≠ 0) ∧
    (commanded (block [(0, 2, 7)])).commands = [⟨block [(0, 2, 7)], base.cx.space⟩] := by decide +kernel
theorem witness_commands_csr : csrNumber (ri 0 6 0xC80) = 0xC80 ∧ runs (.csrw (ri 0 6 0xC80)) ready = true ∧ ready.cx.priv = true ∧
    runs (.csrw (ri 0 6 0xC80)) user = true ∧ user.cx.priv = false ∧ passes (ready.access (some 0) 0x5000 64 .load true) (fun s gs => !segsPoisoned s.poison gs) = true ∧
    passes (unmapped.access (some 0) 0x80000000 64 .load true) (fun _ _ => true) = false := by decide +kernel

/-- A launch that is not complete, of standing binding 2. -/
def bindingUsed : State := stands

theorem witness_commandEffects_keys : (let b := block [(16, 2, 255), (24, 2, 0x5000)]
      b.length = 64 ∧ keyArgsBad b = false ∧ recZero b 32 32 = true ∧ recNat b 18 1 = 0 ∧ okay (base.agentRead base.cx.space (recWord b 24) 40) (fun _ => true) = true) ∧
    (let b := block [(16, 2, 5), (18, 1, 1)]; keyArgsBad b = false ∧ recNat b 18 1 = 1 ∧ (base.portAt (recNat b 16 2)).oldv = false) ∧
    keyArgsBad (block [(16, 2, 256)]) = true ∧ keyArgsBad (block [(16, 2, 6), (18, 1, 1)]) = true ∧
    (∀ l ∈ [true, false], let s : State := { base with keys := [⟨255, 9, 0, l⟩] }; (s.keySlot 255) = some ⟨255, 9, 0, l⟩) := by decide +kernel
theorem witness_commandEffects_entries : (let b := block [(16, 2, 2047)]; toolArgsBad b = false ∧ recNat b 18 1 = 0) ∧ toolArgsBad (block [(16, 2, 2048)]) = true ∧
    (let b := block [(18, 1, 1), (32, 1, 64), (36, 1, 1), (40, 2, 0x5000)]
     toolArgsBad b = false ∧ recNat b 18 1 ≠ 0 ∧ okay (base.agentRead base.cx.space (recWord b 40) (16 * recNat b 36 2)) (fun _ => true) = true) ∧
    (let b := block [(16, 2, 3)]; recZero b 52 12 = true ∧ recZero b 18 2 = true ∧ recZero b 25 7 = true ∧ recNat b 20 4 = 0) ∧
    (let b := block [(20, 2, 0x100), (24, 1, 63), (32, 1, 8), (40, 1, 64), (48, 1, 16)]
     recZero b 18 2 = true ∧ recZero b 25 7 = true ∧ recZero b 52 12 = true ∧ recNat b 20 4 ≠ 0 ∧ recNat b 24 1 ≤ 63 ∧ recNat b 32 8 % 8 = 0 ∧
      recNat b 40 8 % 64 = 0 ∧ powerOfTwo (recNat b 48 4) 16 (2 ^ 16) = true) ∧
    (let b := block [(16, 1, 1), (24, 3, 0x10000), (40, 2, 319)]
     recNat b 20 1 = 0 ∧ recZero b 21 3 = true ∧ recNat b 24 8 % 65536 = 0 ∧ recNat b 40 2 ≤ 319 ∧ recZero b 42 22 = true) := by decide +kernel
theorem witness_commandEffects_bindings : (∃ l ∈ stands.launches, l.binding = some (recNat (block [(16, 2, 2)]) 16 2)) ∧
    (∀ l ∈ stands.launches, l.binding ≠ some (recNat (block [(16, 2, 63)]) 16 2)) ∧ recNat (block [(16, 2, 63)]) 16 2 < 64 ∧ 64 ≤ recNat (block [(16, 2, 64)]) 16 2 ∧
    recZero (block [(16, 2, 63)]) 18 6 = true ∧ recZero (block [(16, 2, 63)]) 56 8 = true ∧ (recWord (block [(16, 2, 63)]) 24).getLsbD 63 = false ∧
    (let b := block [(16, 2, 63), (24, 8, 0x8000040000000000)]; (recWord b 24).getLsbD 63 = true ∧ ((recWord b 24).extractLsb' 50 6).toNat ≤ 23 ∧
      1 ≤ ((recWord b 24).extractLsb' 42 7).toNat ∧ ((recWord b 24).extractLsb' 42 7).toNat ≤ 64) := by decide +kernel
theorem witness_commandEffects_rest : (let b := block [(16, 1, 1)]; recZero b 24 40 = true ∧ (acceptedOne.launchOf (recWord b 16)).isSome = true ∧
      base.launchOf (recWord b 16) = none) ∧ (stopOf (block [(16, 1, 0), (24, 2, 0x100)])).isSome = true ∧ stopOf (block [(16, 1, 3)]) = none ∧
    (let b := block [(16, 2, 1), (18, 1, 15)]; recNat b 18 1 ≤ 15 ∧ recZero b 19 5 = true ∧ recZero b 32 32 = true ∧ recNat b 24 8 = 0) ∧
    powerOfTwo (recNat (block [(24, 8, 2 ^ 32)]) 24 8) 1024 (2 ^ 32) = true ∧
    (let b := block [(24, 1, 64), (28, 4, 2 ^ 23 - 64)]; recNat b 24 4 % 64 = 0 ∧ recNat b 24 4 ≤ 65536 ∧ recNat b 32 1 ≤ 1 ∧ recZero b 33 31 = true ∧
      recNat b 28 4 + recNat b 24 4 ≤ 2 ^ 23 ∧ okay (base.agentRead base.cx.space (recWord b 16) 64) (fun _ => true) = true) ∧
    (let b := block [(17, 1, 3), (20, 1, 3)]; recNat b 16 1 = 0 ∧ recZero b 18 2 = true ∧ recZero b 24 40 = true ∧ recNat b 20 4 < 192 ∧ recNat b 17 1 = 3 ∧
      ((benchIn .fenced).bench 3).state = .fenced ∧ ((benchIn .fenced).bench 3).passed = false ∧ ((benchIn .inService).bench 3).state = .inService) := by decide +kernel
theorem witness_commandEffects_attest : (let b := block [(48, 2, 0x5000)]; recNat b 48 8 % 8 = 0 ∧ recZero b 60 4 = true) ∧
    Config.hssCapacity ≤ ({ base with hssUsed := Config.hssCapacity } : State).hssUsed := ⟨by decide +kernel, Nat.le_refl _⟩

theorem witness_registerWindow : ({ base with cx := { base.cx with sealed := true } } : State).findCtx ⟨0x100, 0⟩ = some { base.cx with sealed := true } ∧
    (0x23030 ≤ 0x23030 ∧ 0x23030 < 0x24000) := by decide +kernel

/-! ## Witnesses: steps -/

/-- The base state whose next word is an instruction's, and one whose next word does not decode. -/
def nextIs (i : Instr) : State := base.withFetchWord 64 (encode i).toNat
def nextBad : State := base.withFetchWord 64 0x0000_E000_0000_FFFF

theorem witness_stepRunsDecoded : (∀ s ∈ [nextIs (.add (r3 1 2 3)), nextBad], s.agenda = [] ∧ s.fatal = false ∧ s.turns = [] ∧ s.others = [] ∧
      s.mayRun s.cx = true ∧ s.cx.after = [] ∧ s.cx.portHolds = false) ∧
    okay (nextIs (.add (r3 1 2 3))).fetch (fun x => decode x.2 == some (.add (r3 1 2 3)) && !x.1.mismatchCu (.add (r3 1 2 3))) = true ∧
    okay nextBad.fetch (fun x => decode x.2 == none) = true ∧
    ((nextIs (.add (r3 1 2 3))).focus (nextIs (.add (r3 1 2 3))).cx.ref).elim false (fun s => match s.meet with | .run i _ => i == .add (r3 1 2 3) | .none _ => false) = true ∧
    (nextBad.focus nextBad.cx.ref).elim false (fun s => match s.meet with | .none _ => true | .run _ _ => false) = true ∧
    (match (nextIs (.add (r3 1 2 3))).turnsTaken with | .next _ => true | .fault _ | .refused _ => false) = true ∧
    okay (nextIs (.add (r3 1 2 3))).runLevels.fetch (fun x => decode x.2 == some (.add (r3 1 2 3)) && !x.1.mismatchCu (.add (r3 1 2 3))) = true ∧
    isEvent .debugHoldEnter = true ∧ ({ base with agenda := [(0, .debugHoldEnter)] } : State).agenda = [(0, .debugHoldEnter)] ∧
    base.standsStill .debugHoldEnter = false ∧ ({ base with frozen := 16 } : State).standsStill (.clockStepUp) = true ∧ isEvent .clockStepUp = true ∧
    ({ base with fatal := true } : State).fatal = true := by decide +kernel

/-- The step of a state is a next state that satisfies a check. -/
def steps (s : State) (p : State → Bool) : Bool :=
  match step s with
  | .next t => p t
  | .fault _ => false
  | .refused _ => false

theorem witness_stepKeepsMemory : (let s := base.withFetchWord 64 (encode (.st (rm 5 6 3 0))).toNat; Memory.wf s.mem = true ∧ steps s (fun _ => true) = true) := by
  decide +kernel

/-! ## Results of the manual's worked examples -/

/-- The 32 values of the block of 04's worked example; 2.9 as the nearest FP32. -/
def exampleBlock : List FVal :=
  (List.range 32).map fun j => FFmt.fp32.value (if j = 0 then 0x3F400000 else if j = 1 then 0xBFC00000 else if j = 5 then 0x42200000 else if j = 9 then 0x4039999A else 0)

/-- 04 R86, the worked example: the MXF4S block by byte, and its flags. -/
theorem test_quantiseMxf4s : leBytes 18 (quantise 0xE exampleBlock (fun _ => .rne)).bytes = [0xD3, 0, 0x80, 0, 0x70, 0, 0, 0, 0, 0, 0, 0, 0, 0, 0, 0, 0x7E, 0x6A] := by
  decide +kernel
/-- 04 R85, the worked example: in MXF4 the block decodes to 0, −0, 32 and 4 with scale 0x82. -/
theorem test_quantiseMxf4 : (let b := (quantise 0xD exampleBlock (fun _ => .rne)).bytes
    (b / 2 ^ 128, b % 16, b / 2 ^ 4 % 16, b / 2 ^ 20 % 16, b / 2 ^ 36 % 16)) = (0x82, 0, 8, 6, 1) := by decide +kernel
/-- 04 R90, the worked example: the tree over 2^24, 1, 1 and −2^24 gives 1 with NX. -/
theorem test_tree : (let r := tree combineFp32 6 ([0x4B800000, 0x3F800000, 0x3F800000, 0xCB800000].map (some ∘ FFmt.fp32.value) ++ List.replicate 60 none)
    (r.1.elim 0 fun x => (roundTo FFmt.fp32 x .rne).code, r.2)) = (0x3F800000, fNX) := by decide +kernel
/-- 09 R219, the worked example: block 0 of v8 after VBADDQ, and FLAGS gains NX alone. -/
theorem test_blockSum : (let a := leNat [0xD3, 0, 0x80, 0, 0x70, 0, 0, 0, 0, 0, 0, 0, 0, 0, 0, 0, 0x7E, 0x6A]
    let b := leNat [0x20, 0, 0x30, 0, 0x40, 0, 0x08, 0, 0, 0, 0, 0, 0, 0, 0, 0, 0x7F, 0x52]
    let r := blockSum 0xE a b fun _ => .rne
    (leBytes 18 r.code, r.flags)) = ([1, 0, 0x80, 0, 0x40, 0, 6, 0, 0, 0, 0, 0, 0, 0, 0, 0, 0x80, 0x5A], fNX) := by decide +kernel
/-- 17 R349, the worked example: the hold record after its first arrival, and the status word of a stale name. -/
theorem test_hold : ({ Hold.reset with kind := 2, fepoch := 1, expect := 2, arrived := 1, rpoint := 0xA } : Hold).word = 0xA01000002010000A ∧
    statusWord 3 0x50 = 0xD000000000000003 := by decide +kernel

/-- 06 R127: −7 DIV 2 truncates to −3, −7 REM 2 is −1, and a division by zero gives all ones. -/
theorem test_divide : leads (.div (r3 1 2 3)) (State.with base [(2, -7), (3, 2)]) (fun t => t.cx.sreg 1 == -3) = true ∧
    leads (.rem (r3 1 2 3)) (State.with base [(2, -7), (3, 2)]) (fun t => t.cx.sreg 1 == -1) = true ∧
    leads (.div (r3 1 2 3)) (State.with base [(2, -7)]) (fun t => t.cx.sreg 1 == BitVec.allOnes 64) = true := by decide +kernel
/-- 06 R134, the ragged copy: LOOP with LCNT 3 and off28 −7 branches 56 bytes back and leaves LCNT 2. -/
theorem test_loop : leads (.loop ⟨Sync.plain, 0, false, 0, 0xFFFFFF9⟩) (looped 3) (fun t => t.cx.pc == 0x4000 - 56 && t.cx.lcnt == 2) = true := by decide +kernel
/-- 06 R145, 12 R265: ST.B writes one byte, LD.B sign-extends it and LDU.B does not. -/
theorem test_bytes : (let s := { ready with mem := Memory.write ready.mem (devKey 0 0x5000) [0x80] }
    (leads (.ld (rm 5 6 0 0)) s (fun t => t.cx.sreg 5 == 0xFFFFFFFFFFFFFF80), leads (.ldu (rm 5 6 0 0)) s (fun t => t.cx.sreg 5 == 0x80),
     leads (.st (rm 5 6 0 1)) s (fun t => Memory.read t.mem (devKey 0 0x5000) 3 == [0x80, 0x88, 0]))) = (true, true, true) := by decide +kernel
/-- 12 R266: AMO .max at 64 bits keeps the larger signed value and returns the old one. -/
theorem test_amo : leads (.amo { rm 5 6 3 0x18000 with sd := 5 }) (State.with base [(5, -1), (6, 0x5000)]) (fun t => t.cx.sreg 5 == 0 &&
    Memory.read t.mem (devKey 0 0x5000) 8 == List.replicate 8 0) = true := by decide +kernel
/-- 06 R143, 26 R476: TRAP 0x2A leaves a record of cause 0x07, queue 0, CODE 0x2A. -/
theorem test_trap : leads (.trap (ri 0 0 0x2A)) base (fun t => t.cx.trap.elim false fun r => r.cause == 7 && r.queue == 0 && r.code == 0x2A && r.pc == 0x4000) = true := by
  decide +kernel


/-! ## Witnesses: the clauses on waits, turned-away inputs and failed checks -/

/-- A machine-check bank whose unit is to fail its next check. -/
def failing (s : State) (n : Nat) : State := { s with mcbs := [⟨n, 0, 0, 0, 4, 0⟩] }

theorem witness_contextEvents_waits :
    (let s : State := { base with cx := { base.cx with exiting := some 1, after := [ownTrap 0x50 0 0x4000] } }; s.cx.allQuiet = true ∧ s.cx.after ≠ []) ∧
    (let s : State := { trappedBy 0x07 with transfers := [{ saveOf true none with name := 0x100 }] }
     (∃ x ∈ s.transfers, x.name = s.cx.cohort) ∧ s.handlers = [] ∧ s.cx.life = .trapped) := by decide +kernel
theorem witness_cohortEvents_ready : base.savedOf 0x501 = [] ∧ (saves (saveOf false none)).transferOf 0x501 false ≠ none ∧
    (saves restoring).restoreReady restoring = true ∧ (saves restoring).restoreFits restoring [] = false := by decide +kernel
theorem witness_launchEvents_turns : stands.queueHead 2 = some (1, 0) ∧ acceptedOne.queueHead 2 ≠ some (1, 0) := by decide +kernel
theorem witness_graphEvents_end : starts (walks { walk0 with compl := none } [(0, 1, 6), (4, 0, 0)]) { walk0 with compl := none } 6 (fun _ _ => true) = true := by
  decide +kernel

/-- The base cohort as it is resident at node 1, homed here, with a deferred arrival. -/
def elsewhere (l : List Arrival) : State :=
  { base with dx := 2, dir := [⟨0x100, .resident, 0, 1, true, 1, 0, 1, 0, 64, 0, 0, l, [], 0, none⟩], cx := { base.cx with life := .unbound } }

/-- How an arrival of an origin is answered. -/
def answers (s : State) (o : Origin) (a : Arrival) (p : Decided → Bool) : Bool := p (s.placeArrival o a [])

theorem witness_arrivalEvents_away : answers (elsewhere []) .deferred (arrives 1 0 0) (fun d => match d with | .away n => n == 1 | .here _ _ => false) = true ∧
    answers fullBasin (.node 1 0) (arrives 1 0 0) (fun d => match d with | .here _ x => x == .busy | .away _ => false) = true ∧
    answers fullBasin .deferred (arrives 1 0 0) (fun d => match d with | .here _ x => x == .busy | .away _ => false) = true ∧
    ((elsewhere [arrives 1 0 0]).dirOf 0x100).elim false (fun d => d.node != (elsewhere []).node && d.draining && d.state == .resident) = true ∧
    (elsewhere [arrives 1 0 0]).delivering 0x100 = false ∧
    ({ elsewhere [arrives 1 0 0] with flights := [{ flightOf (arrives 1 0 0) [] 0 with origin := .deferred }] } : State).delivering 0x100 = true := by decide +kernel
theorem witness_remoteAccesses_failed : (failing base (homeBank (devKey 0 0x5000))).sliceFault 0 [(devKey 0 0x5000, 64 / 8)] ≠ none ∧
    base.sliceFault 0 [(devKey 0 0x5000, 64 / 8)] = none := by decide +kernel
theorem witness_quayCores : base.quayInService 3 = true ∧ (let s : State := { base with outUnits := [⟨1, 1539, true, none⟩] }
    s.quayInService 3 = false ∧ s.quayFor (3 / 4) (3 % 4) = some 0) := by decide +kernel
theorem witness_copies_ends : (let s : State := { base with copies := [copy0] }
      (match s.copyUnits 0 1 2 with | .ended _ none => true | _ => false) = true ∧
      s.reductions.any copy0.followsReduction = false ∧ copy0.broken = 0 ∧ copy0.ahead = 0 ∧
      passes (s.agentAccess base.cx.space 0x5000 64 .load (some 4)) (fun s1 gs => !segsPoisoned s1.poison gs &&
        passes (s1.agentAccess base.cx.space 0x6000 64 .store (some 4)) fun _ ds => ds.all fun g => !s.remote g.1) = true) ∧
    (let s : State := { base with copies := [copy0], poison := [lineOf (devKey 0 0x5000)] }
     (match s.copyUnits 0 1 2 with | .ended _ (some f) => f.cause == 0x25 | _ => false) = true) ∧
    (let s : State := { base with copies := [{ copy0 with src := 0x80000000 }] }
     s.copyAbsent { copy0 with src := 0x80000000 } = true) ∧
    (let s : State := { base with copies := [{ copy0 with ahead := 64 }] }
     (match s.copyUnits 0 1 2 with | .under _ => true | _ => false) = true ∧ s.copyAbsent { copy0 with ahead := 64 } = false) ∧
    ({ copy0 with broken := 0x58 } : Copy).broken ≠ 0 := by decide +kernel
theorem witness_futureEvents_turnedAway : ({ calls .armed with dx := 2 } : State).handleAway (1 <<< 55) = true ∧
    (calls .armed).handleAway ((calls .armed).handleOf (future0 .armed)) = false ∧
    ({ calls .armed with time := 757000 } : State).overdue (future0 .armed) = true ∧ (calls .armed).overdue (future0 .armed) = false ∧
    (future0 .armed).adapter = none ∧ ({ base with agenda := [(0, .resolveOk 2 0)] } : State).toolsFirst = true ∧ base.toolsFirst = false ∧
    ({ future0 .armed with adapter := some 9 } : Future).adapter.isSome = true ∧ base.ringBefore (future0 .resolving) = [] ∧
    (failing (calls .armed) (toolBank tool0.unit)).injected (toolBank tool0.unit) = true ∧ (calls .armed).injected (toolBank tool0.unit) = false := by decide +kernel
theorem witness_linkEvents_late : (let s : State := { ported { Port.reset with state := .retrain } with time := 20000 * 756 + 1 }
    (s.portAt 2).state = .retrain ∧ (s.portAt 2).trainingAt + 20000 * 756 < s.time ∧ (s.portAt 2).replay = []) ∧
    (ported { Port.reset with state := .retrain }).time ≤ ((ported { Port.reset with state := .retrain }).portAt 2).trainingAt + 20000 * 756 := by decide +kernel
theorem witness_hostEvents_failed : (failing base (homeBank (devKey 0 0x5000))).sliceFault 0 [(devKey base.node 0x5000, 8)] ≠ none ∧
    ((movesNow []).moving.find? (·.pte == devKey 0 0x20000)).elim false (fun x => x.tier != 1) = true := by decide +kernel
theorem witness_commands_wait : (commanded (block [(0, 2, 7), (8, 8, 0x5000)])).absent base.cx.space 0x5000 8 .store = false ∧
    (commanded (block [(0, 2, 7), (8, 8, 0x80000000)])).absent base.cx.space 0x80000000 8 .store = true ∧
    recWord (block [(8, 8, 0x80000000)]) 8 = 0x80000000 := by decide +kernel
theorem witness_debug_held : (let s : State := { traced 0 1 with debugHold := true, traces := (traced 0 1).traces.set 4 { (traced 0 1).traces[4] with host := true } }
    (s.traces[4].host && s.debugHold) = true ∧ s.traces[4].en = true ∧ s.traces[4].shown ≠ s.traces[4].tail) ∧
    ((traced 0 1).traces[4].host && (traced 0 1).debugHold) = false := by decide +kernel
theorem witness_linkEvents_stopped : (let s : State := { ported upPort with dx := 8, dy := 8, dz := 5, node := 0, lost := [8] }
    s.facing 2 = 8 ∧ (s.portAt 2).state = .up ∧ (s.failFacing.portAt 2).state = .failed) ∧
    (∀ p < 6, (base.portAt p).state = .down) := by decide +kernel
theorem witness_powerWindow : base.injected powerBank = false := by decide +kernel
theorem witness_commandEffects_windows : (∀ x ∈ windowsOf (List.replicate 16 0), windowOk x = true) ∧
    (∃ x ∈ windowsOf (wordBytes 0xB000000000000001 ++ wordBytes 0x9FFF), windowOk x = false) := by
  have h : (windowsOf (List.replicate 16 0)).all windowOk = true ∧ (windowsOf (wordBytes 0xB000000000000001 ++ wordBytes 0x9FFF)).all windowOk = false := by
    decide +kernel
  refine ⟨List.all_eq_true.mp h.1, ?_⟩
  simpa [List.all_eq_false] using h.2

end Sys2Proof.Tests
end

section
/-! PROOFS. Forwarding to the engine queues (02 R39 to R43; 16 R321 to R323): what a forwarding turn does, said once, and the four families
that it serves. -/

namespace Sys2Proof.Machine

open Sys2Proof.Safety

/-! ## A forwarding turn -/

/-- Every instruction whose meaning is a forwarding turn is forwarded, traps or waits as `Forwards` says, with the turn's own check and
effect. -/
theorem State.forwardTurn_forwards {i : Instr} {q : Queue} {guard : Bool} {check : State → Entry → Option Trap} {apply : State → State}
    {s : State} (h : exec i s = .next (s.forwardTurn q i guard check apply)) :
    Forwards i q guard (check s (s.cx.entryOf i false)) (apply s) s := by
  intro hd
  rw [h]
  refine ⟨fun small => ?_, fun fits full => ?_, fun room => ?_⟩
  · simp only [State.forwardTurn, hd, small, if_true]
  · simp only [State.forwardTurn, hd, Nat.not_lt.mpr fits, full, if_true, if_false]
  · have fits : ¬ s.cx.depth q < entriesFor i (!guard) := by omega
    have free : ¬ s.cx.depth q < (s.cx.queue q).count + entriesFor i (!guard) := by omega
    simp only [State.forwardTurn, hd, fits, free, if_false]
    refine ⟨?_, ?_, ?_, ?_⟩
    · rintro rfl; rfl
    · rintro rfl x hx; simp only [Bool.not_true, hx]; rfl
    · rintro rfl hc far; simp [hc, show s.cx.farAhead (s.cx.entryOf i false) = true from far]
    · rintro rfl hc near; simp [hc, show s.cx.farAhead (s.cx.entryOf i false) = false from near]

/-! ## Tile operands of the vector engine -/

/-- The tile operands of a list are none, or one that is read. -/
def SoleTile (l : List Oper) : Prop := l.filter Oper.isTile = [] ∨ ∃ n, l.filter Oper.isTile = [tileOp n .read]

@[simp] theorem soleTile_nil : SoleTile [] := .inl rfl

@[simp] theorem soleTile_cons_regOp (n : BitVec 6) (r : Role) (l : List Oper) : SoleTile (regOp n r :: l) ↔ SoleTile l := by
  simp [SoleTile, regOp]

@[simp] theorem soleTile_operB (o : V) : SoleTile [operB o] := by
  unfold operB
  split
  · exact .inr ⟨o.vb, rfl⟩
  · exact .inl rfl

@[simp] theorem soleTile_operB_regOp (o : V) (n : BitVec 6) (r : Role) : SoleTile [operB o, regOp n r] := by
  unfold operB
  split
  · exact .inr ⟨o.vb, rfl⟩
  · exact .inl rfl

@[simp] theorem soleTile_ite (c : Prop) [Decidable c] (a b : List Oper) :
    SoleTile (if c then a else b) ↔ if c then SoleTile a else SoleTile b := by
  split <;> rfl

/-- An instruction of the vector engine names at most one tile, as operand vb, and reads it (08 R177). -/
theorem vectorForms_soleTile (f : BitVec 6 → BitVec 6) (o : V) : ∀ i ∈ vectorForms o, SoleTile (opersOf (rename f i)) := by
  simp [vectorForms, rename, opersOf]

/-- The first tile of such a list is the one that a member names. -/
theorem SoleTile.eq_of_mem {l : List Oper} (h : SoleTile l) {p : Oper} (hp : p ∈ l) (ht : p.isTile = true) :
    l.filter Oper.isTile = [p] ∧ p.role = .read := by
  have mem : p ∈ l.filter Oper.isTile := List.mem_filter.mpr ⟨hp, ht⟩
  rcases h with none | ⟨n, one⟩
  · rw [none] at mem; cases mem
  · rw [one, List.mem_singleton] at mem
    subst mem
    exact ⟨one, rfl⟩

/-- The fill shape that an entry captures is that of the one tile it reads. -/
theorem Ctx.entryOf_fill (c : Ctx) {i : Instr} {p : Oper} (h : (opersOf (rename c.physV i)).filter Oper.isTile = [p]) (hr : p.role = .read) :
    (c.entryOf i false).fill = (c.tile p.n).shape := by
  have reads : (opersOf (rename c.physV i)).filter (fun p => p.isTile && (p.role == .read || p.role == .leave)) = [p] := by
    rw [List.filter_congr fun p _ => Bool.and_comm p.isTile (p.role == .read || p.role == .leave), ← List.filter_filter, h]
    simp [hr]
  simp [Entry.fill, Ctx.entryOf, reads]

/-- The check of a tile operand, by what fails (08 R177; log entry 47). -/
theorem vectorCheck_tile (s : State) {e : Entry} {p : Oper} (h : (opersOf e.instr).filter Oper.isTile = [p]) (hf : e.fill = (s.cx.tile p.n).shape) :
    ((s.cx.tile p.n).wb = true → vectorCheck s e = some (s.cuTrap 0x40)) ∧
    ((s.cx.tile p.n).wb = false → e.own.rowbytes ≠ (s.cx.tile p.n).shape.rowbytes → vectorCheck s e = some (s.cuTrap 0x11)) ∧
    ((s.cx.tile p.n).wb = false → e.own.rowbytes = (s.cx.tile p.n).shape.rowbytes →
      vectorCheck s e = if (e.own.effective (s.cx.tile p.n).shape).isNone then some (s.cuTrap 0x10) else none) := by
  have found : (opersOf e.instr).find? Oper.isTile = some p := by rw [← List.head?_filter, h]; rfl
  simp only [vectorCheck, found, hf]
  refine ⟨fun wb => ?_, fun ab ne => ?_, fun ab eq => ?_⟩
  · simp [wb]
  · simp [ab, ne]
  · simp [ab, eq]

theorem vectorCheck_noTile (s : State) {e : Entry} (h : ∀ p ∈ opersOf e.instr, p.isTile = false) : vectorCheck s e = none := by
  have none : (opersOf e.instr).find? Oper.isTile = none := by simpa using h
  simp only [vectorCheck, none]

/-! ## The four families -/

/-- Each load-engine instruction that checks its tiles is a forwarding turn to LQ. -/
theorem loadForms_exec (o : T) (s : State) :
    ∀ i ∈ [Instr.tld o, .tldx o, .tldv o, .vldb o, .tgath o, .vgath o, .tfill o, .tcpy o, .vldt o, .tstat o],
      exec i s = .next (s.forwardTurn .lq i (s.cx.guard o.pg o.pn) State.tileCheck id) := by
  simp only [List.forall_mem_cons]
  refine ⟨rfl, rfl, rfl, rfl, rfl, rfl, rfl, rfl, rfl, rfl, List.forall_mem_nil _⟩

/-- Each store-engine instruction that checks its tiles is a forwarding turn to SQ. -/
theorem storeForms_exec (o : T) (s : State) : ∀ i ∈ [Instr.tst o, .tstv o, .tscat o, .vstt o],
    exec i s = .next (s.forwardTurn .sq i (s.cx.guard o.pg o.pn) State.tileCheck id) := by
  simp only [List.forall_mem_cons]
  refine ⟨rfl, rfl, rfl, rfl, List.forall_mem_nil _⟩

/-- Each instruction of the vector engine is a forwarding turn to AQ. -/
theorem vectorForms_exec (o : V) (s : State) : ∀ i ∈ vectorForms o, exec i s = .next (s.forwardTurn .aq i true vectorCheck id) := by
  simp only [vectorForms, List.forall_mem_cons]
  repeat' constructor
  exact List.forall_mem_nil _

/-- Each instruction of the matrix queue with the check that it makes at forwarding. -/
def matrixForms (o : X) : List (Instr × (State → Entry → Option Trap)) :=
  [(.mma o, commandCheck), (.mmaz o, commandCheck), (.mmau o, commandCheck), (.amst o, amstCheck), (.amld o, noCheck), (.amldStat o, noCheck),
   (.amz o, noCheck), (.mhint o, noCheck), (.msync o, noCheck)]

/-- Each instruction of the matrix queue is a forwarding turn to MQ. -/
theorem matrixForms_exec (o : X) (s : State) : ∀ f ∈ matrixForms o, exec f.1 s = .next (s.forwardTurn .mq f.1 true f.2 id) := by
  simp only [matrixForms, List.forall_mem_cons]
  exact ⟨rfl, rfl, rfl, rfl, rfl, rfl, rfl, rfl, rfl, List.forall_mem_nil _⟩

/-- Each port instruction is a forwarding turn to NQ with the check that it makes there. -/
theorem portForms_exec (o : N) (s : State) : ∀ f ∈ portForms o s, ∃ check : State → Entry → Option Trap,
    f.2 = check s (s.cx.entryOf f.1 false) ∧ exec f.1 s = .next (s.forwardTurn .nq f.1 true check id) := by
  simp only [portForms, List.forall_mem_cons]
  exact ⟨⟨rstvCheck, rfl, rfl⟩, ⟨rstvCheck, rfl, rfl⟩, ⟨vexpCheck, rfl, rfl⟩, ⟨cnameCheck o, rfl, rfl⟩, ⟨amsgCheck, rfl, rfl⟩,
    ⟨sourceCheck 1, rfl, rfl⟩, ⟨sourceCheck (redBytes (field o.ctl 0 4)), rfl, rfl⟩, ⟨cpyCheck, rfl, rfl⟩, ⟨cpywCheck, rfl, rfl⟩,
    ⟨taskCheck false o, rfl, rfl⟩, ⟨taskCheck true o, rfl, rfl⟩, ⟨noCheck, rfl, rfl⟩, ⟨qsnapCheck, rfl, rfl⟩, ⟨fcallCheck o, rfl, rfl⟩,
    ⟨recordCheck o true, rfl, rfl⟩, ⟨recordCheck o true, rfl, rfl⟩, ⟨recordCheck o true, rfl, rfl⟩, ⟨recordCheck o false, rfl, rfl⟩,
    ⟨flinkCheck o, rfl, rfl⟩, ⟨adrefCheck o, rfl, rfl⟩, ⟨launchCheck o, rfl, rfl⟩, ⟨graphgoCheck, rfl, rfl⟩, ⟨hringCheck, rfl, rfl⟩,
    List.forall_mem_nil _⟩

end Sys2Proof.Machine

namespace Sys2Proof.Proofs

open Sys2Proof.Machine Sys2Proof.Safety

/-- Settles O32: each instruction is a forwarding turn, UNFCFG one with an effect of its own. -/
theorem tileForwarding : Obligations.TileForwarding := by
  have slot (o : T) : (field o.t 0 4 : BitVec 4).toNat = o.t.toNat % 16 := by simp [field]
  refine ⟨fun o s => ⟨fun i hi => State.forwardTurn_forwards (loadForms_exec o s i hi), ?_, ?_⟩,
    fun o s => ⟨fun i hi => State.forwardTurn_forwards (storeForms_exec o s i hi), ?_⟩⟩
  · exact State.forwardTurn_forwards (show exec (.pft o) s = .next (s.forwardTurn .lq (.pft o) (s.cx.guard o.pg o.pn) noCheck id) from rfl)
  · have := State.forwardTurn_forwards (show exec (.unfcfg o) s =
      .next (s.forwardTurn .lq (.unfcfg o) (s.cx.guard o.pg o.pn) (unfoldCheck o) (setUnfold o)) from rfl)
    simpa only [setUnfold, unfoldCheck, slot] using this
  · exact State.forwardTurn_forwards (show exec (.trel o) s = .next (s.forwardTurn .sq (.trel o) (s.cx.guard o.pg o.pn) noCheck id) from rfl)

/-- Settles O33: each instruction is a forwarding turn with the check of its one tile operand. -/
theorem vectorForwarding : Obligations.VectorForwarding := by
  intro o s i hi
  refine ⟨State.forwardTurn_forwards (vectorForms_exec o s i hi), fun p hp ht => ?_, vectorCheck_noTile s⟩
  obtain ⟨sole, read⟩ := (vectorForms_soleTile s.cx.physV o i hi).eq_of_mem hp ht
  exact vectorCheck_tile s sole (s.cx.entryOf_fill sole read)

/-- Settles O34: each instruction is a forwarding turn with its own check. -/
theorem matrixForwarding : Obligations.MatrixForwarding := by
  intro o s
  have forms := fun f hf => State.forwardTurn_forwards (matrixForms_exec o s f hf)
  simp only [matrixForms, List.forall_mem_cons] at forms
  obtain ⟨mma, mmaz, mmau, amst, amld, amldStat, amz, mhint, msync, -⟩ := forms
  simp only [List.forall_mem_cons]
  exact ⟨⟨mma, mmaz, mmau, List.forall_mem_nil _⟩, amst, amld, amldStat, amz, mhint, msync, List.forall_mem_nil _⟩

/-- Settles O35: each instruction is a forwarding turn with its own check. -/
theorem portForwarding : Obligations.PortForwarding := by
  intro o s f hf
  obtain ⟨check, hc, he⟩ := portForms_exec o s f hf
  rw [hc]
  exact State.forwardTurn_forwards he

end Sys2Proof.Proofs
end


section
/-! PROOFS. What the engines change in a context, said once: the head of a queue (02 R41, R42; 16 R324), and what an operation may change
beside it. -/

namespace Sys2Proof.Machine

open Sys2Proof.Safety

/-! ## Queues of a context -/

@[simp] theorem Ctx.queue_setQueue (c : Ctx) (q : Queue) (x : EQueue) : (c.setQueue q x).queue q = x := by
  cases q <;> rfl

@[simp] theorem Ctx.setQueue_keeps (c : Ctx) (q : Queue) (x : EQueue) :
    (c.setQueue q x).life = c.life ∧ (c.setQueue q x).cohort = c.cohort ∧ (c.setQueue q x).coord = c.coord ∧ (c.setQueue q x).clk = c.clk ∧
      (c.setQueue q x).s = c.s ∧ (c.setQueue q x).v = c.v ∧ (c.setQueue q x).t = c.t ∧ (c.setQueue q x).holds = c.holds ∧
      (c.setQueue q x).bells = c.bells ∧ (c.setQueue q x).rung = c.rung ∧ (c.setQueue q x).acc = c.acc ∧ (c.setQueue q x).accstat = c.accstat ∧
      (c.setQueue q x).pending = c.pending ∧ (c.setQueue q x).handed = c.handed := by
  cases q <;> simp [Ctx.setQueue]

/-- A head issues: its bells are settled, and its queue notes the issue (02 R41, R42). -/
theorem Ctx.accept_eq (s : State) (q : Queue) (e : Entry) :
    s.cx.accept q e = ({ s.cx with bells := (issuedBells s e).1, rung := (issuedBells s e).2 } : Ctx).setQueue q
      { s.cx.queue q with issued := true, last := some s.cx.now } := by
  simp only [Ctx.accept, issuedBells, Ctx.ringTaken, Ctx.ring_eq, Ctx.take_eq]
  cases q <;> split <;> rfl

/-- A queue whose head has retired in a cycle. -/
def EQueue.HeadGone (x y : EQueue) (rest : List Entry) (now : Nat) : Prop :=
  y = { x with entries := rest, issued := false, rstart := false, moved := none, gone := some now, head := y.head }

/-- The head retires: its queue alone changes (16 R324). -/
theorem Ctx.retire_eq (c : Ctx) (q : Queue) : c.retire q = c.setQueue q ((c.retire q).queue q) := by
  cases h : (c.queue q).entries with
  | nil =>
    simp only [Ctx.retire, h]
    cases q <;> rfl
  | cons e rest => simp only [Ctx.retire, h, Ctx.queue_setQueue]

theorem Ctx.queue_retire {c : Ctx} {q : Queue} {e : Entry} {rest : List Entry} (h : (c.queue q).entries = e :: rest) :
    (c.queue q).HeadGone ((c.retire q).queue q) rest c.now := by
  simp only [Ctx.retire, h, Ctx.queue_setQueue, EQueue.HeadGone]

/-! ## What an operation changes beside its queue -/

/-- Only the data of a context differ: vector registers, masks, tiles, holds, channels, open expectations, flags, and the marks of the cycle
under way. -/
def Ctx.DataOnly (c d : Ctx) : Prop :=
  d = { c with v := d.v, tags := d.tags, m := d.m, t := d.t, holds := d.holds, flags := d.flags, rung := d.rung, fresh := d.fresh,
               vprev := d.vprev, vnext := d.vnext, expects := d.expects }

namespace Ctx.DataOnly

variable {c d e : Ctx}

theorem refl (c : Ctx) : c.DataOnly c := rfl

theorem trans (h : c.DataOnly d) (k : d.DataOnly e) : c.DataOnly e := by
  unfold DataOnly at *
  rw [k, h]

theorem queue (h : c.DataOnly d) (q : Queue) : d.queue q = c.queue q := (congrArg (Ctx.queue · q) h :)
theorem life (h : c.DataOnly d) : d.life = c.life := (congrArg Ctx.life h :)
theorem cohort (h : c.DataOnly d) : d.cohort = c.cohort := (congrArg Ctx.cohort h :)
theorem coord (h : c.DataOnly d) : d.coord = c.coord := (congrArg Ctx.coord h :)
theorem clk (h : c.DataOnly d) : d.clk = c.clk := (congrArg Ctx.clk h :)
theorem scalars (h : c.DataOnly d) : d.s = c.s := (congrArg Ctx.s h :)
theorem acc (h : c.DataOnly d) : d.acc = c.acc := (congrArg Ctx.acc h :)
theorem accstat (h : c.DataOnly d) : d.accstat = c.accstat := (congrArg Ctx.accstat h :)
theorem pending (h : c.DataOnly d) : d.pending = c.pending := (congrArg Ctx.pending h :)

/-- Changes one after another are one change. -/
theorem foldl {α : Type} {f : Ctx → α → Ctx} (h : ∀ c x, Ctx.DataOnly c (f c x)) (l : List α) (c : Ctx) : c.DataOnly (l.foldl f c) :=
  List.foldlRecOn l f (motive := c.DataOnly) (refl c) fun b hb a _ => hb.trans (h b a)

end Ctx.DataOnly

theorem Ctx.ring_dataOnly (c : Ctx) (b : BitVec 5) : c.DataOnly (c.ring b) := by
  rw [Ctx.ring_eq]; rfl

theorem Ctx.ringDone_dataOnly (c : Ctx) (e : Entry) : c.DataOnly (c.ringDone e) := by
  simp only [Ctx.ringDone]
  split
  · exact c.ring_dataOnly _
  · exact .refl c

theorem Ctx.modTile_dataOnly (c : Ctx) (n : BitVec 6) (f : Tile → Tile) : c.DataOnly (c.modTile n f) := rfl

theorem Ctx.modHold_dataOnly (c : Ctx) (n : BitVec 6) (f : Hold → Hold) : c.DataOnly (c.modHold n f) := rfl

theorem Ctx.setV_dataOnly (c : Ctx) (n : BitVec 6) (x : VReg) (t : BitVec 4) : c.DataOnly (c.setV n x t) := rfl

theorem Ctx.freshen_dataOnly (c : Ctx) (p : Oper) : c.DataOnly (c.freshen p) := rfl

theorem Ctx.finishOper_dataOnly (c : Ctx) (p : Oper) : c.DataOnly (c.finishOper p) := by
  unfold Ctx.finishOper
  split <;> rfl

theorem Ctx.completeOper_dataOnly (c : Ctx) (p : Oper) (ep : BitVec 8) : c.DataOnly (c.completeOper p ep) := by
  unfold Ctx.completeOper
  split
  · rfl
  · rfl
  · rfl
  · exact (c.freshen_dataOnly p).trans (Ctx.finishOper_dataOnly _ p)

theorem Ctx.beginOper_dataOnly (c : Ctx) (p : Oper) : c.DataOnly (c.beginOper p) := by
  unfold Ctx.beginOper
  split <;> rfl

theorem Ctx.setPoint_dataOnly (c : Ctx) (e : Entry) (v : Bool) (k : Nat) : c.DataOnly (c.setPoint e v k) := by
  unfold Ctx.setPoint
  split <;> rfl

theorem Ctx.clearPoint_dataOnly (c : Ctx) (e : Entry) : c.DataOnly (c.clearPoint e) := by
  unfold Ctx.clearPoint
  split
  · split
    · exact c.setPoint_dataOnly e false 0
    · rfl
  · split
    · exact c.setPoint_dataOnly e false 0
    · rfl
  · rfl

theorem Ctx.tagLoaded_dataOnly (c : Ctx) (e : Entry) : c.DataOnly (c.tagLoaded e) := by
  unfold Ctx.tagLoaded
  split <;> rfl

theorem Ctx.putRow_dataOnly (c : Ctx) (r : BitVec 6) (f : BitVec 4) (i off : Nat) (bs : List Byte) : c.DataOnly (c.putRow r f i off bs) := rfl

/-! ## The head retires -/

/-- Everything that a retirement keeps. -/
@[simp] theorem Ctx.retire_keeps (c : Ctx) (q : Queue) :
    (c.retire q).life = c.life ∧ (c.retire q).cohort = c.cohort ∧ (c.retire q).coord = c.coord ∧ (c.retire q).clk = c.clk ∧
      (c.retire q).s = c.s ∧ (c.retire q).v = c.v ∧ (c.retire q).t = c.t ∧ (c.retire q).holds = c.holds ∧ (c.retire q).bells = c.bells ∧
      (c.retire q).rung = c.rung ∧ (c.retire q).acc = c.acc ∧ (c.retire q).accstat = c.accstat ∧ (c.retire q).pending = c.pending ∧
      (c.retire q).handed = c.handed := by
  rw [Ctx.retire_eq]
  exact Ctx.setQueue_keeps c q _

/-- Completion retires the head of a context of which only the data have changed. -/
theorem Ctx.complete_eq (c : Ctx) (q : Queue) (e : Entry) : ∃ d, c.DataOnly d ∧ c.complete q e = d.retire q :=
  ⟨_, (Ctx.DataOnly.foldl (fun c p => c.completeOper_dataOnly p.1 p.2) e.opers c).trans (Ctx.ringDone_dataOnly _ e), rfl⟩

@[simp] theorem Ctx.complete_keeps (c : Ctx) (q : Queue) (e : Entry) :
    (c.complete q e).life = c.life ∧ (c.complete q e).cohort = c.cohort ∧ (c.complete q e).coord = c.coord ∧ (c.complete q e).s = c.s ∧
      (c.complete q e).acc = c.acc ∧ (c.complete q e).accstat = c.accstat := by
  obtain ⟨d, data, gone⟩ := c.complete_eq q e
  simp [gone, data.life, data.cohort, data.coord, data.scalars, data.acc, data.accstat]

theorem Ctx.queue_complete {c : Ctx} {q : Queue} {h : Entry} {rest : List Entry} (hq : (c.queue q).entries = h :: rest) (e : Entry) :
    (c.queue q).HeadGone ((c.complete q e).queue q) rest c.now := by
  obtain ⟨d, data, gone⟩ := c.complete_eq q e
  have left := Ctx.queue_retire ((data.queue q).symm ▸ hq)
  rwa [data.queue, Ctx.now, data.clk, ← gone] at left

/-- What a loaded register's tag changes of a transfer's completion is data too. -/
theorem Ctx.tagged_dataOnly (c : Ctx) (e : Entry) : c.DataOnly (if e.isVoid then c else c.tagLoaded e) := by
  split
  · rfl
  · exact c.tagLoaded_dataOnly e

@[simp] theorem Ctx.completeXfer_keeps (c : Ctx) (q : Queue) (e : Entry) :
    (c.completeXfer q e).life = c.life ∧ (c.completeXfer q e).cohort = c.cohort ∧ (c.completeXfer q e).coord = c.coord ∧
      (c.completeXfer q e).s = c.s := by
  have data := c.tagged_dataOnly e
  simp only [Ctx.completeXfer, Ctx.complete_keeps, data.life, data.cohort, data.coord, data.scalars, and_self]

theorem Ctx.queue_completeXfer {c : Ctx} {q : Queue} {h : Entry} {rest : List Entry} (hq : (c.queue q).entries = h :: rest) (e : Entry) :
    (c.queue q).HeadGone ((c.completeXfer q e).queue q) rest c.now := by
  have data := c.tagged_dataOnly e
  have left := Ctx.queue_complete ((data.queue q).symm ▸ hq) e
  rwa [data.queue, Ctx.now, data.clk] at left

end Sys2Proof.Machine
end


section
/-! PROOFS. ENGINE_COMPLETION and WATCHDOG_EXPIRY (02 R42, R43, R46; 07 R151, R152; 08 R182; 10 R242). -/

namespace Sys2Proof.Machine

open Sys2Proof.Safety

/-! ## Events of a context that is the current one -/

theorem Ctx.is_ref {c d : Ctx} (hl : d.life ≠ .unbound) (hc : d.cohort = c.cohort) (hk : d.coord = c.coord) : d.is c.ref = true := by
  simp [Ctx.is, Ctx.ref, hl, hc, hk]

/-- Data of a context do not say which context it is. -/
theorem Ctx.DataOnly.is_ref {c d : Ctx} (h : c.DataOnly d) (hl : c.life ≠ .unbound) : d.is c.ref = true :=
  Ctx.is_ref (h.life ▸ hl) h.cohort h.coord

theorem Ctx.ne_unbound {c : Ctx} (h : c.life = .running) : c.life ≠ .unbound := by simp [h]

/-- Work on the current context itself, which it still is afterwards. -/
theorem State.withCtx_ref {s : State} {f : State → State} (hl : s.cx.life ≠ .unbound) (hf : (f s).cx.is s.cx.ref = true) :
    s.withCtx s.cx.ref f = f s := by
  have here : s.focus s.cx.ref = some s := by simp [State.focus, Ctx.is_ref hl]
  have back : (f s).focus s.cx.ref = some (f s) := by simp [State.focus, hf]
  simp [State.withCtx, here, back, hl]

theorem engineCompletion_eq {s : State} (q : Queue) (hl : s.cx.life = .running) (h : (s.completeQueue q).cx.is s.cx.ref = true) :
    exec (.engineCompletion s.cx.ref q) s = .next (s.completeQueue q) := by
  show execEngineCompletion s.cx.ref q s = _
  rw [execEngineCompletion, State.withCtx_ref (Ctx.ne_unbound hl)] <;> simp [hl, h]

/-! ## The operands of a head -/

/-- The operand is no fill, leave or load, which alone change a tile's state or an epoch. -/
def Oper.Plain (p : Oper) : Prop := p.role = .read ∨ p.role = .write ∨ p.role = .both

@[simp] theorem regOp_plain (n : BitVec 6) (r : Role) : (regOp n r).Plain ↔ r = .read ∨ r = .write ∨ r = .both := .rfl

@[simp] theorem tileOp_plain (n : BitVec 6) (r : Role) : (tileOp n r).Plain ↔ r = .read ∨ r = .write ∨ r = .both := .rfl

@[simp] theorem operB_plain (o : V) : (operB o).Plain := by
  unfold operB
  split <;> exact .inl rfl

/-- Only the first operand of an instruction is a fill, a leave or a load (16 R322). -/
theorem opersOf_tail_plain (i : Instr) : ∀ p ∈ (opersOf i).tail, p.Plain := by
  unfold opersOf
  split <;> simp [modeReg]

/-- The operands behind the first, with their epochs. -/
theorem Entry.opers_tail_plain {e : Entry} {x : Oper × BitVec 8} {l : List (Oper × BitVec 8)} (h : e.opers = x :: l) : ∀ y ∈ l, y.1.Plain := by
  intro y hy
  unfold Entry.opers at h
  split at h
  · cases h
  · refine opersOf_tail_plain e.instr y.1 ?_
    have tail : l = (opersOf e.instr).tail.zip e.epochs.tail := by
      rw [← List.tail_zip]
      simp [h]
    exact (List.of_mem_zip (tail ▸ hy : (y.1, y.2) ∈ _)).1

theorem Ctx.tile_modTile_eq (c : Ctx) (n k : BitVec 6) (f : Tile → Tile) : (c.modTile n f).tile k = if k = n then f (c.tile k) else c.tile k := by
  split
  · next h => rw [h, Ctx.tile_modTile]
  · next h => exact c.tile_modTile_other f h

theorem Ctx.hold_modHold_eq (c : Ctx) (n k : BitVec 6) (f : Hold → Hold) : (c.modHold n f).hold k = if k = n then f (c.hold k) else c.hold k := by
  split
  · next h => rw [h, Ctx.hold_modHold]
  · next h => exact c.hold_modHold_other f h

@[simp] theorem Ctx.tile_modHold (c : Ctx) (n k : BitVec 6) (f : Hold → Hold) : (c.modHold n f).tile k = c.tile k := rfl

@[simp] theorem Ctx.hold_modTile (c : Ctx) (n k : BitVec 6) (f : Tile → Tile) : (c.modTile n f).hold k = c.hold k := rfl

@[simp] theorem Ctx.tile_freshen (c : Ctx) (p : Oper) (k : BitVec 6) : (c.freshen p).tile k = c.tile k := rfl

@[simp] theorem Ctx.hold_freshen (c : Ctx) (p : Oper) (k : BitVec 6) : (c.freshen p).hold k = c.hold k := rfl

/-- What a tile and a register keep while operations that read or write them, but neither fill, leave nor load, complete. -/
def Ctx.SameEpochs (c d : Ctx) : Prop :=
  ∀ n, (d.tile n).state = (c.tile n).state ∧ (d.tile n).cepoch = (c.tile n).cepoch ∧ (d.hold n).cepoch = (c.hold n).cepoch

theorem Ctx.SameEpochs.trans {c d e : Ctx} (h : c.SameEpochs d) (k : d.SameEpochs e) : c.SameEpochs e := fun n =>
  ⟨(k n).1.trans (h n).1, (k n).2.1.trans (h n).2.1, (k n).2.2.trans (h n).2.2⟩

/-- The end of a read counts READERS down, and changes no state and no epoch. -/
theorem Ctx.finishOper_sameEpochs (c : Ctx) (p : Oper) : c.SameEpochs (c.finishOper p) := by
  intro n
  unfold Ctx.finishOper
  split
  · simp only [Ctx.tile_modTile_eq, Ctx.hold_modTile]
    split <;> exact ⟨rfl, rfl, rfl⟩
  · simp only [Ctx.hold_modHold_eq, Ctx.tile_modHold]
    split <;> exact ⟨rfl, rfl, rfl⟩
  · simp only [Ctx.hold_modHold_eq, Ctx.tile_modHold]
    split <;> exact ⟨rfl, rfl, rfl⟩
  · exact ⟨rfl, rfl, rfl⟩

theorem Ctx.completeOper_sameEpochs (c : Ctx) {p : Oper} (h : p.Plain) (ep : BitVec 8) : c.SameEpochs (c.completeOper p ep) := by
  obtain ⟨isTile, n, role⟩ := p
  rcases h with rfl | rfl | rfl <;> cases isTile <;> exact Ctx.finishOper_sameEpochs (c.freshen _) _

theorem Ctx.completeOpers_sameEpochs {l : List (Oper × BitVec 8)} (h : ∀ x ∈ l, x.1.Plain) (c : Ctx) :
    c.SameEpochs (l.foldl (fun c x => c.completeOper x.1 x.2) c) :=
  List.foldlRecOn l _ (motive := c.SameEpochs) (fun _ => ⟨rfl, rfl, rfl⟩) fun _ hb x hx => hb.trans (Ctx.completeOper_sameEpochs _ (h x hx) x.2)

/-- What completion does to the tile or register that the first operand names (07 R151; 03 R61). -/
def Ctx.Completed (d : Ctx) (p : Oper) (ep : BitVec 8) : Prop :=
  (p.isTile = true ∧ p.role = .fill → (d.tile p.n).state = .ready ∧ (d.tile p.n).cepoch = ep) ∧
  (p.isTile = true ∧ p.role = .leave → (d.tile p.n).state = .empty) ∧
  (p.isTile = false ∧ p.role = .load → (d.hold p.n).cepoch = ep)

theorem Ctx.completeOper_completed (c : Ctx) (p : Oper) (ep : BitVec 8) : (c.completeOper p ep).Completed p ep := by
  obtain ⟨isTile, n, role⟩ := p
  refine ⟨?_, ?_, ?_⟩
  · rintro ⟨rfl, rfl⟩; simp [Ctx.completeOper, Ctx.fillDone]
  · rintro ⟨rfl, rfl⟩; simp [Ctx.completeOper]
  · rintro ⟨rfl, rfl⟩; simp [Ctx.completeOper, Ctx.holdDone]

theorem Ctx.Completed.keep {c d : Ctx} {p : Oper} {ep : BitVec 8} (h : c.Completed p ep) (k : c.SameEpochs d) : d.Completed p ep := by
  obtain ⟨state, tileEpoch, holdEpoch⟩ := k p.n
  simpa only [Ctx.Completed, state, tileEpoch, holdEpoch] using h

/-- Tiles and holds alone say what is completed. -/
theorem Ctx.sameEpochs_of_eq {c d : Ctx} (ht : d.t = c.t) (hh : d.holds = c.holds) : c.SameEpochs d := fun n => by
  simp only [Ctx.tile, Ctx.hold, ht, hh, and_self]

@[simp] theorem Ctx.ringDone_keeps (c : Ctx) (e : Entry) : (c.ringDone e).t = c.t ∧ (c.ringDone e).holds = c.holds ∧ (c.ringDone e).v = c.v := by
  simp only [Ctx.ringDone, Ctx.ring_eq]
  split <;> exact ⟨rfl, rfl, rfl⟩

/-- The head of LQ or SQ completes: its first operand is as completion leaves it. -/
theorem Ctx.completeXfer_completed (c : Ctx) (q : Queue) {e : Entry} {p : Oper} {ep : BitVec 8} (h : e.opers.head? = some (p, ep)) :
    (c.completeXfer q e).Completed p ep := by
  obtain ⟨l, hl⟩ : ∃ l, e.opers = (p, ep) :: l := by
    cases ho : e.opers with
    | nil => simp [ho] at h
    | cons x l => exact ⟨l, by simp_all⟩
  have first := Ctx.completeOper_completed (if e.isVoid then c else c.tagLoaded e) p ep
  have all := first.keep (Ctx.completeOpers_sameEpochs (Entry.opers_tail_plain hl) _)
  simp only [Ctx.completeXfer, Ctx.complete, hl, List.foldl_cons]
  exact all.keep (Ctx.sameEpochs_of_eq (by simp) (by simp))

/-! ## The ends of operations -/

theorem State.completeQueue_early {s : State} {q : Queue} (hq : q = .lq ∨ q = .sq) (h : (s.cx.queue q).last = some s.cx.now) :
    s.completeQueue q = s := by
  rcases hq with rfl | rfl <;> exact if_pos (beq_iff_eq.mpr h)

theorem State.completeQueue_xfer {s : State} {q : Queue} (hq : q = .lq ∨ q = .sq) (h : (s.cx.queue q).last ≠ some s.cx.now) :
    s.completeQueue q = s.endXfer q false := by
  rcases hq with rfl | rfl <;> exact if_neg (mt beq_iff_eq.mp h)

/-- A transfer whose rows have all moved completes. -/
theorem State.endXfer_whole {s : State} {q : Queue} {e : Entry} {rest : List Entry} (h : (s.cx.queue q).entries = e :: rest)
    (hi : (s.cx.queue q).issued = true) (hr : (s.cx.queue q).rstart = false) (hm : (s.cx.queue q).moved = none) :
    s.endXfer q false = { s with cx := s.cx.completeXfer q e } := by
  simp only [State.endXfer, h, hi, hr, hm, Bool.not_true, Bool.or_self, Bool.false_eq_true, if_false]

/-- A transfer with rows left moves them to the end first. -/
theorem State.endXfer_rest {s : State} {q : Queue} {e : Entry} {rest : List Entry} {k : Nat} (h : (s.cx.queue q).entries = e :: rest)
    (hi : (s.cx.queue q).issued = true) (hr : (s.cx.queue q).rstart = false) (hm : (s.cx.queue q).moved = some k) :
    s.endXfer q false = if ((s.transfer q e true).cx.queue q).rstart then s.transfer q e true
      else { s.transfer q e true with cx := (s.transfer q e true).cx.completeXfer q e } := by
  simp only [State.endXfer, h, hi, hr, hm, Bool.not_true, Bool.or_self, Bool.false_eq_true, if_false]

/-- The products due by a time complete: their bells ring, and the list of them changes. -/
@[simp] theorem Ctx.productsDone_keeps (c : Ctx) (t : Nat) :
    (c.productsDone t).life = c.life ∧ (c.productsDone t).cohort = c.cohort ∧ (c.productsDone t).coord = c.coord ∧
      (c.productsDone t).mq = c.mq ∧ (c.productsDone t).acc = c.acc ∧ (c.productsDone t).accstat = c.accstat := by
  have rung (l : List (Nat × BitVec 5)) (d : Ctx) : d.DataOnly (l.foldl (fun c x => c.ring x.2) d) :=
    .foldl (fun c (x : Nat × BitVec 5) => c.ring_dataOnly x.2) l d
  exact ⟨(rung _ _).life, (rung _ _).cohort, (rung _ _).coord, (rung _ _).queue .mq, (rung _ _).acc, (rung _ _).accstat⟩

theorem State.moveMatrix_early {s : State} (h : s.time < s.cx.mqLast) : s.moveMatrix = { s with cx := s.cx.productsDone s.time } := by
  simp only [State.moveMatrix, Nat.not_le.mpr h, decide_false, Bool.false_and, Bool.false_eq_true, if_false]

/-- AMZ at the head of MQ, in service, whose last cycle has come. -/
theorem State.moveMatrix_amz {s : State} {e : Entry} {rest : List Entry} {o : X} (h : s.cx.mq.entries = e :: rest) (hi : s.cx.mq.issued = true)
    (hr : s.cx.mq.rstart = false) (hv : e.isVoid = false) (he : e.instr = .amz o) (hd : s.cx.mqLast ≤ s.time)
    (hl : s.cx.mq.last ≠ some s.cx.now) :
    s.moveMatrix = { s with cx := ((s.cx.clearAcc (o.fmt == 4)).complete .mq e).productsDone s.time } := by
  have fields : e.xFields = some o := by simp only [Entry.xFields, he, fieldsOf]
  simp only [State.moveMatrix, State.endMatrix, State.endJoin, h, fields, hi, hr, hv, he, hd, isCommand]
  simp [hl]

/-! ## Results of the vector engine that become visible (08 R181 to R184) -/

theorem Ctx.show_dataOnly (c : Ctx) (x : Visible) : c.DataOnly (c.show x) := by
  cases x with
  | maskRow m i sel d => simp only [Ctx.show, Ctx.setM_eq]; rfl
  | ring b => exact c.ring_dataOnly b
  | tileRead t => exact c.finishOper_dataOnly (tileOp t .read)
  | regRead r => exact c.finishOper_dataOnly (regOp r .read)
  | _ => rfl

/-- Only the data of a context and the results on their way differ. -/
def Ctx.ResultsOnly (c d : Ctx) : Prop := ({ c with pending := d.pending } : Ctx).DataOnly d

theorem Ctx.ResultsOnly.trans {c d e : Ctx} (h : c.ResultsOnly d) (k : d.ResultsOnly e) : c.ResultsOnly e := by
  unfold Ctx.ResultsOnly Ctx.DataOnly at *
  rw [k, h]

/-- Results that are taken from the list take effect. -/
theorem Ctx.showAll_resultsOnly (c : Ctx) (l r : List (Nat × Visible)) :
    c.ResultsOnly (l.foldl (fun c x => Ctx.show c x.2) { c with pending := r }) ∧
      (l.foldl (fun c x => Ctx.show c x.2) { c with pending := r }).pending = r := by
  have h := Ctx.DataOnly.foldl (fun c (x : Nat × Visible) => c.show_dataOnly x.2) l { c with pending := r }
  exact ⟨by rw [Ctx.ResultsOnly, h.pending]; exact h, h.pending⟩

theorem Ctx.showData_resultsOnly (c : Ctx) (t : Nat) :
    c.ResultsOnly (c.showData t) ∧ (c.showData t).pending = c.pending.filter fun x => !(decide (x.1 ≤ t) && x.2.isData) :=
  c.showAll_resultsOnly _ _

theorem Ctx.showRest_resultsOnly (c : Ctx) (t : Nat) :
    c.ResultsOnly (c.showRest t) ∧ (c.showRest t).pending = c.pending.filter fun x => !(decide (x.1 ≤ t) && !x.2.isData && !x.2.isSend) :=
  c.showAll_resultsOnly _ _

/-- An entry that reaches a neighbour's buffer changes no other data of the current context, and no memory. -/
theorem State.deliverChannel_dataOnly (s : State) (c : Ctx) (next : Bool) (x : ChanEntry) :
    s.cx.DataOnly (s.deliverChannel c next x).cx ∧ (s.deliverChannel c next x).mem = s.mem := by
  unfold State.deliverChannel
  split
  · exact ⟨rfl, rfl⟩
  · refine ⟨?_, rfl⟩
    simp only [State.modCtx, State.mapCtxs]
    split
    · split <;> rfl
    · rfl

theorem State.showSends_resultsOnly (s : State) (t : Nat) :
    s.cx.ResultsOnly (s.showSends t).cx ∧ (s.showSends t).mem = s.mem ∧
      (s.showSends t).cx.pending = s.cx.pending.filter fun x => !(decide (x.1 ≤ t) && x.2.isSend) := by
  let c : Ctx := { s.cx with pending := s.cx.pending.filter fun x => !(decide (x.1 ≤ t) && x.2.isSend) }
  have h : c.DataOnly (s.showSends t).cx ∧ (s.showSends t).mem = s.mem := by
    refine List.foldlRecOn _ _ (motive := fun u : State => c.DataOnly u.cx ∧ u.mem = s.mem) ⟨rfl, rfl⟩ fun u ⟨hu, hm⟩ x _ => ?_
    split
    · obtain ⟨data, mem⟩ := u.deliverChannel_dataOnly u.cx _ _
      exact ⟨hu.trans data, mem.trans hm⟩
    · exact ⟨hu, hm⟩
  exact ⟨by rw [Ctx.ResultsOnly, h.1.pending]; exact h.1, h.2, h.1.pending⟩

/-- Every result of AQ whose cycle has come takes effect, and no other (08 R182). -/
theorem State.completeQueue_aq (s : State) :
    s.cx.ResultsOnly (s.completeQueue .aq).cx ∧ (s.completeQueue .aq).mem = s.mem ∧
      ∀ x, x ∈ (s.completeQueue .aq).cx.pending ↔ x ∈ s.cx.pending ∧ s.cx.now < x.1 := by
  obtain ⟨data, dataLeft⟩ := s.cx.showData_resultsOnly s.cx.now
  obtain ⟨sends, mem, sendsLeft⟩ := ({ s with cx := s.cx.showData s.cx.now } : State).showSends_resultsOnly s.cx.now
  obtain ⟨rest, restLeft⟩ := (s.showNow s.cx.now).cx.showRest_resultsOnly s.cx.now
  refine ⟨(data.trans sends).trans rest, mem, fun x => ?_⟩
  have left : (s.completeQueue .aq).cx.pending = _ := restLeft
  rw [left, List.mem_filter, show (s.showNow s.cx.now).cx.pending = _ from sendsLeft, List.mem_filter, dataLeft, List.mem_filter,
    ← Nat.not_le (a := x.1)]
  cases x.2.isData <;> cases x.2.isSend <;> by_cases due : x.1 ≤ s.cx.now <;> simp [due]

/-! ## The watchdog (02 R46) -/

theorem watchdogExpiry_quiet {s : State} (hl : s.cx.life = .running) (h : s.cx.wdogOver = false) : exec (.watchdogExpiry s.cx.ref) s = .next s := by
  show execWatchdogExpiry s.cx.ref s = _
  rw [execWatchdogExpiry, State.withCtx_ref (Ctx.ne_unbound hl)] <;> simp [h, Ctx.is_ref (Ctx.ne_unbound hl)]

/-- The count is not over where something keeps it from rising, or from the limit. -/
theorem Ctx.wdogOver_false {c : Ctx} (h : c.wdogLimit = 0 ∨ c.progressed = true ∨ c.inFlight = true ∨ c.waitsOutside = true ∨ c.stopped = true ∨
    c.wdog + 1 < c.wdogLimit) : c.wdogOver = false := by
  have atMost : c.wdogNext ≤ c.wdog + 1 := by
    unfold Ctx.wdogNext
    split
    · omega
    · split <;> omega
  simp only [Ctx.wdogOver, Bool.and_eq_false_iff, bne_eq_false_iff_eq, decide_eq_false_iff_not, Nat.not_le, Nat.not_lt]
  rcases h with zero | busy | busy | idle | idle | early
  · exact .inl (.inl zero)
  · exact .inr (by simp [Ctx.wdogNext, busy])
  · exact .inr (by simp [Ctx.wdogNext, busy])
  · exact .inr (by simp only [Ctx.wdogNext, idle, Bool.true_or, if_true]; split <;> omega)
  · exact .inr (by simp only [Ctx.wdogNext, idle, Bool.or_true, if_true]; split <;> omega)
  · exact .inl (.inr (by omega))

/-- The trap of the watchdog is taken with the count at the limit. -/
theorem watchdogExpiry_trap {s : State} (hl : s.cx.life = .running) (h : s.cx.wdogOver = true) :
    exec (.watchdogExpiry s.cx.ref) s = .next { s with cx := { s.cx with
      wdog := s.cx.wdogNext, life := .trapped, trap := some (s.cx.watchdogTrap.record s.cx.pc) } } := by
  have taken : s.watchdog = { s with cx := { s.cx with
      wdog := s.cx.wdogNext, life := .trapped, trap := some (s.cx.watchdogTrap.record s.cx.pc) } } := by
    simp [State.watchdog, h, State.takeTrap, Ctx.takeTrap_running, hl]
  show execWatchdogExpiry s.cx.ref s = _
  rw [execWatchdogExpiry, State.withCtx_ref (Ctx.ne_unbound hl)] <;> simp [hl, h, taken, Ctx.is_ref]

theorem Ctx.wdogOver_true {c : Ctx} (limit : c.wdogLimit ≠ 0) (idle : c.progressed = false) (empty : c.inFlight = false)
    (reached : c.wdogLimit ≤ c.wdog + 1) (inside : c.waitsOutside = false) (goes : c.stopped = false) : c.wdogOver = true := by
  simp [Ctx.wdogOver, Ctx.wdogNext, limit, idle, empty, reached, inside, goes]

/-- The watchdog names the first queue with an entry, unless the control unit's own instruction is held (02 R46). -/
theorem Ctx.watchdogTrap_queue {c : Ctx} (h : c.held ≠ some true) {n : Nat} {a : Word} (hq : c.firstQueue = some (n, a)) :
    c.watchdogTrap = { cause := 0x42, queue := n, iaddr := a } := by
  simp only [Ctx.watchdogTrap, beq_eq_false_iff_ne.mpr h, hq]

theorem Ctx.watchdogTrap_control {c : Ctx} (h : c.held = some true ∨ c.firstQueue = none) :
    c.watchdogTrap = { cause := 0x42, queue := 0, iaddr := c.pc } := by
  rcases h with h | h <;> simp [Ctx.watchdogTrap, h]

theorem Ctx.watchdogTrap_cause (c : Ctx) : c.watchdogTrap.cause = 0x42 := by
  unfold Ctx.watchdogTrap
  split <;> rfl

/-! ## The events of LQ, SQ and MQ -/

/-- The head of LQ or SQ that has moved every row ends. -/
theorem engineCompletion_whole {s : State} {q : Queue} {e : Entry} {rest : List Entry} (hl : s.cx.life = .running)
    (h : (s.cx.queue q).entries = e :: rest) (hi : (s.cx.queue q).issued = true) (hr : (s.cx.queue q).rstart = false) (hq : q = .lq ∨ q = .sq)
    (later : (s.cx.queue q).last ≠ some s.cx.now) (hm : (s.cx.queue q).moved = none) :
    exec (.engineCompletion s.cx.ref q) s = .next { s with cx := s.cx.completeXfer q e } := by
  have done : s.completeQueue q = { s with cx := s.cx.completeXfer q e } := by
    rw [State.completeQueue_xfer hq later, State.endXfer_whole h hi hr hm]
  rw [engineCompletion_eq q hl, done]
  rw [done]
  exact Ctx.is_ref (by simp [hl]) (by simp) (by simp)

/-- The head of LQ or SQ with rows left moves them first, and ends unless a row fails. -/
theorem engineCompletion_rest {s : State} {q : Queue} {e : Entry} {rest : List Entry} {k : Nat} (hl : s.cx.life = .running)
    (h : (s.cx.queue q).entries = e :: rest) (hi : (s.cx.queue q).issued = true) (hr : (s.cx.queue q).rstart = false) (hq : q = .lq ∨ q = .sq)
    (later : (s.cx.queue q).last ≠ some s.cx.now) (hm : (s.cx.queue q).moved = some k) (own : (s.transfer q e true).cx.is s.cx.ref = true) :
    exec (.engineCompletion s.cx.ref q) s = .next (if ((s.transfer q e true).cx.queue q).rstart then s.transfer q e true
      else { s.transfer q e true with cx := (s.transfer q e true).cx.completeXfer q e }) := by
  have done := (State.completeQueue_xfer hq later).trans (State.endXfer_rest h hi hr hm)
  rw [engineCompletion_eq q hl, done]
  rw [done]
  split
  · exact own
  · simpa [Ctx.is] using own

/-- AMZ ends once its cycles have passed: the partition holds zeros (10 R242). -/
theorem engineCompletion_amz {s : State} {e : Entry} {rest : List Entry} {o : X} (hl : s.cx.life = .running) (h : s.cx.mq.entries = e :: rest)
    (hi : s.cx.mq.issued = true) (hr : s.cx.mq.rstart = false) (hv : e.isVoid = false) (he : e.instr = .amz o) (hd : s.cx.mqLast ≤ s.time)
    (later : s.cx.mq.last ≠ some s.cx.now) :
    ∃ t, exec (.engineCompletion s.cx.ref .mq) s = .next t ∧ t.cx.mq.entries = rest ∧ t.cx.acc = 0 ∧ t.cx.accstat.int = (o.fmt == 4) ∧
      t.cx.accstat.flags = 0 ∧ t.mem = s.mem := by
  have done : s.completeQueue .mq = _ := State.moveMatrix_amz h hi hr hv he hd later
  have left := Ctx.queue_complete (show ((s.cx.clearAcc (o.fmt == 4)).queue .mq).entries = e :: rest from h) e
  refine ⟨_, (engineCompletion_eq .mq hl ?_).trans (congrArg _ done), ?_, ?_, ?_, ?_, rfl⟩
  · rw [done]
    exact Ctx.is_ref (by simp [Ctx.clearAcc, hl]) (by simp [Ctx.clearAcc]) (by simp [Ctx.clearAcc])
  · simp only [Ctx.productsDone_keeps]
    exact congrArg EQueue.entries left
  · simp [Ctx.clearAcc]
  · simp [Ctx.clearAcc]
  · simp [Ctx.clearAcc]

/-- Before the last cycle of MQ's head nothing of it ends. -/
theorem engineCompletion_mqEarly {s : State} (hl : s.cx.life = .running) (early : s.time < s.cx.mqLast) :
    ∃ t, exec (.engineCompletion s.cx.ref .mq) s = .next t ∧ t.cx.mq = s.cx.mq ∧ t.cx.acc = s.cx.acc ∧ t.mem = s.mem := by
  have done : s.completeQueue .mq = _ := State.moveMatrix_early early
  refine ⟨_, (engineCompletion_eq .mq hl ?_).trans (congrArg _ done), by simp, by simp, rfl⟩
  rw [done]
  exact Ctx.is_ref (by simp [hl]) (by simp) (by simp)

end Sys2Proof.Machine

namespace Sys2Proof.Proofs

open Sys2Proof.Machine Sys2Proof.Safety

/-- Settles O41, by the queue of the head and the ways in which its operation ends. -/
theorem completionAndWatchdog : Obligations.CompletionAndWatchdog := by
  refine ⟨fun s q e rest hl h hi hr => ⟨fun hq later hm => ?_, ?_, ?_, ?_⟩, fun s hl => ?_, fun s hl => ⟨fun idle => ?_, ?_⟩⟩
  · have left := Ctx.queue_completeXfer h e
    refine ⟨_, engineCompletion_whole hl h hi hr hq later hm, congrArg EQueue.entries left, congrArg EQueue.issued left, rfl, fun k => ?_,
      fun p ep hp => s.cx.completeXfer_completed q hp⟩
    simp [Ctx.sreg]
  · intro hq later k hm s1 own
    exact engineCompletion_rest hl h hi hr hq later hm own
  · intro hq early
    have same := State.completeQueue_early hq early
    rw [engineCompletion_eq q hl (by rw [same]; exact Ctx.is_ref (Ctx.ne_unbound hl) rfl rfl), same]
  · rintro rfl hv o he
    exact ⟨fun due later => engineCompletion_amz hl h hi hr hv he due later, fun early => engineCompletion_mqEarly hl early⟩
  · obtain ⟨results, mem, pending⟩ := s.completeQueue_aq
    exact ⟨_, engineCompletion_eq .aq hl (results.is_ref (Ctx.ne_unbound hl)), mem, results.queue .aq, pending⟩
  · exact watchdogExpiry_quiet hl (Ctx.wdogOver_false idle)
  · intro limit quiet empty reached inside goes
    refine ⟨_, _, watchdogExpiry_trap hl (Ctx.wdogOver_true limit quiet empty reached inside goes), rfl, rfl, s.cx.watchdogTrap_cause, rfl, rfl,
      fun own n a first => ?_, fun own => ?_⟩
    · rw [Ctx.watchdogTrap_queue own first]; exact ⟨rfl, rfl⟩
    · rw [Ctx.watchdogTrap_control own]; exact ⟨rfl, rfl⟩

end Sys2Proof.Proofs
end


section
/-! PROOFS. An access to memory leaves the current context as it was (12 R248; 13 R279, R284), and the rows that a transfer moves change its
data alone (07 R162 to R174). -/

namespace Sys2Proof.Machine

/-! ## Directory, ports and page-table entries -/

@[simp] theorem State.noteRecall_cx (s : State) (k : Nat) : (s.noteRecall k).cx = s.cx := rfl

@[simp] theorem State.recallSegs_cx (s : State) (gs : List Seg) : (s.recallSegs gs).cx = s.cx :=
  List.foldlRecOn _ _ (motive := fun u : State => u.cx = s.cx) rfl fun _ hu _ _ => hu

@[simp] theorem State.homeWrite_cx (s : State) (gs : List Seg) (bs : List Byte) (whole : Bool) : (s.homeWrite gs bs whole).cx = s.cx :=
  s.recallSegs_cx gs

@[simp] theorem State.noteRead_cx (s : State) (sharer k : Nat) : (s.noteRead sharer k).cx = s.cx := by
  simp only [State.noteRead]
  split
  · rfl
  · split
    · rfl
    · split <;> rfl

@[simp] theorem State.noteWrite_cx (s : State) (sharer k : Nat) : (s.noteWrite sharer k).cx = s.cx := by
  unfold State.noteWrite
  split <;> rfl

@[simp] theorem State.setPort_cx (s : State) (n : Nat) (p : Port) : (s.setPort n p).cx = s.cx := by
  unfold State.setPort
  split <;> rfl

@[simp] theorem State.sendTo_cx (s : State) (h : MsgHeader) (payload : List Byte) (o : Origin) : (s.sendTo h payload o).cx = s.cx := by
  unfold State.sendTo
  split
  · rfl
  · exact s.setPort_cx _ _

@[simp] theorem State.ask_cx (s : State) (n : Nat) (g : Seg) (x y z : Word) (payload : List Byte) : (s.ask n g x y z payload).cx = s.cx :=
  s.sendTo_cx _ _ _

@[simp] theorem State.askLoads_cx (s : State) (gs : List Seg) : (s.askLoads gs).cx = s.cx :=
  List.foldlRecOn _ _ (motive := fun u : State => u.cx = s.cx) rfl fun u hu _ _ => (u.ask_cx _ _ _ _ _ _).trans hu

@[simp] theorem State.askStores_cx (s : State) (gs : List Seg) (bs : List Byte) : (s.askStores gs bs).cx = s.cx := by
  induction gs generalizing s bs with
  | nil => rfl
  | cons g r ih =>
    rw [State.askStores, ih]
    exact List.foldlRecOn _ _ (motive := fun u : State => u.cx = s.cx) rfl fun u hu _ _ => (u.ask_cx _ _ _ _ _ _).trans hu

@[simp] theorem State.putPte_cx (s : State) (l : Leaf) (k : Access) : (s.putPte l k).cx = s.cx := by
  unfold State.putPte
  split
  · rfl
  · exact s.homeWrite_cx _ _ _

@[simp] theorem State.tlbFill_cx (s : State) (cache : Nat) (asid : BitVec 16) (va : Nat) (l : Leaf) : (s.tlbFill cache asid va l).cx = s.cx := rfl

/-! ## Translation and accesses -/

theorem State.translate_cx {s s1 : State} {cache : Option Nat} {sp : Space} {va key : Nat} {k : Access}
    (h : s.translate cache sp va k = .ok s1 key) : s1.cx = s.cx := by
  simp only [State.translate] at h
  split at h
  · split at h <;> cases h
    rfl
  · split at h
    · cases h
    · cases h
    · split at h
      · cases h
      · split at h
        · cases h
        · split at h
          · cases h
          · cases h
            split <;> simp

theorem State.translateRange_cx {s s1 : State} {cache : Option Nat} {sp : Space} {va len : Nat} {k : Access} {fuel : Nat} {gs : List Seg}
    (h : s.translateRange cache sp va len k fuel = .ok s1 gs) : s1.cx = s.cx := by
  induction fuel generalizing s va len gs with
  | zero => cases h; rfl
  | succ fuel ih =>
    simp only [State.translateRange] at h
    split at h
    · cases h; rfl
    · split at h
      · cases h
      · next s2 key one =>
        split at h
        · cases h
        · next s3 gs' rest =>
          cases h
          exact (ih rest).trans (State.translate_cx one)

theorem State.mapRange_cx {s s1 : State} {cache : Option Nat} {f : Int} {len : Nat} {k : Access} {onlyVirt : Bool} {gs : List Seg}
    (h : s.mapRange cache f len k onlyVirt = .ok s1 gs) : s1.cx = s.cx := by
  unfold State.mapRange at h
  split at h
  · cases h
  · cases h; rfl
  · exact State.translateRange_cx h

theorem Ranged.asked_cx {x : Ranged} {f : Word} {k : Access} {s1 : State} {gs : List Seg} (h : x.asked f k = .ok s1 gs) :
    ∃ s0, x = .ok s0 gs ∧ s1.cx = s0.cx := by
  cases x with
  | fail e => cases h
  | ok s0 gs0 =>
    simp only [Ranged.asked] at h
    split at h
    · cases h
    · cases h
      refine ⟨s0, rfl, ?_⟩
      split
      · rfl
      · exact s0.askLoads_cx gs

theorem Ranged.checked_eq {x : Ranged} {f : Int} {k : Access} {s1 : State} {gs : List Seg} (h : x.checked f k = .ok s1 gs) : x = .ok s1 gs := by
  cases x with
  | fail e => cases h
  | ok s0 gs0 =>
    simp only [Ranged.checked] at h
    split at h <;> cases h
    rfl

theorem State.access_cx {s s1 : State} {cache : Option Nat} {f : Int} {len : Nat} {k : Access} {onlyVirt : Bool} {gs : List Seg}
    (h : s.access cache f len k onlyVirt = .ok s1 gs) : s1.cx = s.cx := by
  obtain ⟨s0, mapped, same⟩ := Ranged.asked_cx (Ranged.checked_eq h)
  exact same.trans (State.mapRange_cx mapped)

/-! ## Rows of a transfer -/

@[simp] theorem State.prefetch_cx (s : State) (cache va : Nat) (up : Bool) : (s.prefetch cache va up).cx = s.cx := by
  unfold State.prefetch
  cases s.tlbHit cache s.cx.asid va with
  | none => rfl
  | some l =>
    cases up <;> simp only [if_true, if_false, Bool.false_eq_true]
    all_goals
      split
      · rfl
      · split <;> simp

theorem State.reach_cx {s : State} {e : Entry} {a : Int} {len : Nat} {k : Access} {x : State × List Seg} (h : s.reach e a len k = .ok x) :
    x.1.cx = s.cx := by
  simp only [State.reach] at h
  split at h
  · cases h
  · next s1 gs found =>
    cases h
    refine Eq.trans ?_ (State.access_cx found)
    split <;> simp

theorem State.loadRow_cx {s : State} {e : Entry} {a : Int} {len : Nat} {x : State × List Byte} (h : s.loadRow e a len = .ok x) :
    x.1.cx = s.cx := by
  simp only [State.loadRow] at h
  split at h
  · cases h
  · next s1 gs found =>
    split at h
    · cases h
    · cases h
      refine Eq.trans ?_ (State.reach_cx found)
      split
      · rfl
      · exact List.foldlRecOn _ _ (motive := fun u : State => u.cx = s1.cx) rfl fun u hu _ _ => (u.noteRead_cx _ _).trans hu

theorem State.storeRow_cx {s : State} {e : Entry} {a : Int} {bs : List Byte} {x : State × List Seg} (h : s.storeRow e a bs = .ok x) :
    x.1.cx = s.cx := by
  simp only [State.storeRow] at h
  split at h
  · cases h
  · next s1 gs found =>
    cases h
    refine Eq.trans ?_ (State.reach_cx found)
    rw [State.askStores_cx]
    exact List.foldlRecOn _ _ (motive := fun u : State => u.cx = s1.cx) rfl fun u hu _ _ => (u.noteWrite_cx _ _).trans hu

@[simp] theorem State.putTile_cx (s : State) (n : BitVec 6) (off : Nat) (bs : List Byte) : (s.putTile n off bs).cx = s.cx := rfl

/-- The rest of a computation that has not failed. -/
theorem except_bind_ok {ε α β : Type} {x : Except ε α} {f : α → Except ε β} {b : β} (h : (x >>= f) = .ok b) : ∃ a, x = .ok a ∧ f a = .ok b := by
  cases x with
  | error e => cases h
  | ok a => exact ⟨a, rfl, h⟩

/-- A row moved changes the data of the current context alone. -/
theorem State.moveRow_dataOnly {s : State} {e : Entry} {h : Shape} {i : Nat} {x : State × List Seg} (hx : s.moveRow e h i = .ok x) :
    s.cx.DataOnly x.1.cx := by
  have same {c d : Ctx} (h : d = c) : c.DataOnly d := h ▸ .refl c
  simp only [State.moveRow] at hx
  split at hx
  -- TLD, TCPY: a tile's row
  case h_1 | h_2 =>
    obtain ⟨⟨s1, bs⟩, loaded, rest⟩ := except_bind_ok hx
    cases rest
    exact same (State.loadRow_cx loaded)
  -- TLDX: a column of the tile, element by element
  case h_3 =>
    obtain ⟨⟨s1, bs⟩, loaded, rest⟩ := except_bind_ok hx
    cases rest
    refine same (Eq.trans ?_ (State.loadRow_cx loaded))
    exact List.foldlRecOn _ _ (motive := fun u : State => u.cx = s1.cx) rfl fun _ hu _ _ => hu
  -- TLDV
  case h_4 o =>
    obtain ⟨⟨s1, bs⟩, loaded, rest⟩ := except_bind_ok hx
    cases rest
    exact (same (State.loadRow_cx loaded)).trans (s1.cx.putRow_dataOnly _ _ _ _ _)
  -- VLDB: one row, to each row of the register
  case h_5 o =>
    obtain ⟨⟨s1, bs⟩, loaded, rest⟩ := except_bind_ok hx
    cases rest
    exact (same (State.loadRow_cx loaded)).trans (.foldl (fun c r => c.putRow_dataOnly _ _ _ _ _) _ _)
  -- TGATH
  case h_6 =>
    obtain ⟨a, -, rest⟩ := except_bind_ok hx
    obtain ⟨⟨s1, bs⟩, loaded, rest⟩ := except_bind_ok rest
    cases rest
    exact same (State.loadRow_cx loaded)
  -- VGATH
  case h_7 =>
    obtain ⟨a, -, rest⟩ := except_bind_ok hx
    obtain ⟨⟨s1, bs⟩, loaded, rest⟩ := except_bind_ok rest
    cases rest
    exact (same (State.loadRow_cx loaded)).trans (s1.cx.putRow_dataOnly _ _ _ _ _)
  -- TFILL, VSTT and the rest: no context changes
  case h_8 | h_13 | h_14 =>
    cases hx
    exact .refl _
  -- VLDT
  case h_9 =>
    cases hx
    exact s.cx.putRow_dataOnly _ _ _ _ _
  -- TST, TSTV: a row stored
  case h_10 | h_11 => exact same (State.storeRow_cx hx)
  -- TSCAT
  case h_12 =>
    obtain ⟨a, -, stored⟩ := except_bind_ok hx
    exact same (State.storeRow_cx stored)

theorem State.moveRows_dataOnly (s : State) (e : Entry) (h : Shape) (i : Nat) (gs : List Seg) (n : Nat) :
    s.cx.DataOnly (s.moveRows e h i gs n).1.cx := by
  induction n generalizing s i gs with
  | zero => exact .refl _
  | succ n ih =>
    rw [State.moveRows]
    split
    · exact .refl _
    · next s1 g moved => exact (State.moveRow_dataOnly moved).trans (ih s1 _ _)

end Sys2Proof.Machine
end


section
/-! PROOFS. QUEUE_ISSUE (02 R41, R42; 07 R158, R162; 08 R180; 10 R242 to R244; 16 R324, R338, R341; 17 R363). -/

namespace Sys2Proof.Machine

open Sys2Proof.Safety

/-! ## When the head of a queue issues -/

theorem stallMet_iff (now : Nat) (last : Option Nat) (stall : Nat) : stallMet now last stall = true ↔ ∀ l, last = some l → l + stall ≤ now := by
  cases last <;> simp [stallMet]

/-- The conditions of 02 R41 are those that the engines test. -/
theorem issues_iff {s : State} {q : Queue} {e : Entry} {rest : List Entry} (hl : s.cx.life = .running) (h : (s.cx.queue q).entries = e :: rest) :
    Issues s q e rest ↔ (s.cx.mayIssue q e && s.engineFree q e && s.cx.canTake (e.instr.sync.getD Sync.plain).takes && !s.cx.moving q) = true := by
  have last : (∀ l, (s.cx.queue q).last = some l → l ≠ s.cx.now ∧ l + (e.instr.sync.getD Sync.plain).stall ≤ s.cx.now) ↔
      (s.cx.queue q).last ≠ some s.cx.now ∧ stallMet s.cx.now (s.cx.queue q).last (e.instr.sync.getD Sync.plain).stall = true := by
    rw [stallMet_iff]
    cases (s.cx.queue q).last <;> simp
  simp only [Issues, last, hl, h, Ctx.mayIssue, Bool.and_eq_true, Bool.not_eq_true', bne_iff_ne, decide_eq_true_eq, true_and]
  tauto

theorem State.tryIssue_issues {s : State} {q : Queue} {e : Entry} {rest : List Entry} (i : Issues s q e rest) :
    s.tryIssue s q = s.issueHead q e := by
  obtain ⟨hl, h, -⟩ := id i
  simp only [State.tryIssue, h, (issues_iff hl h).mp i, if_true]

theorem State.tryIssue_blocked {s : State} {q : Queue} {e : Entry} {rest : List Entry} (hl : s.cx.life = .running)
    (h : (s.cx.queue q).entries = e :: rest) (i : ¬ Issues s q e rest) : s.tryIssue s q = s := by
  simp only [State.tryIssue, h, mt (issues_iff hl h).mpr i]
  rfl

/-- QUEUE_ISSUE where a condition blocks the head. -/
theorem queueIssue_blocked {s : State} {q : Queue} {e : Entry} {rest : List Entry} (hl : s.cx.life = .running)
    (h : (s.cx.queue q).entries = e :: rest) (i : ¬ Issues s q e rest) : exec (.queueIssue s.cx.ref q) s = .next s := by
  have same := State.tryIssue_blocked hl h i
  show execQueueIssue s.cx.ref q s = _
  rw [execQueueIssue, State.withCtx_ref (Ctx.ne_unbound hl)] <;> simp [hl, same, Ctx.is_ref]

/-- QUEUE_ISSUE where the head issues. -/
theorem queueIssue_eq {s t : State} {q : Queue} {e : Entry} {rest : List Entry} (i : Issues s q e rest) (h : s.issueHead q e = t)
    (own : t.cx.is s.cx.ref = true) : exec (.queueIssue s.cx.ref q) s = .next t := by
  obtain ⟨hl, -⟩ := id i
  have issued := (State.tryIssue_issues i).trans h
  show execQueueIssue s.cx.ref q s = _
  rw [execQueueIssue, State.withCtx_ref (Ctx.ne_unbound hl)] <;> simp [hl, issued, own]

/-! ## Accepted heads -/

@[simp] theorem Ctx.accept_keeps (s : State) (q : Queue) (e : Entry) :
    (s.cx.accept q e).life = s.cx.life ∧ (s.cx.accept q e).cohort = s.cx.cohort ∧ (s.cx.accept q e).coord = s.cx.coord ∧
      (s.cx.accept q e).clk = s.cx.clk ∧ (s.cx.accept q e).s = s.cx.s ∧ (s.cx.accept q e).v = s.cx.v ∧ (s.cx.accept q e).t = s.cx.t ∧
      (s.cx.accept q e).holds = s.cx.holds ∧ (s.cx.accept q e).bells = (issuedBells s e).1 ∧ (s.cx.accept q e).rung = (issuedBells s e).2 ∧
      (s.cx.accept q e).acc = s.cx.acc ∧ (s.cx.accept q e).pending = s.cx.pending ∧ (s.cx.accept q e).handed = s.cx.handed := by
  simp [Ctx.accept_eq]

@[simp] theorem Ctx.queue_accept (s : State) (q : Queue) (e : Entry) :
    (s.cx.accept q e).queue q = { s.cx.queue q with issued := true, last := some s.cx.now } := by
  rw [Ctx.accept_eq, Ctx.queue_setQueue]

/-- The head has issued and left its queue in one cycle (16 R324). -/
def EQueue.IssuedGone (x : EQueue) (rest : List Entry) (now : Nat) : Prop :=
  x.entries = rest ∧ x.issued = false ∧ x.last = some now ∧ x.gone = some now

/-- The head has issued and is in service. -/
def EQueue.InService (x : EQueue) (e : Entry) (rest : List Entry) (now : Nat) : Prop :=
  x.entries = e :: rest ∧ x.issued = true ∧ x.last = some now

/-- A head that retires as soon as it has issued. -/
theorem Ctx.retire_issuedGone {s : State} {q : Queue} {e : Entry} {rest : List Entry} (h : (s.cx.queue q).entries = e :: rest) {d : Ctx}
    (data : (s.cx.accept q e).DataOnly d) : ((d.retire q).queue q).IssuedGone rest s.cx.now := by
  have head : (d.queue q).entries = e :: rest := by rw [data.queue, Ctx.queue_accept]; exact h
  have now : d.now = s.cx.now := by simp [Ctx.now, data.clk]
  rw [Ctx.queue_retire head, data.queue, Ctx.queue_accept, now]
  exact ⟨rfl, rfl, rfl, rfl⟩

theorem Ctx.ringDone_setQueue (c : Ctx) (q : Queue) (x : EQueue) (e : Entry) : (c.setQueue q x).ringDone e = (c.ringDone e).setQueue q x := by
  simp only [Ctx.ringDone, Ctx.ring_eq]
  split <;> cases q <;> rfl

/-- Operations of tiles and holds leave the vector registers. -/
@[simp] theorem Ctx.complete_v (c : Ctx) (q : Queue) (e : Entry) : (c.complete q e).v = c.v := by
  have one (c : Ctx) (p : Oper) (ep : BitVec 8) : (c.completeOper p ep).v = c.v := by
    unfold Ctx.completeOper Ctx.finishOper
    split
    · rfl
    · rfl
    · rfl
    · split <;> rfl
  simp only [Ctx.complete, Ctx.retire_keeps, Ctx.ringDone_keeps]
  exact List.foldlRecOn _ _ (motive := fun d : Ctx => d.v = c.v) rfl fun d hd x _ => (one d x.1 x.2).trans hd

/-! ## Void heads, and heads that complete at issue -/

theorem Entry.opers_void {e : Entry} (hv : e.isVoid = true) : e.opers = [] := by simp [Entry.opers, hv]

/-- A void head rings and leaves its queue (05 R97). -/
theorem State.issueHead_void {s : State} {q : Queue} {e : Entry} (hq : q ≠ .nq) (hv : e.isVoid = true)
    (hi : s.injected s.cx.coreNumber = false) : s.issueHead q e = { s with cx := ((s.cx.accept q e).ringDone e).retire q } := by
  cases q with
  | nq => exact absurd rfl hq
  | lq | sq =>
    simp [State.issueHead, State.issueLs, hi, State.issueXfer, atOnce, hv, Ctx.completeXfer, Ctx.complete, Entry.opers_void]
  | aq => simp [State.issueHead, State.issueAq, hi, State.issueVector, hv]
  | mq => simp [State.issueHead, State.issueJoin, hv, Ctx.complete, Entry.opers_void]

theorem queueIssue_void {s : State} {q : Queue} {e : Entry} {rest : List Entry} (i : Issues s q e rest) (hq : q ≠ .nq) (hv : e.isVoid = true)
    (hi : s.injected s.cx.coreNumber = false) :
    exec (.queueIssue s.cx.ref q) s = .next { s with cx := ((s.cx.accept q e).ringDone e).retire q } := by
  have data := (s.cx.accept q e).ringDone_dataOnly e
  exact queueIssue_eq i (State.issueHead_void hq hv hi)
    (Ctx.is_ref (by simp [data.life, Ctx.ne_unbound i.1]) (by simp [data.cohort]) (by simp [data.coord]))

/-- A head of LQ or SQ that completes at issue (07 R169, R170, R171, R175). -/
theorem queueIssue_atOnce {s : State} {q : Queue} {e : Entry} {rest : List Entry} (i : Issues s q e rest) (hq : q = .lq ∨ q = .sq)
    (ha : atOnce e = true) (hi : s.injected s.cx.coreNumber = false) :
    exec (.queueIssue s.cx.ref q) s = .next { s with cx := (s.cx.accept q e).completeXfer q e } := by
  have head : s.issueHead q e = { s with cx := (s.cx.accept q e).completeXfer q e } := by
    rcases hq with rfl | rfl <;> simp [State.issueHead, State.issueLs, hi, State.issueXfer, ha]
  exact queueIssue_eq i head (Ctx.is_ref (by simp [Ctx.ne_unbound i.1]) (by simp) (by simp))

end Sys2Proof.Machine
end


section
/-! PROOFS. The issue of a transfer (07 R158, R162; 16 R324): its rows moved, its pause between cycles, and its stop at a row that fails. -/

namespace Sys2Proof.Machine

open Sys2Proof.Safety

/-! ## An access that fails -/

/-- Where a failed access leaves a running context (00 R8): retried, faulted or trapped. -/
theorem State.takeFail_life {s : State} (hl : s.cx.life = .running) (q : Nat) (a : Word) (f : Fail) :
    (s.takeFail q a f).cx.life = if f.cause = 0 then .running else if f.cause = 0x20 then .faulted else .trapped := by
  simp only [State.takeFail, beq_iff_eq]
  split
  · exact hl
  · split
    · rfl
    · split
      · simp only [State.takeTrap]
        rw [State.sliceCheck_eq]
        simp only [Ctx.takeTrap_running _ _ hl]
      · simp only [State.takeTrap, Ctx.takeTrap_running _ _ hl]

@[simp] theorem State.takeFail_keeps (s : State) (q : Nat) (a : Word) (f : Fail) :
    (s.takeFail q a f).cx.cohort = s.cx.cohort ∧ (s.takeFail q a f).cx.coord = s.cx.coord ∧
      ∀ p, (s.takeFail q a f).cx.queue p = s.cx.queue p := by
  rw [State.takeFail_eq]
  exact ⟨rfl, rfl, fun _ => rfl⟩

/-- A transfer stops at its restart point. -/
theorem State.stopAt_keeps (s : State) (q : Queue) (e : Entry) (k : Nat) (f : Fail) :
    (s.stopAt q e k f).mem = s.mem ∧ (s.stopAt q e k f).cx.cohort = s.cx.cohort ∧ (s.stopAt q e k f).cx.coord = s.cx.coord ∧
      (s.stopAt q e k f).cx.queue q = { s.cx.queue q with issued := true, rstart := true, moved := none } := by
  have data := s.cx.setPoint_dataOnly e true k
  simp [State.stopAt, data.cohort, data.coord, data.queue]

theorem State.stopAt_life {s : State} (hl : s.cx.life = .running) (q : Queue) (e : Entry) (k : Nat) (f : Fail) :
    (s.stopAt q e k f).cx.life = if f.cause = 0 then .running else if f.cause = 0x20 then .faulted else .trapped :=
  State.takeFail_life (by simp [(s.cx.setPoint_dataOnly e true k).life, hl]) _ _ _

/-! ## The rows that move in a cycle -/

/-- A transfer's tags are looked at where no row of it has moved. -/
theorem tags_pass {k : Nat} {bad : Bool} (h : k ≠ 0 ∨ bad = false) : (k == 0 && bad) = false := by
  rcases h with h | h <;> simp [h]

theorem State.spanNow_cons {s : State} {n left : Nat} {ns : List Nat} (hs : s.spans = n :: ns) (pos : left ≠ 0) (le : n ≤ left) :
    s.spanNow left false = ({ s with spans := ns }, n) := by
  simp [State.spanNow, hs, pos, Nat.min_eq_left le]

section Rows

variable {s u s1 : State} {q : Queue} {e : Entry} {n : Nat} {gs : List Seg}

/-- Every row that is left has moved. -/
theorem State.transfer_done (tags : (s.cx.reached q e == 0 && s.cx.tagBad e (e.xferShape.getD e.own)) = false)
    (span : s.spanNow ((spanOf e.instr (e.xferShape.getD e.own)).rows - s.cx.reached q e) false = (u, n))
    (moved : u.moveRows e (e.xferShape.getD e.own) (s.cx.reached q e) [] n = (s1, gs, none))
    (all : (spanOf e.instr (e.xferShape.getD e.own)).rows ≤ s.cx.reached q e + n) :
    ∃ p, s.transfer q e = { s1 with
      poison := p
      cx := (s1.cx.clearPoint e).setQueue q
        { (s1.cx.clearPoint e).queue q with issued := true, rstart := false, moved := none, laid := [] } } := by
  simp only [State.transfer, tags, span, moved, Nat.not_lt.mpr all]
  exact ⟨_, rfl⟩

/-- Rows are left for a later cycle. -/
theorem State.transfer_paused (tags : (s.cx.reached q e == 0 && s.cx.tagBad e (e.xferShape.getD e.own)) = false)
    (span : s.spanNow ((spanOf e.instr (e.xferShape.getD e.own)).rows - s.cx.reached q e) false = (u, n))
    (moved : u.moveRows e (e.xferShape.getD e.own) (s.cx.reached q e) [] n = (s1, gs, none))
    (left : s.cx.reached q e + n < (spanOf e.instr (e.xferShape.getD e.own)).rows) :
    ∃ p l, s.transfer q e = { s1 with
      poison := p
      cx := (s1.cx.setQueue q { s1.cx.queue q with laid := l }).pauseXfer q (s.cx.reached q e + n) } := by
  simp only [State.transfer, tags, span, moved, left]
  exact ⟨_, _, rfl⟩

/-- A row fails. -/
theorem State.transfer_failed {i : Nat} {f : Fail} (tags : (s.cx.reached q e == 0 && s.cx.tagBad e (e.xferShape.getD e.own)) = false)
    (span : s.spanNow ((spanOf e.instr (e.xferShape.getD e.own)).rows - s.cx.reached q e) false = (u, n))
    (moved : u.moveRows e (e.xferShape.getD e.own) (s.cx.reached q e) [] n = (s1, gs, some (i, f))) :
    ∃ (u : State) (l : List Seg), s.transfer q e = u.stopAt q e i f ∧ u.mem = s1.mem ∧ u.cx = s1.cx.setQueue q { s1.cx.queue q with laid := l } := by
  simp only [State.transfer, tags, span, moved]
  exact ⟨_, _, rfl, rfl, rfl⟩

end Rows

/-! ## A transfer that issues -/

/-- The head of LQ or SQ has issued, and its operands have begun. -/
def State.begun (s : State) (q : Queue) (e : Entry) : State := { s with cx := (opersOf e.instr).foldl Ctx.beginOper (s.cx.accept q e) }

theorem State.begun_dataOnly (s : State) (q : Queue) (e : Entry) : (s.cx.accept q e).DataOnly (s.begun q e).cx :=
  .foldl (fun c p => c.beginOper_dataOnly p) _ _

theorem State.issueHead_transfer {s : State} {q : Queue} {e : Entry} (hq : q = .lq ∨ q = .sq) (ha : atOnce e = false)
    (hi : s.injected s.cx.coreNumber = false) : s.issueHead q e = (s.begun q e).transfer q e := by
  rcases hq with rfl | rfl <;> simp [State.issueHead, State.issueLs, hi, State.issueXfer, ha, State.begun]

/-- The rows moved leave the context's queue as its issue left it. -/
theorem State.begun_moved_dataOnly {s u s1 : State} {q : Queue} {e : Entry} {h : Shape} {k n : Nat} {gs : List Seg} {r : Option (Nat × Fail)}
    (moved : u.moveRows e h k [] n = (s1, gs, r)) (hu : u.cx = (s.begun q e).cx) : (s.cx.accept q e).DataOnly s1.cx := by
  have data := u.moveRows_dataOnly e h k [] n
  rw [moved, hu] at data
  exact (s.begun_dataOnly q e).trans data

section Issue

variable {s u s1 : State} {q : Queue} {e : Entry} {rest : List Entry} {n : Nat} {gs : List Seg}

/-- A context whose queue alone has changed beside its data is the one that issued. -/
theorem Ctx.accepted_is {d : Ctx} (data : (s.cx.accept q e).DataOnly d) {c : Ctx}
    (life : c.life ≠ .unbound) (cohort : c.cohort = d.cohort) (coord : c.coord = d.coord) : c.is s.cx.ref = true :=
  Ctx.is_ref life (by rw [cohort, data.cohort]; simp) (by rw [coord, data.coord]; simp)

/-- QUEUE_ISSUE of a transfer whose rows have all moved. -/
theorem queueIssue_moved (i : Issues s q e rest) (hq : q = .lq ∨ q = .sq) (ha : atOnce e = false) (hi : s.injected s.cx.coreNumber = false)
    (tags : (s.begun q e).cx.reached q e ≠ 0 ∨ (s.begun q e).cx.tagBad e (e.xferShape.getD e.own) = false)
    (hs : s.spans = [])
    (moved : (s.begun q e).moveRows e (e.xferShape.getD e.own) ((s.begun q e).cx.reached q e) []
      ((spanOf e.instr (e.xferShape.getD e.own)).rows - (s.begun q e).cx.reached q e) = (s1, gs, none)) :
    ∃ t, exec (.queueIssue s.cx.ref q) s = .next t ∧ (t.cx.queue q).InService e rest s.cx.now ∧ (t.cx.queue q).rstart = false ∧
      (t.cx.queue q).moved = none ∧ t.mem = s1.mem ∧ t.cx.life = .running := by
  have data := (State.begun_moved_dataOnly moved rfl).trans (s1.cx.clearPoint_dataOnly e)
  obtain ⟨p, head⟩ := State.transfer_done (s := s.begun q e) (tags_pass tags) (by simp [State.spanNow, State.begun, hs]) moved (by omega)
  refine ⟨_, queueIssue_eq i ((State.issueHead_transfer hq ha hi).trans head) (Ctx.accepted_is data ?_ ?_ ?_), ?_⟩
  · simp [data.life, Ctx.ne_unbound i.1]
  · simp
  · simp
  · simp [EQueue.InService, data.queue, data.life, i.1, i.2.1]

/-- QUEUE_ISSUE of a transfer that moves some of its rows in this cycle (log entry 4). -/
theorem queueIssue_paused {ns : List Nat} (i : Issues s q e rest) (hq : q = .lq ∨ q = .sq) (ha : atOnce e = false)
    (hi : s.injected s.cx.coreNumber = false)
    (tags : (s.begun q e).cx.reached q e ≠ 0 ∨ (s.begun q e).cx.tagBad e (e.xferShape.getD e.own) = false)
    (hs : s.spans = n :: ns) (left : (s.begun q e).cx.reached q e + n < (spanOf e.instr (e.xferShape.getD e.own)).rows)
    (moved : ({ s.begun q e with spans := ns } : State).moveRows e (e.xferShape.getD e.own) ((s.begun q e).cx.reached q e) [] n =
      (s1, gs, none)) :
    ∃ t, exec (.queueIssue s.cx.ref q) s = .next t ∧ (t.cx.queue q).entries = e :: rest ∧ (t.cx.queue q).issued = true ∧
      (t.cx.queue q).moved = some ((s.begun q e).cx.reached q e + n) ∧ t.mem = s1.mem ∧ t.cx.life = .running := by
  have data := State.begun_moved_dataOnly (s := s) (q := q) moved rfl
  have span : (s.begun q e).spanNow ((spanOf e.instr (e.xferShape.getD e.own)).rows - (s.begun q e).cx.reached q e) false =
      ({ s.begun q e with spans := ns }, n) :=
    State.spanNow_cons hs (by omega) (by omega)
  obtain ⟨p, l, head⟩ := State.transfer_paused (s := s.begun q e) (tags_pass tags) span moved left
  refine ⟨_, queueIssue_eq i ((State.issueHead_transfer hq ha hi).trans head) (Ctx.accepted_is data ?_ ?_ ?_), ?_⟩
  · simp [Ctx.pauseXfer, data.life, Ctx.ne_unbound i.1]
  · simp [Ctx.pauseXfer]
  · simp [Ctx.pauseXfer]
  · simp [Ctx.pauseXfer, data.queue, data.life, i.1, i.2.1]

/-- QUEUE_ISSUE of a transfer a row of which fails. -/
theorem queueIssue_failed {k : Nat} {f : Fail} (i : Issues s q e rest) (hq : q = .lq ∨ q = .sq) (ha : atOnce e = false)
    (hi : s.injected s.cx.coreNumber = false)
    (tags : (s.begun q e).cx.reached q e ≠ 0 ∨ (s.begun q e).cx.tagBad e (e.xferShape.getD e.own) = false)
    (hs : s.spans = [])
    (moved : (s.begun q e).moveRows e (e.xferShape.getD e.own) ((s.begun q e).cx.reached q e) []
      ((spanOf e.instr (e.xferShape.getD e.own)).rows - (s.begun q e).cx.reached q e) = (s1, gs, some (k, f))) :
    ∃ t, exec (.queueIssue s.cx.ref q) s = .next t ∧ (t.cx.queue q).entries = e :: rest ∧ (t.cx.queue q).issued = true ∧
      (t.cx.queue q).moved = none ∧ (t.cx.queue q).rstart = true ∧ t.mem = s1.mem ∧
      t.cx.life = if f.cause = 0 then .running else if f.cause = 0x20 then .faulted else .trapped := by
  have data := State.begun_moved_dataOnly (s := s) (q := q) moved rfl
  obtain ⟨u, l, head, same, kept⟩ := State.transfer_failed (s := s.begun q e) (tags_pass tags) (by simp [State.spanNow, State.begun, hs]) moved
  obtain ⟨mem, cohort, coord, queue⟩ := u.stopAt_keeps q e k f
  have life := State.stopAt_life (s := u) (by simp [kept, data.life, i.1]) q e k f
  refine ⟨_, queueIssue_eq i ((State.issueHead_transfer hq ha hi).trans head) (Ctx.accepted_is data ?_ ?_ ?_), ?_, ?_, ?_, ?_,
    mem.trans same, life⟩
  · rw [life]
    split_ifs <;> simp
  · simp [cohort, kept]
  · simp [coord, kept]
  all_goals simp [queue, kept, data.queue, i.2.1]

/-- QUEUE_ISSUE of a transfer that moves what is left of it: to its end, or up to a row that fails. -/
theorem queueIssue_transfers {r : Option (Nat × Fail)} (i : Issues s q e rest) (hq : q = .lq ∨ q = .sq) (ha : atOnce e = false)
    (hi : s.injected s.cx.coreNumber = false)
    (tags : (s.begun q e).cx.reached q e ≠ 0 ∨ (s.begun q e).cx.tagBad e (e.xferShape.getD e.own) = false) (hs : s.spans = [])
    (moved : (s.begun q e).moveRows e (e.xferShape.getD e.own) ((s.begun q e).cx.reached q e) []
      ((spanOf e.instr (e.xferShape.getD e.own)).rows - (s.begun q e).cx.reached q e) = (s1, gs, r)) :
    ∃ t, exec (.queueIssue s.cx.ref q) s = .next t ∧ t.mem = s1.mem ∧ (t.cx.queue q).entries = e :: rest ∧ (t.cx.queue q).issued = true ∧
      (t.cx.queue q).moved = none ∧ (r = none → (t.cx.queue q).rstart = false ∧ t.cx.life = .running) ∧
      ∀ i f, r = some (i, f) → (t.cx.queue q).rstart = true ∧
        t.cx.life = if f.cause = 0 then .running else if f.cause = 0x20 then .faulted else .trapped := by
  cases r with
  | none =>
    obtain ⟨t, issued, ⟨entries, inService, -⟩, rstart, left, mem, life⟩ := queueIssue_moved i hq ha hi tags hs moved
    exact ⟨t, issued, mem, entries, inService, left, fun _ => ⟨rstart, life⟩, by simp⟩
  | some x =>
    obtain ⟨t, issued, entries, inService, left, rstart, mem, life⟩ := queueIssue_failed i hq ha hi tags hs moved
    refine ⟨t, issued, mem, entries, inService, left, by simp, ?_⟩
    rintro k f ⟨⟩
    exact ⟨rstart, life⟩

end Issue

end Sys2Proof.Machine
end


section
/-! PROOFS. The issue of AQ, MQ and NQ (08 R180; 10 R242 to R244; 16 R338, R341; 17 R363), and what QUEUE_ISSUE does. -/

namespace Sys2Proof.Machine

open Sys2Proof.Safety

/-! ## LQ and SQ -/

/-- An instruction that completes as it issues loads no vector register. -/
theorem Ctx.completeXfer_atOnce (c : Ctx) (q : Queue) {e : Entry} {o : T}
    (h : e.instr = .pft o ∨ e.instr = .unfcfg o ∨ e.instr = .tstat o ∨ e.instr = .trel o) : c.completeXfer q e = c.complete q e := by
  have tag : c.tagLoaded e = c := by rcases h with h | h | h | h <;> simp only [Ctx.tagLoaded, h]
  simp only [Ctx.completeXfer, tag, ite_self]

/-- The bells of a void head, settled as it issued, and then its completion's. -/
theorem Ctx.void_bells (s : State) (q : Queue) (e : Entry) :
    let c := ({ s.cx with bells := (issuedBells s e).1, rung := (issuedBells s e).2 } : Ctx).ringDone e
    (((s.cx.accept q e).ringDone e).retire q).bells = c.bells ∧ (((s.cx.accept q e).ringDone e).retire q).rung = c.rung := by
  simp [Ctx.accept_eq, Ctx.ringDone_setQueue]

/-! ## AQ -/

theorem mem_addPending (l : List (Nat × Visible)) (x y : Nat × Visible) : x ∈ addPending l y ↔ x = y ∨ x ∈ l := by
  induction l with
  | nil => simp [addPending]
  | cons z r ih =>
    simp only [addPending]
    split
    · simp
    · simp [ih, or_left_comm]

theorem mem_foldl_addPending (ys l : List (Nat × Visible)) (x : Nat × Visible) : x ∈ ys.foldl addPending l ↔ x ∈ ys ∨ x ∈ l := by
  induction ys generalizing l with
  | nil => simp
  | cons y r ih => simp [ih, mem_addPending, or_assoc, or_left_comm]

@[simp] theorem Ctx.takeChannel_keeps (c : Ctx) (b : Option Bool) :
    (c.takeChannel b).life = c.life ∧ (c.takeChannel b).cohort = c.cohort ∧ (c.takeChannel b).coord = c.coord ∧ (c.takeChannel b).v = c.v ∧
      (c.takeChannel b).bells = c.bells ∧ (c.takeChannel b).rung = c.rung ∧ (c.takeChannel b).aq = c.aq ∧
      (c.takeChannel b).pending = c.pending := by
  unfold Ctx.takeChannel
  split <;> simp

/-- The timing of an AQ head at issue (08 R180). -/
abbrev State.aqTimingOf (s : State) (e : Entry) (o : V) : AqTiming := aqTiming e.instr (aqFormat s.cx o e.own) (aqRows e.instr e.timingShape)

/-- What an AQ head yields at issue. -/
abbrev State.aqResultOf (s : State) (e : Entry) (o : V) : AqResult :=
  aqOut e.instr (s.aqIn (s.cx.readView s.cx.now (s.aqTimingOf e o).rate (readRate e.instr (s.aqTimingOf e o).rate)) e o)

section Aq

variable {s : State} {e : Entry} {rest : List Entry} {o : V}

/-- An AQ head that its checks refuse traps, and stays (08 R180). -/
theorem queueIssue_aq_error {c : BitVec 7} (i : Issues s .aq e rest) (hi : s.injected s.cx.coreNumber = false) (hv : e.isVoid = false)
    (ho : e.vFields = some o) (bad : s.aqResultOf e o = .error c) :
    exec (.queueIssue s.cx.ref .aq) s = .next (s.takeTrap { cause := c, queue := 3, iaddr := e.iaddr }) := by
  have head : s.issueHead .aq e = s.takeTrap { cause := c, queue := 3, iaddr := e.iaddr } := by
    simp only [State.issueHead, State.issueAq, hi, State.issueVector, hv, ho, bad]
    rfl
  refine queueIssue_eq i head ?_
  simp [State.takeTrap, Ctx.takeTrap_running _ _ i.1, Ctx.is_ref]

/-- An AQ head that its checks pass retires, its results to become visible (08 R180, R182). -/
theorem queueIssue_aq_ok {out : AqOut} (i : Issues s .aq e rest) (hi : s.injected s.cx.coreNumber = false) (hv : e.isVoid = false)
    (hs : e.schk = false) (ho : e.vFields = some o) (ok : s.aqResultOf e o = .ok out) :
    ∃ l, exec (.queueIssue s.cx.ref .aq) s = .next { s with cx := { ((s.cx.accept .aq e).retire .aq).takeChannel out.takes with
      pending := ((timed out (s.aqTimingOf e o) (aqRows e.instr e.timingShape) s.cx.now).1 ++ l).foldl addPending s.cx.pending
      aqFree := s.cx.now + (s.aqTimingOf e o).occupancy } } := by
  have pending : (((s.cx.accept .aq e).retire .aq).takeChannel out.takes).pending = s.cx.pending := by simp
  have head : ∃ l, s.issueHead .aq e = { s with cx := { ((s.cx.accept .aq e).retire .aq).takeChannel out.takes with
      pending := ((timed out (s.aqTimingOf e o) (aqRows e.instr e.timingShape) s.cx.now).1 ++ l).foldl addPending s.cx.pending
      aqFree := s.cx.now + (s.aqTimingOf e o).occupancy } } := by
    simp only [State.issueHead, State.issueAq, hi, State.issueVector, hv, ho, ok, hs, pending, List.append_assoc]
    exact ⟨_, rfl⟩
  obtain ⟨l, head⟩ := head
  exact ⟨l, queueIssue_eq i head (Ctx.is_ref (by simp [Ctx.ne_unbound i.1]) (by simp) (by simp))⟩

end Aq

/-! ## MQ -/

section Mq

variable {s : State} {e : Entry} {rest : List Entry} {o : X}

/-- A join that stays in service for its cycles (10 R242, R244). -/
theorem queueIssue_join (i : Issues s .mq e rest) (hv : e.isVoid = false) (h : e.instr = .amz o ∨ e.instr = .amldStat o) :
    exec (.queueIssue s.cx.ref .mq) s = .next { s with
      cx := { s.cx.accept .mq e with mqFirst := s.time, mqLast := s.time + s.cycles (joinCycles e) } } := by
  have head : s.issueHead .mq e = { s with
      cx := { s.cx.accept .mq e with mqFirst := s.time, mqLast := s.time + s.cycles (joinCycles e) } } := by
    rcases h with h | h <;> simp [State.issueHead, State.issueJoin, hv, h]
  exact queueIssue_eq i head (Ctx.is_ref (by simp [Ctx.ne_unbound i.1]) (by simp) (by simp))

/-- MSYNC and MHINT leave at once; MHINT changes a bench beside it (10 R231, R243). -/
theorem queueIssue_leaves (i : Issues s .mq e rest) (hv : e.isVoid = false) (h : e.instr = .msync o ∨ e.instr = .mhint o) :
    ∃ b, exec (.queueIssue s.cx.ref .mq) s = .next { s with cx := (s.cx.accept .mq e).complete .mq e, benches := b } := by
  have head : ∃ b, s.issueHead .mq e = { s with cx := (s.cx.accept .mq e).complete .mq e, benches := b } := by
    rcases h with h | h
    · exact ⟨s.benches, by simp [State.issueHead, State.issueJoin, hv, h]⟩
    · simp only [State.issueHead, State.issueJoin, hv, h]
      split
      · next v => cases v
      · split
        · exact ⟨s.benches, rfl⟩
        · exact ⟨_, rfl⟩
  obtain ⟨b, head⟩ := head
  exact ⟨b, queueIssue_eq i head (Ctx.is_ref (by simp [Ctx.ne_unbound i.1]) (by simp) (by simp))⟩

end Mq

/-! ## NQ -/

section Nq

variable {s s1 : State} {e : Entry} {rest : List Entry}

theorem Ctx.is_congr {c d : Ctx} (life : d.life = c.life) (cohort : d.cohort = c.cohort) (coord : d.coord = c.coord) (r : CtxRef) :
    d.is r = c.is r := by
  simp only [Ctx.is, life, cohort, coord]

/-- A served head leaves NQ. -/
theorem queueIssue_over (i : Issues s .nq e rest) (own : s1.cx.is s.cx.ref = true) (served : s.portServes e = .over s1) :
    exec (.queueIssue s.cx.ref .nq) s = .next { s1 with cx := (s1.cx.accept .nq e).retire .nq } := by
  refine queueIssue_eq i (by simp only [State.issueHead, State.issuePort, served]) ?_
  rwa [Ctx.is_congr (c := s1.cx) (by simp) (by simp) (by simp)]

/-- A head in service stays issued. -/
theorem queueIssue_waits (i : Issues s .nq e rest) (own : s1.cx.is s.cx.ref = true) (served : s.portServes e = .waits s1) :
    exec (.queueIssue s.cx.ref .nq) s = .next { s1 with cx := s1.cx.accept .nq e } := by
  refine queueIssue_eq i (by simp only [State.issueHead, State.issuePort, served]) ?_
  rwa [Ctx.is_congr (c := s1.cx) (by simp) (by simp) (by simp)]

/-- A head that must follow another operation of its queue is tried again. -/
theorem queueIssue_stays (i : Issues s .nq e rest) (served : s.portServes e = .stays) : exec (.queueIssue s.cx.ref .nq) s = .next s :=
  queueIssue_eq i (by simp only [State.issueHead, State.issuePort, served]) (Ctx.is_ref (Ctx.ne_unbound i.1) rfl rfl)

/-- A head whose access fails stops its context (00 R8). -/
theorem queueIssue_fails {f : Fail} (i : Issues s .nq e rest) (served : s.portServes e = .fails f) :
    exec (.queueIssue s.cx.ref .nq) s = .next (s.takeFail 5 e.iaddr f) := by
  refine queueIssue_eq i (by simp only [State.issueHead, State.issuePort, served]) (Ctx.is_ref ?_ (by simp) (by simp))
  rw [State.takeFail_life i.1]
  split_ifs <;> simp

/-! ## TEND and VEXP -/

theorem Ctx.closeExpect_dataOnly (c : Ctx) (r : BitVec 6) : c.DataOnly (c.closeExpect r) := by
  unfold Ctx.closeExpect
  refine Ctx.DataOnly.trans ?_ (Ctx.ring_dataOnly _ _)
  rfl

theorem Ctx.applyArrival_dataOnly (c : Ctx) (a : Arrival) : c.DataOnly (c.applyArrival a) := by
  simp only [Ctx.applyArrival]
  split
  · refine Ctx.DataOnly.trans ?_ (Ctx.closeExpect_dataOnly _ _)
    rfl
  · rfl

/-- The arrivals that a basin holds for an expectation go to data of the context (17 R363). -/
theorem State.takeBasin_keeps (s : State) (r : BitVec 6) (l : List BasinEntry) :
    (s.takeBasin r l).mem = s.mem ∧ s.cx.DataOnly (s.takeBasin r l).cx := by
  induction l generalizing s with
  | nil => exact ⟨rfl, .refl _⟩
  | cons b l ih =>
    simp only [State.takeBasin]
    split
    · obtain ⟨mem, data⟩ := ih { s with cx := s.cx.applyArrival b.arr, basins := s.basins.erase b, freed := (b.cluster, b.core) :: s.freed }
      exact ⟨mem, (s.cx.applyArrival_dataOnly b.arr).trans data⟩
    · exact ih s

theorem State.portServes_tend {o : N} (h : e.instr = .tend o) : s.portServes e = .waits s := by
  simp only [State.portServes, h]
  rfl

/-- VEXP is served: memory is as it was, and data alone have changed in its context. -/
theorem State.portServes_vexp {o : N} (h : e.instr = .vexp o) : ∃ s1, s.portServes e = .over s1 ∧ s1.mem = s.mem ∧ s.cx.DataOnly s1.cx := by
  obtain ⟨s1, served, mem, data⟩ : ∃ s1, s.portServes e = .over s1 ∧ s1.mem = s.mem ∧
      (s.cx.modHold o.vd fun h => { h with expect := e.opa.setWidth 8, arrived := 0, rpv := false, rpoint := 0 }).DataOnly s1.cx := by
    simp only [State.portServes, h]
    have keeps := State.takeBasin_keeps
    refine ⟨_, rfl, (keeps _ _ _).1, Ctx.DataOnly.trans ?_ (keeps _ _ _).2⟩
    rfl
  exact ⟨s1, served, mem, (s.cx.modHold_dataOnly _ _).trans data⟩

end Nq

end Sys2Proof.Machine

namespace Sys2Proof.Proofs

open Sys2Proof.Machine Sys2Proof.Safety

/-- Settles O40: each kind of head by the lemma that says what its issue leaves. -/
theorem queueIssueCompletes : Obligations.QueueIssueCompletes := by
  unfold Obligations.QueueIssueCompletes
  intro s q e rest i hi
  have entries : (s.cx.queue q).entries = e :: rest := i.2.1
  refine ⟨?_, ?_, ?_, ?_, ?_, ?_⟩
  · intro hq hv
    exact ⟨_, queueIssue_void i hq hv hi, Ctx.retire_issuedGone entries (Ctx.ringDone_dataOnly _ e), rfl, by simp⟩
  · rintro hq - ⟨o, h⟩
    have ha : atOnce e = true := by rcases h with h | h | h | h <;> simp [atOnce, h]
    obtain ⟨d, data, left⟩ := (s.cx.accept q e).complete_eq q e
    refine ⟨_, queueIssue_atOnce i hq ha hi, ?_, rfl, ?_⟩
    · rw [Ctx.completeXfer_atOnce _ q h, left]
      exact Ctx.retire_issuedGone entries data
    · simp [Ctx.completeXfer_atOnce _ q h]
  · intro hq ha hs s0 h k r tags done
    obtain ⟨t, issued, stays, rstart, -, mem, life⟩ :=
      queueIssue_moved (s1 := r.1) (gs := r.2.1) i hq ha hi tags hs (Prod.ext rfl (Prod.ext rfl done))
    exact ⟨t, issued, stays, rstart, mem, life⟩
  · rintro rfl hv hs o ho k ⟨out, ok⟩
    obtain ⟨l, issued⟩ := queueIssue_aq_ok i hi hv hs ho ok
    have left := Ctx.retire_issuedGone entries (.refl _)
    refine ⟨_, issued, ?_, rfl, rfl⟩
    simpa [Ctx.queue, EQueue.IssuedGone] using left
  · rintro rfl hv o
    refine ⟨fun h => ?_, fun h => ?_⟩
    · obtain ⟨b, issued⟩ := queueIssue_leaves i hv h
      obtain ⟨d, data, left⟩ := (s.cx.accept .mq e).complete_eq .mq e
      refine ⟨_, issued, ?_, rfl, by simp⟩
      rw [left]
      exact Ctx.retire_issuedGone entries data
    · have queue := Ctx.queue_accept s .mq e
      refine ⟨_, queueIssue_join i hv h, ?_, rfl, by simp⟩
      show ((s.cx.accept .mq e).queue .mq).InService e rest s.cx.now
      simp [EQueue.InService, entries]
  · rintro rfl o
    refine ⟨fun h => ?_, fun h => ?_⟩
    · refine ⟨_, queueIssue_waits i (Ctx.is_ref (Ctx.ne_unbound i.1) rfl rfl) (State.portServes_tend h), ?_, rfl, by simp [i.1]⟩
      simp [entries]
    · obtain ⟨s1, served, mem, data⟩ := State.portServes_vexp (s := s) h
      have now : s1.cx.now = s.cx.now := by simp only [Ctx.now, data.clk]
      refine ⟨_, queueIssue_over i (data.is_ref (Ctx.ne_unbound i.1)) served, ?_, mem⟩
      rw [← now]
      exact Ctx.retire_issuedGone (s := s1) (by rw [data.queue, entries]) (.refl _)

/-- Settles O39: each queue's head by the lemma that says what its issue does. -/
theorem queueIssue : Obligations.QueueIssue := by
  unfold Obligations.QueueIssue
  refine ⟨fun s q e rest hl h => ⟨queueIssue_blocked hl h, fun i hi => ⟨?_, ?_, ?_, ?_⟩⟩, ?_⟩
  · intro hq hv
    have notPort : q ≠ .nq := by rcases hq with rfl | rfl <;> simp
    have left : (((s.cx.accept q e).ringDone e).retire q |>.queue q).IssuedGone rest s.cx.now :=
      Ctx.retire_issuedGone h (Ctx.ringDone_dataOnly _ e)
    exact ⟨_, queueIssue_void i notPort hv hi, left.1, rfl, by simp, by simp, by simp, Ctx.void_bells s q e⟩
  · intro hq ha s0 sh k tags
    refine ⟨fun hs s1 gs r moved => queueIssue_transfers i hq ha hi tags hs moved, ?_⟩
    intro n ns s1 gs hs left moved
    obtain ⟨t, issued, entries, inService, reached, mem, life⟩ := queueIssue_paused i hq ha hi tags hs left moved
    exact ⟨t, issued, mem, entries, inService, reached, life⟩
  · rintro rfl hv o ho k r
    refine ⟨fun c bad => ?_, fun out ok hs => ?_⟩
    · refine ⟨_, queueIssue_aq_error i hi hv ho bad, ?_⟩
      simp [State.takeTrap, Ctx.takeTrap_running _ _ hl, Trap.record]
    · obtain ⟨l, issued⟩ := queueIssue_aq_ok i hi hv hs ho ok
      have left := Ctx.retire_issuedGone h (.refl _)
      refine ⟨_, issued, ?_, rfl, by simp, by simp, fun x hx => ?_⟩
      · simpa [Ctx.queue] using left.1
      · exact (mem_foldl_addPending _ _ x).mpr (.inl (List.mem_append_left l hx))
  · rintro rfl hv
    refine ⟨fun o h' => ?_, fun o h' => ?_⟩
    · have queue := Ctx.queue_accept s .mq e
      have cycles : joinCycles e = if e.instr = .amz o then 4 else 9 := by rcases h' with h' | h' <;> simp [joinCycles, h']
      simp only [Ctx.queue] at queue h
      exact ⟨_, queueIssue_join i hv h', by simp [queue, h], by simp [queue], rfl, by simp, by simp [State.cycles, cycles]⟩
    · obtain ⟨b, issued⟩ := queueIssue_leaves i hv h'
      have left := Ctx.queue_complete (c := s.cx.accept .mq e) (q := .mq) (by simpa using h) e
      exact ⟨_, issued, congrArg EQueue.entries left, rfl, by simp⟩
  · intro s s1 e rest i same own
    have entries : (s1.cx.queue .nq).entries = e :: rest := by
      rw [Ctx.queue, same]
      exact i.2.1
    refine ⟨fun served => ?_, fun served => ?_, queueIssue_stays i, fun f => queueIssue_fails i⟩
    · obtain ⟨left, idle, -⟩ := Ctx.retire_issuedGone (s := s1) entries (.refl _)
      exact ⟨_, queueIssue_over i own served, left, idle, rfl, by simp, fun k => by simp [Ctx.sreg]⟩
    · have queue := Ctx.queue_accept s1 .nq e
      simp only [Ctx.queue] at queue entries
      exact ⟨_, queueIssue_waits i own served, by simp [queue, entries], by simp [queue], rfl⟩

end Sys2Proof.Proofs
end


section
/-! PROOFS. The events of a cohort's residency (02 R38; 14 R301 to R303, R306; 17 R345). -/

namespace Sys2Proof.Machine

open Sys2Proof.Safety

/-! ## The members of a written save -/

/-- Every context that a reference names is saved. -/
def State.LeavesSaved (s : State) (r : CtxRef) : Prop := ∀ c ∈ s.cx :: s.others, c.is r = true → c.life = .saved

theorem State.LeavesSaved.findCtx {s : State} {r : CtxRef} (h : s.LeavesSaved r) {c : Ctx} (found : s.findCtx r = some c) : c.life = .saved := by
  have own := List.find?_some (p := fun d : Ctx => d.is r) found
  refine h c ?_ own
  have mem : c ∈ s.ctxs := List.mem_of_find?_eq_some found
  unfold State.ctxs at mem
  split at mem
  · exact List.mem_cons_of_mem _ mem
  · exact mem

theorem State.mem_modCtx {s : State} {r : CtxRef} {f : Ctx → Ctx} {d : Ctx} :
    d ∈ (s.modCtx r f).cx :: (s.modCtx r f).others ↔ ∃ c ∈ s.cx :: s.others, (if c.is r then f c else c) = d := by
  show d ∈ (s.cx :: s.others).map (fun c => if c.is r then f c else c) ↔ _
  exact List.mem_map

/-- A bank that leaves saves its own context and changes no other. -/
theorem State.leaveBank_ctx {s : State} {r : CtxRef} {i : Option Word} {d : Ctx} (hd : d ∈ (s.leaveBank r i).cx :: (s.leaveBank r i).others) :
    d.life = .saved ∨ d ∈ s.cx :: s.others ∧ d.is r = false := by
  simp only [State.leaveBank, State.dropBasin] at hd
  obtain ⟨c, hc, rfl⟩ := State.mem_modCtx.mp hd
  split
  · exact .inl rfl
  · next other => exact .inr ⟨hc, by simpa using other⟩

theorem State.leaveBank_leavesSaved (s : State) (r : CtxRef) (i : Option Word) : (s.leaveBank r i).LeavesSaved r := by
  intro d hd own
  rcases State.leaveBank_ctx hd with saved | ⟨-, other⟩
  · exact saved
  · simp [own] at other

/-- Another member's bank leaves a saved one saved. -/
theorem State.LeavesSaved.leaveBank {s : State} {r : CtxRef} (h : s.LeavesSaved r) (r' : CtxRef) (i : Option Word) :
    (s.leaveBank r' i).LeavesSaved r := by
  intro d hd own
  rcases State.leaveBank_ctx hd with saved | ⟨old, -⟩
  · exact saved
  · exact h d old own

/-- Once every member's bank has left, every member is saved. -/
theorem State.leaveBanks_leavesSaved (n : BitVec 32) (image : Nat → Option Word) {m : Nat} (members : List Nat) (hm : m ∈ members) (s : State) :
    (members.foldl (fun s m => s.leaveBank ⟨n, m⟩ (image m)) s).LeavesSaved ⟨n, m⟩ := by
  induction members generalizing s with
  | nil => cases hm
  | cons k r ih =>
    rcases List.mem_cons.mp hm with rfl | hm
    · exact List.foldlRecOn r _ (motive := fun u : State => u.LeavesSaved ⟨n, m⟩) (s.leaveBank_leavesSaved _ _) fun u hu _ _ => hu.leaveBank _ _
    · exact ih hm _

/-- Blocks of barriers go back to memory, and no context changes. -/
theorem State.putBlock_ctxs (s : State) (k : Nat) (b : Barrier) : (s.putBlock k b).cx = s.cx ∧ (s.putBlock k b).others = s.others := by
  simp only [State.putBlock, State.homeWrite, State.recallSegs]
  exact List.foldlRecOn _ _ (motive := fun u : State => u.cx = s.cx ∧ u.others = s.others) ⟨rfl, rfl⟩ fun _ hu _ _ => hu

theorem State.releaseUnits_ctxs (s : State) (n : BitVec 32) : (s.releaseUnits n).cx = s.cx ∧ (s.releaseUnits n).others = s.others := by
  unfold State.releaseUnits
  refine List.foldlRecOn s.units _ (motive := fun u : State => u.cx = s.cx ∧ u.others = s.others) ⟨rfl, rfl⟩ fun u hu x _ => ?_
  split
  · simpa only [State.putBlock_ctxs] using hu
  · exact hu

/-- A written save leaves every member saved (14 R301). -/
theorem State.saveWritten_leavesSaved (s : State) (t : Transfer) {members : List Nat} {m : Nat} (hm : m ∈ members) :
    (s.saveWritten t members).LeavesSaved ⟨t.name, m⟩ := by
  have left := State.leaveBanks_leavesSaved t.name (fun m => (t.images.find? (·.1 == m)).map Prod.snd) members hm s
  intro c hc
  simp only [State.saveWritten, State.putTransfer, State.releaseUnits_ctxs] at hc
  exact left c hc

/-! ## COHORT_SAVE -/

/-- A save that has been asked for and is not yet written runs, once what reaches the cohort has taken effect. -/
theorem cohortSave_runs {s u : State} {r : SaveRequest} {x : Transfer} {d : Word × Space}
    (hu : (r.fellows.map Prod.fst).foldl State.settleCohort (s.settleCohort r.name) = u) (hx : u.transferOf r.name false = some x)
    (hd : x.desc = some d) : exec (.cohortSave r) s = .next (u.runSave x) := by
  show execCohortSave r s = _
  simp only [execCohortSave, hu, hx, hd]
  rfl

/-- The members are saving, and what they execute is at rest. -/
def State.saving (s : State) (x : Transfer) : State :=
  (s.membersOf x.name).foldl (fun s m => s.withCtx ⟨x.name, m⟩ State.quiesce) (s.modDir x.name fun d => { d with state := .saving })

section Runs

variable {s s2 : State} {x : Transfer} (hw : x.written = false)

include hw

theorem State.runSave_empty (empty : s.membersOf x.name = []) : s.runSave x = s.endTransfer x (transferWord 0 0 0) := by
  simp [State.runSave, hw, empty]

theorem State.runSave_written (resident : s.membersOf x.name ≠ [])
    (written : (s.saving x).saveMembers x.name x.space (x.addr (s.saving x)) (s.membersOf x.name) = (s2, none)) :
    s.runSave x = s2.saveWritten x (s.membersOf x.name) := by
  unfold State.saving at written
  simp [State.runSave, hw, resident, written]

theorem State.runSave_failed {e : BitVec 7} {m : Nat} (resident : s.membersOf x.name ≠ [])
    (failed : (s.saving x).saveMembers x.name x.space (x.addr (s.saving x)) (s.membersOf x.name) = (s2, some (e, m))) :
    s.runSave x = (s2.modDir x.name fun d => { d with state := .resident }).endTransfer x (transferWord e m 0) := by
  unfold State.saving at failed
  simp [State.runSave, hw, resident, failed]

end Runs

/-! ## SAVE_DONE -/

/-- A directory entry of the cohort is as the change of state left it. -/
theorem State.modDir_state {s : State} {n : BitVec 32} {x : DirState} {d : DirEntry} (hd : d ∈ (s.modDir n fun d => { d with state := x }).dir)
    (hn : d.name = n) : d.state = x := by
  obtain ⟨d', -, rfl⟩ := List.mem_map.mp hd
  split
  · rfl
  · next other =>
    rw [if_neg other] at hn
    simp [hn] at other

/-- A save not yet written is not done. -/
theorem saveDone_waits {s : State} {n : BitVec 32} {x : Transfer} (hx : s.transferOf n false = some x) (hw : x.written = false) :
    exec (.saveDone n) s = .next s := by
  show execSaveDone n s = _
  simp [execSaveDone, State.saveDone, hx, hw]

/-- A written save asked for by no descriptor ends, and its cohort is saved. -/
theorem saveDone_written {s : State} {n : BitVec 32} {x : Transfer} (hx : s.transferOf n false = some x) (hw : x.written = true)
    (hd : x.desc = none) : exec (.saveDone n) s = .next { (s.setLive x.slots false).modDir n fun d => { d with state := .saved } with
      transfers := s.transfers.filter fun y => y.name != x.name || y.isRestore != x.isRestore } := by
  show execSaveDone n s = _
  simp only [execSaveDone, State.saveDone, hx, hw, State.endTransfer, hd]
  rfl

/-! ## COHORT_RESTORE -/

/-- No restore of the cohort is under way, and none begins. -/
theorem cohortRestore_none {s : State} {r : RestoreRequest} (hr : s.transferOf r.name true = none)
    (h : s.transferOf r.name false ≠ none ∨ s.beginRestore r = s) : exec (.cohortRestore r) s = .next s := by
  show execCohortRestore r s = _
  have begun : (if (s.transferOf r.name false).isSome then s else s.beginRestore r) = s := by
    rcases h with h | h
    · rw [if_pos (Option.isSome_iff_ne_none.mpr h)]
    · rw [h, ite_self]
  simp only [execCohortRestore, hr, begun]

/-- A checked restore loads once its stage and its slots allow it. -/
theorem cohortRestore_written {s : State} {r : RestoreRequest} {x : Transfer} (hr : s.transferOf r.name true = some x) (hw : x.written = true) :
    exec (.cohortRestore r) s =
      .next (if s.restoreReady x && s.restoreFits x r.slots then s.loadCohort x r.slots else s) := by
  have checked : s.acceptRestore x = s := by simp only [State.acceptRestore, hw, if_true]
  show execCohortRestore r s = _
  simp only [execCohortRestore, hr, checked, hw, Bool.true_and]

/-! ## COHORT_MIGRATION -/

/-- A saved cohort of this node begins to move. -/
theorem cohortMigration_begins {s : State} {n : BitVec 32} {node cluster : Nat} {d : DirEntry} (hd : s.dirOf n = some d)
    (saved : d.state = .saved) (here : d.node = s.node) (pod : s.inPod node = true) (idle : (s.transfers.any (·.name == n)) = false) :
    exec (.cohortMigration n node cluster) s = .next { s with
      dir := s.dir.map fun d => if d.name = n then { d with state := .migrating, moveTo := some (node, cluster) } else d } := by
  show execCohortMigration n node cluster s = _
  simp [execCohortMigration, idle, pod, hd, saved, here, State.modDir]

end Sys2Proof.Machine

namespace Sys2Proof.Proofs

open Sys2Proof.Machine Sys2Proof.Safety

/-- Settles O44: each event by the cases of its own turn. -/
theorem cohortEvents : Obligations.CohortEvents := by
  unfold Obligations.CohortEvents
  refine ⟨fun s u s2 r x d hu hx hn hw hd => ?_, fun s n x hx hn => ⟨fun hw => ?_, fun hw hd => ?_⟩, fun s r hr => ⟨?_, ?_, ?_⟩,
    fun s r x hr hw => ⟨?_, ?_⟩, fun s n node cluster d hd saved here pod idle => ?_⟩
  · intro members s1
    rw [cohortSave_runs hu hx hd]
    refine ⟨fun empty => ?_, fun resident written => ?_, fun resident e m failed => ?_⟩
    · rw [State.runSave_empty hw empty]
    · refine ⟨_, rfl, State.runSave_written hw resident written, fun m hm c found => ?_⟩
      rw [State.runSave_written hw resident written] at found
      exact (State.saveWritten_leavesSaved (members := u.membersOf x.name) s2 x hm).findCtx found
    · exact ⟨_, rfl, State.runSave_failed hw resident failed⟩
  · exact saveDone_waits hx hw
  · refine ⟨_, saveDone_written hx hw hd, fun d => State.modDir_state, rfl, ?_⟩
    refine List.filter_congr fun y _ => ?_
    simp [hn, bne, Bool.beq_eq_decide_eq]
  · intro hh hdir hs
    exact cohortRestore_none hr (.inr (by simp [State.beginRestore, hh, hdir, hs]))
  · exact fun h => cohortRestore_none hr (.inl h)
  · intro h hh hc
    exact cohortRestore_none hr (.inr (by simp [State.beginRestore, hh, hc]))
  · intro ready fits
    simp [cohortRestore_written hr hw, ready, fits]
  · intro h
    rw [cohortRestore_written hr hw, if_neg]
    rcases h with h | h <;> simp [h]
  · exact cohortMigration_begins hd saved here pod idle

end Sys2Proof.Proofs
end


section
/-! PROOFS. The values of reset (02 R46). -/

namespace Sys2Proof.Proofs

open Sys2Proof.Machine Sys2Proof.Safety

/-- Settles O57: a closed fact about the reset state, evaluated. -/
theorem resetValues : Obligations.ResetValues := by
  unfold Obligations.ResetValues
  decide +kernel

end Sys2Proof.Proofs
end


section
/-! PROOFS. Registers, predicates and CSRs (03 R51, R64, R66): what is read after a write, and what a write takes. -/

namespace Sys2Proof.Machine

/-! ## Scalar registers -/

theorem Ctx.sreg_setSreg (c : Ctx) (n k : BitVec 5) (x : Word) :
    (c.setSreg n x).sreg k = if k = 0 then 0 else if k = n then x else c.sreg k := by
  by_cases same : k = n
  · subst same; simp
  · rw [Ctx.sreg_setSreg_other c x same, if_neg same]
    split
    · next zero => rw [zero, Ctx.sreg_zero]
    · rfl

/-! ## Rotating predicates -/

/-- A predicate of the rotating region's window (03 R64). -/
def Ctx.rotates (c : Ctx) (n : BitVec 3) : Prop := 4 ≤ n.toNat ∧ n.toNat - 4 < c.rot.pw.toNat

theorem Ctx.physP_of_rotates {c : Ctx} {n : BitVec 3} (h : c.rotates n) :
    c.physP n = BitVec.ofNat 3 (4 + (n.toNat - 4 + c.rot.pbase.toNat) % c.rot.pw.toNat) := by
  simp only [Ctx.rotates] at h
  simp [Ctx.physP, h]

theorem Ctx.physP_of_not_rotates {c : Ctx} {n : BitVec 3} (h : ¬ c.rotates n) : c.physP n = n := by
  simp only [Ctx.rotates] at h
  simp [Ctx.physP, h]

/-- The bases of a window of at most four predicates lead to a predicate below p8. -/
theorem Ctx.toNat_physP_of_rotates {c : Ctx} {n : BitVec 3} (hpw : c.rot.pw.toNat ≤ 4) (h : c.rotates n) :
    (c.physP n).toNat = 4 + (n.toNat - 4 + c.rot.pbase.toNat) % c.rot.pw.toNat := by
  have lt := Nat.mod_lt (n.toNat - 4 + c.rot.pbase.toNat) (Nat.zero_lt_of_lt h.2)
  rw [Ctx.physP_of_rotates h, BitVec.toNat_ofNat, Nat.mod_eq_of_lt (by omega)]

/-- Rotation stays inside the window. -/
theorem Ctx.rotates_physP {c : Ctx} {n : BitVec 3} (hpw : c.rot.pw.toNat ≤ 4) : c.rotates (c.physP n) ↔ c.rotates n := by
  by_cases h : c.rotates n
  · have lt := Nat.mod_lt (n.toNat - 4 + c.rot.pbase.toNat) (Nat.zero_lt_of_lt h.2)
    refine iff_of_true ?_ h
    rw [Ctx.rotates, Ctx.toNat_physP_of_rotates hpw h]
    omega
  · rw [Ctx.physP_of_not_rotates h]

/-- Distinct names stand for distinct physical predicates. -/
theorem Ctx.physP_inj {c : Ctx} {n k : BitVec 3} (hpw : c.rot.pw.toNat ≤ 4) : c.physP n = c.physP k ↔ n = k := by
  refine ⟨fun same => ?_, congrArg c.physP⟩
  have both : c.rotates n ↔ c.rotates k := by rw [← Ctx.rotates_physP hpw, same, Ctx.rotates_physP hpw]
  by_cases h : c.rotates n
  · have hk := both.mp h
    have sum : n.toNat - 4 + c.rot.pbase.toNat ≡ k.toNat - 4 + c.rot.pbase.toNat [MOD c.rot.pw.toNat] := by
      have eq := congrArg BitVec.toNat same
      rw [Ctx.toNat_physP_of_rotates hpw h, Ctx.toNat_physP_of_rotates hpw hk] at eq
      exact Nat.add_left_cancel eq
    have offset : n.toNat - 4 = k.toNat - 4 := (Nat.ModEq.add_right_cancel' _ sum).eq_of_lt_of_lt h.2 hk.2
    obtain ⟨hn, -⟩ := h
    obtain ⟨hk, -⟩ := hk
    exact BitVec.eq_of_toNat_eq (by omega)
  · rwa [Ctx.physP_of_not_rotates h, Ctx.physP_of_not_rotates (mt both.mpr h)] at same

theorem Ctx.preg_of_ne_zero (c : Ctx) {n : BitVec 3} (h : n ≠ 0) : c.preg n = c.p[(c.physP n).toNat] := if_neg (by simpa using h)

theorem Ctx.setPreg_of_ne_zero (c : Ctx) {n : BitVec 3} (b : Bool) (h : n ≠ 0) :
    c.setPreg n b = { c with p := c.p.set (c.physP n).toNat b } := if_neg (by simpa using h)

/-- The rotation does not depend on the values of the predicates. -/
theorem Ctx.physP_of_p (c : Ctx) (p : Vector Bool 8) (n : BitVec 3) : ({ c with p := p } : Ctx).physP n = c.physP n := rfl

theorem Ctx.preg_setPreg (c : Ctx) (n k : BitVec 3) (b : Bool) (hpw : c.rot.pw.toNat ≤ 4) :
    (c.setPreg n b).preg k = if k = 0 then true else if k = n then b else c.preg k := by
  by_cases hk : k = 0
  · rw [hk, Ctx.preg_zero, if_pos rfl]
  rw [if_neg hk]
  by_cases hn : n = 0
  · rw [hn, Ctx.setPreg_zero, if_neg hk]
  have slot : (c.physP n).toNat = (c.physP k).toNat ↔ k = n := by
    rw [BitVec.toNat_inj, Ctx.physP_inj hpw, eq_comm]
  rw [Ctx.preg_of_ne_zero _ hk, Ctx.preg_of_ne_zero _ hk]
  simp only [Ctx.setPreg_of_ne_zero c b hn, Ctx.physP_of_p, Vector.getElem_set, slot]

/-! ## CSRs -/

/-- A field at bit 0 of a word is the field, extended with zeros. -/
theorem place_at_zero {n : Nat} (x : BitVec n) : place x 0 = x.setWidth 64 := BitVec.shiftLeft_zero _

/-- A window of at most 32 vector registers and 4 predicates, each base below the size of its window or zero (03 R64, R66). -/
def Rot.legal (r : Rot) : Bool :=
  r.vw.toNat ≤ 32 && r.pw.toNat ≤ 4 && (r.vbase == 0 || r.vbase.toNat < r.vw.toNat) && (r.pbase == 0 || r.pbase.toNat < r.pw.toNat)

theorem Ctx.writeCsr_rot (c : Ctx) (w : Word) :
    c.writeCsr 0x002 w = if (Rot.ofWord w).legal then .ok { c with rot := Rot.ofWord w } else .error 0x02 := rfl

/-- The fields of a word, as numbers. -/
theorem Rot.ofWord_eq (w : Word) : Rot.ofWord w =
    { vw := BitVec.ofNat 6 (w.toNat / 2 ^ 8 % 64), vbase := BitVec.ofNat 5 (w.toNat % 32), pw := BitVec.ofNat 3 (w.toNat / 2 ^ 24 % 8),
      pbase := BitVec.ofNat 2 (w.toNat / 2 ^ 16 % 4) } := by
  simp [Rot.ofWord, field, BitVec.toNat_eq, Nat.shiftRight_eq_div_pow]

theorem Rot.legal_ofWord (w : Word) : (Rot.ofWord w).legal = true ↔
    w.toNat / 2 ^ 8 % 64 ≤ 32 ∧ w.toNat / 2 ^ 24 % 8 ≤ 4 ∧ (w.toNat % 32 = 0 ∨ w.toNat % 32 < w.toNat / 2 ^ 8 % 64) ∧
      (w.toNat / 2 ^ 16 % 4 = 0 ∨ w.toNat / 2 ^ 16 % 4 < w.toNat / 2 ^ 24 % 8) := by
  simp [Rot.legal, Rot.ofWord_eq, BitVec.toNat_eq, and_assoc]

/-- A CSR that is neither of the context's own writable ones nor of the tile table ignores the write (03 R66). -/
theorem Ctx.writeCsr_readOnly (c : Ctx) {n : Nat} (w : Word) (own : n ∉ [0x000, 0x001, 0x002, 0x003, 0x005, 0x006, 0x007])
    (tile : n < 0x400 ∨ 0x4FF < n) : c.writeCsr n w = .ok c := by
  have outside : ¬ (0x400 ≤ n ∧ n ≤ 0x4FF) := by omega
  simp only [List.mem_cons, List.not_mem_nil, or_false, not_or] at own
  simp [Ctx.writeCsr, own, outside]

end Sys2Proof.Machine

namespace Sys2Proof.Proofs

open Sys2Proof.Machine Sys2Proof.Safety

/-- Settles O6: a read after a write by the rule of each file; distinct names of predicates stay distinct as they rotate. -/
theorem registerFile : Obligations.RegisterFile := by
  intro c
  refine ⟨c.sreg_zero, c.preg_zero, c.sreg_setSreg, c.preg_setPreg, fun n => ?_⟩
  split
  · next h => exact Ctx.physP_of_rotates h
  · next h => exact Ctx.physP_of_not_rotates h

/-- Settles O14: each CSR by its own branch; ROT by whether the word's fields are legal. -/
theorem csrFields : Obligations.CsrFields := by
  intro s w
  refine ⟨⟨?flags, rfl, ?qwdog, rfl, rfl, rfl, rfl, rfl, rfl⟩, ⟨rfl, rfl, rfl, rfl, rfl, rfl⟩, ?readOnly, ?rot⟩
  case flags => exact congrArg some (place_at_zero s.cx.flags)
  case qwdog => exact congrArg some (place_at_zero s.cx.qwdog)
  case readOnly =>
    have listed : ∀ n ∈ [0x004, 0x010, 0x011, 0x012, 0x013, 0x014, 0x015, 0x200, 0x240, 0x300],
        n ∉ [0x000, 0x001, 0x002, 0x003, 0x005, 0x006, 0x007] ∧ n < 0x400 := by decide
    intro n hn
    obtain ⟨own, below⟩ := listed n hn
    exact s.cx.writeCsr_readOnly w own (.inl below)
  case rot =>
    intro vw vb pw pb
    rw [← Rot.legal_ofWord, ← Rot.ofWord_eq, s.cx.writeCsr_rot]
    exact ⟨fun legal => if_pos legal, fun illegal => if_neg illegal⟩

end Sys2Proof.Proofs
end


section
/-! PROOFS. Exact rounding of representable floating values (04 R71, R72, R77). -/

namespace Sys2Proof.Machine

/-! ## Units and steps -/

@[simp] theorem inUnits_self (m : Nat) (e : Int) : inUnits m e e = (m, 0, 1) := by simp [inUnits]

theorem inUnits_whole {e q : Int} (m : Nat) (h : e ≤ q) : (inUnits m e q).1 = m / 2 ^ (q - e).toNat := by
  obtain rfl | lt := h.eq_or_lt
  · simp
  · simp [inUnits, Int.not_le.mpr lt]

/-- An exact magnitude steps up in no mode, since the gap above it is not empty. -/
theorem stepsUp_exact (mode : Mode) (neg odd : Bool) {den : Nat} (gap : 0 < den) : stepsUp mode neg odd 0 den false = false := by
  cases mode with
  | rne => simp [stepsUp, gap.ne]
  | rtz => rfl
  | rdn | rup | sr => simp [stepsUp]

/-! ## The parts of a magnitude code -/

section
variable (f : FFmt) {mag : Nat}

theorem FFmt.parts_of_subnormal (h : mag < 2 ^ f.fbits) : f.parts mag = (mag, f.qmin) := by
  simp [FFmt.parts, Nat.div_eq_of_lt h, Nat.mod_eq_of_lt h]

theorem FFmt.parts_of_normal (h : 2 ^ f.fbits ≤ mag) :
    f.parts mag = (mag % 2 ^ f.fbits + 2 ^ f.fbits, f.qmin + (mag / 2 ^ f.fbits - 1 : Nat)) := by
  have exponent : 1 ≤ mag / 2 ^ f.fbits := (Nat.one_le_div_iff (Nat.two_pow_pos _)).mpr h
  simp [FFmt.parts, Nat.ne_of_gt exponent, Nat.cast_sub exponent]

theorem FFmt.significand_ne_zero (h : mag ≠ 0) : (f.parts mag).1 ≠ 0 := by
  obtain sub | normal := Nat.lt_or_ge mag (2 ^ f.fbits)
  · simpa [f.parts_of_subnormal sub] using h
  · simp [f.parts_of_normal normal]

/-- The quantum of a code is the one that rounding chooses: the last fraction bit of a significand of full width, but not below qmin. -/
theorem FFmt.quantum_eq (h : mag ≠ 0) :
    max (Nat.log2 (f.parts mag).1 + (f.parts mag).2 - f.fbits) f.qmin = (f.parts mag).2 := by
  obtain sub | normal := Nat.lt_or_ge mag (2 ^ f.fbits)
  · have short : Nat.log2 mag < f.fbits := (Nat.log2_lt h).mpr sub
    simp only [f.parts_of_subnormal sub]
    exact max_eq_right (by omega)
  · have lt := Nat.mod_lt mag (Nat.two_pow_pos f.fbits)
    have full : Nat.log2 (mag % 2 ^ f.fbits + 2 ^ f.fbits) = f.fbits :=
      (Nat.log2_eq_iff (by omega)).mpr ⟨by omega, by rw [Nat.pow_succ]; omega⟩
    simp only [f.parts_of_normal normal, full]
    omega

/-- The quanta above qmin and the significand give the magnitude code back. -/
theorem FFmt.code_of_parts : ((f.parts mag).2 - f.qmin).toNat * 2 ^ f.fbits + (f.parts mag).1 = mag := by
  obtain sub | normal := Nat.lt_or_ge mag (2 ^ f.fbits)
  · simp [f.parts_of_subnormal sub]
  · have exponent : 1 ≤ mag / 2 ^ f.fbits := (Nat.one_le_div_iff (Nat.two_pow_pos _)).mpr normal
    simp only [f.parts_of_normal normal, add_sub_cancel_left, Int.toNat_natCast]
    calc (mag / 2 ^ f.fbits - 1) * 2 ^ f.fbits + (mag % 2 ^ f.fbits + 2 ^ f.fbits)
        = (mag / 2 ^ f.fbits - 1 + 1) * 2 ^ f.fbits + mag % 2 ^ f.fbits := by ring
      _ = mag := by rw [Nat.sub_add_cancel exponent, mul_comm, Nat.div_add_mod]

theorem FFmt.significand_lt : (f.parts mag).1 < 2 ^ (f.fbits + 1) := by
  have pos := Nat.two_pow_pos f.fbits
  rw [Nat.pow_succ]
  obtain sub | normal := Nat.lt_or_ge mag (2 ^ f.fbits)
  · simp only [f.parts_of_subnormal sub]; omega
  · have lt := Nat.mod_lt mag pos
    simp only [f.parts_of_normal normal]; omega

/-- A smaller code has fewer whole units of a normal code's quantum. -/
theorem FFmt.units_lt {top : Nat} (normalTop : 2 ^ f.fbits ≤ top) (h : mag < top) :
    (inUnits (f.parts mag).1 (f.parts mag).2 (f.parts top).2).1 < (f.parts top).1 := by
  have pos := Nat.two_pow_pos f.fbits
  obtain sub | normal := Nat.lt_or_ge mag (2 ^ f.fbits)
  · rw [f.parts_of_subnormal sub, f.parts_of_normal normalTop, inUnits_whole _ (by omega)]
    calc mag / _ ≤ mag := Nat.div_le_self ..
      _ < top % 2 ^ f.fbits + 2 ^ f.fbits := by omega
  · have exponents : mag / 2 ^ f.fbits ≤ top / 2 ^ f.fbits := Nat.div_le_div_right h.le
    have exponent : 1 ≤ mag / 2 ^ f.fbits := (Nat.one_le_div_iff pos).mpr normal
    have lt := Nat.mod_lt mag pos
    rw [f.parts_of_normal normal, f.parts_of_normal normalTop, inUnits_whole _ (by omega)]
    obtain same | less := exponents.eq_or_lt
    · have codes := Nat.div_add_mod mag (2 ^ f.fbits)
      have tops := Nat.div_add_mod top (2 ^ f.fbits)
      rw [← same] at tops ⊢
      simp only [Int.sub_self, Int.toNat_zero, pow_zero, Nat.div_one]
      omega
    · have doubled : 2 ^ 1 ≤ 2 ^ (f.qmin + (top / 2 ^ f.fbits - 1 : Nat) - (f.qmin + (mag / 2 ^ f.fbits - 1 : Nat))).toNat :=
        Nat.pow_le_pow_right (by decide) (by omega)
      calc (mag % 2 ^ f.fbits + 2 ^ f.fbits) / _ ≤ (mag % 2 ^ f.fbits + 2 ^ f.fbits) / 2 ^ 1 :=
            Nat.div_le_div_left doubled (by decide)
        _ < top % 2 ^ f.fbits + 2 ^ f.fbits := by omega

end

/-! ## Rounding -/

/-- The largest finite magnitude rounds to its own code. -/
theorem roundTo_largest {f : FFmt} {m : Nat} {e : Int} (largest : f.parts f.maxCode = (m, e)) (nonzero : m ≠ 0)
    (below : m < 2 ^ (f.fbits + 1)) (neg : Bool) (mode : Mode) : roundTo f (.fin neg m e false) mode = ⟨f.signed neg f.maxCode, 0⟩ := by
  have noStep := stepsUp_exact mode neg true (Nat.sub_pos_of_lt below)
  cases m with
  | zero => contradiction
  | succ k => simp [roundTo, roundTop, largest, noStep, Nat.not_le.mpr below, flagIf]

/-- A magnitude below the largest that is a whole number of the quantum that rounding chooses keeps its significand. -/
theorem roundTo_whole {f : FFmt} {m : Nat} {e : Int} (nonzero : m ≠ 0)
    (below : (inUnits m e (f.parts f.maxCode).2).1 < (f.parts f.maxCode).1) (quantum : max (Nat.log2 m + e - f.fbits) f.qmin = e)
    (neg : Bool) (mode : Mode) : roundTo f (.fin neg m e false) mode = ⟨f.signed neg ((e - f.qmin).toNat * 2 ^ f.fbits + m), 0⟩ := by
  rw [max_def_lt] at quantum
  cases m with
  | zero => contradiction
  | succ k => simp [roundTo, Nat.not_le.mpr below, quantum, stepsUp_exact mode neg _ Nat.one_pos, flagIf]

/-- A format whose largest finite magnitude is normal rounds each finite magnitude code's value to that code. -/
theorem roundTo_parts {f : FFmt} (normal : 2 ^ f.fbits ≤ f.maxCode) {mag : Nat} (finite : mag ≤ f.maxCode) (neg : Bool) (mode : Mode) :
    roundTo f (.fin neg (f.parts mag).1 (f.parts mag).2 false) mode = ⟨f.signed neg mag, 0⟩ := by
  obtain rfl | nonzero := eq_or_ne mag 0
  · rw [f.parts_of_subnormal (Nat.two_pow_pos _)]; rfl
  have significand := f.significand_ne_zero nonzero
  obtain rfl | below := finite.eq_or_lt
  · exact roundTo_largest rfl significand f.significand_lt neg mode
  · rw [roundTo_whole significand (f.units_lt normal below) (f.quantum_eq nonzero), f.code_of_parts]

theorem FFmt.signed_code (f : FFmt) {code : Nat} (h : code < 2 ^ (f.magBits + 1)) :
    f.signed (code.testBit f.magBits) (code % 2 ^ f.magBits) = code := by
  have parts := Nat.div_add_mod code (2 ^ f.magBits)
  have sign : code / 2 ^ f.magBits < 2 := Nat.div_lt_of_lt_mul (by rwa [← Nat.pow_succ])
  rw [FFmt.signed, Nat.testBit_eq_decide_div_mod_eq, Nat.mod_eq_of_lt sign]
  obtain zero | one := Nat.le_one_iff_eq_zero_or_eq_one.mp (Nat.le_of_lt_succ sign)
  · rw [zero] at parts ⊢; simpa using parts
  · rw [one] at parts ⊢; simpa using parts

/-- Decoding and rounding: finite codes by their parts, the infinity of a format that has one by its code. -/
theorem roundTo_value {f : FFmt} (normal : 2 ^ f.fbits ≤ f.maxCode) {code : Nat} (h : code < 2 ^ (f.magBits + 1))
    (number : (f.value code).isNan = false) (mode : Mode) : roundTo f (f.value code) mode = ⟨code, 0⟩ := by
  have whole := f.signed_code h
  unfold FFmt.value at number ⊢
  by_cases finite : code % 2 ^ f.magBits ≤ f.maxCode
  · simp only [finite, if_true]
    rw [roundTo_parts normal finite, whole]
  by_cases infinite : f.hasInf = true ∧ code % 2 ^ f.magBits = f.maxCode + 1
  · obtain ⟨has, top⟩ := infinite
    rw [top] at whole
    simp [roundTo, FFmt.infCode, has, top, whole]
  · simp [finite, infinite, FVal.isNan] at number

/-- What the floating element formats share: their width is a sign and a magnitude, and their largest finite value is normal. -/
theorem ffmt_of_isFloat : ∀ f : BitVec 4, isFloat f = true →
    (ffmt f).magBits + 1 = fmtWidth f ∧ 2 ^ (ffmt f).fbits ≤ (ffmt f).maxCode := by decide

end Sys2Proof.Machine

namespace Sys2Proof.Proofs

open Sys2Proof.Machine Sys2Proof.Safety

/-- Settles O38: the rounding of any format with a normal largest value, at the five floating element formats. -/
theorem exactValues : Obligations.ExactValues := by
  intro f code mode lower upper inWidth number
  have float : isFloat f = true := by simp [isFloat, lower, upper]
  obtain ⟨width, normal⟩ := ffmt_of_isFloat f float
  rw [elemValue, if_pos float] at number ⊢
  exact roundTo_value normal (width ▸ inWidth) number mode

end Sys2Proof.Proofs
end


section
/-! PROOFS. Integer elements of the vector engine and integer chunks of the matrix unit (04 R70, R88; 08 R188, R189). -/

namespace Sys2Proof.Machine

/-! ## The integers of a format -/

theorem isInteger_iff {f : BitVec 4} : isInteger f = true ↔ 1 ≤ f.toNat ∧ f.toNat ≤ 7 := by
  simp only [isInteger, isInt, isNatFmt, Bool.or_eq_true, Bool.and_eq_true, decide_eq_true_eq]
  omega

theorem isInt_iff {f : BitVec 4} (h : 1 ≤ f.toNat) : isInt f = true ↔ f.toNat ≤ 4 := by simp [isInt, h]

theorem intCode_lt (f : BitVec 4) (x : Int) : intCode f x < 2 ^ fmtWidth f := by
  have pos : (0 : Int) < 2 ^ fmtWidth f := by positivity
  exact (Int.toNat_lt (Int.emod_nonneg x pos.ne')).mpr (by exact_mod_cast Int.emod_lt_of_pos x pos)

theorem natCast_intCode (f : BitVec 4) (x : Int) : (intCode f x : Int) = x % 2 ^ fmtWidth f :=
  Int.toNat_of_nonneg (Int.emod_nonneg x (by positivity))

theorem fmtWidth_pos (f : BitVec 4) : 0 < fmtWidth f := by
  revert f; decide

/-- The integers of a signed format lie about zero; those of an unsigned format begin there. -/
theorem intMin_le_intMax (f : BitVec 4) : intMin f ≤ intMax f := by
  revert f; decide

theorem two_pow_fmtWidth (f : BitVec 4) : 2 ^ fmtWidth f = 2 * 2 ^ (fmtWidth f - 1) := by
  rw [← Nat.pow_succ', Nat.succ_eq_add_one, Nat.sub_add_cancel (fmtWidth_pos f)]

/-- The top bit of a code of the format's width is its upper half. -/
theorem intValue_of_lt {f : BitVec 4} {code : Nat} (h : code < 2 ^ fmtWidth f) :
    intValue f code = if isInt f = true ∧ 2 ^ (fmtWidth f - 1) ≤ code then (code : Int) - 2 ^ fmtWidth f else code := by
  have top : code.testBit (fmtWidth f - 1) = decide (2 ^ (fmtWidth f - 1) ≤ code) := by
    rw [two_pow_fmtWidth] at h
    have half : code / 2 ^ (fmtWidth f - 1) < 2 := Nat.div_lt_of_lt_mul (by omega)
    rw [Nat.testBit_eq_decide_div_mod_eq, Nat.mod_eq_of_lt half, decide_eq_decide, ← Nat.one_le_div_iff (Nat.two_pow_pos _)]
    omega
  simp [intValue, top]

/-- An integer of the format's range is the value of its code. -/
theorem intValue_intCode {f : BitVec 4} {x : Int} (lower : intMin f ≤ x) (upper : x ≤ intMax f) : intValue f (intCode f x) = x := by
  rw [intValue_of_lt (intCode_lt f x)]
  have code := natCast_intCode f x
  have halves : (2 : Int) ^ fmtWidth f = 2 * 2 ^ (fmtWidth f - 1) := by exact_mod_cast two_pow_fmtWidth f
  have half : (2 ^ (fmtWidth f - 1) ≤ intCode f x) ↔ (2 : Int) ^ (fmtWidth f - 1) ≤ intCode f x := by exact_mod_cast Iff.rfl
  have pos : (0 : Int) < 2 ^ (fmtWidth f - 1) := by positivity
  simp only [half, code]
  by_cases signed : isInt f = true
  · simp only [intMin, intMax, signed, if_true] at lower upper
    obtain negative | nonneg := lt_or_ge x 0
    · have wraps : x % 2 ^ fmtWidth f = x + 2 ^ fmtWidth f := by
        rw [← Int.add_emod_right, Int.emod_eq_of_lt (by omega) (by omega)]
      rw [wraps, if_pos ⟨signed, by omega⟩]
      omega
    · rw [Int.emod_eq_of_lt nonneg (by omega), if_neg (by omega)]
  · simp only [intMin, intMax, signed] at lower upper
    rw [Int.emod_eq_of_lt lower (by omega), if_neg (by tauto)]

/-! ## SatTo (00 R9) -/

theorem satInt_within {f : BitVec 4} {x : Int} (lower : intMin f ≤ x) (upper : x ≤ intMax f) : satInt f x = ⟨intCode f x, 0⟩ := by
  rw [satInt, if_neg lower.not_gt, if_neg upper.not_gt]

theorem satInt_below {f : BitVec 4} {x : Int} (h : x < intMin f) : satInt f x = ⟨intCode f (intMin f), fSAT ||| fNX⟩ := if_pos h

theorem satInt_above {f : BitVec 4} {x : Int} (h : intMax f < x) : satInt f x = ⟨intCode f (intMax f), fSAT ||| fNX⟩ := by
  rw [satInt, if_neg ((intMin_le_intMax f).trans_lt h).not_gt, if_pos h]

theorem clamp_sets_sat : (fSAT ||| fNX).getLsbD 5 = true := by decide

theorem satInt_lt (f : BitVec 4) (x : Int) : (satInt f x).code < 2 ^ fmtWidth f := by
  unfold satInt
  split_ifs <;> exact intCode_lt ..

theorem intValue_satInt (f : BitVec 4) (x : Int) : intValue f (satInt f x).code = max (intMin f) (min (intMax f) x) := by
  have range := intMin_le_intMax f
  obtain below | lower := lt_or_ge x (intMin f)
  · rw [satInt_below below, intValue_intCode le_rfl range]; omega
  obtain above | upper := lt_or_ge (intMax f) x
  · rw [satInt_above above, intValue_intCode range le_rfl]; omega
  · rw [satInt_within lower upper, intValue_intCode lower upper]; omega

/-! ## Arithmetic, the smaller and the larger -/

theorem arithElem_integer {f : BitVec 4} (h : isInteger f = true) (op : ArithOp) (sat : Bool) (mode : Mode) (a b c : Nat) :
    arithElem op f sat mode a b c =
      if sat then satInt f (arithInt op (intValue f a) (intValue f b) (intValue f c))
      else ⟨intCode f (arithInt op (intValue f a) (intValue f b) (intValue f c)), 0⟩ := if_pos h

theorem isFloat_of_isInteger : ∀ f : BitVec 4, isInteger f = true → isFloat f = false := by decide

theorem pick_integer {f : BitVec 4} (h : isInteger f = true) (max : Bool) (a b : Nat) :
    pick max f a b = if intValue f a < intValue f b then (if max then b else a) else (if max then a else b) := by
  simp [pick, elemNan, isFloat_of_isInteger f h, elemBelow, h]

theorem intValue_pick {f : BitVec 4} (h : isInteger f = true) (a b : Nat) :
    intValue f (pick false f a b) = min (intValue f a) (intValue f b) ∧
      intValue f (pick true f a b) = max (intValue f a) (intValue f b) := by
  rw [pick_integer h, pick_integer h]
  obtain less | notLess := lt_or_ge (intValue f a) (intValue f b)
  · simp [less, less.le]
  · simp [notLess, notLess.not_gt]

theorem pick_mem (max : Bool) {f : BitVec 4} (h : isInteger f = true) (a b : Nat) : pick max f a b = a ∨ pick max f a b = b := by
  rw [pick_integer h]
  split_ifs <;> simp

/-! ## Sums of integer products (04 R88) -/

/-- The value is the integer x; a zero may have either sign. -/
def FVal.Holds (v : FVal) (x : Int) : Prop := ∃ neg m, v = .fin neg m 0 false ∧ FVal.scaled neg m 0 0 = x

theorem FVal.scaled_unit (neg : Bool) (m : Nat) : FVal.scaled neg m 0 0 = if neg then -(m : Int) else m := by simp [FVal.scaled]

theorem FVal.ofInt_holds (x : Int) : (FVal.ofInt x).Holds x := by
  refine ⟨_, _, rfl, ?_⟩
  simp only [FVal.scaled_unit, decide_eq_true_eq]
  split <;> omega

theorem FVal.zero_holds (neg : Bool) : (FVal.zero neg).Holds 0 := ⟨neg, 0, rfl, by cases neg <;> rfl⟩

theorem mulExact_holds {v w : FVal} {x y : Int} (hv : v.Holds x) (hw : w.Holds y) :
    (mulExact v w).1.Holds (x * y) ∧ (mulExact v w).2 = 0 := by
  obtain ⟨a, m, rfl, rfl⟩ := hv
  obtain ⟨b, n, rfl, rfl⟩ := hw
  refine ⟨⟨a != b, m * n, rfl, ?_⟩, rfl⟩
  cases a <;> cases b <;> simp [FVal.scaled_unit]

theorem addExact_holds (rdn : Bool) {v w : FVal} {x y : Int} (hv : v.Holds x) (hw : w.Holds y) : (addExact rdn v w).1.Holds (x + y) := by
  obtain ⟨a, m, rfl, rfl⟩ := hv
  obtain ⟨b, n, rfl, rfl⟩ := hw
  simp only [addExact, lt_irrefl, if_false]
  by_cases zeros : m = 0 ∧ n = 0
  · obtain ⟨rfl, rfl⟩ := zeros
    simpa [FVal.scaled_unit] using FVal.zero_holds _
  rw [if_neg (by simpa using zeros)]
  by_cases cancels : FVal.scaled a m 0 0 + FVal.scaled b n 0 0 = 0
  · rw [if_pos cancels, cancels]; exact FVal.zero_holds rdn
  · rw [if_neg cancels]; exact FVal.ofInt_holds _

theorem foldl_addExact_holds {ps : List (FVal × Flags)} {ys : List Int} (h : List.Forall₂ (fun p y => p.1.Holds y) ps ys) {v : FVal} {x : Int}
    (hv : v.Holds x) : (ps.foldl (fun a q => (addExact false a q.1).1) v).Holds (x + ys.sum) := by
  induction h generalizing v x with
  | nil => simpa using hv
  | cons head _ ih =>
    rw [List.sum_cons, ← add_assoc]
    exact ih (addExact_holds false hv head)

/-- No product of a chunk of integers is invalid or infinite, so that its sum is the integers' own. -/
theorem chunkSum_ofInt (xs : List (Int × Int)) :
    (chunkSum (xs.map fun x => (FVal.ofInt x.1, FVal.ofInt x.2))).1.Holds (xs.map fun x => x.1 * x.2).sum := by
  have products (x : Int × Int) := mulExact_holds (FVal.ofInt_holds x.1) (FVal.ofInt_holds x.2)
  unfold chunkSum
  rw [if_neg ?valid]
  case valid =>
    simp only [List.map_map, Bool.or_eq_true, Bool.and_eq_true, List.any_map, List.any_eq_true, Function.comp_apply]
    rintro (⟨x, -, invalid⟩ | ⟨⟨x, -, infinite⟩, -⟩)
    · simp [(products x).2] at invalid
    · obtain ⟨neg, m, finite, -⟩ := (products x).1
      simp [finite] at infinite
  cases xs with
  | nil => exact FVal.zero_holds false
  | cons x rest =>
    refine foldl_addExact_holds ?_ (products x).1
    rw [List.forall₂_map_right_iff, List.map_map, List.forall₂_map_left_iff, List.forall₂_same]
    exact fun y _ => (products y).1

theorem clampInt_holds {v : FVal} {x : Int} (h : v.Holds x) (dst : BitVec 4) : clampInt dst v = satInt dst x := by
  obtain ⟨neg, m, rfl, rfl⟩ := h
  simp [clampInt, roundInt, inUnits, stepsUp, FVal.scaled_unit]

theorem addChunk_ofInt (old : Nat) (xs : List (Int × Int)) :
    addChunk true old (xs.map fun x => (FVal.ofInt x.1, FVal.ofInt x.2)) = satInt 4 (intValue 4 old + (xs.map fun x => x.1 * x.2).sum) :=
  clampInt_holds (addExact_holds false (FVal.ofInt_holds _) (chunkSum_ofInt xs)) 4

end Sys2Proof.Machine

namespace Sys2Proof.Proofs

open Sys2Proof.Machine Sys2Proof.Safety

/-- Settles O37: the width, the sign and the range of each format are the model's own, and so are its values; then the exact result kept
modulo 2^w, or clamped. -/
theorem integerElements : Obligations.IntegerElements := by
  refine ⟨fun op f mode a b c lower upper => ?vector, fun c ps xs hps hc => ?matrix⟩
  case vector =>
    intro w isSigned value lo hi ha hb hc z r t
    have integer : isInteger f = true := isInteger_iff.mpr ⟨lower, upper⟩
    have signed : isInt f = true ↔ isSigned := isInt_iff lower
    have width : w = fmtWidth f := by
      have formats : f.toNat = 1 ∨ f.toNat = 2 ∨ f.toNat = 3 ∨ f.toNat = 4 ∨ f.toNat = 5 ∨ f.toNat = 6 ∨ f.toNat = 7 := by omega
      obtain h | h | h | h | h | h | h := formats <;> simp [w, fmtWidth, h]
    have values (x : Nat) (h : x < 2 ^ w) : value x = intValue f x := by
      rw [intValue_of_lt (width ▸ h)]; simp only [value, signed, width]
    have lowest : lo = intMin f := by simp only [lo, intMin, signed, width]
    have highest : hi = intMax f := by simp only [hi, intMax, signed, width]
    have result : z = arithInt op (intValue f a) (intValue f b) (intValue f c) := by
      rw [← values a ha, ← values b hb, ← values c hc]; cases op <;> rfl
    have wrapped : r = ⟨intCode f z, 0⟩ := by rw [result]; exact arithElem_integer integer ..
    have clamped : t = satInt f z := by rw [result]; exact arithElem_integer integer ..
    have range : lo ≤ hi := by rw [lowest, highest]; exact intMin_le_intMax f
    have code : value t.code = max lo (min hi z) := by
      rw [values _ (by rw [clamped, width]; exact satInt_lt f z), clamped, intValue_satInt, lowest, highest]
    have picked (max : Bool) : value (pick max f a b) = intValue f (pick max f a b) := by
      obtain h | h := pick_mem max integer a b <;> rw [h]
      · exact values a ha
      · exact values b hb
    obtain ⟨smaller, larger⟩ := intValue_pick integer a b
    refine ⟨⟨?modulo, by rw [wrapped]⟩, fun above below => ⟨by rw [code]; omega, ?noFlag⟩, fun below => ⟨by rw [code]; omega, ?satBelow⟩,
      fun above => ⟨by rw [code]; omega, ?satAbove⟩, ?min, ?max⟩
    case modulo => rw [wrapped, width]; exact natCast_intCode f z
    case noFlag => rw [clamped, satInt_within (lowest ▸ above) (highest ▸ below)]
    case satBelow => rw [clamped, satInt_below (lowest ▸ below)]; exact clamp_sets_sat
    case satAbove => rw [clamped, satInt_above (highest ▸ above)]; exact clamp_sets_sat
    case min => rw [picked, values a ha, values b hb, smaller]
    case max => rw [picked, values a ha, values b hb, larger]
  case matrix =>
    intro value
    have values (x : Nat) (h : x < 2 ^ 32) : value x = intValue 4 x := by
      rw [intValue_of_lt (f := 4) h]
      simp [value, isInt, fmtWidth]
    rw [hps, addChunk_ofInt, values _ (satInt_lt 4 _), intValue_satInt, values c hc]
    rfl

end Sys2Proof.Proofs
end


section
/-! PROOFS. The word of every instruction, read and written (05 R91 to R109): neighbouring fields join to one, so that each family's fields
join to the word that they were read from; and each row of the decoder is one of those families. -/

namespace Sys2Proof

open Sys2Proof.Machine

/-! ## Fields that join to a word (05 R91, R99) -/

/-- Two neighbouring fields of a word, each at its place, are the one field that spans them. -/
theorem place_field_append (w : Word) {hi lo m n : Nat} (h : hi = lo + m) :
    place (field w hi n) hi ||| place (field w lo m) lo = place (field w lo (m + n)) lo := by
  subst h
  refine BitVec.eq_of_getLsbD_eq fun i hi => ?_
  rw [BitVec.getLsbD_or]
  obtain below | ⟨k, rfl⟩ := (Nat.lt_or_ge i lo).imp_right Nat.exists_eq_add_of_le
  · simp only [place_below _ lo i below, place_below _ (lo + m) i (by omega), Bool.or_false]
  rw [place_within _ lo k hi, place_within _ lo k hi]
  obtain low | ⟨j, rfl⟩ := (Nat.lt_or_ge k m).imp_right Nat.exists_eq_add_of_le
  · simp only [place_below _ (lo + m) (lo + k) (by omega), field_getLsbD _ _ _ k low, field_getLsbD _ _ _ k (Nat.lt_add_right n low),
      Bool.false_or]
  · rw [← Nat.add_assoc, place_within _ (lo + m) j (by omega)]
    simp [field, Nat.add_assoc]

/-- A field above one that is zero, at its place, is the field that spans both. -/
theorem place_field_extend (w : Word) {hi lo m n : Nat} (h : hi = lo + m) (z : field w lo m = 0) :
    place (field w hi n) hi = place (field w lo (m + n)) lo := by
  rw [← place_field_append w h, z, place_zero, BitVec.ofNat_eq_ofNat, BitVec.or_zero]

theorem place_field_all (w : Word) : place (field w 0 64) 0 = w := by simp [place, field]

theorem ofBool_bit (w : Word) (i : Nat) : BitVec.ofBool (bit w i) = field w i 1 := by
  ext k hk
  obtain rfl : k = 0 := by omega
  simp [bit, field]

theorem ofNat_eq_field {w : Word} {off n k : Nat} (h : (field w off n).toNat = k) : BitVec.ofNat n k = field w off n := by
  rw [← h, BitVec.ofNat_toNat, BitVec.setWidth_eq]

/-! ## The fields of each family join to the word that they were read from -/

theorem encode_nop_ofWord {w : Word} (hm : majorOf w = 0) (hz : field w 0 40 = 0) : encode (.nop (Sync.ofWord w)) = w := by
  simp only [encode, Sync.ofWord, place_field_append]
  rw [place_field_extend w (lo := 40) rfl (ofNat_eq_field hm).symm, place_field_extend w (lo := 0) rfl hz]
  exact place_field_all w

theorem SR.toWord_ofWord {w : Word} {m f : Nat} (hm : majorOf w = m) (hf : (field w 16 5).toNat = f) (hz : field w 0 16 = 0) :
    (SR.ofWord w).toWord m f = w := by
  simp only [SR.toWord, SR.ofWord, Sync.ofWord, ofBool_bit, ofNat_eq_field hm, ofNat_eq_field hf, place_field_append]
  rw [place_field_extend w (lo := 0) rfl hz]
  exact place_field_all w

theorem SI.toWord_ofWord {w : Word} {m f : Nat} (hm : majorOf w = m) (hf : (field w 24 2).toNat = f) :
    (SI.ofWord w).toWord m f = w := by
  simp only [SI.toWord, SI.ofWord, Sync.ofWord, ofBool_bit, ofNat_eq_field hm, ofNat_eq_field hf, place_field_append]
  exact place_field_all w

theorem LI.toWord_ofWord {w : Word} {m f : Nat} (hm : majorOf w = m) (hf : (field w 32 3).toNat = f) :
    (LI.ofWord w).toWord m f = w := by
  simp only [LI.toWord, LI.ofWord, Sync.ofWord, ofNat_eq_field hm, ofNat_eq_field hf, place_field_append]
  exact place_field_all w

theorem BR.toWord_ofWord {w : Word} {m f : Nat} (hm : majorOf w = m) (hf : (field w 28 3).toNat = f) :
    (BR.ofWord w).toWord m f = w := by
  simp only [BR.toWord, BR.ofWord, Sync.ofWord, ofBool_bit, ofNat_eq_field hm, ofNat_eq_field hf, place_field_append]
  exact place_field_all w

theorem M.toWord_ofWord {w : Word} {m : Nat} (hm : majorOf w = m) :
    (M.ofWord w).toWord m = w := by
  simp only [M.toWord, M.ofWord, Sync.ofWord, ofBool_bit, ofNat_eq_field hm, place_field_append]
  exact place_field_all w

/-- The T family's fn field is zero in every row (07 R161). -/
theorem T.toWord_ofWord {w : Word} {m : Nat} (hm : majorOf w = m) (hf : (field w 8 5).toNat = 0) : (T.ofWord w).toWord m = w := by
  simp only [T.toWord, T.ofWord, Sync.ofWord, ofBool_bit, ofNat_eq_field hm, place_field_append]
  rw [place_field_extend w (lo := 8) rfl (ofNat_eq_field hf).symm]
  simp only [place_field_append]
  exact place_field_all w

theorem V.toWord_ofWord {w : Word} {m : Nat} (hm : majorOf w = m) :
    (V.ofWord w).toWord m = w := by
  simp only [V.toWord, V.ofWord, Sync.ofWord, ofNat_eq_field hm, place_field_append]
  exact place_field_all w

theorem X.toWord_ofWord {w : Word} {m f : Nat} (hm : majorOf w = m) (hf : (field w 8 4).toNat = f) :
    (X.ofWord w).toWord m f = w := by
  simp only [X.toWord, X.ofWord, Sync.ofWord, ofNat_eq_field hm, ofNat_eq_field hf, place_field_append]
  exact place_field_all w

theorem N.toWord_ofWord {w : Word} {m f : Nat} (hm : majorOf w = m) (hf : (field w 11 5).toNat = f) :
    (N.ofWord w).toWord m f = w := by
  simp only [N.toWord, N.ofWord, Sync.ofWord, ofNat_eq_field hm, ofNat_eq_field hf, place_field_append]
  exact place_field_all w

/-! ## What the decoder's rows give -/

/-- What the decoder of a group of majors may give for a word of major m: where m is assigned, nothing or an instruction whose word it is;
else the row of unassigned majors. -/
def ReadsBack (w : Word) (m : Nat) (o : Option Instr) : Prop :=
  if majorAssigned m then ∀ i, o = some i → i.sync.isSome = true ∧ encode i = w else o = some (.unassignedMajorOpcode w)

theorem readsBack_none {w : Word} {m : Nat} (h : majorAssigned m = true) : ReadsBack w m none := by
  simp [ReadsBack, h]

theorem readsBack_unassigned {w : Word} {m : Nat} (h : majorAssigned m = false) : ReadsBack w m (some (.unassignedMajorOpcode w)) := by
  simp [ReadsBack, h]

/-- A row of the tables gives an instruction of one family, and its word x is the one that the family's fields join to. -/
theorem readsBack_row {F : Type} (ofWord : Word → F) {mk : F → Instr} {w x : Word} {m : Nat} (h : majorAssigned m = true) (hx : x = w)
    (hy : (mk (ofWord w)).sync.isSome = true) (he : encode (mk (ofWord w)) = x) : ReadsBack w m (some (mk (ofWord w))) := by
  simp [ReadsBack, h, he, hx, hy]

/-! Each decoder's rows, by kind: the function codes without a row, the rows of each family, and the majors without a row. -/

theorem decodeControl_readsBack {w : Word} {m : Nat} (hm : majorOf w = m) (h : m < 0x30) : ReadsBack w m (decodeControl w m) := by
  fun_cases decodeControl w m
  any_goals exact readsBack_none rfl
  any_goals exact readsBack_row SR.ofWord rfl (SR.toWord_ofWord hm ‹_› (beq_iff_eq.mp ‹_›)) rfl (by rfl)
  any_goals exact readsBack_row SI.ofWord rfl (SI.toWord_ofWord hm ‹_›) rfl (by rfl)
  any_goals exact readsBack_row LI.ofWord rfl (LI.toWord_ofWord hm ‹_›) rfl (by rfl)
  any_goals exact readsBack_row BR.ofWord rfl (BR.toWord_ofWord hm ‹_›) rfl (by rfl)
  · exact readsBack_row Sync.ofWord rfl (encode_nop_ofWord hm (beq_iff_eq.mp ‹_›)) rfl rfl
  · exact readsBack_unassigned (by grind [majorAssigned])

theorem decodeMemory_readsBack {w : Word} {m : Nat} (hm : majorOf w = m) (h : 0x30 ≤ m ∧ m < 0x40) : ReadsBack w m (decodeMemory w m) := by
  fun_cases decodeMemory w m
  any_goals exact readsBack_row M.ofWord rfl (M.toWord_ofWord hm) rfl (by rfl)
  · exact readsBack_unassigned (by grind [majorAssigned])

theorem decodeTiles_readsBack {w : Word} {m : Nat} (hm : majorOf w = m) (h : 0x40 ≤ m ∧ m < 0x70) : ReadsBack w m (decodeTiles w m) := by
  fun_cases decodeTiles w m
  any_goals exact readsBack_none rfl
  any_goals exact readsBack_row T.ofWord rfl (T.toWord_ofWord hm ‹_›) rfl (by rfl)
  · exact readsBack_unassigned (by grind [majorAssigned])

theorem decodePort_readsBack {w : Word} {m : Nat} (hm : majorOf w = m) (h : 0x70 ≤ m ∧ m < 0x80) : ReadsBack w m (decodePort w m) := by
  fun_cases decodePort w m
  any_goals exact readsBack_none rfl
  any_goals exact readsBack_row N.ofWord rfl (N.toWord_ofWord hm ‹_›) rfl (by rfl)
  · exact readsBack_unassigned (by grind [majorAssigned])

theorem decodeVector_readsBack {w : Word} {m : Nat} (hm : majorOf w = m) (h : 0x80 ≤ m ∧ m < 0xC0) : ReadsBack w m (decodeVector w m) := by
  fun_cases decodeVector w m
  any_goals exact readsBack_none rfl
  any_goals exact readsBack_row V.ofWord rfl (V.toWord_ofWord hm) rfl (by rfl)
  · exact readsBack_unassigned (by grind [majorAssigned])

theorem decodeMatrix_readsBack {w : Word} {m : Nat} (hm : majorOf w = m) (h : 0xC0 ≤ m ∧ m < 0xD0) : ReadsBack w m (decodeMatrix w m) := by
  fun_cases decodeMatrix w m
  any_goals exact readsBack_none rfl
  any_goals exact readsBack_row X.ofWord rfl (X.toWord_ofWord hm ‹_›) rfl (by rfl)
  · exact readsBack_unassigned (by grind [majorAssigned])

theorem decodeSystem_readsBack {w : Word} {m : Nat} (hm : majorOf w = m) (h : 0xD0 ≤ m) : ReadsBack w m (decodeSystem w m) := by
  fun_cases decodeSystem w m
  any_goals exact readsBack_none rfl
  any_goals exact readsBack_row SR.ofWord rfl (SR.toWord_ofWord hm ‹_› (beq_iff_eq.mp ‹_›)) rfl (by rfl)
  any_goals exact readsBack_row SI.ofWord rfl (SI.toWord_ofWord hm ‹_›) rfl (by rfl)
  · exact readsBack_unassigned (by grind [majorAssigned])

theorem decode_readsBack (w : Word) : ReadsBack w (majorOf w) (decode w) := by
  simp only [decode]
  split
  · exact decodeControl_readsBack rfl ‹_›
  split
  · exact decodeMemory_readsBack rfl (by omega)
  split
  · exact decodeTiles_readsBack rfl (by omega)
  split
  · exact decodePort_readsBack rfl (by omega)
  split
  · exact decodeVector_readsBack rfl (by omega)
  split
  · exact decodeMatrix_readsBack rfl (by omega)
  · exact decodeSystem_readsBack rfl (by omega)

/-- A word of an unassigned MAJOR decodes to the row of that name (05 R109). -/
theorem decode_of_unassigned {w : Word} (h : majorAssigned (majorOf w) = false) : decode w = some (.unassignedMajorOpcode w) := by
  simpa [ReadsBack, h] using decode_readsBack w

/-- A word of an assigned MAJOR decodes to no event, and is the word of what it decodes to. -/
theorem decode_of_assigned {w : Word} {i : Instr} (h : majorAssigned (majorOf w) = true) (d : decode w = some i) :
    i.sync.isSome = true ∧ encode i = w := by
  have reads := decode_readsBack w
  rw [ReadsBack, if_pos h] at reads
  exact reads i d

end Sys2Proof

namespace Sys2Proof.Laws.RoundTrip

/-- Every row, by its own lemma. -/
theorem decode_encode : ∀ i, Statement i :=
  Instr.rec nop add sub mul div divu rem remu and_ or_ xor_ shl shr sra slt sltu min minu max maxu clz ctz popc addi muli divi remi divui remui
    slti sltui andi ori xori shli shri srai li lui lea sel pcmp pand por pnot b call ret loop rotset csrr csrw csrs csrc slip qsync
    shp shpx feat bells bellw trap brk exit yield snapr ld ldu st lda stl amo amocas red fence waitv dcwb dcinv xlat migr halloc hfree
    tlbinv ctxst ctxld mwrr binit breg barv barw barvw bdrop btest tld tldx tldv vldb tgath vgath tfill tcpy vldt unfcfg pft tstat tst
    tstv tscat vstt trel vadd vsub vmul vfma vfms vmin vmax vabs vneg vrcp vrsq vsqrt vexp2 vlog2 vcmp vselm vand vor vxor vnot vshl
    vshr vcvt vqnt vdqnt vbcast vmov vmovFrom vmovTo vext vins vredsum vredmax vredmin vargmax vargmin vscan vtrn vshf vpermr vbaddq
    vrng vmlog mma mmaz mmau amld amldStat amst amz mhint msync rstv rstvRel vexp cname amsg mcst redst cpy cpyw taskq taskdec tend
    qsnap fcall fwait fpoll fdone flink fcancel adref launch graphgo hring unassignedMajorOpcode queueIssue engineCompletion
    pageFaultAnswer trapDecision watchdogExpiry exitTakesEffect tendTakesEffect bankSwitch cohortSave saveDone cohortRestore
    cohortMigration cohortBind standingBind launchRecordArrival launchCompletion launchDoorbell graphDoorbell nodeLaunch nodeCopy
    nodeWaitOnWord nodeSignalWord nodeConditional nodeHostRingDrain nodeEnd graphWaitTimeout hostRingTimeRule matrixGrant
    matrixCompletion levelStep mhintHoldExpiry taskDequeue stealAttempt runListRefill taskDecrementArrival counterSettingArrival
    registerStoreArrival busyRetry deferredDelivery activeMessageArrival remoteLoad remoteStore remoteAtomic blockReduction
    copyComplete redPoisonTrap waitvReread barrierWaitEnd resolveOk resolveErr resolveOutcome remoteResolve futureDeadline
    futureResolution adapterLoadDone sandboxViolation pageMigration packetReceive ackReceive nakReceive replayDone laneFailure
    linkTrained retrainTimeout trainingRequest detourInstall keyPhaseSwitch retireReceive partitionDissolve hostSnoop hostAtomic
    patrolScrub recessStart recessEnd powerWindow coldReset warmReset traceTailFlush sample triggerArm freeze thaw mcbStatusClear
    registerWindowWrite hostMemoryAccess toolCoreAccess creditReceive waitOnWordReread hostLinkLoss dieToDieLinkEvent podFormation
    clockStepUp firmwareSwitch debugHoldEnter keyset keyerase tool adapter handler binding terminate stop release sampleConfig service
    update attest debugHoldExit lockstepMismatch securityBlockFault

end Sys2Proof.Laws.RoundTrip

namespace Sys2Proof.Proofs

open Sys2Proof.Machine

/-- Settles O2, row by row: each instruction's word decodes to it, and an event has no word. -/
theorem decodeEncode : Obligations.DecodeEncode := Laws.RoundTrip.decode_encode

/-- Settles O3: every row of the decoder gives an instruction whose word it is, and the row of unassigned majors is given for those alone. -/
theorem encodeDecode : Obligations.EncodeDecode := by
  refine ⟨fun w i d => ?_, fun w h => decode_of_unassigned h, fun w h x d => ?_⟩
  · cases h : majorAssigned (majorOf w) with
    | true => exact (decode_of_assigned h d).2
    | false =>
      obtain rfl : .unassignedMajorOpcode w = i := by simpa [decode_of_unassigned h] using d
      rfl
  · exact nomatch (decode_of_assigned h d).1

/-- Settles O1: closed facts about eight words, evaluated. -/
theorem decodedWords : Obligations.DecodedWords := by
  unfold Obligations.DecodedWords
  decide

end Sys2Proof.Proofs
end


section
/-! PROOFS. The decode checks and the WAIT byte (05 R92, R95, R97): every instruction is a turn of the control unit or a forwarding turn, and
both begin with the decode checks. -/

namespace Sys2Proof.Machine

open Sys2Proof.Safety

/-! ## Every instruction is a turn -/

/-- Each instruction that the control unit executes itself is a turn under its guard (05 R97). -/
theorem exec_eq_turn {i : Instr} {pg : BitVec 3} {pn : Bool} (h : i.cuGuard = some (pg, pn)) (s : State) :
    ∃ body, exec i s = .next (s.turn i (s.cx.guard pg pn) body) := by
  cases i <;> cases h
  all_goals exact ⟨_, rfl⟩

/-- NOP and each instruction with a guard of the control unit is its turn; any other that a word may hold is forwarded (02 R39, R40). -/
theorem exec_eq_turn_or_forwardTurn {i : Instr} (h : i.sync.isSome = true) (s : State) :
    (∃ g body, exec i s = .next (s.turn i g body)) ∨ ∃ q g check apply, exec i s = .next (s.forwardTurn q i g check apply) := by
  cases hg : i.cuGuard with
  | some g => exact .inl ⟨_, exec_eq_turn hg s⟩
  | none =>
    cases i <;> cases h <;> cases hg
    case none.nop.refl.refl => exact .inl ⟨_, _, rfl⟩
    all_goals exact .inr ⟨_, _, _, _, rfl⟩

theorem State.forwardTurn_trap {s : State} {i : Instr} {t : Trap} (q : Queue) (g : Bool) (check : State → Entry → Option Trap)
    (apply : State → State) (h : s.decodeTrap i = some t) : s.forwardTurn q i g check apply = s.takeTrap t := by
  simp only [State.forwardTurn, h]

/-- An instruction that fails a decode check traps, whatever it is (05 R95). -/
theorem exec_of_decodeTrap {s : State} {i : Instr} {t : Trap} (hi : i.sync.isSome = true) (h : s.decodeTrap i = some t) :
    exec i s = .next (s.takeTrap t) := by
  obtain ⟨g, body, turn⟩ | ⟨q, g, check, apply, forward⟩ := exec_eq_turn_or_forwardTurn hi s
  · rw [turn, State.turn_trap g body h]
  · rw [forward, State.forwardTurn_trap q g check apply h]

/-- Taking a trap changes the life and the trap record of the current context alone. -/
theorem State.takeTrap_eq (s : State) (t : Trap) :
    s.takeTrap t = { s with cx := { s.cx with life := (s.cx.takeTrap t).life, trap := (s.cx.takeTrap t).trap } } := by
  rw [← Ctx.takeTrap_eq, State.takeTrap]

theorem sync_legal_eq (i : Instr) : i.sync.elim true Sync.legal = (syncOf i).legal := by
  unfold syncOf
  cases i.sync <;> rfl

/-! ## The decode checks (05 R95) -/

section
variable {s : State} {i : Instr}

theorem State.decodeTrap_unprivileged (h : privileged i = true) (hp : s.cx.priv = false) : s.decodeTrap i = some (s.cuTrap 0x04) := by
  simp [State.decodeTrap, h, hp]

variable (hp : privileged i = true → s.cx.priv = true)
include hp

theorem State.decodeTrap_lacks {code : BitVec 16} (h : s.lacks (needsOf i) = some code) : s.decodeTrap i = some (s.cuTrap 0x03 code) := by
  simp +contextual [State.decodeTrap, hp, h]

theorem State.decodeTrap_reserved (h : s.lacks (needsOf i) = none) (hf : i.fieldsOk = false) : s.decodeTrap i = some (s.cuTrap 0x02) := by
  simp +contextual [State.decodeTrap, hp, h, hf]

theorem State.decodeTrap_sig (h : s.lacks (needsOf i) = none) (hf : i.fieldsOk = true) (hy : i.sync.elim true Sync.legal = false) :
    s.decodeTrap i = some (s.cuTrap 0x05) := by
  simp +contextual [State.decodeTrap, hp, h, hf, hy]

theorem State.decodeTrap_none (h : s.lacks (needsOf i) = none) (hw : i.wellFormed = true) : s.decodeTrap i = none := by
  obtain ⟨hf, hy⟩ : i.fieldsOk = true ∧ i.sync.elim true Sync.legal = true := by simpa [Instr.wellFormed] using hw
  simp +contextual [State.decodeTrap, hp, h, hf, hy]
end

/-! ## Words without an instruction (05 R95, R109) -/

section
variable {s : State} {w : Word}

theorem State.wordTrap_unprivileged (own : 0xE0 ≤ majorOf w ∧ majorOf w ≤ 0xEF) (hp : s.cx.priv = false) :
    s.wordTrap w = s.cuTrap 0x04 := by
  simp [State.wordTrap, own, hp]

variable (hp : ¬ (0xE0 ≤ majorOf w ∧ majorOf w ≤ 0xEF) ∨ s.cx.priv = true)
include hp

/-- A word that its context may run is not refused for its privilege. -/
theorem State.word_not_denied : (0xE0 ≤ majorOf w && majorOf w ≤ 0xEF && !s.cx.priv) = false := by
  obtain out | priv := hp
  · simpa using fun low high => absurd ⟨low, high⟩ out
  · simp [priv]

theorem State.wordTrap_unassigned (ha : majorAssigned (majorOf w) = false) : s.wordTrap w = s.cuTrap 0x01 := by
  simp [State.wordTrap, State.word_not_denied hp, ha]

theorem State.wordTrap_lacks (ha : majorAssigned (majorOf w) = true) {code : BitVec 16} (h : s.lacks (wordNeeds w) = some code) :
    s.wordTrap w = s.cuTrap 0x03 code := by
  simp [State.wordTrap, State.word_not_denied hp, ha, h]

theorem State.wordTrap_reserved (ha : majorAssigned (majorOf w) = true) (h : s.lacks (wordNeeds w) = none) :
    s.wordTrap w = s.cuTrap 0x02 := by
  simp [State.wordTrap, State.word_not_denied hp, ha, h]

end

end Sys2Proof.Machine

namespace Sys2Proof.Proofs

open Sys2Proof.Machine Sys2Proof.Safety

/-- Settles O4: the checks in their order, the instruction's trap by the turn that it is, and the same order for a word without one,
whose needs and their place before 0x02 are log entry 30's. -/
theorem decodeChecks : Obligations.DecodeChecks := by
  refine ⟨fun s i => ⟨fun ⟨own, user⟩ => State.decodeTrap_unprivileged own user,
    fun may => ⟨fun _ => State.decodeTrap_lacks may, ?checks⟩⟩,
    fun s i t hi h => ⟨exec_of_decodeTrap hi h, s.takeTrap_eq t⟩, ?unassigned, ?assigned⟩
  case checks =>
    exact fun has => ⟨State.decodeTrap_reserved may has, fun ok sig => State.decodeTrap_sig may has ok ((sync_legal_eq i).trans sig),
      State.decodeTrap_none may has⟩
  case unassigned =>
    intro s w ha own
    simp only [show exec (.unassignedMajorOpcode w) s = .next (s.takeTrap (s.wordTrap w)) from rfl]
    exact ⟨fun h user => by rw [State.wordTrap_unprivileged h user], fun may => by rw [State.wordTrap_unassigned may ha]⟩
  case assigned =>
    intro s w ha own
    simp only [State.badWord]
    exact ⟨fun h user => by rw [State.wordTrap_unprivileged h user],
      fun may => ⟨fun code lacks => by rw [State.wordTrap_lacks may ha lacks], fun has => by rw [State.wordTrap_reserved may ha has]⟩⟩

/-- Settles O5: a guarded instruction is a turn of the control unit, which is void or waits. -/
theorem controlUnitTurns : Obligations.ControlUnitTurns := by
  refine ⟨fun s i pg pn hg hd hw void => ?_, fun s i pg pn hg hd hw => ?_⟩
  · obtain ⟨body, turn⟩ := exec_eq_turn hg s
    rw [turn, void, State.turn_void body hd hw]
  · obtain ⟨body, turn⟩ := exec_eq_turn hg s
    rw [turn, State.turn_waits _ body hd hw, State.notYet_eq]
    rfl

end Sys2Proof.Proofs
end


section
/-! PROOFS. A step runs what its contexts meet (02 R40; 05 R91; 26 R484; 27 R493). -/

namespace Sys2Proof.Machine

/-! ## What a turn meets, and the turns of a cycle (02 R40; 05 R91) -/

theorem State.meet_undecoded {s s1 : State} {w : Word} (hr : s.mayRun s.cx = true) (ha : s.cx.after = []) (hp : s.cx.portHolds = false)
    (hf : s.fetch = .ok (s1, w)) (hd : decode w = none) : s.meet = .none (s1.badWord w) := by
  simp [State.meet, hr, ha, hp, hf, hd]

theorem State.meet_decoded {s s1 : State} {w : Word} {i : Instr} (hr : s.mayRun s.cx = true) (ha : s.cx.after = [])
    (hp : s.cx.portHolds = false) (hf : s.fetch = .ok (s1, w)) (hd : decode w = some i) (hm : s1.mismatchCu i = false) :
    s.meet = .run i s1 := by
  simp [State.meet, hr, ha, hp, hf, hd, hm]

section
variable {snap s s1 s2 : State} {who rest : List CtxRef} {r : CtxRef} {i : Instr}

theorem takeTurns_idle (h : who.contains r = false ∨ s.focus r = none) :
    takeTurns snap who (r :: rest) s = takeTurns snap who rest (snap.engines s r) := by
  rw [takeTurns]
  have none : (if who.contains r then s.focus r else none) = none := by
    obtain out | gone := h
    · rw [out]; rfl
    · rw [gone, ite_self]
  simp only [none]

variable (hw : who.contains r = true) (hf : s.focus r = some s1)
include hw hf

theorem takeTurns_meets_none (hm : s1.meet = .none s2) :
    takeTurns snap who (r :: rest) s = takeTurns snap who rest (snap.engines s2 r) := by
  simp only [takeTurns, hw, hf, hm, if_true]

theorem takeTurns_meets_run (hm : s1.meet = .run i s2) :
    (∀ t, exec i s2 = .next t → takeTurns snap who (r :: rest) s = takeTurns snap who rest (snap.engines t r)) ∧
    (∀ f, exec i s2 = .fault f → takeTurns snap who (r :: rest) s = .fault f) ∧
    ∀ x, exec i s2 = .refused x → takeTurns snap who (r :: rest) s = .refused x := by
  refine ⟨fun _ he => ?_, fun _ he => ?_, fun _ he => ?_⟩ <;> simp only [takeTurns, hw, hf, hm, he, if_true]

end

/-! ## A step -/

section
variable {s : State} (ha : s.agenda = []) (hs : s.fatal = false)
include ha hs

theorem step_of_turnsTaken :
    (∀ t, s.turnsTaken = .next t → step s = .next (t.around s.turnOrder.1)) ∧
    (∀ f, s.turnsTaken = .fault f → step s = .fault f) ∧ ∀ x, s.turnsTaken = .refused x → step s = .refused x := by
  refine ⟨fun _ ht => ?_, fun _ ht => ?_, fun _ ht => ?_⟩ <;> simp [step, State.due, ha, hs, ht]

end

theorem step_of_fatal {s : State} (ha : s.agenda = []) (hs : s.fatal = true) : step s = .fault .fatalMachineCheck := by
  simp [step, State.due, ha, hs]

section
variable {s : State} {i : Instr} {rest : List (Nat × Instr)} (ha : s.agenda = (0, i) :: rest) (hi : isEvent i = true)
include ha hi

theorem step_of_lost_event (still : s.standsStill i = true) : step s = .next { s with agenda := rest } := by
  simp [step, State.due, ha, hi, still]

theorem step_of_due_event (moves : s.standsStill i = false) (hs : s.fatal = false) : step s = exec i { s with agenda := rest } := by
  simp [step, State.due, ha, hi, moves, hs]

end

theorem State.running_of_mayRun {s : State} {c : Ctx} (h : s.mayRun c = true) : c.life = .running := by
  simp_all [State.mayRun]

/-- One resident context, which runs, is the one that takes a turn. -/
theorem State.turnsTaken_alone {s : State} (hq : s.turns = []) (ho : s.others = []) (hr : s.mayRun s.cx = true) :
    s.turnOrder.1 = s.runLevels ∧ s.turnsTaken = takeTurns s.runLevels [s.cx.ref] [s.cx.ref] s.runLevels := by
  have live := State.running_of_mayRun hr
  have order : s.inOrder = [s.cx.ref] := by simp [State.inOrder, State.ctxs, ho, live, Ctx.resident]
  have found : s.findCtx s.cx.ref = some s.cx := by simp [State.findCtx, State.ctxs, ho, live, Ctx.is_ref]
  have turns : s.turnOrder = (s.runLevels, [s.cx.ref]) := by simp [State.turnOrder, hq, order, found, hr]
  exact ⟨by rw [turns], by rw [State.turnsTaken, turns]; exact congrArg (takeTurns _ _ · _) order⟩

end Sys2Proof.Machine

namespace Sys2Proof.Proofs

open Sys2Proof.Machine

/-- Settles O58: what a turn meets, what the turns of a cycle are, and the step around them; one context that runs is the case of one turn. -/
theorem stepRunsDecoded : Obligations.StepRunsDecoded := by
  refine ⟨fun s s1 w hr ha hp hf => ⟨State.meet_undecoded hr ha hp hf, fun i hd hm => State.meet_decoded hr ha hp hf hd hm⟩,
    fun s snap who r rest => ⟨takeTurns_idle, fun s1 s2 hw hf => ⟨takeTurns_meets_none hw hf, fun i => takeTurns_meets_run hw hf⟩⟩,
    fun s => step_of_turnsTaken, fun s s1 w i ha hs hq ho hr hafter hp hf hd hm => ?alone,
    fun s i rest ha hi => ⟨step_of_lost_event ha hi, step_of_due_event ha hi⟩, fun s => step_of_fatal⟩
  case alone =>
    obtain ⟨order, turns⟩ := State.turnsTaken_alone hq ho hr
    have focus : s.runLevels.focus s.cx.ref = some s.runLevels := by
      simp [State.focus, State.runLevels, Ctx.is_ref, State.running_of_mayRun hr]
    have meets : s.runLevels.meet = .run i s1 := State.meet_decoded hr hafter hp hf hd hm
    obtain ⟨next, fault, refused⟩ := takeTurns_meets_run (snap := s.runLevels) (who := [s.cx.ref]) (rest := []) (by simp) focus meets
    obtain ⟨next', fault', refused'⟩ := step_of_turnsTaken ha hs
    rw [turns] at next' fault' refused'
    rw [order] at next'
    exact ⟨fun t he => next' _ (next t he), fun f he => fault' f (fault f he), fun x he => refused' x (refused x he)⟩

end Sys2Proof.Proofs
end


section
/-! PROOFS. An instruction that the control unit executes, by the way its body ends (05 R91 to R97). -/

namespace Sys2Proof.Machine

open Sys2Proof.Safety

/-- An instruction is a turn with this body, whose guard an execution finds true (05 R97). -/
def TurnOf (i : Instr) (s : State) (body : State → Done) : Prop :=
  ∃ g, exec i s = .next (s.turn i g body) ∧ (Executes i s → g = true)

section
variable {i : Instr} {s : State} {body : State → Done}

theorem TurnOf.guarded {pg : BitVec 3} {pn : Bool} (hg : i.cuGuard = some (pg, pn))
    (turn : exec i s = .next (s.turn i (s.cx.guard pg pn) body)) : TurnOf i s body :=
  ⟨_, turn, fun ⟨_, _, guard⟩ => guard pg pn hg⟩

theorem TurnOf.unguarded (turn : exec i s = .next (s.turn i true body)) : TurnOf i s body :=
  ⟨_, turn, fun _ => rfl⟩

variable {s1 : State}

theorem TurnOf.next (t : TurnOf i s body) (h : Executes i s) {pc : Word} (b : body s = .next s1 pc) :
    exec i s = .next (executed i s1 pc) := by
  obtain ⟨g, turn, guard⟩ := t
  have holds := guard h
  obtain ⟨passes, may, -⟩ := h
  rw [turn, State.turn_next passes may holds b]

theorem TurnOf.set (t : TurnOf i s body) (h : Executes i s) {c : Ctx} (b : body s = s.set c) : exec i s = .next (executedTo i s c) :=
  t.next h b

theorem TurnOf.wait (t : TurnOf i s body) (h : Executes i s) (b : body s = .wait s1) : exec i s = .next (s1.stalled true) := by
  obtain ⟨g, turn, guard⟩ := t
  have holds := guard h
  obtain ⟨passes, may, -⟩ := h
  rw [turn, State.turn_wait passes may holds b]

/-- A body that waits notes what it waits for. -/
theorem TurnOf.waitFor (t : TurnOf i s body) (h : Executes i s) {x : OutsideWait} (b : body s = s.waitFor x) :
    exec i s = .next { s with cx := { s.cx with held := some true, outside := x } } :=
  t.wait h b

theorem TurnOf.stop (t : TurnOf i s body) (h : Executes i s) (b : body s = .stop s1) : exec i s = .next s1 := by
  obtain ⟨g, turn, guard⟩ := t
  have holds := guard h
  obtain ⟨passes, may, -⟩ := h
  rw [turn, State.turn_stop passes may holds b]

theorem TurnOf.last (t : TurnOf i s body) (h : Executes i s) (b : body s = .last s1) :
    exec i s = .next { s1 with cx := (s1.cx.settleBells (syncOf i)).turned } := by
  obtain ⟨g, turn, guard⟩ := t
  have holds := guard h
  obtain ⟨passes, may, -⟩ := h
  rw [turn, State.turn_last passes may holds b]
  rfl

end

/-! ## Arithmetic (06 R127, R128) -/

/-- The register forms with the operation that the model computes for each. -/
def registerOps (o : SR) : List (Instr × (Word → Word → Word)) :=
  [(.add o, (· + ·)), (.sub o, (· - ·)), (.mul o, (· * ·)), (.div o, divS), (.divu o, divU), (.rem o, remS), (.remu o, remU),
   (.and_ o, (· &&& ·)), (.or_ o, (· ||| ·)), (.xor_ o, (· ^^^ ·)), (.shl o, fun a b => a <<< amount b), (.shr o, fun a b => a >>> amount b),
   (.sra o, fun a b => a.sshiftRight (amount b)), (.slt o, fun a b => truth (a.slt b)), (.sltu o, fun a b => truth (a.ult b)),
   (.min o, fun a b => if a.slt b then a else b), (.minu o, fun a b => if a.ult b then a else b),
   (.max o, fun a b => if a.slt b then b else a), (.maxu o, fun a b => if a.ult b then b else a),
   (.clz o, fun a _ => BitVec.ofNat 64 (leadingZeros a 64)), (.ctz o, fun a _ => BitVec.ofNat 64 (trailingZeros a 64)),
   (.popc o, fun a _ => BitVec.ofNat 64 (oneBits a 64))]

/-- The immediate forms, likewise. -/
def immediateOps (o : SI) : List (Instr × (Word → Word → Word)) :=
  [(.addi o, (· + ·)), (.muli o, (· * ·)), (.divi o, divS), (.remi o, remS), (.divui o, divU), (.remui o, remU),
   (.slti o, fun a b => truth (a.slt b)), (.sltui o, fun a b => truth (a.ult b)), (.andi o, (· &&& ·)), (.ori o, (· ||| ·)),
   (.xori o, (· ^^^ ·)), (.shli o, fun a b => a <<< amount b), (.shri o, fun a b => a >>> amount b),
   (.srai o, fun a b => a.sshiftRight (amount b))]

theorem registerOps_turnOf (o : SR) (s : State) : ∀ f ∈ registerOps o,
    TurnOf f.1 s fun s => s.set (s.cx.setSreg o.sd (f.2 (s.cx.sreg o.sa) (s.cx.sreg o.sb))) := by
  simp only [registerOps, List.forall_mem_cons]
  refine ⟨?_, ?_, ?_, ?_, ?_, ?_, ?_, ?_, ?_, ?_, ?_, ?_, ?_, ?_, ?_, ?_, ?_, ?_, ?_, ?_, ?_, ?_, List.forall_mem_nil _⟩
  all_goals exact .guarded rfl rfl

theorem immediateOps_turnOf (o : SI) (s : State) : ∀ f ∈ immediateOps o,
    TurnOf f.1 s fun s => s.set (s.cx.setSreg o.sd (f.2 (s.cx.sreg o.sa) (o.imm24.signExtend 64))) := by
  simp only [immediateOps, List.forall_mem_cons]
  refine ⟨?_, ?_, ?_, ?_, ?_, ?_, ?_, ?_, ?_, ?_, ?_, ?_, ?_, ?_, List.forall_mem_nil _⟩
  all_goals exact .guarded rfl rfl

/-! ## The table's results are the model's -/

theorem divS_eq_quotient (a b : Word) : divS a b = quotient a b := by
  simp only [divS, quotient, beq_iff_eq]
  split
  · rfl
  · rw [← BitVec.toInt_inj]; simp [BitVec.toInt_sdiv]

theorem remS_eq_remainder (a b : Word) : remS a b = remainder a b := by
  simp only [remS, remainder, quotient, beq_iff_eq]
  split
  · rfl
  · rw [← BitVec.ofInt_toInt (x := a.srem b), BitVec.toInt_srem, Int.tmod_def, sub_eq_add_neg, BitVec.ofInt_add, BitVec.ofInt_neg,
      BitVec.ofInt_mul, BitVec.ofInt_toInt, BitVec.ofInt_toInt, ← sub_eq_add_neg]

theorem divU_eq_quotientU (a b : Word) : divU a b = quotientU a b := by
  simp only [divU, quotientU, beq_iff_eq, ← BitVec.toNat_udiv, BitVec.ofNat_toNat, BitVec.setWidth_eq]

theorem remU_eq_remainderU (a b : Word) : remU a b = remainderU a b := by
  simp only [remU, remainderU, beq_iff_eq, ← BitVec.toNat_umod, BitVec.ofNat_toNat, BitVec.setWidth_eq]

theorem mul_eq_ofNat (a b : Word) : a * b = BitVec.ofNat 64 (a.toNat * b.toNat) := by
  rw [BitVec.ofNat_mul]; simp

theorem amount_eq (b : Word) : amount b = b.toNat % 64 := by
  simp [amount, field]

theorem shl_eq_shiftLeft (a b : Word) : a <<< amount b = shiftLeft a b := by
  rw [amount_eq]
  apply BitVec.eq_of_toNat_eq; simp [shiftLeft, Nat.shiftLeft_eq]

theorem shr_eq_shiftRight (a b : Word) : a >>> amount b = shiftRight a b := by
  rw [amount_eq]
  apply BitVec.eq_of_toNat_eq
  simp only [shiftRight, BitVec.toNat_ushiftRight, Nat.shiftRight_eq_div_pow, BitVec.toNat_ofNat]
  exact (Nat.mod_eq_of_lt (Nat.lt_of_le_of_lt (Nat.div_le_self _ _) a.isLt)).symm

theorem sra_eq_shiftArithmetic (a b : Word) : a.sshiftRight (amount b) = shiftArithmetic a b := by
  rw [amount_eq, BitVec.sshiftRight, Int.shiftRight_eq_div_pow, shiftArithmetic]
  push_cast
  rfl

theorem truth_slt (a b : Word) : truth (a.slt b) = oneIf (a.toInt < b.toInt) := by
  simp [truth, oneIf, BitVec.slt]

theorem truth_ult (a b : Word) : truth (a.ult b) = oneIf (a.toNat < b.toNat) := by
  simp [truth, oneIf, BitVec.ult]

/-- Of two operands with equal values either is the smaller and the greater. -/
theorem min_slt (a b : Word) : (if a.slt b then a else b) = if a.toInt ≤ b.toInt then a else b := by
  simp only [BitVec.slt, decide_eq_true_eq]
  split_ifs with lt le le
  · rfl
  · omega
  · exact BitVec.eq_of_toInt_eq (by omega)
  · rfl

theorem max_slt (a b : Word) : (if a.slt b then b else a) = if a.toInt ≤ b.toInt then b else a := by
  simp only [BitVec.slt, decide_eq_true_eq]
  split_ifs with lt le le
  · rfl
  · omega
  · exact BitVec.eq_of_toInt_eq (by omega)
  · rfl

theorem leadingZeros_eq (a : Word) (n : Nat) :
    leadingZeros a n = ((List.range n).takeWhile fun k => !a.getLsbD (n - 1 - k)).length := by
  induction n with
  | zero => rfl
  | succ n ih =>
    rw [leadingZeros, ih, List.range_succ_eq_map, List.takeWhile_cons, List.takeWhile_map]
    have tail : ((fun k => !a.getLsbD (n + 1 - 1 - k)) ∘ Nat.succ) = fun k => !a.getLsbD (n - 1 - k) := by
      funext k; simp only [Function.comp]; congr 2; omega
    rw [tail]
    cases h : a.getLsbD n <;> simp [bit, h, Nat.add_comm]

theorem trailingZeros_eq (a : Word) {n : Nat} (h : n ≤ 64) :
    trailingZeros a n = ((List.range n).takeWhile fun k => !a.getLsbD (64 - n + k)).length := by
  induction n with
  | zero => rfl
  | succ n ih =>
    rw [trailingZeros, ih (by omega), List.range_succ_eq_map, List.takeWhile_cons, List.takeWhile_map]
    have tail : ((fun k => !a.getLsbD (64 - (n + 1) + k)) ∘ Nat.succ) = fun k => !a.getLsbD (64 - n + k) := by
      funext k; simp only [Function.comp]; congr 2; omega
    rw [tail]
    have head : 64 - (n + 1) + 0 = 63 - n := by omega
    rw [head]
    cases h : a.getLsbD (63 - n) <;> simp [bit, h, Nat.add_comm]

theorem oneBits_eq (a : Word) (n : Nat) : oneBits a n = (List.range n).countP a.getLsbD := by
  induction n with
  | zero => rfl
  | succ n ih =>
    rw [oneBits, ih, List.range_succ, List.countP_append]
    cases h : a.getLsbD n <;> simp [bit, h, Nat.add_comm]

theorem leadingZeros_word (a : Word) : leadingZeros a 64 = leading a := leadingZeros_eq a 64

theorem trailingZeros_word (a : Word) : trailingZeros a 64 = trailing a := by
  simp [trailingZeros_eq a (Nat.le_refl 64), trailing]

/-- MINU and MAXU, as MIN and MAX. -/
theorem min_ult (a b : Word) : (if a.ult b then a else b) = if a.toNat ≤ b.toNat then a else b := by
  simp only [BitVec.ult, decide_eq_true_eq]
  split_ifs with lt le le
  · rfl
  · omega
  · exact BitVec.eq_of_toNat_eq (by omega)
  · rfl

theorem max_ult (a b : Word) : (if a.ult b then b else a) = if a.toNat ≤ b.toNat then b else a := by
  simp only [BitVec.ult, decide_eq_true_eq]
  split_ifs with lt le le
  · rfl
  · omega
  · exact BitVec.eq_of_toNat_eq (by omega)
  · rfl

theorem registerForms_eq (o : SR) (a b : Word) : registerForms o a b = (registerOps o).map fun f => (f.1, f.2 a b) := by
  simp only [registerForms, registerOps, List.map_cons, List.map_nil, mul_eq_ofNat, divS_eq_quotient, remS_eq_remainder, divU_eq_quotientU,
    remU_eq_remainderU, shl_eq_shiftLeft, shr_eq_shiftRight, sra_eq_shiftArithmetic, truth_slt, truth_ult, min_slt, min_ult, max_slt, max_ult,
    leadingZeros_word, trailingZeros_word, oneBits_eq]

theorem immediateForms_eq (o : SI) (a b : Word) : immediateForms o a b = (immediateOps o).map fun f => (f.1, f.2 a b) := by
  simp only [immediateForms, immediateOps, List.map_cons, List.map_nil, mul_eq_ofNat, divS_eq_quotient, remS_eq_remainder, divU_eq_quotientU,
    remU_eq_remainderU, shl_eq_shiftLeft, shr_eq_shiftRight, sra_eq_shiftArithmetic, truth_slt, truth_ult]

/-! ## Constants, features and comparisons (06 R129, R131, R141) -/

/-- LUI's value: the immediate above the low word that stays. -/
theorem append_low_eq (x : BitVec 32) (w : Word) : x ++ (field w 0 32 : BitVec 32) = BitVec.ofNat 64 (x.toNat * 2 ^ 32 + w.toNat % 2 ^ 32) := by
  have low : (field w 0 32 : BitVec 32).toNat = w.toNat % 2 ^ 32 := by simp [field]
  apply BitVec.eq_of_toNat_eq
  rw [BitVec.toNat_append, low, ← Nat.shiftLeft_add_eq_or_of_lt (Nat.mod_lt _ (by decide)), Nat.shiftLeft_eq, BitVec.toNat_ofNat]
  have := x.isLt
  omega

/-- No mask holds a feature from 64 on. -/
theorem truth_bit (w : Word) (n : Nat) : truth (bit w n) = oneIf (n < 64 ∧ w.getLsbD n = true) := by
  have inside : w.getLsbD n = true → n < 64 := BitVec.lt_of_getLsbD
  simp only [truth, oneIf, bit]
  congr 1
  simpa using inside

theorem condHolds_iff (c : PCond) (a b : Word) : condHolds c a b = true ↔ compares c a b := by
  cases c <;> simp [condHolds, compares, BitVec.slt, BitVec.ult]

/-! ## What a turn leaves in a context (02 R44) -/

/-- Beside its scalar registers, only the marks of a turn differ in a context: bells, what it waits for, the program counter, and the record of
a trap. -/
def Ctx.TurnOnly (c d : Ctx) : Prop :=
  d = { c with s := d.s, bells := d.bells, rung := d.rung, lastTurn := d.lastTurn, wdog := d.wdog, outside := d.outside, held := d.held,
               watch := d.watch, pc := d.pc, life := d.life, trap := d.trap }

namespace Ctx.TurnOnly

variable {c d : Ctx}

theorem special (h : c.TurnOnly d) : SameSpecial c d := by
  rw [h]; simp [SameSpecial]

theorem engines (h : c.TurnOnly d) : SameEngines c d := by
  rw [h]; simp [SameEngines]

theorem records (h : c.TurnOnly d) : SameRecords c d := by
  rw [h]; simp [SameRecords]

theorem preg (h : c.TurnOnly d) (k : BitVec 3) : d.preg k = c.preg k := (congrArg (Ctx.preg · k) h :)

end Ctx.TurnOnly

@[simp] theorem executed_sreg (i : Instr) (s : State) (pc : Word) (k : BitVec 5) : (executed i s pc).cx.sreg k = s.cx.sreg k := rfl

theorem executed_turnOnly (i : Instr) (s : State) (pc : Word) : s.cx.TurnOnly (executed i s pc).cx := rfl

theorem executed_setSreg_turnOnly (i : Instr) (s : State) (pc : Word) (d : BitVec 5) (x : Word) :
    s.cx.TurnOnly (executed i { s with cx := s.cx.setSreg d x } pc).cx := by
  rw [Ctx.setSreg_eq]; rfl

theorem State.takeTrap_turnOnly (s : State) (t : Trap) : s.cx.TurnOnly (s.takeTrap t).cx := by
  rw [State.takeTrap_eq]; rfl

/-- Every instruction with one destination register is a turn that sets it and goes on. -/
theorem exec_destination {i : Instr} {d : BitVec 5} (h : destination i = some d) (s : State) :
    ∃ (g : Bool) (v : State → Word), exec i s = .next (s.turn i g fun s => s.set (s.cx.setSreg d (v s))) := by
  cases i <;> cases h
  all_goals exact ⟨_, _, rfl⟩

/-- Such a turn traps, waits, is void or sets its register: in each case the marks of the turn and that register alone change. -/
theorem State.turn_setSreg_keeps (s : State) (i : Instr) (g : Bool) (d : BitVec 5) (v : State → Word) :
    let t := s.turn i g fun s => s.set (s.cx.setSreg d (v s))
    s.cx.TurnOnly t.cx ∧ (∀ k, k ≠ d → t.cx.sreg k = s.cx.sreg k) ∧ OnlyContext s t := by
  obtain ⟨t, -, trap⟩ | waits | void | ⟨s1, pc, body, done⟩ | ⟨_, body, -⟩ | ⟨_, body, -⟩ | ⟨_, body, -⟩ :=
    s.turn_cases i g fun s => s.set (s.cx.setSreg d (v s))
  · rw [trap]
    exact ⟨s.takeTrap_turnOnly t, fun k _ => s.takeTrap_sreg t k, rfl⟩
  · rw [waits]
    exact ⟨rfl, fun _ _ => rfl, rfl⟩
  · rw [void]
    exact ⟨rfl, fun _ _ => rfl, rfl⟩
  · cases body
    rw [done]
    exact ⟨executed_setSreg_turnOnly i s _ d _, fun k ne => Ctx.sreg_setSreg_other _ _ ne, rfl⟩
  all_goals cases body

end Sys2Proof.Machine

namespace Sys2Proof.Proofs

open Sys2Proof.Machine Sys2Proof.Safety

/-- Settles O7: each form is the turn of the operation that the model computes for it, whose value is the table's. -/
theorem arithmeticForms : Obligations.ArithmeticForms := by
  refine ⟨fun o s => ?_, fun o s => ?_⟩
  · rw [registerForms_eq, List.forall_mem_map]
    exact fun f hf h => (registerOps_turnOf o s f hf).set h rfl
  · rw [immediateForms_eq, List.forall_mem_map]
    exact fun f hf h => (immediateOps_turnOf o s f hf).set h rfl

/-- Settles O8: each is a turn that sets s[sd]. -/
theorem constantsAndSelection : Obligations.ConstantsAndSelection := by
  refine ⟨fun o s h => ?_, fun o s h => ?_, fun o s h => ?_, fun o s h => ?_, fun o s h => ?_⟩
  · exact (TurnOf.unguarded rfl).set h rfl
  · rw [← append_low_eq]
    exact (TurnOf.unguarded rfl).set h rfl
  · exact (TurnOf.unguarded rfl).set h rfl
  · have selects : (s.cx.preg o.pg ≠ o.pn) = (s.cx.guard o.pg o.pn = true) := by simp [Ctx.guard]
    simp only [selects]
    exact (TurnOf.unguarded rfl).set h rfl
  · have number : o.imm24.toNat % 256 = (field o.imm24 0 8 : BitVec 8).toNat := by simp [field]
    rw [number, ← truth_bit]
    exact (TurnOf.guarded rfl rfl).set h rfl

/-- Settles O9: each is a turn that sets its predicate. -/
theorem predicateForms : Obligations.PredicateForms := by
  refine ⟨fun c o s b h holds => ?_, fun o s h => ?_, fun o s h => ?_, fun o s h => ?_⟩
  · have value : b = condHolds c (s.cx.sreg o.sa) (s.cx.sreg o.sb) := Bool.eq_iff_iff.mpr (holds.trans (condHolds_iff c _ _).symm)
    rw [value]
    exact (TurnOf.guarded rfl rfl).set h rfl
  all_goals exact (TurnOf.guarded rfl rfl).set h rfl

/-- Settles O10: each is a turn that sets its register, whichever way it ends. -/
theorem scalarFrame : Obligations.ScalarFrame := by
  intro i d s t hd ht
  obtain ⟨g, v, turn⟩ := exec_destination hd s
  obtain ⟨marks, others, only⟩ := s.turn_setSreg_keeps i g d v
  obtain rfl : s.turn i g _ = t := Host.Outcome.next.inj (turn.symm.trans ht)
  exact ⟨others, marks.preg, marks.special, marks.engines, marks.records, by rw [only]; exact ⟨fun _ => rfl, rfl⟩, only⟩

end Sys2Proof.Proofs
end


section
/-! PROOFS. Control transfer, CSRs, queue control, shapes, bells and deliberate traps (06 R124 to R126, R134 to R143; 03 R57, R58, R66). -/

namespace Sys2Proof.Machine

open Sys2Proof.Safety

/-! ## Control transfer (06 R134, R135) -/

theorem State.target_eq (s : State) (off : BitVec 28) : s.target off = s.cx.pc + 8 * off.signExtend 64 := by
  rw [State.target, BitVec.shiftLeft_eq_mul_twoPow, BitVec.mul_comm]
  rfl

theorem low_bits_zero (w : Word) : (field w 0 3 == (0 : BitVec 3)) = true ↔ w.toNat % 8 = 0 := by
  simp [field, BitVec.toNat_eq]

/-! ## CSRs (06 R137; 03 R66) -/

/-- Each CSR instruction with the value that it writes, from the old one; CSRR writes none. -/
def csrForms (o : SI) (s : State) : List (Instr × (Word → Option Word)) :=
  [(.csrr o, fun _ => none), (.csrw o, fun _ => some (s.cx.sreg o.sa)), (.csrs o, fun old => some (old ||| s.cx.sreg o.sa)),
   (.csrc o, fun old => some (old &&& ~~~s.cx.sreg o.sa))]

/-- What a CSR instruction does with the old value once its checks have passed. -/
def State.csrDone (s : State) (o : SI) (old : Word) : Option Word → Done
  | none => s.set (s.cx.setSreg o.sd old)
  | some new => s.putCsr o (csrNumber o) old new

section
variable {s : State} {o : SI} (other : csrNumber o ≠ 0xC80)
include other

theorem State.noteCsr_other : s.noteCsr (csrNumber o) = s := if_neg (by simpa using other)

theorem State.csrDone_ok {c : Ctx} {old new : Word} (w : s.cx.writeCsr (csrNumber o) new = .ok c) :
    s.csrDone o old (some new) = s.set (c.setSreg o.sd old) := by
  simp only [State.csrDone, State.putCsr, w, State.noteCsr_other other, State.set]

theorem csrForms_turnOf : ∀ f ∈ csrForms o s, ∃ body, TurnOf f.1 s body ∧
    body s = s.withCsr (csrNumber o) fun old => s.csrDone o old (f.2 old) := by
  simp only [csrForms, List.forall_mem_cons]
  refine ⟨⟨_, .guarded rfl rfl, ?_⟩, ⟨_, .guarded rfl rfl, ?_⟩, ⟨_, .guarded rfl rfl, rfl⟩, ⟨_, .guarded rfl rfl, rfl⟩, List.forall_mem_nil _⟩
  · simp only [State.noteCsr_other other]; rfl
  · simp only [beq_eq_false_iff_ne.mpr other, Bool.false_eq_true, if_false]; rfl

end

theorem State.csrDone_error {s : State} {o : SI} {old new : Word} {cause : BitVec 7} (w : s.cx.writeCsr (csrNumber o) new = .error cause) :
    s.csrDone o old (some new) = s.stopTrap cause := by
  simp only [State.csrDone, State.putCsr, w]

section
variable {s : State} {n : Nat} (k : Word → Done)

theorem State.withCsr_denied (own : 0xC00 ≤ n) (user : s.cx.priv = false) : s.withCsr n k = s.stopTrap 0x04 := by
  simp [State.withCsr, own, user]

variable (may : 0xC00 ≤ n → s.cx.priv = true)
include may

theorem State.withCsr_unlisted (h : s.csr n = none) : s.withCsr n k = s.stopTrap 0x02 := by
  simp +contextual [State.withCsr, may, h]

theorem State.withCsr_listed {old : Word} (h : s.csr n = some old) : s.withCsr n k = k old := by
  simp +contextual [State.withCsr, may, h]

end

/-! ## SLIP and QSYNC (06 R125, R126; 16 R325) -/

theorem slipQueue_eq {o : SI} {q : Fin 5} (h : q.val = o.imm24.toNat % 8) : slipQueue o = q := by
  have code : (field o.imm24 0 3 : BitVec 3).toNat = q.val := by simp [field, h]
  rw [slipQueue, code]
  exact Fin.ofNat_val_eq_self q

theorem segStart_five (d : Vector (BitVec 8) 5) : segStart d 5 = (d.toList.map BitVec.toNat).sum := by
  rw [segStart, List.take_of_length_le (by simp)]

/-- The entries that move are those of the queues behind the one whose depth changes. -/
theorem Ctx.toMove_eq (c : Ctx) (q : Fin 5) : c.toMove q.val = ([c.sq, c.aq, c.mq, c.nq].drop q.val).foldl (fun x y => x + y.count) 0 := by
  fin_cases q <;> simp [Ctx.toMove, Nat.add_assoc]

theorem Ctx.slipEnd_none {c : Ctx} (h : c.slip = none) (q : Nat) : c.slipEnd q = c.now + (c.toMove q - 1) := by
  simp only [Ctx.slipEnd, h]

theorem Ctx.slipEnd_live {c : Ctx} {q e : Nat} (h : c.slip = some ⟨q, e, true⟩) : c.slipEnd q = e := by
  simp [Ctx.slipEnd, h]

theorem Ctx.setDepth_slipd {c : Ctx} {q : Fin 5} {n : BitVec 8} (h : c.slipd[q] ≠ n) : (c.setDepth q n).slipd = c.slipd.set q n := by
  simp only [Ctx.setDepth, beq_eq_false_iff_ne.mpr h, Bool.false_eq_true, if_false]

section
variable {o : SI} {s : State} {q : Fin 5} (h : Executes (.slip o) s) (hq : slipQueue o = q)
include h hq

theorem slip_passes_limit (limit : 256 < ((s.cx.slipd.set q (field o.imm24 8 8)).toList.map BitVec.toNat).sum) :
    exec (.slip o) s = .next (s.takeTrap (s.cuTrap 0x41)) := by
  rw [← segStart_five] at limit
  subst hq
  exact (TurnOf.guarded rfl rfl).stop h (if_pos limit)

variable (limit : ((s.cx.slipd.set q (field o.imm24 8 8)).toList.map BitVec.toNat).sum ≤ 256)
include limit

theorem slip_waits (busy : s.cx.quiet (queueOf q.val) = false) :
    exec (.slip o) s = .next { s with cx := { s.cx with held := some true, outside := .drain } } := by
  rw [← segStart_five, ← Nat.not_lt] at limit
  subst hq
  exact (TurnOf.guarded rfl rfl).waitFor h ((if_neg limit).trans (if_pos (by simp [busy])))

variable (quiet : s.cx.quiet (queueOf q.val) = true)
include quiet

theorem slip_same (same : s.cx.slipd[q] = field o.imm24 8 8) : exec (.slip o) s = .next (executed (.slip o) s (s.cx.pc + 8)) := by
  rw [← segStart_five, ← Nat.not_lt] at limit
  subst hq
  exact (TurnOf.guarded rfl rfl).next h ((if_neg limit).trans ((if_neg (by simp [quiet])).trans (if_pos (by simpa using same))))

variable (differs : s.cx.slipd[q] ≠ field o.imm24 8 8)
include differs

theorem slip_ends (due : s.cx.slipEnd q.val ≤ s.cx.now) : exec (.slip o) s = .next (executedTo (.slip o) s
    { s.cx.setDepth q (field o.imm24 8 8) with slip := some ⟨q.val, s.cx.slipEnd q.val, false⟩ }) := by
  rw [← segStart_five, ← Nat.not_lt] at limit
  subst hq
  exact (TurnOf.guarded rfl rfl).set h ((if_neg limit).trans ((if_neg (by simp [quiet])).trans ((if_neg (by simpa using differs)).trans (if_pos due))))

theorem slip_moves (later : s.cx.now < s.cx.slipEnd q.val) : exec (.slip o) s = .next { s with cx := { s.cx with
    slip := some ⟨q.val, s.cx.slipEnd q.val, true⟩, held := some true, outside := .none } } := by
  rw [← segStart_five, ← Nat.not_lt] at limit
  subst hq
  exact (TurnOf.guarded rfl rfl).wait h ((if_neg limit).trans ((if_neg (by simp [quiet])).trans
    ((if_neg (by simpa using differs)).trans (if_neg (Nat.not_le.mpr later)))))

end

theorem Ctx.quietMask_iff (c : Ctx) (m : BitVec 24) :
    c.quietMask m = true ↔ ∀ k < 5, m.getLsbD k = true → c.quiet (queueOf k) = true := by
  simp [Ctx.quietMask, bit, imp_iff_not_or]

/-! ## Shapes (06 R138, R139; 03 R58) -/

/-- A stride is the sign extension of its low 48 bits where it lies in their range. -/
theorem eq_signExtend_field_iff (b : Word) :
    b = (field b 0 48 : BitVec 48).signExtend 64 ↔ -(2 ^ 47) ≤ b.toInt ∧ b.toInt < 2 ^ 47 := by
  have low : (field b 0 48 : BitVec 48).toNat = b.toNat % 2 ^ 48 := by simp [field]
  rw [← BitVec.toInt_inj, BitVec.toInt_signExtend_of_le (by decide), BitVec.toInt_eq_toNat_cond, BitVec.toInt_eq_toNat_cond, low]
  have := b.isLt
  split_ifs <;> omega

/-- The checks of SHP's words, as numbers. -/
theorem shp_checks_iff (a b : Word) :
    (field a 56 2 != (0 : BitVec 2) || b != (field b 0 48 : BitVec 48).signExtend 64 || !(Shape.ofWords a b).legal) = false ↔
      a.toNat / 2 ^ 56 % 4 = 0 ∧ -(2 ^ 47) ≤ b.toInt ∧ b.toInt < 2 ^ 47 ∧ 1 ≤ a.toNat / 2 ^ 44 % 4096 ∧
        a.toNat / 2 ^ 32 % 4096 ≤ a.toNat / 2 ^ 44 % 4096 ∧ 1 ≤ a.toNat % 65536 ∧ a.toNat / 2 ^ 60 ≠ 15 := by
  have fields (off w : Nat) : (field a off w : BitVec w).toNat = a.toNat / 2 ^ off % 2 ^ w := by
    simp [field, Nat.shiftRight_eq_div_pow]
  have stride : b = (field b 0 48 : BitVec 48).signExtend 64 ↔ _ := eq_signExtend_field_iff b
  have top : a.toNat / 2 ^ 60 % 2 ^ 4 = a.toNat / 2 ^ 60 := Nat.mod_eq_of_lt (by have := a.isLt; omega)
  simp only [Bool.or_eq_false_iff, bne_eq_false_iff_eq, Bool.not_eq_false', Shape.legal, Shape.ofWords, Bool.and_eq_true, bne_iff_ne,
    decide_eq_true_eq, stride, BitVec.toNat_eq, ne_eq, fields, top]
  simp [and_assoc]

section
variable {f : ShpxField} {o : SI} {s : State} (h : Executes (.shpx f o) s)
include h

theorem shpx_permitted {x : Shape}
    (hx : (s.cx.shape (field o.sd 0 4)).setField f ((s.cx.sreg o.sa).toInt + o.imm24.toInt) = some x) :
    exec (.shpx f o) s = .next (executedTo (.shpx f o) s (s.cx.setShape (field o.sd 0 4) x)) :=
  (TurnOf.guarded rfl rfl).set h (by simp only [hx])

theorem shpx_refused (hx : (s.cx.shape (field o.sd 0 4)).setField f ((s.cx.sreg o.sa).toInt + o.imm24.toInt) = none) :
    exec (.shpx f o) s = .next (s.takeTrap (s.cuTrap 0x11)) :=
  (TurnOf.guarded rfl rfl).stop h (by simp only [hx]; rfl)

end

/-- h0, and a number of five bits, fail the field checks of SHP and SHPX. -/
theorem slot_number_refused {d : BitVec 5} (h : d.extractLsb' 0 4 = 0 ∨ d.getLsbD 4 = true) : (field d 4 1 == (0 : BitVec 1) && d != 0) = false := by
  revert d; decide

/-! ## Bells (06 R140; 02 R45) -/

theorem Ctx.canTake_iff (c : Ctx) (b : BitVec 5) : c.canTake b = true ↔ b = 0 ∨ c.bell b ≠ 0 := by simp [Ctx.canTake]

theorem Ctx.toNat_bell_addRings (c : Ctx) (k : BitVec 5) : (c.addRings.bell k).toNat = min 255 ((c.bell k).toNat + c.rung.count k) := by
  unfold Ctx.addRings
  split
  · next none =>
    have := (c.bell k).isLt
    rw [List.isEmpty_iff.mp none, List.count_nil]
    omega
  · simp [Ctx.bell, Ctx.bellNow]

theorem Ctx.rung_addRings (c : Ctx) : c.addRings.rung = [] := by
  unfold Ctx.addRings
  split
  · next none => exact List.isEmpty_iff.mp none
  · rfl

theorem Ctx.bell_take (c : Ctx) {b : BitVec 5} (h : b ≠ 0) (k : BitVec 5) : (c.take b).bell k = if k = b then c.bell b - 1 else c.bell k := by
  simp only [Ctx.take_eq, beq_eq_false_iff_ne.mpr h, Bool.false_eq_true, if_false, Ctx.bell, Vector.getElem_set, BitVec.toNat_inj, eq_comm]

/-! ## TRAP and BRK (06 R124, R143) -/

/-- A running context that traps behind its turn: its bells are settled, and the turn is noted. -/
theorem Ctx.takeTrap_turned {c : Ctx} (running : c.life = .running) (t : Trap) (b : Bool) (y : Sync) :
    ((({ c with stopped := b } : Ctx).takeTrap t).settleBells y).turned =
      { c with life := .trapped, trap := some (t.record c.pc), stopped := b, bells := (c.settleBells y).bells, rung := (c.settleBells y).rung,
               lastTurn := some c.now, wdog := 0, outside := .none, held := none, watch := none } := by
  rw [Ctx.takeTrap_running { c with stopped := b } t running]
  simp only [Ctx.settleBells, Ctx.ring_eq, Ctx.take_eq]
  rfl

theorem State.happens_eq (s : State) (h : Happening) :
    s.happens h = { s with happened := if s.triggers.toList.any Trigger.watches then s.happened ++ [h] else s.happened } := by
  unfold State.happens
  split <;> rfl

/-- A stopping event changes the happenings of the cycle, and stops the context where it starts a breakpoint. -/
theorem State.stoppingEvent_eq (s : State) (kind : Nat) (data : Word) : s.stoppingEvent kind data = { s with
    happened := if s.triggers.toList.any Trigger.watches then s.happened ++ [s.happening s.cx kind data false] else s.happened
    cx := { s.cx with stopped := s.cx.stopped || s.breaksAt s.cx kind } } := by
  rw [State.stoppingEvent, State.event, State.happens_eq]
  cases s.breaksAt s.cx kind
  · rw [Bool.or_false]; rfl
  · rw [Bool.or_true]; rfl

theorem Ctx.resume_behind {c : Ctx} {r : TrapRec} (h : c.trap = some r) (own : r.queue = 0) (cause : r.cause = 7 ∨ r.cause = 8) :
    c.resume.life = .running ∧ c.resume.pc = r.pc + 8 := by
  rcases cause with cause | cause <;> simp [Ctx.resume, h, own, cause]

theorem Ctx.resume_at {c : Ctx} {r : TrapRec} (h : c.trap = some r) (others : r.queue = 0 → r.cause ≠ 7 ∧ r.cause ≠ 8) :
    c.resume = { c with life := .running, trap := none, pc := r.pc } := by
  have stays : ((r.cause == 7 || r.cause == 8) && r.queue == 0) = false := by
    simpa [imp.swap, not_or, and_comm] using others
  simp only [Ctx.resume, h, stays]
  rfl

end Sys2Proof.Machine

namespace Sys2Proof.Proofs

open Sys2Proof.Machine Sys2Proof.Safety

/-- Settles O11: each is a turn that goes on at its target, or RET's traps. -/
theorem branches : Obligations.Branches := by
  refine ⟨fun o s h => ?_, fun o s h => ?_, fun o s h aligned => ?_, fun o s h misaligned => ?_⟩
  · rw [← s.target_eq]
    exact (TurnOf.guarded rfl rfl).next h rfl
  · rw [← s.target_eq]
    exact (TurnOf.guarded rfl rfl).next h rfl
  · exact (TurnOf.guarded rfl rfl).next h (if_pos ((low_bits_zero _).mpr aligned))
  · exact (TurnOf.guarded rfl rfl).stop h (if_neg (mt (low_bits_zero _).mp misaligned))

/-- Settles O12: LOOP by its count, ROTSET by its turn. -/
theorem loops : Obligations.Loops := by
  refine ⟨fun o s h more => ?_, fun o s h few => ?_, fun o s h => (TurnOf.guarded rfl rfl).set h rfl⟩
  · rw [← s.target_eq]
    simpa [Rot.advance] using (TurnOf.guarded rfl rfl).next (i := .loop o) h (if_pos more)
  · exact (TurnOf.guarded rfl rfl).next h (if_neg (Nat.not_le.mpr few))

/-- Settles O13: each form is one body behind the access checks, which reads, writes or meets an illegal value. -/
theorem csrInstructions : Obligations.CsrInstructions := by
  intro o s other forms f hf h
  obtain ⟨body, turn, checked⟩ := csrForms_turnOf other f hf
  refine ⟨fun ⟨own, user⟩ => ?_, fun may => ⟨fun unlisted => ?_, fun old listed => ⟨fun reads => ?_, fun new writes => ⟨fun c legal => ?_, ?_⟩⟩⟩⟩
  · exact turn.stop h (checked.trans (State.withCsr_denied _ own user))
  · exact turn.stop h (checked.trans (State.withCsr_unlisted _ may unlisted))
  · refine turn.set h (checked.trans ((State.withCsr_listed _ may listed).trans ?_))
    rw [reads, State.csrDone]
  · refine turn.set h (checked.trans ((State.withCsr_listed _ may listed).trans ?_))
    rw [writes, State.csrDone_ok other legal]
  · intro cause illegal
    refine turn.stop h (checked.trans ((State.withCsr_listed _ may listed).trans ?_))
    rw [writes, State.csrDone_error illegal]
    rfl

/-- Settles O15: SLIP by its limit, its wait, and the end of its move; QSYNC by its mask. -/
theorem queueControl : Obligations.QueueControl := by
  refine ⟨fun o s q h hq => ?slip, fun o s h => ⟨fun quiet => ?_, fun ⟨k, five, named, busy⟩ => ?_⟩⟩
  case slip =>
    intro n depths entries
    have queue := slipQueue_eq hq
    have moves : s.cx.toMove q.val = entries := s.cx.toMove_eq q
    refine ⟨slip_passes_limit h queue, fun limit => ⟨slip_waits h queue limit, slip_same h queue limit, fun quiet differs =>
      ⟨fun fresh few => ⟨?_, Ctx.setDepth_slipd differs⟩, fun fresh many => ?_, fun e live due => ?_⟩⟩⟩
    · have now : s.cx.slipEnd q.val = s.cx.now := by rw [Ctx.slipEnd_none fresh]; omega
      have ends := slip_ends h queue limit quiet differs now.le
      rwa [now] at ends
    · have last : s.cx.slipEnd q.val = s.cx.now + (entries - 1) := by rw [Ctx.slipEnd_none fresh, moves]
      have goes := slip_moves h queue limit quiet differs (by omega)
      rwa [last] at goes
    · have last := Ctx.slipEnd_live live
      have ends := slip_ends h queue limit quiet differs (by rwa [last])
      rwa [last] at ends
  · exact (TurnOf.guarded rfl rfl).next h (if_pos ((s.cx.quietMask_iff _).mpr quiet))
  · refine (TurnOf.guarded rfl rfl).waitFor h (if_neg fun quiet => ?_)
    simp [(s.cx.quietMask_iff _).mp quiet k five named] at busy

/-- Settles O16: SHP by its checks, SHPX by its field. -/
theorem shapeInstructions : Obligations.ShapeInstructions := by
  refine ⟨fun o s h => ?shp, fun f o s h => ?shpx, fun o p f => ⟨slot_number_refused, slot_number_refused⟩⟩
  case shp =>
    intro a b rows vrows legal
    have checks := shp_checks_iff a b
    refine ⟨fun ok => ?_, fun bad => ?_⟩
    · exact (TurnOf.guarded rfl rfl).set h (if_neg (by rw [checks.mpr ok]; exact Bool.false_ne_true))
    · exact (TurnOf.guarded rfl rfl).stop h (if_pos (Bool.eq_true_of_not_eq_false (mt checks.mp bad)))
  case shpx =>
    intro n slot x permitted after
    have set : (permitted → slot.setField f x = some after) ∧ (¬ permitted → slot.setField f x = none) := by
      cases f <;> simp [permitted, after, Shape.setField, and_assoc]
    exact ⟨fun ok => shpx_permitted h (set.1 ok), fun bad => shpx_refused h (set.2 bad)⟩

/-- Settles O17: BELLS and NOP by their turns, BELLW by what is left to take. -/
theorem bells : Obligations.Bells := by
  refine ⟨fun o s h => (TurnOf.guarded rfl rfl).set h rfl, fun o s h => ?bellw, fun y s h => (TurnOf.unguarded rfl).next h rfl, fun c b k hb => ?_⟩
  case bellw =>
    refine ⟨fun counts => ?_, fun unnamed => ?_, fun empty named => ?_⟩
    · exact (TurnOf.guarded rfl rfl).set h (if_pos ((Ctx.canTake_iff _ _).mpr (.inr counts)))
    · refine (TurnOf.guarded rfl rfl).next h ((if_pos ((Ctx.canTake_iff _ _).mpr (.inl unnamed))).trans ?_)
      rw [show bellOf o = 0 from unnamed, Ctx.take_zero]
      rfl
    · exact (TurnOf.guarded rfl rfl).waitFor h (if_neg (mt (Ctx.canTake_iff _ _).mp (not_or.mpr ⟨named, not_not.mpr empty⟩)))
  · exact ⟨if_neg (by simpa using hb), c.toNat_bell_addRings k, c.rung_addRings, c.bell_take hb k⟩

/-- Settles O19: the trap is taken with the bells settled, and a resume goes on behind it for these two causes alone. -/
theorem deliberateTraps : Obligations.DeliberateTraps := by
  refine ⟨fun o s h running => ?_, fun o s h running => ?_, fun c r hr others => ?_⟩
  · have turn : TurnOf (.trap o) s fun s => .last (s.takeTrap (s.cuTrap 0x07 (field o.imm24 0 16))) := .guarded rfl rfl
    have settled := Ctx.takeTrap_turned running (s.cuTrap 0x07 (field o.imm24 0 16)) s.cx.stopped (syncOf (.trap o))
    exact ⟨_, turn.last h rfl, rfl, settled, Ctx.resume_behind (congrArg Ctx.trap settled) rfl (.inl rfl)⟩
  · have turn : TurnOf (.brk o) s fun s => .last ((s.stoppingEvent 4 s.cx.pc).takeTrap (s.cuTrap 0x08 (field o.imm24 0 16))) := .guarded rfl rfl
    have settled := Ctx.takeTrap_turned running (s.cuTrap 0x08 (field o.imm24 0 16)) (s.cx.stopped || s.breaksAt s.cx 4) (syncOf (.brk o))
    rw [turn.last h rfl, State.stoppingEvent_eq]
    exact ⟨_, rfl, rfl, rfl, settled, Ctx.resume_behind (congrArg Ctx.trap settled) rfl (.inr rfl)⟩
  · exact Ctx.resume_at hr others

end Sys2Proof.Proofs
end


section
/-! PROOFS. Scalar loads and stores (06 R145 to R147; 12 R265): the checks, and what an access leaves of the package. -/

namespace Sys2Proof.Machine

open Sys2Proof.Safety

/-! ## What an access leaves (12 R250, R251; 13 R279) -/

/-- Only the directory and the ports differ. -/
def State.FabricOnly (s t : State) : Prop := t = { s with lines := t.lines, ports := t.ports }

/-- Only what an access may change differs: A and D bits in memory, translation caches, the directory and the ports. -/
def State.AccessOnly (s t : State) : Prop := t = { s with mem := t.mem, tlbs := t.tlbs, lines := t.lines, ports := t.ports }

namespace State.FabricOnly

variable {s t u : State}

theorem refl (s : State) : s.FabricOnly s := rfl

theorem trans (h : s.FabricOnly t) (k : t.FabricOnly u) : s.FabricOnly u := by
  unfold FabricOnly at *
  rw [k, h]

/-- Changes one after another are one change. -/
theorem foldl {α : Type} {f : State → α → State} (h : ∀ s x, State.FabricOnly s (f s x)) (l : List α) (s : State) : s.FabricOnly (l.foldl f s) :=
  List.foldlRecOn l f (motive := s.FabricOnly) (refl s) fun b hb a _ => hb.trans (h b a)

theorem cx (h : s.FabricOnly t) : t.cx = s.cx := (congrArg State.cx h :)
theorem mem (h : s.FabricOnly t) : t.mem = s.mem := (congrArg State.mem h :)
theorem poison (h : s.FabricOnly t) : t.poison = s.poison := (congrArg State.poison h :)

theorem accessOnly (h : s.FabricOnly t) : s.AccessOnly t := by
  unfold FabricOnly AccessOnly at *
  rw [h]

end State.FabricOnly

namespace State.AccessOnly

variable {s t u : State}

theorem refl (s : State) : s.AccessOnly s := rfl

theorem trans (h : s.AccessOnly t) (k : t.AccessOnly u) : s.AccessOnly u := by
  unfold AccessOnly at *
  rw [k, h]

theorem cx (h : s.AccessOnly t) : t.cx = s.cx := (congrArg State.cx h :)
theorem poison (h : s.AccessOnly t) : t.poison = s.poison := (congrArg State.poison h :)

end State.AccessOnly

theorem State.noteRead_fabricOnly (s : State) (sharer k : Nat) : s.FabricOnly (s.noteRead sharer k) := by
  simp only [State.noteRead]
  split
  · rfl
  · split
    · rfl
    · split <;> rfl

theorem State.noteWrite_fabricOnly (s : State) (sharer k : Nat) : s.FabricOnly (s.noteWrite sharer k) := by
  unfold State.noteWrite
  split <;> rfl

theorem State.ask_fabricOnly (s : State) (n : Nat) (g : Seg) (x y z : Word) (payload : List Byte) : s.FabricOnly (s.ask n g x y z payload) := by
  unfold State.ask State.sendTo State.setPort
  split
  · rfl
  · split <;> rfl

theorem State.askLoads_fabricOnly (s : State) (gs : List Seg) : s.FabricOnly (s.askLoads gs) :=
  .foldl (fun s g => s.ask_fabricOnly _ g _ _ _ _) _ _

theorem State.askStores_fabricOnly (s : State) (gs : List Seg) (bs : List Byte) : s.FabricOnly (s.askStores gs bs) := by
  induction gs generalizing s bs with
  | nil => rfl
  | cons g r ih =>
    rw [State.askStores]
    exact (State.FabricOnly.foldl (fun s p => s.ask_fabricOnly _ p _ _ _ _) _ s).trans (ih _ _)

theorem State.homeWrite_accessOnly (s : State) (gs : List Seg) (bs : List Byte) : s.AccessOnly (s.homeWrite gs bs) := by
  have recalled : s.FabricOnly (s.recallSegs gs) := .foldl (f := State.noteRecall) (fun _ _ => rfl) _ _
  exact recalled.accessOnly.trans rfl

theorem State.putPte_accessOnly (s : State) (l : Leaf) (k : Access) : s.AccessOnly (s.putPte l k) := by
  unfold State.putPte
  split
  · rfl
  · exact s.homeWrite_accessOnly _ _

section
variable {s s1 : State} {cache : Option Nat} {k : Access}

theorem State.translate_accessOnly {sp : Space} {va key : Nat} (h : s.translate cache sp va k = .ok s1 key) : s.AccessOnly s1 := by
  simp only [State.translate] at h
  split at h
  -- a space without a root: physical addresses
  case h_1 => split at h <;> cases h; rfl
  case h_2 =>
    split at h
    -- no leaf, or a malformed one
    case h_1 | h_2 => cases h
    case h_3 l _ =>
      split at h
      · cases h
      · split at h
        · cases h
        · split at h
          · cases h
          · cases h
            have put := s.putPte_accessOnly l k
            split
            · exact put
            · exact put.trans rfl

theorem State.translateRange_accessOnly {sp : Space} {va len fuel : Nat} {gs : List Seg}
    (h : s.translateRange cache sp va len k fuel = .ok s1 gs) : s.AccessOnly s1 := by
  induction fuel generalizing s va len gs with
  | zero => cases h; rfl
  | succ fuel ih =>
    simp only [State.translateRange] at h
    split at h
    · cases h; rfl
    · split at h
      · cases h
      · next s2 key one =>
        split at h
        · cases h
        · next s3 gs' rest =>
          cases h
          exact (State.translate_accessOnly one).trans (ih rest)

theorem State.mapRange_accessOnly {f : Int} {len : Nat} {onlyVirt : Bool} {gs : List Seg}
    (h : s.mapRange cache f len k onlyVirt = .ok s1 gs) : s.AccessOnly s1 := by
  unfold State.mapRange at h
  split at h
  · cases h
  · cases h; rfl
  · exact State.translateRange_accessOnly h

theorem Ranged.asked_fabricOnly {x : Ranged} {f : Word} {gs : List Seg} (h : x.asked f k = .ok s1 gs) :
    ∃ s0, x = .ok s0 gs ∧ s0.FabricOnly s1 := by
  cases x with
  | fail e => cases h
  | ok s0 gs0 =>
    simp only [Ranged.asked] at h
    split at h
    · cases h
    · cases h
      refine ⟨s0, rfl, ?_⟩
      split
      · rfl
      · exact s0.askLoads_fabricOnly gs

theorem State.access_accessOnly {f : Int} {len : Nat} {onlyVirt : Bool} {gs : List Seg}
    (h : s.access cache f len k onlyVirt = .ok s1 gs) : s.AccessOnly s1 := by
  obtain ⟨s0, mapped, asked⟩ := Ranged.asked_fabricOnly (Ranged.checked_eq h)
  exact (State.mapRange_accessOnly mapped).trans asked.accessOnly

end

/-! ## The checks of a scalar access (06 R145) -/

section
variable {s : State} {a : Int} {n : Nat} {k : Access}

theorem State.scalar_outside (h : a < 0 ∨ 2 ^ 64 - 1 < a) : s.scalar a n k = .fail ⟨0x22, BitVec.ofInt 64 a, k, false⟩ := by
  have outside : (decide (a < 0) || decide (2 ^ 64 - 1 < a)) = true := by simpa using h
  simp only [State.scalar, outside, if_true]

variable (low : 0 ≤ a) (high : a ≤ 2 ^ 64 - 1)
include low high

theorem State.scalar_misaligned (h : a % n ≠ 0) : s.scalar a n k = .fail ⟨0x24, BitVec.ofInt 64 a, k, false⟩ := by
  have inside : (decide (a < 0) || decide (2 ^ 64 - 1 < a)) = false := by
    simp only [Bool.or_eq_false_iff, decide_eq_false_iff_not]; omega
  simp only [State.scalar, inside, bne_iff_ne.mpr h, Bool.false_eq_true, if_false, if_true]

theorem State.scalar_aligned (h : a % n = 0) : s.scalar a n k = s.access (some 0) a n k false := by
  have inside : (decide (a < 0) || decide (2 ^ 64 - 1 < a)) = false := by
    simp only [Bool.or_eq_false_iff, decide_eq_false_iff_not]; omega
  simp only [State.scalar, inside, h, bne_self_eq_false, Bool.false_eq_true, if_false]

end

theorem State.scalar_accessOnly {s s1 : State} {a : Int} {n : Nat} {k : Access} {gs : List Seg} (h : s.scalar a n k = .ok s1 gs) :
    s.AccessOnly s1 := by
  simp only [State.scalar] at h
  split at h
  · cases h
  · split at h
    · cases h
    · exact State.access_accessOnly h

/-! ## Loads (06 R146) -/

section
variable {s s1 : State} {a : Int} {n : Nat} {gs : List Seg} (body : State → Nat → Done)

theorem State.withLoad_fail {x : Fail} (h : s.scalar a n .load = .fail x) : s.withLoad a n body = s.stopFail x := by
  simp only [State.withLoad, h]

theorem State.withLoad_poisoned (h : s.scalar a n .load = .ok s1 gs) (p : segsPoisoned s1.poison gs = true) :
    s.withLoad a n body = s.stopFail ⟨0x25, BitVec.ofInt 64 a, .load, false⟩ := by
  simp only [State.withLoad, h, p, if_true]

end

/-- A load that passes its checks changes the directory alone before its body. -/
theorem State.withLoad_ok {s s1 : State} {a : Int} {n : Nat} {gs : List Seg} (h : s.scalar a n .load = .ok s1 gs)
    (p : segsPoisoned s1.poison gs = false) : ∃ s2 : State,
    s1.FabricOnly s2 ∧ ∀ body, s.withLoad a n body = body s2 (leNat (readSegs s1.mem gs)) := by
  refine ⟨_, s1.noteRead_fabricOnly s.ownSharer (firstKey gs), fun body => ?_⟩
  simp only [State.withLoad, h, p, Bool.false_eq_true, if_false]

/-- The value that a load of n bytes gives, by whether it extends the sign. -/
def loadValue (signed : Bool) (n x : Nat) : Word := if signed then signBytes n x else BitVec.ofNat 64 x

theorem loadValue_eq (signed : Bool) (n x : Nat) : loadValue signed n x =
    if signed = true ∧ 2 ^ (8 * n - 1) ≤ x then BitVec.ofInt 64 ((x : Int) - 2 ^ (8 * n)) else BitVec.ofNat 64 x := by
  cases signed with
  | false => simp [loadValue]
  | true =>
    simp only [loadValue, signBytes, if_true, true_and, ← Nat.not_lt]
    split_ifs <;> simp

/-- Each load is a turn that reads its bytes and sets s[sd]. -/
theorem loads_turnOf (o : M) (s : State) : ∀ f ∈ [(Instr.ld o, true), (.ldu o, false), (.lda o, true)],
    TurnOf f.1 s fun s => s.withLoad (s.ea o) (sizeBytes o.size) fun s1 x =>
      s1.set (s1.cx.setSreg o.sd (loadValue f.2 (sizeBytes o.size) x)) := by
  simp only [List.forall_mem_cons]
  exact ⟨.guarded rfl rfl, .guarded rfl rfl, .guarded rfl rfl, List.forall_mem_nil _⟩

/-! ## Stores (06 R147) -/

/-- Each store is a turn that writes the low bytes of s[sd]. -/
theorem stores_turnOf (o : M) (s : State) : ∀ i ∈ [Instr.st o, .stl o],
    TurnOf i s fun s => s.withStore (s.ea o) (sizeBytes o.size) (s.cx.sreg o.sd) := by
  simp only [List.forall_mem_cons]
  exact ⟨.guarded rfl rfl, .guarded rfl rfl, List.forall_mem_nil _⟩

section
variable {s : State} {a : Int} {n : Nat} {x : Word}

theorem State.withStore_fail {f : Fail} (h : s.scalar a n .store = .fail f) : s.withStore a n x = s.stopFail f := by
  simp only [State.withStore, h]

/-- A store that passes its checks changes the directory, the ports and its bytes. -/
theorem State.withStore_ok {s1 : State} {gs : List Seg} (h : s.scalar a n .store = .ok s1 gs) : ∃ s2 : State,
    s1.FabricOnly s2 ∧ s.withStore a n x = .next { s2 with mem := writeSegs s1.mem gs (leBytes n x.toNat) } (s.cx.pc + 8) := by
  have fabric := (s1.noteWrite_fabricOnly s.ownSharer (firstKey gs)).trans (State.askStores_fabricOnly _ gs (leBytes n x.toNat))
  refine ⟨_, fabric, ?_⟩
  simp only [State.withStore, h, fabric.mem, State.after]

end

/-- A byte outside the written runs reads as before. -/
theorem get_writeSegs_other {m : List Host.Cell} {gs : List Seg} {p : Nat} (bs : List Byte) (h : Memory.wf m = true)
    (out : ∀ g ∈ gs, p < g.1 ∨ g.1 + g.2 ≤ p) : Memory.get (writeSegs m gs bs) p = Memory.get m p := by
  induction gs generalizing m bs with
  | nil => rfl
  | cons g r ih =>
    obtain ⟨first, rest⟩ := List.forall_mem_cons.mp out
    rw [writeSegs, ih _ (Memory.wf_write _ _ h) rest]
    refine Memory.get_write_other _ h (first.imp_right fun past => Nat.le_trans ?_ past)
    exact Nat.add_le_add_left (List.length_take_le _ _) _

end Sys2Proof.Machine

namespace Sys2Proof.Proofs

open Sys2Proof.Machine Sys2Proof.Safety

/-- Settles O23: each check where those before it pass. -/
theorem scalarChecks : Obligations.ScalarChecks :=
  fun _ _ _ _ => ⟨State.scalar_outside, State.scalar_misaligned, State.scalar_aligned⟩

/-- Settles O24: a load's checks and its poison stop it; else only its register and the marks of its turn change in the context. -/
theorem scalarLoads : Obligations.ScalarLoads := by
  intro o s f hf h n a
  have turn := loads_turnOf o s f hf
  refine ⟨fun x failed => turn.stop h (State.withLoad_fail _ failed), fun s1 gs ok => ⟨fun p => ?_, fun p => ?_⟩⟩
  · exact turn.stop h (State.withLoad_poisoned _ ok p)
  · have access := State.scalar_accessOnly ok
    obtain ⟨s2, read, loaded⟩ := State.withLoad_ok ok p
    have cx : s2.cx = s.cx := read.cx.trans access.cx
    have marks (x : Word) : s.cx.TurnOnly (executedTo f.1 s2 (s2.cx.setSreg o.sd x)).cx := by
      rw [← cx]; exact executed_setSreg_turnOnly f.1 s2 _ o.sd x
    refine ⟨_, turn.next h (loaded _), read.mem, congrArg (Ctx.pc · + 8) cx, (marks _).special, (marks _).engines,
      read.poison.trans access.poison, fun k => ?_⟩
    rw [← loadValue_eq, ← cx]
    exact s2.cx.sreg_setSreg o.sd k _

/-- Settles O25: a failed check stops a store; else its bytes and the marks of its turn change. -/
theorem scalarStores : Obligations.ScalarStores := by
  intro o s i hi h n a
  have turn := stores_turnOf o s i hi
  refine ⟨fun x failed => turn.stop h (State.withStore_fail failed), fun s1 gs ok => ?_⟩
  have access := State.scalar_accessOnly ok
  obtain ⟨s2, fabric, stored⟩ := State.withStore_ok (x := s.cx.sreg o.sd) ok
  have cx : s2.cx = s.cx := fabric.cx.trans access.cx
  have marks : s.cx.TurnOnly (executed i { s2 with mem := writeSegs s1.mem gs (leBytes n (s.cx.sreg o.sd).toNat) } (s.cx.pc + 8)).cx := by
    rw [← cx]; exact executed_turnOnly _ _ _
  refine ⟨_, turn.next h stored, rfl, rfl, fun k => ?_, marks.special, marks.engines, fabric.poison.trans access.poison, fun wf p out => ?_⟩
  · exact (congrArg (Ctx.sreg · k) cx :)
  · exact get_writeSegs_other _ wf out

end Sys2Proof.Proofs
end


section
/-! PROOFS. A drain keeps a context's place (02 R48; 14 R300), and so does YIELD's switch, which lets another context run (14 R315). -/

namespace Sys2Proof.Machine

open Sys2Proof.Safety

/-- A context is the same member of the same cohort, and at the same instruction. -/
structure Ctx.SamePlace (c d : Ctx) : Prop where
  pc : d.pc = c.pc
  cohort : d.cohort = c.cohort
  coord : d.coord = c.coord

namespace Ctx.SamePlace

variable {c d e : Ctx}

theorem refl (c : Ctx) : c.SamePlace c := ⟨rfl, rfl, rfl⟩

theorem trans (h : c.SamePlace d) (k : d.SamePlace e) : c.SamePlace e :=
  ⟨k.pc.trans h.pc, k.cohort.trans h.cohort, k.coord.trans h.coord⟩

theorem of_eq (h : d = c) : c.SamePlace d := h ▸ refl c

/-- A context is still not the one that a reference names. -/
theorem not_is (h : c.SamePlace d) {r : CtxRef} (bound : c.life ≠ .unbound) (other : c.is r = false) : d.is r = false := by
  simp only [Ctx.is, h.cohort, h.coord] at other ⊢
  simp_all

end Ctx.SamePlace

/-! ## What keeps a context's place -/

theorem Ctx.DataOnly.samePlace {c d : Ctx} (h : c.DataOnly d) : c.SamePlace d := ⟨(congrArg Ctx.pc h :), h.cohort, h.coord⟩

theorem Ctx.ResultsOnly.samePlace {c d : Ctx} (h : c.ResultsOnly d) : c.SamePlace d :=
  have data := Ctx.DataOnly.samePlace h
  ⟨data.pc, data.cohort, data.coord⟩

namespace Ctx.SamePlace

variable {c d : Ctx}

theorem data {e : Ctx} (h : c.SamePlace d) (k : d.DataOnly e) : c.SamePlace e := h.trans k.samePlace

theorem setQueue (h : c.SamePlace d) (q : Queue) (x : EQueue) : c.SamePlace (d.setQueue q x) := by
  cases q <;> exact ⟨h.pc, h.cohort, h.coord⟩

theorem retire (h : c.SamePlace d) (q : Queue) : c.SamePlace (d.retire q) := by
  rw [Ctx.retire_eq]
  exact h.setQueue q _

theorem complete (h : c.SamePlace d) (q : Queue) (e : Entry) : c.SamePlace (d.complete q e) := by
  obtain ⟨x, data, gone⟩ := d.complete_eq q e
  rw [gone]
  exact (h.data data).retire q

theorem completeXfer (h : c.SamePlace d) (q : Queue) (e : Entry) : c.SamePlace (d.completeXfer q e) :=
  (h.data (d.tagged_dataOnly e)).complete q e

theorem takeTrap (h : c.SamePlace d) (t : Trap) : c.SamePlace (d.takeTrap t) := by
  rw [Ctx.takeTrap_eq]
  exact ⟨h.pc, h.cohort, h.coord⟩

theorem productsDone (h : c.SamePlace d) (t : Nat) : c.SamePlace (d.productsDone t) := by
  unfold Ctx.productsDone
  extract_lets due
  refine data ?_ (.foldl (fun c (x : Nat × BitVec 5) => c.ring_dataOnly x.2) _ _)
  exact ⟨h.pc, h.cohort, h.coord⟩

theorem stopAt {s : State} (h : c.SamePlace s.cx) (q : Queue) (e : Entry) (k : Nat) (f : Fail) : c.SamePlace (s.stopAt q e k f).cx := by
  rw [State.stopAt, State.takeFail_eq]
  have stopped (x : EQueue) := (h.data (s.cx.setPoint_dataOnly e true k)).setQueue q x
  exact ⟨(stopped _).pc, (stopped _).cohort, (stopped _).coord⟩

end Ctx.SamePlace

/-! ## Drains (02 R48; 14 R300) -/

theorem State.spanNow_cx {s u : State} {left n : Nat} {whole : Bool} (h : s.spanNow left whole = (u, n)) : u.cx = s.cx := by
  unfold State.spanNow at h
  split at h
  · cases h; rfl
  · split at h <;> cases h <;> rfl

theorem State.transfer_samePlace (s : State) (q : Queue) (e : Entry) (whole : Bool) : s.cx.SamePlace (s.transfer q e whole).cx := by
  unfold State.transfer
  extract_lets h p k
  split
  · exact (Ctx.SamePlace.refl _).stopAt q e 0 _
  · obtain ⟨⟨u, n⟩, span⟩ : ∃ x, s.spanNow (p.rows - k) whole = x := ⟨_, rfl⟩
    obtain ⟨⟨s1, gs, r⟩, rows⟩ : ∃ x, u.moveRows e h k [] n = x := ⟨_, rfl⟩
    have moved : s.cx.SamePlace (u.moveRows e h k [] n).1.cx := (Ctx.SamePlace.of_eq (State.spanNow_cx span)).data (u.moveRows_dataOnly e h k [] n)
    rw [rows] at moved
    rw [span]
    dsimp only
    rw [rows]
    cases r with
    | none =>
      dsimp only
      split
      · exact (moved.setQueue q _).setQueue q _
      · exact (moved.data (s1.cx.clearPoint_dataOnly e)).setQueue q _
    | some r => exact Ctx.SamePlace.stopAt (moved.setQueue q _) q e r.1 r.2

theorem State.endXfer_samePlace (s : State) (q : Queue) : s.cx.SamePlace (s.endXfer q false).cx := by
  have here := Ctx.SamePlace.refl s.cx
  unfold State.endXfer
  split
  · exact here
  · next e _ _ =>
    dsimp only
    split
    · exact here
    · cases (s.cx.queue q).moved with
      | none => exact here.completeXfer q e
      | some k =>
        have moved := s.transfer_samePlace q e true
        dsimp only
        split
        · exact moved
        · exact moved.completeXfer q e

theorem State.flushAq_resultsOnly (s : State) : s.cx.ResultsOnly (s.flushAq false).cx :=
  (s.cx.showData_resultsOnly _).1.trans (Ctx.showRest_resultsOnly _ _).1

theorem State.runChunks_samePlace {s s1 : State} {e : Entry} {o : X} {c n : Nat} {passed : Bool} (h : s.runChunks e o c n = (s1, passed)) :
    s.cx.SamePlace s1.cx := by
  induction n generalizing s c with
  | zero => cases h; exact .refl _
  | succ n ih =>
    rw [State.runChunks] at h
    dsimp only at h
    split at h
    · cases h
      rw [State.machineCheck_contained _ _ _ rfl]
      refine Ctx.SamePlace.takeTrap ?_ _
      split <;> exact ⟨rfl, rfl, rfl⟩
    · have rest := ih h
      exact ⟨rest.pc, rest.cohort, rest.coord⟩

theorem State.endFetch_samePlace (s : State) (e : Entry) (o : X) : s.cx.SamePlace (s.endFetch e o).cx := by
  unfold State.endFetch
  dsimp only
  split
  · next run => exact State.runChunks_samePlace run
  · next run =>
    have gone := ((State.runChunks_samePlace run).data (.foldl (fun c p => c.finishOper_dataOnly p) (readsOnce (opersOf e.instr)) _)).retire .mq
    exact ⟨gone.pc, gone.cohort, gone.coord⟩

theorem State.endJoin_samePlace (s : State) (e : Entry) (o : X) : s.cx.SamePlace (s.endJoin e o).cx := by
  unfold State.endJoin
  split
  · obtain ⟨v, t, f⟩ := s.cx.amldData o
    dsimp only
    refine Ctx.SamePlace.complete ?_ .mq e
    exact ⟨rfl, rfl, rfl⟩
  · dsimp only
    refine Ctx.SamePlace.complete ?_ .mq e
    exact ⟨rfl, rfl, rfl⟩
  · extract_lets f n s1 fl
    have same : s1.cx = s.cx := List.foldlRecOn _ _ (motive := fun u : State => u.cx = s.cx) rfl fun _ hu _ _ => hu
    have here := Ctx.SamePlace.of_eq same
    dsimp only
    refine Ctx.SamePlace.complete ?_ .mq e
    exact ⟨here.pc, here.cohort, here.coord⟩
  · dsimp only
    refine Ctx.SamePlace.complete ?_ .mq e
    exact ⟨rfl, rfl, rfl⟩
  · exact (Ctx.SamePlace.refl _).complete .mq e

theorem State.endMatrix_samePlace (s : State) : s.cx.SamePlace (s.endMatrix false).cx := by
  unfold State.endMatrix
  split
  · split
    · split
      · exact .refl _
      · split
        · exact s.endFetch_samePlace _ _
        · exact s.endJoin_samePlace _ _
    · exact .refl _
  · exact .refl _

theorem State.drain_samePlace (s : State) : s.cx.SamePlace (s.drain false).cx :=
  ((((s.endXfer_samePlace .lq).trans (State.flushAq_resultsOnly _).samePlace).trans (State.endXfer_samePlace _ .sq)).trans
    (State.endMatrix_samePlace _)).productsDone _

theorem State.endXfer_empty {s : State} {q : Queue} (h : (s.cx.queue q).entries = []) (halt : Bool) : s.endXfer q halt = s := by
  simp only [State.endXfer, h]

theorem State.endMatrix_empty {s : State} (h : s.cx.mq.entries = []) (halt : Bool) : s.endMatrix halt = s := by
  simp only [State.endMatrix, h]

theorem Ctx.ResultsOnly.life {c d : Ctx} (h : c.ResultsOnly d) : d.life = c.life := (Ctx.DataOnly.life h :)

theorem Ctx.ResultsOnly.queue {c d : Ctx} (h : c.ResultsOnly d) (q : Queue) : d.queue q = c.queue q :=
  (Ctx.DataOnly.queue h q).trans (by cases q <;> rfl)

theorem Ctx.allQuiet_empty {c : Ctx} (h : c.allQuiet = true) (q : Queue) : (c.queue q).entries = [] := by
  simp only [Ctx.allQuiet, Ctx.quiet, Bool.and_eq_true, List.isEmpty_iff] at h
  cases q <;> tauto

/-- Quiet queues leave a drain nothing that could stop the context. -/
theorem State.drain_quiet {s : State} (h : s.cx.allQuiet = true) : (s.drain false).cx.life = s.cx.life := by
  have flushed := s.flushAq_resultsOnly
  have empty (q : Queue) : ((s.flushAq false).cx.queue q).entries = [] := by rw [flushed.queue]; exact Ctx.allQuiet_empty h q
  have still : s.drain false = { s.flushAq false with
      cx := (s.flushAq false).cx.productsDone ((s.flushAq false).cx.mqDone.foldl (fun a x => max a x.1) 0) } := by
    simp only [State.drain, State.endXfer_empty (Ctx.allQuiet_empty h .lq), State.endXfer_empty (empty .sq), State.endMatrix_empty (empty .mq)]
  rw [still]
  exact (Ctx.productsDone_keeps _ _).1.trans flushed.life

/-! ## YIELD (14 R315) -/

/-- A running context that leaves the active bank keeps its place, no longer runs, and is inactive where its queues were quiet. -/
theorem State.leaveActive_running {s : State} (running : s.cx.life = .running) :
    s.cx.SamePlace s.leaveActive.cx ∧ s.leaveActive.cx.life ≠ .running ∧ (s.cx.allQuiet = true → s.leaveActive.cx.life = .inactive) := by
  have place := s.drain_samePlace
  have whole : (s.cx.life == Life.faulted) = false := by rw [running]; rfl
  simp only [State.leaveActive, whole, beq_iff_eq]
  split
  · exact ⟨⟨place.pc, place.cohort, place.coord⟩, by simp, fun _ => rfl⟩
  · next stopped => exact ⟨place, stopped, fun quiet => absurd ((State.drain_quiet quiet).trans running) stopped⟩

/-- The other context that a reference names runs once it is active, and the current one is as before. -/
theorem State.modCtx_activated {s : State} {r : CtxRef} (other : s.cx.is r = false) :
    (s.modCtx r Ctx.activated).cx = s.cx ∧ ∀ d ∈ (s.modCtx r Ctx.activated).others, d.is r = true → d.life = .running := by
  simp only [State.modCtx, State.mapCtxs, other, List.mem_map]
  refine ⟨rfl, ?_⟩
  rintro d ⟨x, -, rfl⟩ named
  cases h : x.is r
  · simp [h] at named
  · rfl

theorem State.yieldTurn_inactive {s : State} {c : Ctx} (running : s.cx.life = .running) (ready : c.life = .inactive) (other : s.cx.is c.ref = false) :
    (s.yieldTurn c).cx.life ≠ .running ∧ (s.cx.allQuiet = true → (s.yieldTurn c).cx.life = .inactive) ∧ (s.yieldTurn c).cx.pc = s.after ∧
      ∀ d ∈ (s.yieldTurn c).others, d.is c.ref = true → d.life = .running := by
  let u : State := { s with cx := { s.cx with pc := s.after } }
  obtain ⟨place, stopped, quiet⟩ := State.leaveActive_running (s := u) running
  have apart : u.leaveActive.cx.is c.ref = false := place.not_is (Ctx.ne_unbound (c := u.cx) running) other
  obtain ⟨same, runs⟩ := State.modCtx_activated apart
  have turn : s.yieldTurn c = u.leaveActive.modCtx c.ref Ctx.activated := by simp only [State.yieldTurn, ready]; rfl
  rw [turn, same]
  exact ⟨stopped, quiet, place.pc, runs⟩

end Sys2Proof.Machine
end


section
/-! PROOFS. EXIT and YIELD (06 R144; 02 R37; 14 R315). What a member's end writes elsewhere leaves the current context. -/

namespace Sys2Proof.Machine

open Sys2Proof.Safety

/-! ## Device agents (12 R509) -/

theorem State.agentAccess_cx {s s1 : State} {sp : Space} {a : Word} {len : Nat} {k : Access} {cache : Option Nat} {gs : List Seg}
    (h : s.agentAccess sp a len k cache = .ok s1 gs) : s1.cx = s.cx := by
  unfold State.agentAccess at h
  extract_lets l at h
  split at h
  · exact State.translateRange_cx h
  · split at h
    · cases h
    · split at h
      · cases h
      · split at h
        · cases h
        · exact State.translateRange_cx h

theorem State.agentRead_cx {s : State} {sp : Space} {a : Word} {len : Nat} {x : State × List Byte} (h : s.agentRead sp a len = .ok x) :
    x.1.cx = s.cx := by
  unfold State.agentRead at h
  split at h
  · cases h
  · next ok =>
    split at h <;> cases h
    exact State.agentAccess_cx ok

@[simp] theorem State.agentPut_cx (s : State) (sp : Space) (a x : Word) : (s.agentPut sp a x).cx = s.cx := by
  unfold State.agentPut State.agentWrite
  split
  · rfl
  · next h =>
    split at h <;> cases h
    next ok => rw [State.homeWrite_cx, State.agentAccess_cx ok]

theorem State.contained_cx (s : State) (bank : Nat) (c : Check) (h : c.sev = 2) : (s.machineCheck bank c).cx = s.cx := by
  rw [State.machineCheck_contained _ _ _ h]

@[simp] theorem State.logRecord_cx (s : State) (c : Option Ctx) (item : Nat) : (s.logRecord c item).cx = s.cx := by
  cases c <;> exact s.contained_cx _ _ rfl

theorem State.recordWrite_cx {s s1 : State} {sp : Space} {a : Word} {bs : List Byte} (h : s.recordWrite sp a bs = .ok s1) : s1.cx = s.cx := by
  unfold State.recordWrite at h
  split at h
  · cases h
  · next ok =>
    split at h <;> cases h
    rw [State.homeWrite_cx, State.agentAccess_cx ok]

@[simp] theorem State.deviceWrite_cx (s : State) (c : Option Ctx) (sp : Space) (a : Word) (bs : List Byte) (item : Nat) :
    (s.deviceWrite c sp a bs item).cx = s.cx := by
  unfold State.deviceWrite
  split
  · next h => exact State.recordWrite_cx h
  · exact s.logRecord_cx c item

/-! ## Tasks (16 R327, R508) -/

section

variable (s : State) (c : Option Ctx) (sp : Space) (rec : Word)

@[simp] theorem State.taskCompl_cx (status : Nat) : (s.taskCompl c sp rec status).cx = s.cx := by
  unfold State.taskCompl
  split
  · rfl
  · next read =>
    extract_lets a
    split
    · exact State.agentRead_cx read
    · exact (State.deviceWrite_cx _ _ _ _ _ _).trans (State.agentRead_cx read)

@[simp] theorem State.complLater_cx (status : Nat) : (s.complLater c sp rec status).cx = s.cx := by
  unfold State.complLater
  split
  · rfl
  · exact s.taskCompl_cx c sp rec status

@[simp] theorem State.taskWrite_cx (ws : List (Nat × List Byte)) : (s.taskWrite c sp rec ws).1.cx = s.cx := by
  unfold State.taskWrite
  split
  · simp
  · next s1 gs ok =>
    split
    · simp
    · exact List.foldlRecOn ws _ (motive := fun u : State => u.cx = s.cx) (State.agentAccess_cx ok) fun u hu w _ =>
        (u.homeWrite_cx _ _ _).trans hu

@[simp] theorem State.taskSettle_cx (ws : List (Nat × List Byte)) (status : Nat) : (s.taskSettle c sp rec ws status).cx = s.cx := by
  unfold State.taskSettle
  split
  · simp
  · split
    · rfl
    · dsimp only
      split <;> simp

@[simp] theorem State.taskEnd_cx (status : Nat) : (s.taskEnd c sp rec status).cx = s.cx := s.taskSettle_cx ..

@[simp] theorem State.taskFail_cx (status : Nat) : (s.taskFail c sp rec status).cx = s.cx := s.taskSettle_cx ..

end

@[simp] theorem State.endTask_cx (s : State) (status : Nat) : (s.endTask status).cx = s.cx := by
  unfold State.endTask
  split
  · split
    · rfl
    · exact s.taskEnd_cx ..
  · rfl
  · rfl

@[simp] theorem State.event_cx (s : State) (c : Ctx) (kind : Nat) (data : Word) : (s.event c kind data).cx = s.cx := by
  rw [State.event, State.happens_eq]

/-! ## The implicit drops (18 R370) -/

@[simp] theorem State.putBlock_cx (s : State) (k : Nat) (b : Barrier) : (s.putBlock k b).cx = s.cx := (s.putBlock_ctxs k b).1

@[simp] theorem State.bindUnit_cx (s : State) (c k : Nat) (b : Barrier) : (s.bindUnit c k b).cx = s.cx := by
  simp only [State.bindUnit, State.putBlock_cx]

@[simp] theorem State.keepBarrier_cx (s : State) (k : Nat) (b : Barrier) : (s.keepBarrier k b).cx = s.cx := by
  simp only [State.keepBarrier]
  split
  · split
    · simp only [State.putBlock_cx]
    · rfl
  · split <;> simp only [State.bindUnit_cx, State.putBlock_cx]

@[simp] theorem State.operate_cx (s : State) (k : Nat) (b b1 : Barrier) (drops : List Nat) : (s.operate k b b1 drops).cx = s.cx :=
  State.keepBarrier_cx _ k b1

@[simp] theorem State.poisonCheck_cx (s : State) (k : Nat) (atHome : Bool) : (s.poisonCheck k atHome).cx = s.cx := by
  unfold State.poisonCheck State.poisonRecord
  split
  · rfl
  · exact s.contained_cx _ _ rfl

@[simp] theorem State.unregister_cx (s : State) (n : BitVec 32) (m k : Nat) : (s.unregister n m k).cx = s.cx := rfl

@[simp] theorem State.implicitDrop_cx (s : State) (n : BitVec 32) (m k : Nat) : (s.implicitDrop n m k).1.cx = s.cx := by
  unfold State.implicitDrop
  extract_lets s1
  have gone : s1.cx = s.cx := s.unregister_cx n m k
  split
  · exact (s1.poisonCheck_cx k true).trans gone
  · split
    · exact gone
    · dsimp only
      split
      · exact (State.operate_cx ..).trans gone
      · split <;> exact (State.operate_cx ..).trans gone

@[simp] theorem State.implicitDrops_cx (s : State) (n : BitVec 32) (m : Nat) : (s.implicitDrops n m).1.cx = s.cx :=
  List.foldlRecOn _ _ (motive := fun a : State × Nat => a.1.cx = s.cx) rfl fun a ha r _ => (a.1.implicitDrop_cx n m r.2).trans ha

/-! ## The orphaned tasks (16 R331, R336) -/

/-- Only the hardware run list of a context may differ. -/
def Ctx.RunListOnly (c d : Ctx) : Prop := d = { c with runList := d.runList }

theorem Ctx.RunListOnly.trans {c d e : Ctx} (h : c.RunListOnly d) (k : d.RunListOnly e) : c.RunListOnly e := by
  unfold Ctx.RunListOnly at *
  rw [k, h]

theorem Ctx.RunListOnly.is_ref {c d : Ctx} (h : c.RunListOnly d) (bound : c.life ≠ .unbound) : d.is c.ref = true :=
  Ctx.is_ref ((congrArg Ctx.life h :).symm ▸ bound) (congrArg Ctx.cohort h :) (congrArg Ctx.coord h :)

theorem State.refillStep_runListOnly {s s1 : State} {r : CtxRef} (h : s.refillStep r = some s1) : s.cx.RunListOnly s1.cx := by
  unfold State.refillStep at h
  split at h
  · cases h
  split at h
  · cases h
  split at h
  · cases h
  split at h
  · cases h
  split at h
  · cases h
  · next read =>
    cases h
    rw [State.putRun, State.agentPut_cx]
    simp only [State.modCtx, State.mapCtxs]
    rw [← State.agentRead_cx read]
    split <;> rfl

theorem State.refill_runListOnly (s : State) (r : CtxRef) (n : Nat) : s.cx.RunListOnly (s.refill r n).cx := by
  induction n generalizing s with
  | zero => rfl
  | succ n ih =>
    unfold State.refill
    split
    · rfl
    · next step => exact (State.refillStep_runListOnly step).trans (ih _)

theorem State.orphanTasks_runListOnly (s : State) (c : Ctx) : s.cx.RunListOnly (s.orphanTasks c).cx := by
  unfold State.orphanTasks
  extract_lets s1
  have filled : s.cx.RunListOnly s1.cx := s.refill_runListOnly c.ref 64
  suffices same : ∀ t : State, t.cx = s1.cx → s.cx.RunListOnly t.cx by
    split
    · exact filled
    · extract_lets s2
      have listed : s2.cx = s1.cx := List.foldlRecOn _ _ (motive := fun u : State => u.cx = s1.cx) rfl fun u hu rec _ => (u.taskFail_cx ..).trans hu
      split
      · exact same _ listed
      · refine same _ (List.foldlRecOn _ _ (motive := fun u : State => u.cx = s1.cx) listed fun u hu i _ => ?_)
        split
        · exact hu
        · next read => exact ((State.taskFail_cx ..).trans (State.agentRead_cx read)).trans hu
  intro t ht
  rw [ht]
  exact filled

/-! ## The end of a member (02 R37; 21 R415) -/

@[simp] theorem State.setEntry_cx (s : State) (id : Word) (n : BitVec 32) (m : Nat) (x : MemberEntry) : (s.setEntry id n m x).cx = s.cx := by
  unfold State.setEntry
  split <;> rfl

@[simp] theorem State.cohortExit_cx (s : State) (n : BitVec 32) (c : Ctx) : (s.cohortExit n c).cx = s.cx := by
  unfold State.cohortExit
  split
  · exact (s.releaseUnits_ctxs n).1
  · refine (State.releaseUnits_ctxs _ n).1.trans (List.foldlRecOn _ _ (motive := fun u : State => u.cx = s.cx) rfl fun u hu a _ => ?_)
    split
    · exact (u.taskFail_cx ..).trans hu
    · exact hu

@[simp] theorem State.clearLive_cx (s : State) (n : BitVec 32) (m : Nat) (c : Ctx) : (s.clearLive n m c).cx = s.cx := by
  unfold State.clearLive
  extract_lets s1 gone
  split
  · exact s1.cohortExit_cx n c
  · rfl

/-- The current context has ended. -/
theorem State.memberGone_current {s : State} (bound : s.cx.life ≠ .unbound) (kind status extra : Nat) :
    (s.memberGone s.cx kind status extra).cx.life = .exited ∧ (s.memberGone s.cx kind status extra).cx.inbox = [] ∧
      (s.memberGone s.cx kind status extra).cx.trap = none := by
  let u : State := ((s.implicitDrops s.cx.cohort s.cx.coord.member.toNat).1.dropBasin s.cx.cohort s.cx.coord.member.toNat).1
  have before : u.cx = s.cx := s.implicitDrops_cx _ _
  have own : (u.orphanTasks s.cx).cx.is s.cx.ref = true := by
    have orphaned := u.orphanTasks_runListOnly s.cx
    rw [before] at orphaned
    exact orphaned.is_ref bound
  simp only [State.memberGone, State.clearLive_cx, State.setEntry_cx, State.modCtx, State.mapCtxs]
  rw [if_pos own]
  exact ⟨rfl, rfl, rfl⟩

/-- The end of a turn changes the bells and the marks of the turn. -/
theorem Ctx.turnEnd_keeps (c : Ctx) (y : Sync) : (c.settleBells y).turned.life = c.life ∧ (c.settleBells y).turned.inbox = c.inbox ∧
    (c.settleBells y).turned.trap = c.trap ∧ (c.settleBells y).turned.pc = c.pc := by
  rw [Ctx.turned_eq, Ctx.settleBells_eq]
  exact ⟨rfl, rfl, rfl, rfl⟩

theorem State.exitEffect_current {s : State} (running : s.cx.life = .running) (status : BitVec 16) :
    (s.exitEffect status).cx.life = .exited ∧ (s.exitEffect status).cx.inbox = [] ∧ (s.exitEffect status).cx.trap = none := by
  unfold State.exitEffect
  extract_lets s1
  have same : s1.cx = s.cx := (State.endTask_cx _ _).trans (State.event_cx ..)
  exact State.memberGone_current (same ▸ Ctx.ne_unbound running) 1 status.toNat 0

end Sys2Proof.Machine

namespace Sys2Proof.Proofs

open Sys2Proof.Machine Sys2Proof.Safety

/-- Settles O21: EXIT waits or ends the member; YIELD goes on, or drains and lets the other context run. -/
theorem exitAndYield : Obligations.ExitAndYield := by
  refine ⟨fun o s h running => ?_, fun o s h running => ?_⟩
  · have turn : TurnOf (.exit o) s fun s => if s.cx.allQuiet then .last (s.exitEffect (field o.imm24 0 16)) else
        ({ s with cx := { s.cx with exiting := some (field o.imm24 0 16) } } : State).waitFor .drain := .guarded rfl rfl
    refine ⟨fun quiet => ?_, fun busy => ?_⟩
    · obtain ⟨life, inbox, trap⟩ := State.exitEffect_current running (field o.imm24 0 16)
      refine ⟨_, turn.last h (s1 := s.exitEffect (field o.imm24 0 16)) (by rw [quiet]; rfl), ?_⟩
      obtain ⟨l, i, t, -⟩ := Ctx.turnEnd_keeps (s.exitEffect (field o.imm24 0 16)).cx (syncOf (.exit o))
      exact ⟨l.trans life, i.trans inbox, t.trans trap⟩
    · have waits := turn.wait h (s1 := { s with cx := { s.cx with exiting := some (field o.imm24 0 16), outside := .drain } }) (by rw [busy]; rfl)
      exact ⟨_, waits, rfl, rfl, rfl⟩
  · have turn : TurnOf (.yield o) s fun s => match s.yieldTo with
        | none => .next s s.after
        | some c => .last (s.yieldTurn c) := .guarded rfl rfl
    refine ⟨fun alone => turn.next h (by simp only [alone]; rfl), fun c chosen ready other => ?_⟩
    obtain ⟨stopped, quiet, pc, runs⟩ := State.yieldTurn_inactive running ready other
    refine ⟨_, turn.last h (s1 := s.yieldTurn c) (by simp only [chosen]), ?_⟩
    obtain ⟨l, -, -, p⟩ := Ctx.turnEnd_keeps (s.yieldTurn c).cx (syncOf (.yield o))
    exact ⟨l.symm ▸ stopped, fun q => l.trans (quiet q), p.trans pc, runs⟩

end Sys2Proof.Proofs
end


section
/-! PROOFS. Machine-check banks (26 R480, R481, R484): what a bank holds after an error, said once, and what an error leaves alone. -/

namespace Sys2Proof.Machine

open Sys2Proof.Safety

/-! ## The bits of a status word -/

theorem bitAt_eq_place (b : Bool) (i : Nat) : bitAt b i = place (BitVec.ofBool b) i := by
  cases b <;> simp [bitAt, place]

/-- A number placed in a word, as a field of its own width. -/
theorem at'_eq_place {x n : Nat} (h : x < 2 ^ n) (i : Nat) : at' x i = place (BitVec.ofNat n x) i := by
  have same : (BitVec.ofNat n x).setWidth 64 = BitVec.ofNat 64 x := BitVec.eq_of_toNat_eq (by simp [Nat.mod_eq_of_lt h])
  rw [at', place, same]

theorem unitOfBank_lt (n : Nat) : unitOfBank n < 2 ^ 18 := by
  unfold unitOfBank
  split_ifs <;> omega

/-- A record's status with its count and its OVER, field by field (26 R480). -/
def statusOf (c : Check) (bank : Nat) (count : BitVec 16) (spilt : Bool) : Word :=
  place (BitVec.ofBool true) 63 ||| place c.sev 60 ||| place (BitVec.ofBool c.addr.isSome) 59 ||| place (BitVec.ofBool c.info.isSome) 58 |||
    place c.cls 50 ||| place (BitVec.ofNat 18 (unitOfBank bank)) 32 ||| place c.synd 0 ||| place count 16 ||| place (BitVec.ofBool spilt) 62

theorem Check.status_counted (c : Check) (bank : Nat) (count : BitVec 16) (spilt : Bool) :
    c.status bank ||| place count 16 ||| bitAt spilt 62 = statusOf c bank count spilt := by
  simp only [Check.status, statusOf, bitAt_eq_place, at'_eq_place (unitOfBank_lt bank)]

section
variable (c : Check) (bank : Nat) (count : BitVec 16) (spilt : Bool)

theorem statusOf_valid : (statusOf c bank count spilt).getLsbD 63 = true := by
  simp (disch := omega) only [statusOf, BitVec.getLsbD_or, place_first]
  simp

theorem statusOf_fields :
    field (statusOf c bank count spilt) 60 2 = c.sev ∧ field (statusOf c bank count spilt) 50 7 = c.cls ∧
      field (statusOf c bank count spilt) 0 16 = c.synd ∧ field (statusOf c bank count spilt) 16 16 = count := by
  refine ⟨?_, ?_, ?_, ?_⟩ <;>
    exact field_eq_of_bits _ _ _ fun i hi => by
      simp (disch := omega) only [statusOf, BitVec.getLsbD_or, place_below, place_above, place_within, Bool.or_false, Bool.false_or]

end

/-! ## Bits of a word after one of its fields has been replaced -/

theorem getLsbD_putField {n w : Nat} (x : BitVec n) (off : Nat) (y : BitVec w) (i : Nat) (hi : i < n) :
    (putField x off y).getLsbD i = if off ≤ i ∧ i < off + w then y.getLsbD (i - off) else x.getLsbD i := by
  simp only [putField, BitVec.getLsbD_or, BitVec.getLsbD_and, BitVec.getLsbD_not, BitVec.getLsbD_shiftLeft, BitVec.getLsbD_setWidth,
    BitVec.getLsbD_allOnes, hi, decide_true, Bool.true_and]
  split
  · next h =>
    simp [show ¬ i < off by omega, show i - off < w by omega, show i - off < n by omega]
  · next h =>
    rcases Nat.lt_or_ge i off with below | above
    · simp [below]
    · simp [show ¬ i < off by omega, show ¬ i - off < w by omega, y.getLsbD_of_ge (i - off) (by omega)]

theorem field_putField {n w : Nat} (x : BitVec n) (off : Nat) (y : BitVec w) (h : off + w ≤ n) : field (putField x off y) off w = y :=
  field_eq_of_bits _ _ _ fun i hi => by
    rw [getLsbD_putField _ _ _ _ (by omega), if_pos ⟨by omega, by omega⟩, Nat.add_sub_cancel_left]

/-! ## Banks -/

@[simp] theorem State.mcb_bank (s : State) (n : Nat) : (s.mcb n).bank = n := by
  unfold State.mcb
  split
  · next h => simpa using List.find?_some h
  · rfl

/-- A bank is what the list of banks holds of it. -/
theorem State.mcb_of_mcbs {s t : State} (h : t.mcbs = s.mcbs) (n : Nat) : t.mcb n = s.mcb n := by
  rw [State.mcb, h, State.mcb]

theorem State.mcb_setMcb (s : State) {b : Mcb} {n : Nat} (h : b.bank = n) : (s.setMcb b).mcb n = b := by
  simp [State.mcb, State.setMcb, h]

@[simp] theorem State.mcb_notify (s : State) (bank : Nat) (w : Bool) (n : Nat) : (s.notify bank w).mcb n = s.mcb n := by
  unfold State.notify
  split <;> rfl

/-- Only the banks, the notices and interrupts of the management core, and the stop of the package differ. -/
def State.ErrorOnly (s t : State) : Prop :=
  t = { s with mcbs := t.mcbs, notices := t.notices, fatal := t.fatal, interrupts := t.interrupts }

namespace State.ErrorOnly

variable {s t u : State}

theorem trans (h : s.ErrorOnly t) (k : t.ErrorOnly u) : s.ErrorOnly u := by
  unfold ErrorOnly at *
  rw [k, h]

theorem mem (h : s.ErrorOnly t) : t.mem = s.mem := (congrArg State.mem h :)
theorem cx (h : s.ErrorOnly t) : t.cx = s.cx := (congrArg State.cx h :)
theorem poison (h : s.ErrorOnly t) : t.poison = s.poison := (congrArg State.poison h :)
theorem clock (h : s.ErrorOnly t) : t.clock = s.clock := (congrArg State.clock h :)
theorem coolWindows (h : s.ErrorOnly t) : t.coolWindows = s.coolWindows := (congrArg State.coolWindows h :)
theorem bench (h : s.ErrorOnly t) (n : Nat) : t.bench n = s.bench n := (congrArg (State.bench · n) h :)

end State.ErrorOnly

theorem State.setMcb_errorOnly (s : State) (b : Mcb) : s.ErrorOnly (s.setMcb b) := rfl

theorem State.notify_errorOnly (s : State) (bank : Nat) (w : Bool) : s.ErrorOnly (s.notify bank w) := by
  unfold State.notify
  split <;> rfl

@[simp] theorem State.notify_fatal (s : State) (bank : Nat) (w : Bool) : (s.notify bank w).fatal = s.fatal := by
  unfold State.notify
  split <;> rfl

/-! ## A corrected error counts (26 R480, R481) -/

theorem Mcb.counted_count (b : Mcb) :
    (field b.counted.status 16 16 : BitVec 16).toNat = min 65535 ((field b.status 16 16 : BitVec 16).toNat + 1) := by
  rw [Mcb.counted, field_putField _ _ _ (by omega)]
  split
  · next full => simp [eq_of_beq full]
  · next room =>
    have ne : (field b.status 16 16 : BitVec 16).toNat ≠ 65535 := fun h => room (beq_iff_eq.mpr (BitVec.eq_of_toNat_eq h))
    have lt := (field b.status 16 16 : BitVec 16).isLt
    rw [BitVec.toNat_add, Nat.mod_eq_of_lt] <;> simp <;> omega

@[simp] theorem State.mcb_countCorrected (s : State) (n : Nat) : (s.countCorrected n).mcb n = (s.mcb n).counted := by
  simp only [State.countCorrected, State.mcb_notify]
  exact s.mcb_setMcb (s.mcb_bank n)

theorem State.countCorrected_errorOnly (s : State) (n : Nat) : s.ErrorOnly (s.countCorrected n) :=
  (s.setMcb_errorOnly _).trans (State.notify_errorOnly _ n _)

@[simp] theorem State.countCorrected_fatal (s : State) (n : Nat) : (s.countCorrected n).fatal = s.fatal := State.notify_fatal ..

/-- A bank whose count is that of a counted record has counted (26 R480). -/
theorem counted_of_status {s t : State} {n : Nat}
    (h : (field (t.mcb n).status 16 16 : BitVec 16) = field (s.mcb n).counted.status 16 16) : Counted s t n :=
  (congrArg BitVec.toNat h).trans (s.mcb n).counted_count

/-! ## The record of an error (26 R481) -/

/-- An empty bank takes the record of an error that is not corrected. -/
theorem Mcb.record_empty {b : Mcb} (empty : b.status.getLsbD 63 = false) (now : Nat) {c : Check} (h : c.sev ≠ 1) :
    (b.record now c).status = statusOf c b.bank (field b.status 16 16) (bit b.status 62) := by
  have fills : b.fills now c = true := by
    simp only [Mcb.fills, bit, empty, Bool.not_false, if_true, bne_iff_ne.mpr h, Bool.true_or]
  simp only [Mcb.record, fills, if_true, bit, empty, Bool.false_and, Bool.or_false, Check.status_counted]

/-- Recording leaves the count alone. -/
theorem Mcb.record_count (b : Mcb) (now : Nat) (c : Check) : (field (b.record now c).status 16 16 : BitVec 16) = field b.status 16 16 := by
  unfold Mcb.record
  dsimp only
  split
  · rw [Check.status_counted, (statusOf_fields ..).2.2.2]
  · exact field_eq_of_bits _ _ _ fun i hi => by
      rw [bitAt_eq_place, BitVec.getLsbD_or, place_below _ _ _ (by omega), Bool.or_false, field_getLsbD _ _ _ _ hi]

@[simp] theorem Mcb.record_ctl (b : Mcb) (now : Nat) (c : Check) : (b.record now c).ctl = b.ctl := by
  unfold Mcb.record
  dsimp only
  split <;> rfl

@[simp] theorem Mcb.record_bank (b : Mcb) (now : Nat) (c : Check) : (b.record now c).bank = b.bank := by
  unfold Mcb.record
  dsimp only
  split <;> rfl

/-! ## An error enters its bank (26 R481, R484) -/

/-- The bank of an error as the error finds it: a corrected one has counted. -/
def Mcb.before (b : Mcb) (c : Check) : Mcb := if c.sev == 1 then b.counted else b

theorem State.machineCheck_mcb (s : State) (n : Nat) (c : Check) : (s.machineCheck n c).mcb n = ((s.mcb n).before c).record s.time c := by
  have found : (if c.sev == 1 then s.countCorrected n else s).mcb n = (s.mcb n).before c := by
    unfold Mcb.before
    split
    · exact s.mcb_countCorrected n
    · rfl
  have bank : ((if c.sev == 1 then s.countCorrected n else s).mcb n).bank = n := State.mcb_bank _ n
  rw [← found, State.machineCheck]
  have entered (s0 : State) (b : Mcb) (w : Bool) (h : b.bank = n) : ((s0.setMcb b).notify n w).mcb n = b := by
    rw [State.mcb_notify, State.mcb_setMcb _ h]
  split <;> exact entered _ _ _ (by rw [Mcb.record_bank, bank])

theorem State.machineCheck_errorOnly (s : State) (n : Nat) (c : Check) : s.ErrorOnly (s.machineCheck n c) := by
  have counted : s.ErrorOnly (if c.sev == 1 then s.countCorrected n else s) := by
    split
    · exact s.countCorrected_errorOnly n
    · rfl
  have recorded := fun b w => (counted.trans (State.setMcb_errorOnly _ b)).trans (State.notify_errorOnly _ n w)
  rw [State.machineCheck]
  split
  · exact (recorded _ _).trans rfl
  · exact recorded _ _

theorem State.machineCheck_fatal (s : State) (n : Nat) (c : Check) : (s.machineCheck n c).fatal = (s.fatal || c.sev == 3) := by
  have counted : (if c.sev == 1 then s.countCorrected n else s).fatal = s.fatal := by
    split
    · exact s.countCorrected_fatal n
    · rfl
  rw [State.machineCheck]
  split
  · next stops => simp only [stops, Bool.or_true]
  · next goesOn =>
    rw [State.notify_fatal, Bool.eq_false_of_not_eq_true goesOn, Bool.or_false]
    exact counted

/-- An error that is not corrected is logged in a bank without a record. -/
theorem State.machineCheck_logged {s : State} {n : Nat} (empty : NoRecord s n) {c : Check} (h : c.sev ≠ 1) :
    Logged (s.machineCheck n c) n c.sev c.cls c.synd := by
  have status : ((s.machineCheck n c).mcb n).status = statusOf c n (field (s.mcb n).status 16 16) (bit (s.mcb n).status 62) := by
    rw [State.machineCheck_mcb, Mcb.before, if_neg (by simpa using h), Mcb.record_empty empty s.time h, State.mcb_bank]
  obtain ⟨sev, cls, synd, -⟩ := statusOf_fields c n (field (s.mcb n).status 16 16) (bit (s.mcb n).status 62)
  unfold Logged
  rw [status]
  exact ⟨statusOf_valid .., sev, cls, synd⟩

theorem State.contained_logged {s : State} {n : Nat} (empty : NoRecord s n) (cls : BitVec 7) (synd : BitVec 16) (addr : Option Nat)
    (info : Option Word) : Logged (s.machineCheck n ⟨2, cls, synd, addr, info⟩) n 2 cls synd :=
  State.machineCheck_logged empty (c := ⟨2, cls, synd, addr, info⟩) (by simp)

/-- A corrected error counts in its bank. -/
theorem State.machineCheck_counted (s : State) (n : Nat) {c : Check} (h : c.sev = 1) : Counted s (s.machineCheck n c) n :=
  counted_of_status (by rw [State.machineCheck_mcb, Mcb.record_count, Mcb.before, if_pos (by simpa using h)])

@[simp] theorem State.machineCheck_injected (s : State) (n : Nat) (c : Check) : (s.machineCheck n c).injected n = s.injected n := by
  have ctl : ((s.mcb n).before c).ctl = (s.mcb n).ctl := by
    unfold Mcb.before
    split <;> rfl
  rw [State.injected, State.machineCheck_mcb, Mcb.record_ctl, ctl, State.injected]

/-! ## Injected failures (26 R480) -/

theorem State.clearInj_errorOnly (s : State) (n : Nat) : s.ErrorOnly (s.clearInj n) := rfl

theorem State.mcb_clearInj (s : State) (n : Nat) : (s.clearInj n).mcb n = { s.mcb n with ctl := (s.mcb n).ctl &&& ~~~4 } :=
  s.mcb_setMcb (s.mcb_bank n)

@[simp] theorem State.clearInj_injected (s : State) (n : Nat) : (s.clearInj n).injected n = false := by
  simp [State.injected, State.mcb_clearInj, bit]

theorem noRecord_clearInj {s : State} {n : Nat} (h : NoRecord s n) : NoRecord (s.clearInj n) n := by
  unfold NoRecord
  rw [State.mcb_clearInj]
  exact h

theorem noRecord_of_mcbs {s t : State} {n : Nat} (empty : NoRecord s n) (h : t.mcbs = s.mcbs) : NoRecord t n := by
  unfold NoRecord
  rw [State.mcb_of_mcbs h]
  exact empty

/-- A check that is not injected to fail is the error as reported. -/
theorem State.unitCheck_reported {s : State} {n : Nat} (h : s.injected n = false) (c : Check) : s.unitCheck n c = s.machineCheck n c := by
  simp [State.unitCheck, h]

/-- A check that is injected to fail is contained, and fails once. -/
theorem State.unitCheck_injected {s : State} {n : Nat} (h : s.injected n = true) (c : Check) :
    s.unitCheck n c = (s.clearInj n).machineCheck n { c with sev := 2 } := by
  simp [State.unitCheck, h]

end Sys2Proof.Machine
end


section
/-! PROOFS. Errors that events report (26 R481, R482), writes of MCB_STATUS (26 R480), recesses (10 R220; 26 R485) and the clock (28 R506). -/

namespace Sys2Proof.Machine

open Sys2Proof.Safety

/-! ## What a unit's event leaves (26 R480, R481) -/

section
variable {s : State} {n : Nat} {c : Check}

theorem State.unitCheck_errorOnly (s : State) (n : Nat) (c : Check) : s.ErrorOnly (s.unitCheck n c) := by
  unfold State.unitCheck
  split
  · exact (s.clearInj_errorOnly n).trans (State.machineCheck_errorOnly _ n _)
  · exact s.machineCheck_errorOnly n c

theorem State.unitCheck_fatal (empty : NoRecord s n) (h : s.injected n = false) (sev : c.sev = 3) :
    Logged (s.unitCheck n c) n 3 c.cls c.synd ∧ (s.unitCheck n c).fatal = true ∧ (s.unitCheck n c).mem = s.mem := by
  rw [State.unitCheck_reported h, State.machineCheck_fatal, sev]
  exact ⟨sev ▸ State.machineCheck_logged empty (by simp [sev]), by simp, (s.machineCheck_errorOnly n c).mem⟩

theorem State.unitCheck_corrected (h : s.injected n = false) (sev : c.sev = 1) :
    (s.unitCheck n c).fatal = s.fatal ∧ (s.unitCheck n c).mem = s.mem ∧ Counted s (s.unitCheck n c) n := by
  rw [State.unitCheck_reported h, State.machineCheck_fatal, sev]
  exact ⟨by simp, (s.machineCheck_errorOnly n c).mem, s.machineCheck_counted n sev⟩

theorem State.unitCheck_contained (empty : NoRecord s n) (h : s.injected n = true) (c : Check) :
    Logged (s.unitCheck n c) n 2 c.cls c.synd ∧ (s.unitCheck n c).fatal = s.fatal ∧ (s.unitCheck n c).injected n = false := by
  rw [State.unitCheck_injected h, State.machineCheck_fatal, State.machineCheck_injected, State.clearInj_injected]
  exact ⟨State.machineCheck_logged (noRecord_clearInj empty) (c := { c with sev := 2 }) (by simp), Bool.or_false _, rfl⟩

end

/-- The events of the units, with their banks, classes and details, each report one error of their unit. -/
theorem unitEvents_check (s : State) (synd : BitVec 16) (k : Fin 8) :
    ∀ f ∈ [(Instr.hostLinkLoss true synd, 1810, (0x78 : BitVec 7), synd), (.hostLinkLoss false synd, 1810, 0x78, synd),
      (.lockstepMismatch, 1863, 0x7C, 0), (.securityBlockFault, 1864, 0x7D, 0), (.dieToDieLinkEvent k.val synd, 1802 + k.val, 0x77, synd)],
    ∃ c : Check, exec f.1 s = .next (s.unitCheck f.2.1 c) ∧ c.cls = f.2.2.1 ∧ c.synd = f.2.2.2 := by
  have link : exec (.dieToDieLinkEvent k.val synd) s =
      .next (s.unitCheck (1802 + k.val) { sev := 1, cls := 0x77, synd := synd, addr := none, info := none }) :=
    congrArg Host.Outcome.next (if_pos k.isLt)
  simp only [List.forall_mem_cons]
  exact ⟨⟨_, rfl, rfl, rfl⟩, ⟨_, rfl, rfl, rfl⟩, ⟨_, rfl, rfl, rfl⟩, ⟨_, rfl, rfl, rfl⟩, ⟨_, link, rfl, rfl⟩, by simp⟩

/-! ## A line that patrol scrub finds uncorrectable (26 R482; 12 R270) -/

/-- A line is poisoned. -/
def State.poisoned (s : State) (l : Nat) : State := { s with poison := if s.poison.contains l then s.poison else l :: s.poison }

theorem State.mem_poisoned (s : State) (l : Nat) : l ∈ (s.poisoned l).poison := by
  unfold State.poisoned
  dsimp only
  split
  · next listed => simpa using listed
  · exact List.mem_cons_self

section
variable (s : State) (pa bank : Nat) (synd : BitVec 16)

theorem State.badLine_eq : s.badLine pa bank synd =
    ((s.clearInj bank).poisoned (lineOf (devKey s.node pa))).machineCheck bank ⟨2, 0x73, synd, some pa, none⟩ := rfl

theorem State.badLine_logged (empty : NoRecord s bank) : Logged (s.badLine pa bank synd) bank 2 0x73 synd := by
  have clear : NoRecord ((s.clearInj bank).poisoned (lineOf (devKey s.node pa))) bank := noRecord_of_mcbs (noRecord_clearInj empty) rfl
  exact State.contained_logged clear 0x73 synd (some pa) none

theorem State.badLine_poison : lineOf (devKey s.node pa) ∈ (s.badLine pa bank synd).poison := by
  rw [State.badLine_eq, (State.machineCheck_errorOnly _ bank _).poison]
  exact State.mem_poisoned _ _

theorem State.badLine_keeps : (s.badLine pa bank synd).mem = s.mem ∧ (s.badLine pa bank synd).fatal = s.fatal := by
  rw [State.badLine_eq, (State.machineCheck_errorOnly _ bank _).mem, State.machineCheck_fatal]
  exact ⟨rfl, Bool.or_false _⟩

end

/-! ## A write of MCB_STATUS (26 R480) -/

section
variable (b : Mcb) {w : Word}

/-- A write that clears VAL leaves OVER, where it was set and not cleared, and the count. -/
theorem Mcb.writeStatus_clears (h : w.getLsbD 63 = true) : b.writeStatus w =
    { b with status := place (BitVec.ofBool (bit b.status 62 && !bit w 62)) 62 ||| place (field w 16 16) 16, addr := 0, info := 0 } := by
  simp only [Mcb.writeStatus, bit, h, bitAt_eq_place, if_true]

/-- Any other write leaves the record, and replaces OVER and the count. -/
theorem Mcb.writeStatus_keeps (h : w.getLsbD 63 = false) : b.writeStatus w =
    { b with status := (putField b.status 16 (field w 16 16 : BitVec 16) &&& ~~~(place (BitVec.ofBool true) 62)) |||
               place (BitVec.ofBool (bit b.status 62 && !bit w 62)) 62 } := by
  simp only [Mcb.writeStatus, bit, h, bitAt_eq_place, Bool.false_eq_true, if_false]

/-- The bits of the status after a write that keeps the record. -/
theorem Mcb.writeStatus_bit (h : w.getLsbD 63 = false) {k : Nat} (hk : k ≠ 62) :
    (b.writeStatus w).status.getLsbD k = if 16 ≤ k ∧ k < 32 then w.getLsbD k else b.status.getLsbD k := by
  rcases Nat.lt_or_ge k 64 with below | above
  · have spilt (x : Bool) : (place (BitVec.ofBool x) 62).getLsbD k = false := by
      rcases Nat.lt_or_gt_of_ne hk with lt | gt
      · exact place_below _ _ _ lt
      · exact place_above _ _ _ gt
    rw [Mcb.writeStatus_keeps b h]
    simp only [BitVec.getLsbD_or, BitVec.getLsbD_and, BitVec.getLsbD_not, spilt, below, decide_true, Bool.not_false, Bool.and_true, Bool.or_false,
      getLsbD_putField]
    split
    · rw [field_getLsbD _ _ _ _ (by omega), Nat.add_sub_cancel' (by omega)]
    · rfl
  · rw [if_neg (by omega), BitVec.getLsbD_of_ge _ _ above, BitVec.getLsbD_of_ge _ _ above]

theorem Mcb.writeStatus_count (w : Word) : (field (b.writeStatus w).status 16 16 : BitVec 16) = field w 16 16 :=
  field_eq_of_bits _ _ _ fun i hi => by
    rw [field_getLsbD _ _ _ _ hi]
    cases h : w.getLsbD 63 with
    | true =>
      simp (disch := omega) only [Mcb.writeStatus_clears b h, BitVec.getLsbD_or, place_below, place_within, Bool.false_or, field_getLsbD]
    | false => rw [Mcb.writeStatus_bit b h (by omega), if_pos (by omega)]

theorem Mcb.writeStatus_over (w : Word) : (b.writeStatus w).status.getLsbD 62 = (b.status.getLsbD 62 && !w.getLsbD 62) := by
  cases h : w.getLsbD 63 with
  | true =>
    simp (disch := omega) only [Mcb.writeStatus_clears b h, BitVec.getLsbD_or, place_first, place_above, Bool.or_false, bit]
    simp
  | false =>
    simp (disch := omega) only [Mcb.writeStatus_keeps b h, BitVec.getLsbD_or, BitVec.getLsbD_and, BitVec.getLsbD_not, place_first, bit]
    simp

theorem Mcb.writeStatus_ctl (w : Word) : (b.writeStatus w).ctl = b.ctl ∧ (b.writeStatus w).bank = b.bank := by
  cases h : w.getLsbD 63 with
  | true => rw [Mcb.writeStatus_clears b h]; exact ⟨rfl, rfl⟩
  | false => rw [Mcb.writeStatus_keeps b h]; exact ⟨rfl, rfl⟩

end

/-! ## Benches (10 R220) -/

@[simp] theorem State.bench_num (s : State) (n : Nat) : (s.bench n).num = n := by
  unfold State.bench
  split
  · next h => simpa using List.find?_some h
  · rfl

theorem State.bench_setBench (s : State) {b : Bench} {n : Nat} (h : b.num = n) : (s.setBench b).bench n = b := by
  simp [State.bench, State.setBench, h]

section
variable {s : State} {n : Nat}

theorem recessStart_quiescing (hn : n < 192) (h : (s.bench n).state = .quiescing) : exec (.recessStart n) s = .next (s.endQuiesce n) :=
  congrArg Host.Outcome.next ((if_neg (Nat.not_le.mpr hn)).trans (if_pos (beq_iff_eq.mpr h)))

theorem recessStart_asks (hn : n < 192) (h : (s.bench n).state ≠ .quiescing) : exec (.recessStart n) s = .next (s.askRecess n) :=
  congrArg Host.Outcome.next ((if_neg (Nat.not_le.mpr hn)).trans (if_neg fun q => h (beq_iff_eq.mp q)))

theorem State.askRecess_refused (h : s.clusterRests n = true) : s.askRecess n = s := if_pos h

theorem State.askRecess_inService (h : (s.bench n).state = .inService) (free : s.clusterRests n = false) :
    s.askRecess n = s.setBench { s.bench n with state := .quiescing, toFence := false, asked := s.time } := by
  simp [State.askRecess, h, free]

theorem State.askRecess_fenced (h : (s.bench n).state = .fenced) (free : s.clusterRests n = false) :
    s.askRecess n = s.setBench { s.bench n with state := .recess, wasFenced := true } := by
  simp [State.askRecess, h, free]

theorem State.endQuiesce_waits (h : s.benchHolds n = true ∨ s.time ≤ (s.bench n).asked) : s.endQuiesce n = s := by
  rcases h with holds | early
  · simp [State.endQuiesce, holds]
  · simp [State.endQuiesce, early]

theorem State.endQuiesce_ends (h : (s.bench n).state = .quiescing) (left : s.benchHolds n = false) (later : (s.bench n).asked < s.time) :
    s.endQuiesce n = s.setBench (if (s.bench n).toFence then { s.bench n with state := .fenced, toFence := false, passed := false }
      else { s.bench n with state := .recess, wasFenced := false }) := by
  simp only [State.endQuiesce, h, left, Nat.not_le.mpr later, bne_self_eq_false, Bool.or_self, decide_false, Bool.false_eq_true, if_false]
  split <;> rfl

/-- A bench is fenced after a failed test (26 R485). -/
def State.benchFailed (s : State) (n : Nat) : State :=
  s.setBench { s.bench n with state := .fenced, wasFenced := false, passed := false }

theorem State.endRecess_some (s : State) (n : Nat) (x : BitVec 16) :
    s.endRecess n (some x) = (s.benchFailed n).machineCheck (1560 + n) ⟨2, 0x7B, x, none, none⟩ := rfl

/-- A failed recess fences the bench and logs the failing test (26 R485). -/
theorem State.endRecess_fails (empty : NoRecord s (1560 + n)) (x : BitVec 16) :
    ((s.endRecess n (some x)).bench n).state = .fenced ∧ (s.endRecess n (some x)).mem = s.mem ∧
      Logged (s.endRecess n (some x)) (1560 + n) 2 0x7B x := by
  have clear : NoRecord (s.benchFailed n) (1560 + n) := noRecord_of_mcbs empty rfl
  have only := (s.benchFailed n).machineCheck_errorOnly (1560 + n) ⟨2, 0x7B, x, none, none⟩
  rw [State.endRecess_some, only.bench, only.mem]
  exact ⟨congrArg Bench.state (s.bench_setBench (by simp)), rfl, State.contained_logged clear 0x7B x none none⟩

/-- A recess that passes returns the bench, or leaves it fenced, and counts (26 R485). -/
theorem State.endRecess_passes (s : State) (n : Nat) :
    ((s.endRecess n none).bench n).state = (if (s.bench n).wasFenced then .fenced else .inService) ∧ (s.endRecess n none).mem = s.mem ∧
      Counted s (s.endRecess n none) (1560 + n) := by
  have bank : (s.endRecess n none).mcb (1560 + n) = (s.mcb (1560 + n)).counted :=
    (State.mcb_of_mcbs (s := s.countCorrected (1560 + n)) rfl _).trans (s.mcb_countCorrected _)
  refine ⟨?_, (s.countCorrected_errorOnly _).mem, counted_of_status (by rw [bank])⟩
  rw [State.endRecess]
  split <;> rw [State.bench_setBench _ (by simp)]

theorem recessEnd_other {x : Option (BitVec 16)} (h : (s.bench n).state ≠ .recess) : exec (.recessEnd n x) s = .next s :=
  congrArg Host.Outcome.next (if_pos (by simpa using h))

theorem recessEnd_tested (x : Option (BitVec 16)) (h : (s.bench n).state = .recess) (hi : s.injected (1560 + n) = false) :
    exec (.recessEnd n x) s = .next (s.endRecess n x) :=
  congrArg Host.Outcome.next ((if_neg (by simp [h])).trans (if_neg (by simp [benchBank, hi])))

theorem recessEnd_injected (x : Option (BitVec 16)) (h : (s.bench n).state = .recess) (hi : s.injected (1560 + n) = true) :
    exec (.recessEnd n x) s = .next ((s.clearInj (1560 + n)).endRecess n (some (x.getD 0))) :=
  congrArg Host.Outcome.next ((if_neg (by simp [h])).trans (if_pos hi))

/-- A recess with a failing test, real or injected, ends as a failed one. -/
theorem recessEnd_fails {x : Option (BitVec 16)} (h : (s.bench n).state = .recess) (empty : NoRecord s (1560 + n))
    (failing : x.isSome = true ∨ s.injected (1560 + n) = true) : ∃ t, exec (.recessEnd n x) s = .next t ∧ (t.bench n).state = .fenced ∧
      t.mem = s.mem ∧ Logged t (1560 + n) 2 0x7B (x.getD 0) := by
  cases hi : s.injected (1560 + n) with
  | true => exact ⟨_, recessEnd_injected x h hi, State.endRecess_fails (noRecord_clearInj empty) _⟩
  | false =>
    obtain ⟨y, rfl⟩ := Option.isSome_iff_exists.mp (failing.resolve_right (by simp [hi]))
    exact ⟨_, recessEnd_tested (some y) h hi, State.endRecess_fails empty y⟩

end

/-! ## The clock (28 R506) -/

theorem State.setClock_keeps (s : State) (n : Nat) :
    (s.setClock n).clock = n ∧ (s.setClock n).coolWindows = 0 ∧ (s.setClock n).fatal = s.fatal ∧ (s.setClock n).mem = s.mem := by
  have only := State.machineCheck_errorOnly
    ({ s.rescaled (rescale s.time (clockPeriod s.clock) (clockPeriod n)) with clock := n, coolWindows := 0 } : State) powerBank
    { sev := 1, cls := 0x7E, synd := BitVec.ofNat 16 n, addr := none, info := none }
  exact ⟨only.clock, only.coolWindows, (State.machineCheck_fatal ..).trans (Bool.or_false _), only.mem⟩

/-- The package as a measurement finds it: an injected failure of its check is logged. -/
def State.powerChecked (s : State) : State :=
  if s.injected powerBank then
    (s.clearInj powerBank).machineCheck powerBank { sev := 2, cls := 0x7E, synd := 0, addr := none, info := none }
  else s

theorem State.powerChecked_keeps (s : State) : s.ErrorOnly s.powerChecked ∧ s.powerChecked.fatal = s.fatal := by
  unfold State.powerChecked
  split
  · exact ⟨(s.clearInj_errorOnly _).trans (State.machineCheck_errorOnly ..), (State.machineCheck_fatal ..).trans (Bool.or_false _)⟩
  · exact ⟨rfl, rfl⟩

section
variable {s : State} {w c : Nat}

theorem powerWindow_hot (h : 3400 < w ∨ 105 < c) : exec (.powerWindow w c) s = .next (
    if 4 ≤ s.powerChecked.clock then
      s.powerChecked.machineCheck powerBank { sev := 3, cls := 0x7E, synd := 4, addr := none, info := none }
    else s.powerChecked.setClock (s.powerChecked.clock + 1)) :=
  congrArg Host.Outcome.next (if_pos (by simpa using h))

theorem powerWindow_within (hi : s.injected powerBank = false) (hw : w ≤ 3400) (hc : c ≤ 105) : exec (.powerWindow w c) s = .next
    { s with coolWindows := if w * 100 < 3400 * 95 ∧ c * 100 < 105 * 95 then s.coolWindows + 1 else 0 } := by
  have unchecked : s.powerChecked = s := if_neg (by simp [hi])
  refine congrArg Host.Outcome.next ((if_neg (by simp; omega)).trans ?_)
  show (if _ then { s.powerChecked with coolWindows := s.powerChecked.coolWindows + 1 } else { s.powerChecked with coolWindows := 0 }) = _
  rw [unchecked]
  split <;> split <;> simp_all

theorem clockStepUp_eq (s : State) : exec .clockStepUp s = .next (if 10 ≤ s.coolWindows ∧ s.clock ≠ 0 then s.setClock (s.clock - 1) else s) :=
  congrArg Host.Outcome.next (by simp)

end

end Sys2Proof.Machine

namespace Sys2Proof.Proofs

open Sys2Proof.Machine Sys2Proof.Safety

/-- Settles O52: every error enters its bank by one rule, of which the events, the recesses and the clock are cases. -/
theorem errorEvents : Obligations.ErrorEvents := by
  refine ⟨?scrub, ?linkLost, ?linkEvent, ?dieToDie, ?lockstep, ?security, ?injected, ?statusWrite, ?recess, ?power⟩
  case scrub =>
    intro s line bad synd quiet
    refine ⟨fun good => ?_, fun found empty => ?_⟩
    · exact congrArg Host.Outcome.next (if_neg (by simp [good, quiet]))
    · obtain ⟨mem, fatal⟩ := s.badLine_keeps (line * 128) (memoryBank (line * 128)) synd
      exact ⟨_, congrArg Host.Outcome.next (if_pos (by simp [found])), mem, s.badLine_poison .., s.badLine_logged _ _ _ empty, fatal⟩
  case linkLost =>
    intro s synd empty quiet
    obtain ⟨logged, fatal, mem⟩ := State.unitCheck_fatal empty quiet (c := ⟨3, 0x78, synd, none, none⟩) rfl
    exact ⟨_, rfl, logged, fatal, mem, (s.unitCheck_errorOnly ..).cx⟩
  case linkEvent => exact fun s synd quiet => ⟨_, rfl, State.unitCheck_corrected quiet rfl⟩
  case dieToDie =>
    exact fun s link synd valid quiet => ⟨_, congrArg Host.Outcome.next (if_pos valid), State.unitCheck_corrected quiet rfl⟩
  case lockstep => exact fun s empty quiet => ⟨_, rfl, State.unitCheck_fatal empty quiet rfl⟩
  case security => exact fun s empty quiet => ⟨_, rfl, State.unitCheck_fatal empty quiet rfl⟩
  case injected =>
    intro s synd k f hf empty inj
    obtain ⟨c, event, cls, detail⟩ := unitEvents_check s synd k f hf
    obtain ⟨logged, fatal, cleared⟩ := State.unitCheck_contained empty inj c
    exact ⟨_, event, cls ▸ detail ▸ logged, fatal, cleared, (s.unitCheck_errorOnly ..).mem⟩
  case statusWrite =>
    intro s bank w valid
    obtain ⟨ctl, num⟩ := (s.mcb bank).writeStatus_ctl w
    have written : (s.setMcb ((s.mcb bank).writeStatus w)).mcb bank = (s.mcb bank).writeStatus w := s.mcb_setMcb (num.trans (s.mcb_bank bank))
    refine ⟨_, congrArg Host.Outcome.next (if_pos valid), rfl, ?_⟩
    rw [written]
    refine ⟨Mcb.writeStatus_count .., ctl, Mcb.writeStatus_over .., fun clears => ?_, fun keeps => ?_⟩
    · rw [Mcb.writeStatus_clears _ clears]
      exact ⟨by simp (disch := omega) only [BitVec.getLsbD_or, place_above, Bool.or_false], rfl, rfl⟩
    · refine ⟨by rw [Mcb.writeStatus_keeps _ keeps], by rw [Mcb.writeStatus_keeps _ keeps], fun k outside other => ?_⟩
      rw [Mcb.writeStatus_bit _ keeps other, if_neg (by omega)]
  case recess =>
    intro s n valid
    refine ⟨fun service free => ?_, fun state busy => ?_, fun fenced free => ?_, fun asked waits => ?_, fun asked left later => ?_,
      fun tested quiet => ?_, fun x tested empty => recessEnd_fails tested empty (.inl rfl),
      fun tested empty inj => recessEnd_fails tested empty (.inr inj), fun x other => recessEnd_other other⟩
    · rw [recessStart_asks valid (by simp [service]), State.askRecess_inService service free]
      exact ⟨_, rfl, congrArg Bench.state (s.bench_setBench (by simp)), rfl⟩
    · rw [recessStart_asks valid (by rcases state with h | h <;> simp [h]), State.askRecess_refused busy]
    · rw [recessStart_asks valid (by simp [fenced]), State.askRecess_fenced fenced free]
      exact ⟨_, rfl, congrArg Bench.state (s.bench_setBench (by simp)), rfl⟩
    · rw [recessStart_quiescing valid asked, State.endQuiesce_waits waits]
    · rw [recessStart_quiescing valid asked, State.endQuiesce_ends asked left later]
      refine ⟨_, rfl, ?_, rfl⟩
      rw [State.bench_setBench s (n := n) (by split <;> simp)]
      split <;> rfl
    · exact ⟨_, recessEnd_tested none tested quiet, s.endRecess_passes n⟩
  case power =>
    intro s w c
    obtain ⟨only, fatal⟩ := s.powerChecked_keeps
    refine ⟨fun hot below => ?_, fun hot last => ?_, fun quiet coolW coolC => ?_, fun quiet hw hc warm => ?_,
      fun cool slow => ?_, fun stays => ?_⟩
    · obtain ⟨clock, -, stops, mem⟩ := s.powerChecked.setClock_keeps (s.powerChecked.clock + 1)
      refine ⟨_, (powerWindow_hot hot).trans (congrArg Host.Outcome.next (if_neg ?_)), ?_, stops.trans fatal, mem.trans only.mem⟩
      · rw [only.clock]; omega
      · rw [clock, only.clock]
    · refine ⟨_, (powerWindow_hot hot).trans (congrArg Host.Outcome.next (if_pos (only.clock.symm ▸ last))), ?_,
        (State.machineCheck_errorOnly ..).mem.trans only.mem⟩
      exact (State.machineCheck_fatal ..).trans (Bool.or_true _)
    · rw [powerWindow_within quiet (by omega) (by omega), if_pos ⟨coolW, coolC⟩]
    · rw [powerWindow_within quiet hw hc, if_neg (by omega)]
    · obtain ⟨clock, windows, -, mem⟩ := s.setClock_keeps (s.clock - 1)
      exact ⟨_, (clockStepUp_eq s).trans (congrArg Host.Outcome.next (if_pos ⟨cool, slow⟩)), clock, windows, mem⟩
    · exact (clockStepUp_eq s).trans (congrArg Host.Outcome.next (if_neg (by omega)))

end Sys2Proof.Proofs
end


section
/-! PROOFS. The arbiter and the level of a bench (10 R222 to R224, R232 to R234). -/

namespace Sys2Proof.Machine

open Sys2Proof.Safety

/-! ## The level (10 R234) -/

section
variable (s : State) (b : Bench)

@[simp] theorem State.levelStep_keeps : (s.levelStep b).num = b.num ∧ (s.levelStep b).busyUntil = b.busyUntil := by
  unfold State.levelStep
  dsimp only
  split_ifs <;> exact ⟨rfl, rfl⟩

@[simp] theorem State.levelSteps_busyUntil (n : Nat) : (s.levelSteps b n).busyUntil = b.busyUntil := by
  induction n generalizing b with
  | zero => rfl
  | succ n ih =>
    rw [State.levelSteps]
    split
    · rw [ih, (s.levelStep_keeps b).2]
    · rfl

variable {b} (due : b.stepAt ≠ 0)
include due

theorem State.levelStep_rising (h : b.rising = true) : (s.levelStep b).level = min 8 (b.level + 1) := by
  simp only [State.levelStep, beq_iff_eq, due, h, if_false, if_true]
  split_ifs with top
  · exact top.symm
  · exact top.symm
  · rfl

theorem State.levelStep_falling (h : b.rising = false) : (s.levelStep b).level = b.level - 1 := by
  simp only [State.levelStep, beq_iff_eq, due, h, if_false, Bool.false_eq_true]
  split
  · next low => simp; omega
  · rfl

end

section
variable {s : State} {n : Nat}

theorem mhintHoldExpiry_stays
    (h : ∀ x, (s.bench n).hint = some x → s.time < x + s.cycles 4096 ∨ s.time < (s.bench n).busyUntil) :
    exec (.mhintHoldExpiry n) s = .next s := by
  refine congrArg Host.Outcome.next ?_
  split
  · next x hint =>
    refine if_neg ?_
    simp only [Bool.and_eq_true, decide_eq_true_eq]
    have := h x hint
    omega
  · rfl

theorem mhintHoldExpiry_ends {x : Nat} (hint : (s.bench n).hint = some x) (late : x + s.cycles 4096 ≤ s.time)
    (free : (s.bench n).busyUntil ≤ s.time) :
    ∃ b, exec (.mhintHoldExpiry n) s = .next (s.setBench b) ∧ b.num = n ∧ b.hint = none ∧ b.level = (s.bench n).level := by
  refine ⟨{ s.bench n with hint := none, rising := false, stepAt := if (s.bench n).level == 0 then 0 else x + s.cycles (4096 + 80) },
    congrArg Host.Outcome.next ?_, s.bench_num n, rfl, rfl⟩
  simp only [hint, late, free, decide_true, Bool.and_self, if_true]

end

/-! ## Arbitration (10 R222, R223) -/

/-- The arbiter picks the only core that presents; a grant's share and round leave the level alone. -/
theorem Bench.pick_sole (b : Bench) (k fuel : Nat) : ∃ b1, b.pick [k] fuel = some (k, b1) ∧ b1.level = b.level := by
  induction fuel generalizing b with
  | zero => exact ⟨b, rfl, rfl⟩
  | succ fuel ih =>
    rw [Bench.pick]
    dsimp only
    split
    · split
      · next granted =>
        obtain ⟨present, -⟩ := Bool.and_eq_true_iff.mp granted
        have own : b.visiting = k := by simpa using present
        exact ⟨{ b with share := b.share + 1 }, by simp only [own], rfl⟩
      · exact ih _
    · split
      · exact ih _
      · exact ⟨_, rfl, rfl⟩

/-- The context in focus is the one that its reference names, and no more than the order of the contexts has changed. -/
theorem State.focus_eq {s s1 : State} {r : CtxRef} (h : s.focus r = some s1) :
    s1 = { s with cx := s1.cx, others := s1.others } ∧ s.findCtx r = some s1.cx := by
  unfold State.focus at h
  split at h
  · next here =>
    cases h
    have bound : s.cx.life ≠ .unbound := by
      simp only [Ctx.is, Bool.and_eq_true, bne_iff_ne] at here
      exact here.1.1
    exact ⟨rfl, by simp [State.findCtx, State.ctxs, bound, here]⟩
  · next elsewhere =>
    split at h
    · cases h
    · next c found =>
      cases h
      refine ⟨rfl, ?_⟩
      unfold State.findCtx State.ctxs
      split
      · exact found
      · exact (List.find?_cons_of_neg (p := fun x : Ctx => x.is r) elsewhere).trans found

theorem matrixGrant_busy {s : State} {n : Nat} (h : s.time < (s.bench n).busyUntil) : exec (.matrixGrant n) s = .next s := by
  have busy : s.time < ((s.levelSteps (s.bench n) 20).weighted (s.bench n).weights).busyUntil := by
    rw [Bench.weighted, State.levelSteps_busyUntil]
    exact h
  exact congrArg Host.Outcome.next (if_pos busy)

/-- The arbiter of a free unit grants the one command that is presented, from the level of that cycle. -/
theorem matrixGrant_sole {s s1 : State} {n k : Nat} {r : CtxRef} {e : Entry} {o : X} (free : (s.bench n).busyUntil ≤ s.time)
    (sole : s.presenting n = [(k, r)]) (focus : s.focus r = some s1) (clock : s.isFrozen s1.cx = false) (present : s1.cx.presents = some e)
    (fields : e.xFields = some o) :
    ∃ b, exec (.matrixGrant n) s = .next (s1.grant b e o) ∧ b.level = (s.levelSteps (s.bench n) 20).level := by
  have idle : ¬ s.time < ((s.levelSteps (s.bench n) 20).weighted (s.bench n).weights).busyUntil := by
    rw [Bench.weighted, State.levelSteps_busyUntil]
    exact Nat.not_lt.mpr free
  obtain ⟨b1, picked, level⟩ := Bench.pick_sole ((s.levelSteps (s.bench n) 20).weighted (s.bench n).weights) k 20
  refine ⟨b1.weighted (s.bench n).weights, congrArg Host.Outcome.next ?_, level⟩
  simp only [State.arbitrate, idle, if_false, sole, List.filter, (State.focus_eq focus).2, Option.any_some, present, Option.isSome_some, clock,
    Bool.not_false, Bool.and_true, List.isEmpty_cons, Bool.false_eq_true, List.map, picked, List.find?, beq_self_eq_true, focus, fields]

/-! ## A grant (10 R232, R233) -/

/-- An entry whose X fields are o is no MMAZ of other fields. -/
theorem Entry.not_mmaz {e : Entry} {o : X} (h : e.xFields = some o) (other : e.instr ≠ .mmaz o) (x : X) : e.instr ≠ .mmaz x := by
  intro is
  have same : x = o := by simpa only [Entry.xFields, is, fieldsOf, Option.some.injEq] using h
  exact other (same ▸ is)

/-- The product that an entry describes, in the format of A that it is read in (10 R232). -/
abbrev Entry.product (e : Entry) (o : X) : Product := productOf e o (formatA o (e.fills.headD Shape.reset))

/-- A context whose command has issued: MMAZ clears its partition (10 R232). -/
def Ctx.granted (c : Ctx) (e : Entry) (o : X) (int : Bool) : Ctx :=
  if e.instr = .mmaz o then (c.accept .mq e).clearAcc int else c.accept .mq e

section
variable (c : Ctx) (e : Entry) {o : X} {int : Bool}

theorem Ctx.accept_mq : ∃ bells rung,
    c.accept .mq e = { c with bells := bells, rung := rung, mq := { c.mq with issued := true, last := some c.now } } :=
  ⟨_, _, Ctx.accept_eq { State.reset with cx := c } .mq e⟩

theorem Ctx.granted_keeps (o : X) (int : Bool) :
    (c.granted e o int).mq = { c.mq with issued := true, last := some c.now } ∧ (c.granted e o int).life = c.life := by
  obtain ⟨bells, rung, issued⟩ := c.accept_mq e
  rw [Ctx.granted, issued]
  split <;> exact ⟨rfl, rfl⟩

theorem Ctx.granted_clears {e : Entry} (h : e.instr = .mmaz o) : (c.granted e o int).acc = 0 ∧ (c.granted e o int).accstat.int = int := by
  rw [Ctx.granted, if_pos h]
  exact ⟨rfl, rfl⟩

theorem Ctx.granted_acc {e : Entry} (h : e.instr ≠ .mmaz o) : (c.granted e o int).acc = c.acc := by
  obtain ⟨bells, rung, issued⟩ := c.accept_mq e
  rw [Ctx.granted, if_neg h, issued]

theorem Ctx.readDone_dataOnly : c.DataOnly (c.readDone e) :=
  .foldl (fun c p => c.finishOper_dataOnly p) _ c

/-- A command that is read out of its tiles and leaves MQ: the partition and the life of the context stay. -/
theorem Ctx.retire_data {c d : Ctx} (h : c.DataOnly d) :
    (d.retire .mq).mq.entries = c.mq.entries.tail ∧ (d.retire .mq).acc = c.acc ∧ (d.retire .mq).accstat = c.accstat ∧
      (d.retire .mq).life = c.life := by
  simp only [Ctx.retire_keeps, h.acc, h.accstat, h.life, and_self, and_true]
  have queue : d.mq = c.mq := h.queue .mq
  rw [← queue]
  cases entries : d.mq.entries with
  | nil => simp [Ctx.retire, Ctx.queue, entries]
  | cons e rest => exact congrArg EQueue.entries (Ctx.queue_retire (c := d) (q := .mq) entries)

end

/-- The current context's command is granted from a bench's level: one without a chunk completes, any other holds the unit from its first
fetch, after the filler cycles, to its last (10 R233, R234). -/
def State.grantSuited (s : State) (b : Bench) (e : Entry) (o : X) (p : Product) : State :=
  let c := s.cx.granted e o p.int
  let first := s.time + s.cycles ((8 - b.level) * 16)
  let last := first + s.cycles (p.chunks * p.rate e.unf - 1)
  if p.chunks = 0 then { s with cx := ((c.readDone e).ringDone e).retire .mq }.setBench b
  else { s with cx := { c with mqFirst := first, mqLast := last } }.setBench
    (s.fetchLevel { b with busyUntil := last + s.cycles 1, hint := none, down := false })

/-- A command that has not issued is granted where its kind suits the partition, and traps where it does not (10 R232). -/
theorem State.grant_eq {s : State} {e : Entry} {o : X} (fresh : s.cx.mq.issued = false) (fields : e.xFields = some o) (b : Bench) :
    s.grant b e o = if e.instr = .mmaz o ∨ s.cx.accstat.int = (e.product o).int then s.grantSuited b e o (e.product o)
      else s.takeTrap { cause := 0x10, queue := 4, iaddr := e.iaddr } := by
  unfold State.grant
  extract_lets +onlyGivenNames p again zeroes
  have clears : zeroes = decide (e.instr = .mmaz o) := by
    unfold zeroes
    split
    · next x is => by_contra other; exact Entry.not_mmaz fields (by simpa using other) x is
    · next other => exact (decide_eq_false (other o)).symm
  clear_value zeroes
  subst clears
  by_cases suits : e.instr = .mmaz o ∨ s.cx.accstat.int = p.int
  · have kind : (!again && !decide (e.instr = .mmaz o) && s.cx.accstat.int != p.int) = false := by
      rcases suits with mmaz | same
      · simp [mmaz]
      · simp [same]
    rw [kind, if_pos suits]
    simp only [again, fresh, Bool.false_eq_true, if_false, Bool.not_false, Bool.and_true, decide_eq_true_eq, beq_iff_eq, Nat.sub_zero,
      Ctx.granted, State.grantSuited, p]
  · obtain ⟨other, differs⟩ := not_or.mp suits
    have kind : (!again && !decide (e.instr = .mmaz o) && s.cx.accstat.int != p.int) = true := by
      simp only [again, fresh, other, bne_iff_ne.mpr differs, decide_false, Bool.not_false, Bool.and_self]
    rw [kind, if_neg suits]
    rfl

section
variable (s : State) (b : Bench) (e : Entry) (o : X) (p : Product)

/-- Whether it has chunks or not, a command changes the partition, its kind and the context's life at its grant as its issue does. -/
theorem State.grantSuited_keeps :
    (s.grantSuited b e o p).cx.acc = (s.cx.granted e o p.int).acc ∧ (s.grantSuited b e o p).cx.accstat = (s.cx.granted e o p.int).accstat ∧
      (s.grantSuited b e o p).cx.life = s.cx.life ∧ (s.grantSuited b e o p).mem = s.mem := by
  have lives := (s.cx.granted_keeps e o p.int).2
  unfold State.grantSuited
  dsimp only
  split
  · obtain ⟨-, acc, kind, life⟩ := Ctx.retire_data (((s.cx.granted e o p.int).readDone_dataOnly e).trans (Ctx.ringDone_dataOnly _ e))
    exact ⟨acc, kind, life.trans lives, rfl⟩
  · exact ⟨rfl, rfl, lives, rfl⟩

variable {p}

theorem State.grantSuited_empty (h : p.chunks = 0) : (s.grantSuited b e o p).cx.mq.entries = s.cx.mq.entries.tail := by
  have left := (Ctx.retire_data (((s.cx.granted e o p.int).readDone_dataOnly e).trans (Ctx.ringDone_dataOnly _ e))).1
  rw [(s.cx.granted_keeps e o p.int).1] at left
  rw [State.grantSuited, if_pos h]
  exact left

theorem State.grantSuited_fetches (h : p.chunks ≠ 0) :
    (s.grantSuited b e o p).cx.mq.entries = s.cx.mq.entries ∧ (s.grantSuited b e o p).cx.mq.issued = true ∧
      (s.grantSuited b e o p).cx.mqLast = s.time + ((8 - b.level) * 16 + (p.chunks * p.rate e.unf - 1)) * clockPeriod s.clock := by
  have mq := (s.cx.granted_keeps e o p.int).1
  rw [State.grantSuited, if_neg h, Nat.add_mul, ← Nat.add_assoc]
  exact ⟨(congrArg EQueue.entries mq :), (congrArg EQueue.issued mq :), rfl⟩

end

/-! ## Weights (10 R224) -/

theorem mwrr_turnOf (o : SI) (s : State) : TurnOf (.mwrr o) s fun s =>
    if 191 < (s.cx.sreg o.sa).toNat then s.stopTrap 0x02
    else .next (s.setBench { s.bench (s.cx.sreg o.sa).toNat with
      weights := (s.bench (s.cx.sreg o.sa).toNat).weights.set (field o.imm24 0 3 : BitVec 3).toNat (field o.imm24 8 4) (by omega) }) s.after :=
  .guarded rfl rfl

/-- The core that MWRR names is its immediate's low three bits. -/
theorem set_weight (w : Vector (BitVec 4) 8) (imm : BitVec 24) (x : BitVec 4) :
    w.set (field imm 0 3 : BitVec 3).toNat x (by omega) = w.set (imm.toNat % 8) x (Nat.mod_lt _ (by decide)) := by
  have low : (field imm 0 3 : BitVec 3).toNat = imm.toNat % 8 := by simp [field]
  simp only [low]

end Sys2Proof.Machine
end


section
/-! PROOFS. Fetched commands end (10 R228, R233, R235): chunks that pass their checks are added in order. -/

namespace Sys2Proof.Machine

/-! ## Chunks added one after another (10 R228) -/

section
variable (s : State) (e : Entry) (o : X) (c d : Nat)

/-- The partition after some chunks is that of adding them in order. -/
theorem State.addChunks_acc :
    (s.addChunks e o c d).cx.acc =
      (List.range' c (d - c)).foldl
        (fun acc i => ((e.product o).add
          (s.operandA e o (e.product o))
          (s.operandB e o (e.product o)) acc i).1) s.cx.acc := by
  rw [List.range'_eq_map_range, List.foldl_map]
  exact (List.foldl_hom Prod.fst fun _ _ => rfl).symm

/-- Chunks added to the partition leave the tiles that a product reads. -/
theorem State.operands_addChunks (p : Product) :
    (s.addChunks e o c d).operandA e o p = s.operandA e o p ∧ (s.addChunks e o c d).operandB e o p = s.operandB e o p := ⟨rfl, rfl⟩

theorem State.chunkFails_addChunks (k : Nat) (inj : Bool) : (s.addChunks e o c d).chunkFails e o k inj = s.chunkFails e o k inj := rfl

theorem State.addChunks_succ (n : Nat) :
    ((s.addChunks e o c (c + 1)).addChunks e o (c + 1) (c + 1 + n)).cx.acc = (s.addChunks e o c (c + (n + 1))).cx.acc := by
  obtain ⟨a, b⟩ := s.operands_addChunks e o c (c + 1) (e.product o)
  rw [State.addChunks_acc, a, b, State.addChunks_acc, State.addChunks_acc, Nat.add_sub_cancel_left, Nat.add_sub_cancel_left,
    Nat.add_sub_cancel_left, List.range'_succ]
  rfl

end

/-- Only the partition and its flags differ. -/
def State.SumOnly (s t : State) : Prop :=
  t = { s with cx := { s.cx with acc := t.cx.acc, accstat := { s.cx.accstat with flags := t.cx.accstat.flags } } }

theorem State.addChunks_sumOnly (s : State) (e : Entry) (o : X) (c d : Nat) : s.SumOnly (s.addChunks e o c d) := rfl

theorem State.SumOnly.trans {s t u : State} (h : s.SumOnly t) (k : t.SumOnly u) : s.SumOnly u := by
  unfold State.SumOnly at *
  rw [k, h]

/-- Chunks whose checks pass are all added. -/
theorem State.runChunks_passes {s : State} {e : Entry} {o : X} {c n : Nat} (quiet : s.injected (benchBank s.cx.benchNumber) = false)
    (pass : ∀ k, c ≤ k → k < c + n → s.chunkFails e o k false = false) :
    ∃ t, s.runChunks e o c n = (t, true) ∧ s.SumOnly t ∧ t.cx.acc = (s.addChunks e o c (c + n)).cx.acc := by
  induction n generalizing s c with
  | zero =>
    refine ⟨s, rfl, rfl, ?_⟩
    rw [State.addChunks_acc, Nat.add_zero, Nat.sub_self]
    rfl
  | succ n ih =>
    obtain ⟨t, run, only, acc⟩ := ih (s := s.addChunks e o c (c + 1)) (c := c + 1) quiet fun k low high =>
      (s.chunkFails_addChunks e o c (c + 1) k false).trans (pass k (by omega) (by omega))
    refine ⟨t, ?_, (s.addChunks_sumOnly e o c (c + 1)).trans only, acc.trans (s.addChunks_succ e o c n)⟩
    rw [State.runChunks]
    dsimp only
    rw [quiet, if_neg (by simp [pass c (Nat.le_refl c) (by omega)])]
    exact run

/-! ## The end of a fetch and completion (10 R233) -/

section
variable {s : State} {e : Entry} {rest : List Entry} {o : X}

theorem Ctx.productsDone_mqDone (c : Ctx) (t : Nat) : (c.productsDone t).mqDone = c.mqDone.filter fun x => !decide (x.1 ≤ t) := by
  have rung (l : List (Nat × BitVec 5)) (d : Ctx) : d.DataOnly (l.foldl (fun c x => c.ring x.2) d) :=
    .foldl (fun c (x : Nat × BitVec 5) => c.ring_dataOnly x.2) l d
  exact (congrArg Ctx.mqDone (rung _ _) :)

/-- A command whose chunks pass has been fetched: it leaves MQ, and its completion follows. -/
theorem State.endFetch_passes (queue : s.cx.mq.entries = e :: rest) (start : s.cx.accstat.rpv = false)
    (quiet : s.injected (benchBank s.cx.benchNumber) = false)
    (pass : ∀ c, c < (e.product o).chunks → s.chunkFails e o c false = false) :
    (s.endFetch e o).cx.mq.entries = rest ∧ (s.endFetch e o).mem = s.mem ∧ (s.endFetch e o).time = s.time ∧
      (s.endFetch e o).cx.acc = (s.addChunks e o 0 (e.product o).chunks).cx.acc ∧
      s.cx.mqLast + 18 * clockPeriod s.clock ∈ (s.endFetch e o).cx.mqDone.map Prod.fst := by
  have first : s.cx.firstChunk = 0 := by simp [Ctx.firstChunk, start]
  obtain ⟨t, run, only, acc⟩ := State.runChunks_passes (c := 0)
    (n := (e.product o).chunks) quiet fun k _ high => pass k (by simpa using high)
  rw [Nat.zero_add] at acc
  have kept : t.cx.mq.entries = e :: rest := (congrArg (·.cx.mq.entries) only :).trans queue
  have last : t.cx.mqLast = s.cx.mqLast := (congrArg (·.cx.mqLast) only :)
  obtain ⟨gone, sum, -, -⟩ := Ctx.retire_data (t.cx.readDone_dataOnly e)
  rw [State.endFetch, first, Nat.sub_zero, run]
  refine ⟨gone.trans (by rw [kept]; rfl), (congrArg State.mem only :), (congrArg State.time only :), sum.trans acc, ?_⟩
  simp [last, State.cycles]

theorem matrixCompletion_eq (running : s.cx.life = .running) : exec (.matrixCompletion s.cx.ref) s = .next s.productCompletion := by
  have here : s.focus s.cx.ref = some s := by simp [State.focus, Ctx.is_ref (Ctx.ne_unbound running)]
  show Host.Outcome.next _ = _
  rw [here]

variable (queue : s.cx.mq.entries = e :: rest) (fields : e.xFields = some o)
include queue fields

theorem State.productCompletion_early (early : s.time < s.cx.mqLast) : s.productCompletion = { s with cx := s.cx.productsDone s.time } := by
  simp only [State.productCompletion, queue, fields, Nat.not_le.mpr early, decide_false, Bool.and_false, Bool.false_eq_true, if_false]

theorem State.productCompletion_due (issued : s.cx.mq.issued = true) (begun : s.cx.mq.rstart = false) (live : e.isVoid = false)
    (command : isCommand e.instr = true) (due : s.cx.mqLast ≤ s.time) :
    s.productCompletion = { s.endFetch e o with cx := (s.endFetch e o).cx.productsDone (s.endFetch e o).time } := by
  simp only [State.productCompletion, queue, fields, issued, begun, live, command, due, decide_true, Bool.not_false, Bool.and_self, if_true]

end

end Sys2Proof.Machine

namespace Sys2Proof.Proofs

open Sys2Proof.Machine Sys2Proof.Safety

/-- Settles O42: the one command presented is picked whatever the round, and chunks that pass are added one after another. -/
theorem matrixEvents : Obligations.MatrixEvents := by
  refine ⟨fun o s h => ?weights, fun s n busy => matrixGrant_busy busy, ?grant, ?completion, fun s n => ?level⟩
  case weights =>
    refine ⟨fun valid => ?_, fun outside => (mwrr_turnOf o s).stop h (if_pos outside)⟩
    refine (mwrr_turnOf o s).next h ((if_neg (Nat.not_lt.mpr valid)).trans ?_)
    exact congrArg (fun w => Done.next (s.setBench { s.bench (s.cx.sreg o.sa).toNat with weights := w }) s.after) (set_weight ..)
  case grant =>
    intro s s1 n k r e o free sole focus clock present fields fresh running
    obtain ⟨b, granted, level⟩ := matrixGrant_sole free sole focus clock present fields
    obtain ⟨same, -⟩ := State.focus_eq focus
    have mem : s1.mem = s.mem := (congrArg State.mem same :)
    have time : s1.time = s.time := (congrArg State.time same :)
    have step : s1.clock = s.clock := (congrArg State.clock same :)
    rw [State.grant_eq fresh fields] at granted
    by_cases suits : e.instr = .mmaz o ∨ s1.cx.accstat.int = (e.product o).int
    · rw [if_pos suits] at granted
      obtain ⟨acc, kind, life, kept⟩ := s1.grantSuited_keeps b e o (e.product o)
      refine ⟨_, granted, kept.trans mem, fun _ chunks => ?_, fun _ empty => s1.grantSuited_empty b e o empty, fun mmaz => ?_, fun other _ => ?_,
        fun bad => absurd suits bad⟩
      · obtain ⟨stays, issued, last⟩ := s1.grantSuited_fetches b e o (Nat.ne_of_gt chunks)
        exact ⟨stays, issued, by rw [last, level, time, step]⟩
      · obtain ⟨zero, int⟩ := s1.cx.granted_clears mmaz
        exact ⟨acc.trans zero, (congrArg AccStat.int kind).trans int⟩
      · exact ⟨acc.trans (s1.cx.granted_acc other), life.trans running⟩
    · rw [if_neg suits] at granted
      obtain ⟨other, differs⟩ := not_or.mp suits
      exact ⟨_, granted, mem, fun good => absurd good suits, fun good => absurd good suits, fun mmaz => absurd mmaz other,
        fun _ same => absurd same differs, fun _ => rfl⟩
  case completion =>
    intro s e rest o running queue fields issued begun live command
    rw [matrixCompletion_eq running]
    refine ⟨fun early => by rw [State.productCompletion_early queue fields early], fun due start quiet pass => ?_⟩
    obtain ⟨left, mem, time, acc, done⟩ := State.endFetch_passes queue start quiet pass
    obtain ⟨-, -, -, mq, sum, -⟩ := (s.endFetch e o).cx.productsDone_keeps (s.endFetch e o).time
    have later := (s.endFetch e o).cx.productsDone_mqDone (s.endFetch e o).time
    refine ⟨_, congrArg Host.Outcome.next (State.productCompletion_due queue fields issued begun live command due),
      (congrArg EQueue.entries mq).trans left, mem, fun x hx => ?_, fun ahead => ?_, sum.trans acc⟩
    · obtain ⟨-, after⟩ := List.mem_filter.mp (later ▸ hx)
      simpa [time] using after
    · obtain ⟨x, hx, due⟩ := List.mem_map.mp done
      refine List.mem_map.mpr ⟨x, later ▸ List.mem_filter.mpr ⟨hx, ?_⟩, due⟩
      simpa [time, due] using ahead
  case level =>
    dsimp only
    refine ⟨fun idle => ?_, fun pending due => ?_, fun unheld => ?_, fun h hint => ⟨fun early => ?_, fun free late => ?_⟩⟩
    · refine congrArg Host.Outcome.next (if_neg ?_)
      simp only [Bool.and_eq_true, bne_iff_ne, decide_eq_true_eq]
      omega
    · have moved : (s.setBench (s.levelStep (s.bench n))).bench n = s.levelStep (s.bench n) :=
        s.bench_setBench ((s.levelStep_keeps _).1.trans (s.bench_num n))
      refine ⟨_, congrArg Host.Outcome.next (if_pos (by simp [pending, due])), fun rising => ?_, fun falling => ?_⟩
      · rw [moved, State.levelStep_rising s pending rising]
      · rw [moved, State.levelStep_falling s pending falling]
    · refine mhintHoldExpiry_stays fun h hint => unheld.imp_left fun unset => ?_
      simp [unset] at hint
    · refine mhintHoldExpiry_stays fun x held => .inl ?_
      rwa [← Option.some.inj (hint.symm.trans held)]
    · obtain ⟨b, ends, num, off, level⟩ := mhintHoldExpiry_ends hint late free
      exact ⟨_, ends, by rw [s.bench_setBench num, off], by rw [s.bench_setBench num, level]⟩

end Sys2Proof.Proofs
end


section
/-! PROOFS. Atomics (12 R266 to R268, R270). -/

namespace Sys2Proof.Machine

open Sys2Proof.Safety

/-! ## The operations (12 R266) -/

theorem atomicBits_eq (z : BitVec 2) : atomicBits z = if z = 2 then 32 else 64 := by
  simp [atomicBits]

/-- The width of an atomic is a whole number of bytes. -/
theorem atomicBits_bytes (z : BitVec 2) : 8 * (atomicBits z / 8) = atomicBits z := by
  rw [atomicBits_eq]
  split <;> rfl

/-- The old value that AMO and AMOCAS return. -/
theorem signBytes_atomicBits (z : BitVec 2) (old : Nat) : signBytes (atomicBits z / 8) old =
    if 2 ^ (atomicBits z - 1) ≤ old then BitVec.ofInt 64 ((old : Int) - 2 ^ atomicBits z) else BitVec.ofNat 64 old := by
  simpa [loadValue, atomicBits_bytes] using loadValue_eq true (atomicBits z / 8) old

theorem asInt_min (w old x : Nat) : asInt w (if asInt w x < asInt w old then x else old) = min (asInt w old) (asInt w x) := by
  split
  · exact (min_eq_right (Int.le_of_lt ‹_›)).symm
  · exact (min_eq_left (Int.not_lt.mp ‹_›)).symm

theorem asInt_max (w old x : Nat) : asInt w (if asInt w old < asInt w x then x else old) = max (asInt w old) (asInt w x) := by
  split
  · exact (max_eq_right (Int.le_of_lt ‹_›)).symm
  · exact (max_eq_left (Int.not_lt.mp ‹_›)).symm

/-! ## What an atomic leaves (12 R250, R270) -/

theorem State.askAtomic_fabricOnly (s : State) (gs : List Seg) (op : BitVec 4) (double : Bool) (x y : Word) :
    s.FabricOnly (s.askAtomic gs op double x y) :=
  .foldl (fun s g => s.ask_fabricOnly _ g _ _ _ _) _ _

theorem State.noteRecall_fabricOnly (s : State) (k : Nat) : s.FabricOnly (s.noteRecall k) := rfl

/-- The mark of a write whose order is not fixed goes to the capture alone (27 R495). -/
theorem State.noteIf_eq (s : State) (p : Bool) (gs : List Seg) : s.noteIf p gs = { s with capture := (s.noteIf p gs).capture } := by
  unfold State.noteIf
  split <;> rfl

/-- The record of a poisoned line goes to the banks and the notices alone. -/
theorem State.poisonRecord_eq (s : State) (k : Nat) (atHome : Bool) (info : Word) : s.poisonRecord k atHome info =
    { s with mcbs := (s.poisonRecord k atHome info).mcbs, notices := (s.poisonRecord k atHome info).notices } := by
  unfold State.poisonRecord
  split
  · rfl
  · exact State.machineCheck_contained _ _ _ rfl

section
variable {i : Instr} {s s1 : State} {body : State → Done} {d : BitVec 5} {a : Word} {z : BitVec 2} {gs : List Seg} {fadd : Bool}
  {ask : State → List Seg → State} {new : Nat → Option Nat} (turn : TurnOf i s body)
  (atomic : body s = s.withAtomic a z fadd ask new fun s1 old => s1.set (s1.cx.setSreg d (signBytes (atomicBits z / 8) old)))
  (h : Executes i s) (ok : s.scalar a.toNat (atomicBits z / 8) .rmw = .ok s1 gs)
include turn atomic h ok

/-- An atomic that passes its checks writes what its operation gives, and sets its register to the old value. -/
theorem exec_atomic (clean : segsPoisoned s1.poison gs = false) (asks : ∀ s, State.FabricOnly s (ask s gs)) :
    let old := leNat (readSegs s1.mem gs)
    ∃ t, exec i s = .next t ∧ t.cx.pc = s.cx.pc + 8 ∧ SameSpecial s.cx t.cx ∧ SameEngines s.cx t.cx ∧
      t.mem = (match new old with | none => s1.mem | some x => writeSegs s1.mem gs (leBytes (atomicBits z / 8) x)) ∧
      ∀ k, t.cx.sreg k = if k = 0 then 0 else if k = d then signBytes (atomicBits z / 8) old else s.cx.sreg k := by
  intro old
  have fabric := (s1.noteWrite_fabricOnly s.ownSharer (firstKey gs)).trans (asks _)
  -- what the body goes on with: the directory, the ports, the bytes and the capture have changed
  obtain ⟨s2, cx, mem, sets⟩ : ∃ s2 : State, s2.cx = s.cx ∧
      s2.mem = (match new old with | none => s1.mem | some x => writeSegs s1.mem gs (leBytes (atomicBits z / 8) x)) ∧
      body s = s2.set (s2.cx.setSreg d (signBytes (atomicBits z / 8) old)) := by
    simp only [atomic, State.withAtomic, ok, clean, Bool.false_eq_true, if_false]
    have same := fabric.cx.trans (State.scalar_accessOnly ok).cx
    cases new old <;> dsimp only
    case none => exact ⟨_, same, fabric.mem, rfl⟩
    case some x =>
      refine ⟨_, ?_, ?_, rfl⟩
      · rw [State.noteIf_eq]
        exact same
      · rw [State.noteIf_eq]
        exact congrArg (writeSegs · gs _) fabric.mem
  have marks : s.cx.TurnOnly (executed i { s2 with cx := s2.cx.setSreg d (signBytes (atomicBits z / 8) old) } (s2.cx.pc + 8)).cx := by
    rw [← cx]; exact executed_setSreg_turnOnly i s2 _ d _
  refine ⟨_, turn.next h sets, congrArg (Ctx.pc · + 8) cx, marks.special, marks.engines, mem, fun k => ?_⟩
  rw [← cx]
  exact s2.cx.sreg_setSreg d k _

/-- An atomic on a poisoned line records it and traps, and nothing else of the package changes. -/
theorem exec_atomic_poisoned (poisoned : segsPoisoned s1.poison gs = true) (running : s.cx.life = .running) :
    ∃ t r, exec i s = .next t ∧ t.mem = s.mem ∧ t.poison = s.poison ∧ t.tlbs = s.tlbs ∧ (∀ k, t.cx.sreg k = s.cx.sreg k) ∧
      t.cx.life = .trapped ∧ t.cx.trap = some r ∧ r.cause = 0x25 ∧ r.mc = true ∧ r.pc = s.cx.pc := by
  let trap : Trap := { s.cuTrap 0x25 with va := a, mc := true, code := 0x73 }
  have stops : body s = .stop ((s.poisonCheck (firstKey gs) (s.cacheable (firstKey gs) == false)).takeTrap trap) := by
    simp only [atomic, State.withAtomic, ok, poisoned, if_true]
    rfl
  rw [State.poisonCheck, State.poisonRecord_eq, State.takeTrap, Ctx.takeTrap_running _ _ running] at stops
  exact ⟨_, trap.record s.cx.pc, turn.stop h stops, rfl, rfl, rfl, fun _ => rfl, rfl, rfl, rfl, rfl, rfl⟩

end

/-! ## AMO, AMOCAS and RED as turns (12 R266 to R268) -/

theorem amo_turnOf (o : M) (s : State) : TurnOf (.amo o) s fun s =>
    s.withAtomic (s.cx.sreg o.sa) o.size (isFadd (field o.off18 14 4))
      (fun s1 gs => s1.askAtomic gs (field o.off18 14 4) (atomicBits o.size == 64) (s.cx.sreg o.sd) 0)
      (fun old => some (atomicOp (field o.off18 14 4) (atomicBits o.size) old ((s.cx.sreg o.sd).toNat % 2 ^ atomicBits o.size)))
      fun s1 old => s1.set (s1.cx.setSreg o.sd (signBytes (atomicBits o.size / 8) old)) :=
  .guarded rfl rfl

theorem amocas_turnOf (o : M) (s : State) : TurnOf (.amocas o) s fun s =>
    s.withAtomic (s.cx.sreg o.sa) o.size false
      (fun s1 gs => s1.askAtomic gs 0xF (atomicBits o.size == 64) (s.cx.sreg o.sd) (s.cx.sreg (o.sd + 1)))
      (fun old => if old == (s.cx.sreg o.sd).toNat % 2 ^ atomicBits o.size
        then some ((s.cx.sreg (o.sd + 1)).toNat % 2 ^ atomicBits o.size) else none)
      fun s1 old => s1.set (s1.cx.setSreg o.sd (signBytes (atomicBits o.size / 8) old)) :=
  .guarded rfl rfl

section
variable {o : M} {s s1 : State} {gs : List Seg} (h : Executes (.red o) s)
  (ok : s.scalar (s.cx.sreg o.sa).toNat (atomicBits o.size / 8) .rmw = .ok s1 gs)
include h ok

/-- RED without poison writes what its operation gives, and goes on. -/
theorem exec_red (clean : segsPoisoned s1.poison gs = false) : ∃ s2 : State, s2.cx = s.cx ∧
    s2.mem = writeSegs s1.mem gs (leBytes (atomicBits o.size / 8) (atomicOp (field o.off18 14 4) (atomicBits o.size)
      (leNat (readSegs s1.mem gs)) ((s.cx.sreg o.sd).toNat % 2 ^ atomicBits o.size))) ∧
    exec (.red o) s = .next (executed (.red o) s2 (s.cx.pc + 8)) := by
  have fabric := (s1.noteRecall_fabricOnly (firstKey gs)).trans
    (State.askAtomic_fabricOnly _ gs (field o.off18 14 4) (atomicBits o.size == 64) (s.cx.sreg o.sd) 0)
  refine ⟨_, ?_, ?_, (TurnOf.guarded rfl rfl).next h (by simp only [ok, clean, Bool.false_eq_true, if_false]; rfl)⟩
  · rw [State.noteIf_eq]
    exact fabric.cx.trans (State.scalar_accessOnly ok).cx
  · rw [State.noteIf_eq]
    exact congrArg (writeSegs · gs _) fabric.mem

/-- RED on a poisoned line leaves a trap for the next boundary, and goes on. -/
theorem exec_red_poisoned (poisoned : segsPoisoned s1.poison gs = true) : ∃ (s2 : State) (r : TrapRec),
    s2.mem = s1.mem ∧ s2.poison = s1.poison ∧ s2.cx = { s.cx with after := s.cx.after ++ [r] } ∧
    r.cause = 0x25 ∧ r.mc = true ∧ r.iaddr = s.cx.pc ∧ exec (.red o) s = .next (executed (.red o) s2 (s.cx.pc + 8)) := by
  have cx := (State.scalar_accessOnly ok).cx
  have check := s1.poisonRecord_eq (firstKey gs) true (s1.cx.mcInfo s1.cx.item 0)
  let t : Trap := { s1.cuTrap 0x25 with va := s.cx.sreg o.sa, mc := true, code := 0x73 }
  refine ⟨_, t.record s.after, ?_, ?_, ?_, ?_, ?_, ?_, (TurnOf.guarded rfl rfl).next h (by simp only [ok, poisoned, if_true]; rfl)⟩
  · rw [State.poisonCheck, check]
  · rw [State.poisonCheck, check]
  · rw [State.poisonCheck, check, cx]
  · rfl
  · rfl
  · exact congrArg Ctx.pc cx

end

end Sys2Proof.Machine

namespace Sys2Proof.Proofs

open Sys2Proof.Machine Sys2Proof.Safety

/-- Settles O27: an atomic without poison writes what its operation gives and sets its register; the operations, each by its definition; on a
poisoned line AMO and AMOCAS stop, and RED leaves its trap. -/
theorem atomics : Obligations.Atomics := by
  refine ⟨fun o s s1 gs => ?clean, fun b old x _ _ _ => ?operations, fun o s s1 gs running ok poisoned => ?poisoned⟩
  case clean =>
    rw [← atomicBits_eq]
    intro b ok clean old x v
    have value : signBytes (b / 8) old = v := signBytes_atomicBits o.size old
    rw [← value]
    refine ⟨fun h => ?amo, fun h => ?amocas, fun h => ?red⟩
    case amo => exact exec_atomic (amo_turnOf o s) rfl h ok clean fun s => s.askAtomic_fabricOnly gs _ _ _ _
    case amocas =>
      obtain ⟨t, next, pc, special, engines, mem, sreg⟩ := exec_atomic (amocas_turnOf o s) rfl h ok clean fun s => s.askAtomic_fabricOnly gs _ _ _ _
      refine ⟨t, next, pc, special, engines, mem.trans ?_, sreg⟩
      by_cases equal : old = x <;> simp [equal, old, x, b]
    case red =>
      obtain ⟨s2, cx, mem, next⟩ := exec_red h ok clean
      have marks : s.cx.TurnOnly (executed (.red o) s2 (s.cx.pc + 8)).cx := by
        rw [← cx]; exact executed_turnOnly _ _ _
      exact ⟨_, next, rfl, marks.special, marks.engines, mem, fun k => (congrArg (Ctx.sreg · k) cx :)⟩
  case operations =>
    exact ⟨rfl, rfl, rfl, rfl, asInt_min b old x, rfl, asInt_max b old x, rfl, rfl⟩
  case poisoned =>
    rw [← atomicBits_eq] at ok
    refine ⟨?stops, fun h => ?red⟩
    case stops =>
      simp only [List.forall_mem_cons]
      exact ⟨fun h => exec_atomic_poisoned (amo_turnOf o s) rfl h ok poisoned running,
        fun h => exec_atomic_poisoned (amocas_turnOf o s) rfl h ok poisoned running, List.forall_mem_nil _⟩
    case red =>
      obtain ⟨s2, r, mem, poison, cx, cause, mc, iaddr, next⟩ := exec_red_poisoned h ok poisoned
      exact ⟨_, r, next, mem, poison, rfl, (congrArg Ctx.after cx :), cause, mc, iaddr⟩

end Sys2Proof.Proofs
end


section
/-! PROOFS. FENCE, WAITV and the cache-line operations (12 R271 to R273). -/

namespace Sys2Proof.Machine

open Sys2Proof.Safety

/-! ## A location of this package needs no port (12 R251) -/

section
variable {s : State} {gs : List Seg} (near : ∀ g ∈ gs, s.remote g.1 = false)
include near

theorem State.remotePieces_near : s.remotePieces gs = [] := by
  have none_remote : gs.any (fun g => s.remote g.1) = false := List.any_eq_false.mpr fun g hg => by simp [near g hg]
  simp [State.remotePieces, none_remote]

theorem State.linkRoom_near : s.linkRoom gs = true := by
  simp [State.linkRoom, State.remotePieces_near near]

theorem State.askLoads_near : s.askLoads gs = s := by
  simp [State.askLoads, State.remotePieces_near near]

theorem State.rereadAway_near (o : M) {w : Watch} (g : Glance) (segs : w.segs = gs) : s.rereadAway o w g = s.waitvRead o gs g := by
  have reached : (w.segs.any fun x => s.remote x.1 && !s.reachable (keyNode x.1)) = false :=
    List.any_eq_false.mpr fun x hx => by simp [near x (segs ▸ hx)]
  rw [State.rereadAway, if_neg (by simp [reached]), segs, if_pos (State.linkRoom_near near), State.askLoads_near near]

end

/-! ## WAITV (12 R272) -/

section
variable {s : State} {gs : List Seg} {g : Glance} (o : M) (clean : segsPoisoned s.poison gs = false)
include clean

/-- A read that finds the value waited for goes on. -/
theorem State.waitvRead_equal (equal : leNat g.bytes = (s.cx.sreg o.sd).toNat % 2 ^ (8 * sizeBytes o.size)) :
    ∃ s1, s.FabricOnly s1 ∧ s.waitvRead o gs g = .next s1 (s.cx.pc + 8) := by
  have read := s.noteRead_fabricOnly s.ownSharer (firstKey gs)
  refine ⟨_, read, ?_⟩
  rw [State.waitvRead, if_neg (by simp [clean]), if_pos (by simpa using equal), State.after, read.cx]

/-- A read that finds another value watches its lines. -/
theorem State.waitvRead_differs (differs : leNat g.bytes ≠ (s.cx.sreg o.sd).toNat % 2 ^ (8 * sizeBytes o.size)) :
    ∃ s1, s.FabricOnly s1 ∧
      s.waitvRead o gs g = .wait { s1 with cx := { s.cx with watch := some (s1.watched gs g), outside := .none } } := by
  have read := s.noteRead_fabricOnly s.ownSharer (firstKey gs)
  refine ⟨_, read, ?_⟩
  rw [State.waitvRead, if_neg (by simp [clean]), if_neg (by simpa using differs), read.cx]

end

section
variable {o : M} {s : State} {w : Watch}

section
variable (watch : s.cx.watch = some w) (here : w.pc = s.cx.pc)
include watch here

theorem waitvBody_again {g : Glance} (again : w.again = some g) : waitvBody o s = s.rereadAway o w g := by
  simp [waitvBody, watch, here, again, Option.filter]

theorem waitvBody_waits (not_again : w.again = none) : waitvBody o s = .wait s := by
  simp [waitvBody, watch, here, not_again, Option.filter]

end

theorem waitvBody_first {s1 : State} {gs : List Seg} (unwatched : ∀ w, s.cx.watch = some w → w.pc ≠ s.cx.pc)
    (ok : s.scalar (s.ea o) (sizeBytes o.size) .load = .ok s1 gs) (clean : segsPoisoned s1.poison gs = false) :
    waitvBody o s = s1.waitvRead o gs (s1.glance gs) := by
  have first : s.cx.watch.filter (·.pc == s.cx.pc) = none := by simpa [Option.filter_eq_none_iff] using unwatched
  simp [waitvBody, first, ok, clean]

theorem waitv_turnOf (o : M) (s : State) : TurnOf (.waitv o) s (waitvBody o) := .guarded rfl rfl

end

/-! ## What the start of a cycle finds (12 R272) -/

section
variable {s : State} {c : Ctx} {w : Watch}

theorem State.rereads_near (near : w.away = false) :
    s.rereads c w = true ↔ s.lineBytes w.segs ≠ w.seen ∨ ∃ k ∈ segsLines w.segs, s.inL1 c k = false := by
  simp [State.rereads, near]

theorem State.rereads_away (away : w.away = true) : s.rereads c w = true ↔ w.last + 1024 ≤ c.now := by
  simp [State.rereads, away]

variable (watch : c.watch = some w)
include watch

theorem State.lookAgain_finds (again : s.rereads c w = true) :
    s.lookAgain c = { c with watch := some { w with again := some (s.glance w.segs) } } := by
  simp [State.lookAgain, watch, again]

theorem State.lookAgain_leaves (not_again : s.rereads c w = false) :
    s.lookAgain c = { c with watch := some { w with again := none } } := by
  simp [State.lookAgain, watch, not_again]

end

/-! ## DCWB and DCINV (12 R273) -/

/-- Each cache operation is a turn that changes the directory's entry of its line. -/
theorem lineForms_turnOf (o : M) (s : State) : ∀ f ∈ [(Instr.dcwb o, Access.load), (.dcinv o, .store)],
    ∃ change : State → Nat → State, (∀ (s : State) (k : Nat), s.FabricOnly (change s k)) ∧
      TurnOf f.1 s fun s => match s.scalar (s.ea o) 1 f.2 with
        | .fail f => s.stopFail f
        | .ok s1 gs => .next (if isScratch (firstKey gs) then s1 else change s1 (firstKey gs)) s.after := by
  simp only [List.forall_mem_cons]
  refine ⟨⟨fun s k => s.writeBack o.scope k, fun _ _ => rfl, .guarded rfl rfl⟩,
    ⟨fun s k => s.invalidate o.scope k, fun _ _ => rfl, .guarded rfl rfl⟩, List.forall_mem_nil _⟩

end Sys2Proof.Machine

namespace Sys2Proof.Proofs

open Sys2Proof.Machine Sys2Proof.Safety

/-- Settles O28: FENCE by its turn, WAITV by its first read and by a later one, the start of a cycle by what it finds, and the line operations
by the directory alone. -/
theorem fencesAndLines : Obligations.FencesAndLines := by
  refine ⟨fun o s h => (TurnOf.guarded rfl rfl).next h rfl, fun o s s1 gs h unwatched => ?first,
    fun o s w h watch here => ?again, fun s c w watch => ?start, fun o s s1 gs f hf h ok => ?line⟩
  case first =>
    intro n ok clean
    have access := State.scalar_accessOnly ok
    have body := waitvBody_first unwatched ok clean
    have same : s1.cx.sreg o.sd = s.cx.sreg o.sd := by rw [access.cx]
    refine ⟨fun equal => ?_, fun differs => ?_⟩
    · obtain ⟨s2, fabric, read⟩ := State.waitvRead_equal (g := s1.glance gs) o clean (by rw [same]; exact equal)
      have cx : s2.cx = s.cx := fabric.cx.trans access.cx
      exact ⟨_, (waitv_turnOf o s).next h (body.trans read), congrArg (Ctx.pc · + 8) access.cx, fabric.mem, fun k => (congrArg (Ctx.sreg · k) cx :)⟩
    · obtain ⟨s2, fabric, read⟩ := State.waitvRead_differs (g := s1.glance gs) o clean (by rw [same]; exact differs)
      have cx : s2.cx = s.cx := fabric.cx.trans access.cx
      exact ⟨_, s2.watched gs (s1.glance gs), (waitv_turnOf o s).wait h (body.trans read), (congrArg Ctx.pc access.cx :), fabric.mem,
        fun k => (congrArg (Ctx.sreg · k) access.cx :), rfl, congrArg Ctx.pc cx, rfl, congrArg Ctx.now cx⟩
  case again =>
    refine ⟨fun none => (waitv_turnOf o s).wait h (waitvBody_waits watch here none), fun g found near clean => ?_⟩
    intro equal
    have reread : waitvBody o s = s.waitvRead o w.segs g := (waitvBody_again watch here found).trans (State.rereadAway_near near o g rfl)
    refine ⟨fun eq => ?_, fun differs => ?_⟩
    · obtain ⟨s1, fabric, read⟩ := State.waitvRead_equal o clean eq
      exact ⟨_, (waitv_turnOf o s).next h (reread.trans read), rfl, fabric.mem, fun k => (congrArg (Ctx.sreg · k) fabric.cx :)⟩
    · obtain ⟨s1, fabric, read⟩ := State.waitvRead_differs o clean differs
      exact ⟨_, (waitv_turnOf o s).wait h (reread.trans read), rfl, fabric.mem, fun _ => rfl⟩
  case start =>
    refine ⟨fun near written => ?_, fun near left => ?_, fun away due => ?_, fun away early => ?_⟩
    · exact State.lookAgain_finds watch ((State.rereads_near near).mpr (.inl written))
    · exact State.lookAgain_finds watch ((State.rereads_near near).mpr (.inr left))
    · exact State.lookAgain_finds watch ((State.rereads_away away).mpr due)
    · exact State.lookAgain_leaves watch (Bool.eq_false_iff.mpr (mt (State.rereads_away away).mp (Nat.not_le.mpr early)))
  case line =>
    obtain ⟨change, directory, turn⟩ := lineForms_turnOf o s f hf
    have access := State.scalar_accessOnly ok
    have reached : s1.FabricOnly (if isScratch (firstKey gs) then s1 else change s1 (firstKey gs)) := by
      split
      · rfl
      · exact directory _ _
    have cx := reached.cx.trans access.cx
    have marks : s.cx.TurnOnly (executed f.1 (if isScratch (firstKey gs) then s1 else change s1 (firstKey gs)) (s.cx.pc + 8)).cx := by
      rw [← cx]; exact executed_turnOnly _ _ _
    exact ⟨_, turn.next h (by rw [show s.scalar (s.ea o) 1 f.2 = .ok s1 gs from ok]; rfl), rfl, reached.mem, reached.poison,
      fun k => (congrArg (Ctx.sreg · k) cx :), marks.special, marks.engines⟩

end Sys2Proof.Proofs
end


section
/-! PROOFS. The host's accesses, the register window's writes and page migration (12 R250, R252; 13 R281; 23 R465, R467; 28 R503). -/

namespace Sys2Proof.Machine

open Sys2Proof.Safety

/-! ## The host's accesses (12 R250, R252; 23 R465) -/

theorem foldl_noteRead_fabricOnly (s : State) (sharer : Nat) (ks : List Nat) : s.FabricOnly (ks.foldl (fun s k => s.noteRead sharer k) s) :=
  .foldl (fun s k => s.noteRead_fabricOnly sharer k) ks s

theorem foldl_noteWrite_fabricOnly (s : State) (sharer : Nat) (ks : List Nat) : s.FabricOnly (ks.foldl (fun s k => s.noteWrite sharer k) s) :=
  .foldl (fun s k => s.noteWrite_fabricOnly sharer k) ks s

theorem exec_hostMemoryAccess (pa : Nat) (access : HostAccess) (s : State) :
    exec (.hostMemoryAccess pa access) s = execHostMemoryAccess pa access s := rfl

theorem exec_hostAtomic (pa : Nat) (op : BitVec 4) (double : Bool) (x : Word) (s : State) :
    exec (.hostAtomic pa op double x) s = execHostAtomic pa op double x s := rfl

/-- A host's load changes the directory, or records the check that failed it. -/
theorem exec_hostLoad (s : State) (pa n : Nat) : ∃ t, exec (.hostMemoryAccess pa (.load n)) s = .next t ∧ t.mem = s.mem ∧ t.poison = s.poison ∧
    t.cx = s.cx := by
  rw [exec_hostMemoryAccess]
  unfold execHostMemoryAccess
  obtain ⟨key, named⟩ : ∃ key, key = devKey s.node pa := ⟨_, rfl⟩
  rw [← named]
  refine ⟨_, rfl, ?_⟩
  dsimp only
  split
  · rw [State.sliceCheck_eq]
    exact ⟨rfl, rfl, rfl⟩
  · have read := foldl_noteRead_fabricOnly s 25 (segsLines [(key, n)])
    exact ⟨read.mem, read.poison, read.cx⟩

/-- A host's store writes its bytes. -/
theorem exec_hostStore (s : State) (pa : Nat) (bs : List Byte) : ∃ t, exec (.hostMemoryAccess pa (.store bs)) s = .next t ∧
    t.mem = Memory.write s.mem (devKey s.node pa) bs ∧ t.cx = s.cx := by
  rw [exec_hostMemoryAccess]
  unfold execHostMemoryAccess
  obtain ⟨key, named⟩ : ∃ key, key = devKey s.node pa := ⟨_, rfl⟩
  rw [← named]
  refine ⟨_, rfl, ?_⟩
  have noted := foldl_noteWrite_fabricOnly s 25 (segsLines [(key, bs.length)])
  dsimp only
  split
  · next none => rw [List.isEmpty_iff.mp none]; exact ⟨rfl, rfl⟩
  · exact ⟨congrArg (Memory.write · key bs) noted.mem, noted.cx⟩

section
variable (s : State) (pa : Nat) (op : BitVec 4) (double : Bool) (x : Word)

/-- The home slice fails a host's atomic, which then writes nothing, or performs it. -/
theorem exec_hostAtomic_performs :
    let k := devKey s.node pa
    let w := if double then 64 else 32
    (segsPoisoned s.poison [(k, w / 8)] = true ∨ s.sliceFault 0 [(k, w / 8)] ≠ none →
      ∃ t, exec (.hostAtomic pa op double x) s = .next t ∧ t.mem = s.mem) ∧
    (segsPoisoned s.poison [(k, w / 8)] = false → s.sliceFault 0 [(k, w / 8)] = none →
      ∃ t, exec (.hostAtomic pa op double x) s = .next t ∧ t.cx = s.cx ∧
        t.mem = Memory.write s.mem k (leBytes (w / 8) (atomicOp op w (leNat (Memory.read s.mem k (w / 8))) (x.toNat % 2 ^ w)))) := by
  rw [exec_hostAtomic]
  unfold execHostAtomic
  obtain ⟨k, named⟩ : ∃ k, k = devKey s.node pa := ⟨_, rfl⟩
  rw [← named]
  generalize (if double = true then 64 else 32) = w
  refine ⟨fun failed => ⟨_, rfl, ?_⟩, fun clean home => ⟨_, rfl, ?_⟩⟩
  · dsimp only
    split
    · rw [State.poisonRecord_eq]
    · next clean =>
      obtain ⟨f, fault⟩ := Option.ne_none_iff_exists'.mp (failed.resolve_left clean)
      simp only [fault]
      rw [State.sliceCheck_eq]
  · simp only [clean, home, Bool.false_eq_true, if_false]
    exact ⟨rfl, trivial⟩

end

/-! ## The register window (28 R503) -/

/-- The bytes of a number, from the lowest up. -/
theorem getD_leBytes (n x i : Nat) (h : i < n) : (leBytes n x).getD i 0 = BitVec.ofNat 8 (x / 256 ^ i) := by
  induction n generalizing x i with
  | zero => omega
  | succ n ih =>
    cases i with
    | zero => simp [leBytes]
    | succ i =>
      rw [leBytes, List.getD_cons_succ, ih _ i (by omega), Nat.div_div_eq_div_mul, Nat.pow_succ, Nat.mul_comm]

theorem getD_wordBytes (w : Word) (i : Nat) (h : i < 8) : (wordBytes w).getD i 0 = w.extractLsb' (8 * i) 8 := by
  rw [wordBytes, getD_leBytes 8 _ i h]
  refine BitVec.eq_of_toNat_eq ?_
  simp [Nat.shiftRight_eq_div_pow, Nat.pow_mul]

theorem State.writeMailbox_mem (s : State) (off : Nat) (w : Word) : (s.writeMailbox off w).mem = s.mem := by
  simp only [State.writeMailbox]

/-- A write of the mailbox's block replaces its dword. -/
theorem State.mailbox_writeMailbox (s : State) (i : Fin 8) (w : Word) (j : Fin 64) : (s.writeMailbox (8 * i.val) w).mailbox[j] =
    if 8 * i.val ≤ j.val ∧ j.val < 8 * i.val + 8 then w.extractLsb' (8 * (j.val % 8)) 8 else s.mailbox[j] := by
  simp only [State.writeMailbox, Fin.getElem_fin, Vector.getElem_ofFn, Bool.and_eq_true, decide_eq_true_eq]
  split
  · next within =>
    rw [getD_wordBytes _ _ (by omega), show j.val - 8 * i.val = j.val % 8 by omega]
  · rfl

theorem exec_registerWindowWrite (off : Nat) (w : Word) (s : State) : exec (.registerWindowWrite off w) s = .next (s.windowWrite off w) := rfl

section
variable (s : State) (w : Word)

theorem State.windowWrite_unaligned {off : Nat} (h : off % 8 ≠ 0) : s.windowWrite off w = s := by
  simp [State.windowWrite, h]

theorem State.windowWrite_other {w : Word} (other : w ≠ 1) : s.windowWrite 0x10000 w = s := by
  simpa [State.windowWrite] using fun one => absurd one other

theorem State.windowWrite_launch : s.windowWrite 0x30000 w = s.launchBell w.toNat := by
  simp [State.windowWrite]

theorem State.windowWrite_graph : s.windowWrite 0x30008 w = s.graphBell w.toNat := by
  simp [State.windowWrite]

theorem State.windowWrite_mailbox (i : Fin 8) : s.windowWrite (0x10040 + 8 * i.val) w = s.writeMailbox (8 * i.val) w := by
  have aligned : (0x10040 + 8 * i.val) % 8 = 0 := by omega
  have here : 0x10040 + 8 * i.val < 0x10080 := by omega
  have past : ¬ 0x10040 + 8 * i.val = 0x10000 := by omega
  simp [State.windowWrite, aligned, here, past]

theorem State.windowWrite_trigger (n : Fin 8) : s.windowWrite (0x22000 + 32 * n.val) w = s.writeTctl n w := by
  have aligned : (0x22000 + 32 * n.val) % 8 = 0 := by omega
  have word : (0x22000 + 32 * n.val) / 8 % 4 = 0 := by omega
  have past : 0x22000 + 32 * n.val < 0x22100 := by omega
  have before : ¬ 0x22000 + 32 * n.val = 0x10000 ∧ ¬ 0x22000 + 32 * n.val < 0x10080 ∧ ¬ 0x22000 + 32 * n.val < 0x20200 ∧
      ¬ 0x22000 + 32 * n.val < 0x21200 := by omega
  simp [State.windowWrite, aligned, word, past, before, State.writeTrigger]

theorem State.windowWrite_bank {b : Nat} (h : b < 1866) : s.windowWrite (0x100000 + 32 * b) w = s.setMcb ((s.mcb b).writeStatus w) := by
  have aligned : (0x100000 + 32 * b) % 8 = 0 := by omega
  have word : (0x100000 + 32 * b) / 8 % 4 = 0 := by omega
  have before : ¬ 0x100000 + 32 * b = 0x10000 ∧ ¬ 0x100000 + 32 * b < 0x10080 ∧ ¬ 0x100000 + 32 * b < 0x20200 ∧
      ¬ 0x100000 + 32 * b < 0x21200 ∧ ¬ 0x100000 + 32 * b < 0x22100 ∧ ¬ 0x100000 + 32 * b = 0x30000 ∧ ¬ 0x100000 + 32 * b = 0x30008 := by omega
  have past : 0x100000 + 32 * b < 0x10E940 := by omega
  simp [State.windowWrite, aligned, word, before, past, bankCount, Mcb.write]

end

/-! ## Page migration (13 R281) -/

/-- Only the contexts differ, the current one and the others. -/
def State.ContextsOnly (s t : State) : Prop := t = { s with cx := t.cx, others := t.others }

theorem State.modCtx_contextsOnly (s : State) (r : CtxRef) (f : Ctx → Ctx) : s.ContextsOnly (s.modCtx r f) := rfl

theorem State.answerPage_contextsOnly (s : State) (pte : Nat) : s.ContextsOnly (s.answerPage pte) := by
  refine List.foldlRecOn _ _ (motive := s.ContextsOnly) rfl fun t only r _ => ?_
  unfold State.ContextsOnly at *
  rw [only]
  rfl

/-- A write at its home recalls copies of its lines. -/
theorem State.homeWrite_eq (s : State) (gs : List Seg) (bs : List Byte) :
    s.homeWrite gs bs = { s with lines := (s.homeWrite gs bs).lines, ports := (s.homeWrite gs bs).ports, mem := writeSegs s.mem gs bs } := by
  have recalled : s.FabricOnly (s.recallSegs gs) := .foldl (f := State.noteRecall) (fun s k => s.noteRecall_fabricOnly k) _ _
  unfold State.FabricOnly at recalled
  simp only [State.homeWrite]
  rw [recalled]
  rfl

theorem writeSegs_dword (m : List Host.Cell) (k : Nat) (w : Word) : writeSegs m [(k, 8)] (wordBytes w) = Memory.write m k (wordBytes w) := by
  simp [writeSegs, List.take_of_length_le]

/-- The bytes of the page whose leaf a migration names. -/
def pageSize (m : Migration) : Nat := if m.size = 0 then 0x10000 else if m.size = 1 then 2 ^ 21 else 2 ^ 30

/-- What keeps a page where it is (13 R278, R281, R282; 01 R22). -/
def State.pageStays (s : State) (m : Migration) (size : Nat) (e : Word) : Prop :=
  e.getLsbD 63 = false ∨ e.getLsbD 59 = false ∨ s.leafMalformed e size = true ∨ m.frame * 65536 % size ≠ 0 ∨
    (m.tier < 2 ∧ ∃ g ∈ s.retiredFrames, m.frame ≤ g ∧ g < m.frame + size / 65536) ∨ 3 ≤ m.tier ∨ 4 ≤ (field e 60 3).toNat ∨
    s.pinnedPage e = true

theorem exec_pageMigration (m : Migration) (s : State) : exec (.pageMigration m) s = execPageMigration m s := rfl

section
variable {s : State} {m : Migration} {k : Nat} (hk : k = devKey s.node m.leaf)
include hk

/-- While no migration of its page is under way, a request begins one unless the page stays. -/
theorem exec_pageMigration_idle {size : Nat} {e : Word} (hs : size = pageSize m) (he : e = BitVec.ofNat 64 (leNat (Memory.read s.mem k 8)))
    (idle : s.moving.find? (·.pte == k) = none) :
    (s.pageStays m size e → exec (.pageMigration m) s = .next s) ∧ (¬ s.pageStays m size e → exec (.pageMigration m) s = .next
      (s.beginMigration { pte := k, old := s.leafKey ⟨k, size, e⟩ 0, size := size, frame := m.frame, tier := m.tier } e)) := by
  rw [exec_pageMigration]
  unfold execPageMigration
  rw [pageSize] at hs
  simp only [← hk, ← hs, ← he, beq_iff_eq, idle]
  have stays : (!bit e 63 || !bit e 59 || s.leafMalformed e size || m.frame * 65536 % size != 0 || (decide (m.tier ≤ 1) &&
      s.retiredFrames.any fun g => decide (m.frame ≤ g) && decide (g < m.frame + size / 65536)) || decide (3 ≤ m.tier) ||
      decide (4 ≤ (field e 60 3).toNat) || s.pinnedPage e) = true ↔ s.pageStays m size e := by
    simp only [Bool.or_eq_true, Bool.and_eq_true, Bool.not_eq_true', decide_eq_true_eq, List.any_eq_true, bne_iff_ne, or_assoc, State.pageStays,
      Nat.lt_succ_iff, bit]
  exact ⟨fun h => by rw [if_pos (stays.mpr h)], fun h => by rw [if_neg (mt stays.mp h)]⟩

/-- While a migration of its page is under way, a request for another tier waits, and one for its tier ends it once no write is outstanding. -/
theorem exec_pageMigration_busy {x : Moving} (busy : s.moving.find? (·.pte == k) = some x) : exec (.pageMigration m) s = .next
    (if x.tier ≠ m.tier then { s with migrations := if s.migrations.contains (k, m.tier) then s.migrations else s.migrations ++ [(k, m.tier)] }
      else if s.writesTo x.old x.size then s else s.endMigration x) := by
  rw [exec_pageMigration]
  unfold execPageMigration
  simp only [← hk, busy, bne_iff_ne]

end

/-- A migration that begins marks the leaf and drops its translations. -/
theorem State.beginMigration_eq (s : State) (m : Moving) (e : Word) : s.beginMigration m e =
    { s with lines := (s.beginMigration m e).lines, ports := (s.beginMigration m e).ports,
             mem := Memory.write s.mem m.pte (wordBytes (putField (putField e 60 (4 : BitVec 3)) 7 (0 : BitVec 9)))
             moving := s.moving ++ [m], tlbs := s.tlbs.filter fun x => x.pte != m.pte } := by
  simp only [State.beginMigration, State.dropPte]
  rw [State.homeWrite_eq, writeSegs_dword]

theorem State.homeWrite_dword (s : State) (k : Nat) (w : Word) : (s.homeWrite [(k, 8)] (wordBytes w)).mem = Memory.write s.mem k (wordBytes w) ∧
    (s.homeWrite [(k, 8)] (wordBytes w)).tlbs = s.tlbs := by
  rw [State.homeWrite_eq, writeSegs_dword]
  exact ⟨rfl, rfl⟩

/-- What a migration that ends leaves in memory, in the translation caches and among the migrations. -/
theorem State.endMigration_leaves (s : State) (m : Moving) :
    let e := BitVec.ofNat 64 (leNat (Memory.read s.mem m.pte 8))
    (s.endMigration m).mem = Memory.write (copyCells s.mem m.old (m.new s.node) m.size) m.pte
        (wordBytes (putField (putField e 60 (BitVec.ofNat 3 m.tier)) 16 (BitVec.ofNat 36 m.frame))) ∧
      (s.endMigration m).tlbs = s.tlbs.filter (fun x => x.pte != m.pte) ∧ (s.endMigration m).moving = s.moving.erase m ∧
      (s.endMigration m).migrations = s.migrations.erase (m.pte, m.tier) := by
  intro e
  let e1 := putField (putField e 60 (BitVec.ofNat 3 m.tier)) 16 (BitVec.ofNat 36 m.frame)
  obtain ⟨mem, tlbs⟩ := (s.copyRange m.old (m.new s.node) m.size).homeWrite_dword m.pte e1
  have only := State.answerPage_contextsOnly
    (({ (s.copyRange m.old (m.new s.node) m.size).homeWrite [(m.pte, 8)] (wordBytes e1) with
        migrations := s.migrations.erase (m.pte, m.tier), moving := s.moving.erase m }.followPage m (m.new s.node)).dropPte m.pte) m.pte
  exact ⟨(congrArg State.mem only).trans mem, (congrArg State.tlbs only).trans (congrArg (List.filter _) tlbs), congrArg State.moving only,
    congrArg State.migrations only⟩

/-- The new entry names the frame and its tier. -/
theorem migratedEntry_fields (e : Word) (tier frame : Nat) :
    let e1 := putField (putField e 60 (BitVec.ofNat 3 tier)) 16 (BitVec.ofNat 36 frame)
    e1.extractLsb' 16 36 = BitVec.ofNat 36 frame ∧ (e1.extractLsb' 60 3).toNat = tier % 8 := by
  refine ⟨field_putField _ 16 _ (by omega), ?_⟩
  have tierKept : field (putField (putField e 60 (BitVec.ofNat 3 tier)) 16 (BitVec.ofNat 36 frame)) 60 3 = BitVec.ofNat 3 tier := by
    refine field_eq_of_bits _ _ _ fun i hi => ?_
    rw [getLsbD_putField _ _ _ _ (by omega), if_neg (by omega), getLsbD_putField _ _ _ _ (by omega), if_pos (by omega), Nat.add_sub_cancel_left]
  exact congrArg BitVec.toNat tierKept

end Sys2Proof.Machine

namespace Sys2Proof.Proofs

open Sys2Proof.Machine Sys2Proof.Safety

/-- Settles O51: the host's accesses by what they leave, the window's writes by their offsets, and a migration by whether one is under way. -/
theorem hostEvents : Obligations.HostEvents := by
  refine ⟨fun s line ex => ?snoop, exec_hostLoad, fun s pa bs => ?store, fun s pa op double x => exec_hostAtomic_performs s pa op double x,
    fun s off w => ?window, fun s m => ?migration⟩
  case snoop =>
    cases ex with
    | true => exact ⟨_, rfl, rfl, rfl, rfl, fun _ d hd => by simpa using (List.mem_filter.mp hd).2, nofun⟩
    | false =>
      refine ⟨_, rfl, rfl, rfl, rfl, nofun, fun _ d hd here => ?_⟩
      obtain ⟨d0, -, rfl⟩ := List.mem_map.mp hd
      by_cases same : (d0.line == lineOf (hostKey (line * 128))) = true
      · rw [if_pos same]
        cases d0.state <;> simp
      · rw [if_neg same] at here
        exact absurd (beq_iff_eq.mpr here) same
  case store =>
    obtain ⟨t, next, mem, cx⟩ := exec_hostStore s pa bs
    exact ⟨t, next, mem, cx, fun wf a out => by rw [mem]; exact Memory.get_write_other bs wf out⟩
  case window =>
    have window (off : Nat) := exec_registerWindowWrite off w s
    refine ⟨fun unaligned => ?_, fun one => ?_, fun other => ?_, ?_, ?_, fun i => ?_, fun n => ?_, fun b hb => ?_⟩
    · rw [window, s.windowWrite_unaligned w unaligned]
    · rw [one]; rfl
    · rw [window, s.windowWrite_other other]
    · rw [window, s.windowWrite_launch w]; rfl
    · rw [window, s.windowWrite_graph w]; rfl
    · rw [window, s.windowWrite_mailbox w i]
      exact ⟨_, rfl, s.writeMailbox_mem _ w, fun j => s.mailbox_writeMailbox i w j⟩
    · rw [window, s.windowWrite_trigger w n]
      show _ = Host.Outcome.next (if h : n.val < 8 then s.writeTctl ⟨n.val, h⟩ w else s)
      rw [dif_pos n.isLt]
    · rw [window, s.windowWrite_bank w hb]
      exact congrArg Host.Outcome.next (if_pos hb).symm
  case migration =>
    intro k
    have hk : k = devKey s.node m.leaf := rfl
    clear_value k
    intro e size
    have idle (h : s.moving.find? (·.pte == k) = none) := exec_pageMigration_idle hk (size := size) (e := e) rfl rfl h
    refine ⟨fun free present writable sound aligned tier retired device pinned => ?begins, fun free held => ?stays, fun x busy => ?_⟩
    case begins =>
      have moves : ¬ s.pageStays m size e := by
        have inService : ¬ (m.tier < 2 ∧ ∃ g ∈ s.retiredFrames, m.frame ≤ g ∧ g < m.frame + size / 65536) := fun ⟨low, g, hg, first, last⟩ =>
          (retired low g hg).elim (Nat.not_lt.mpr first) (Nat.not_le.mpr last)
        have low : ¬ 4 ≤ (field e 60 3).toNat := Nat.not_le.mpr device
        simp only [State.pageStays, present, writable, sound, aligned, inService, Nat.not_le.mpr tier, low, pinned, Bool.true_eq_false,
          Bool.false_eq_true, ne_eq, not_true, or_self, not_false_eq_true]
      refine ⟨_, (idle free).2 moves, ?_⟩
      rw [State.beginMigration_eq]
      exact ⟨rfl, rfl, fun x hx => by simpa using (List.mem_filter.mp hx).2, rfl⟩
    case stays =>
      refine (idle free).1 ?_
      obtain absent | away | pinned | beyond | retired := held
      · exact .inl absent
      · exact .inr (.inr (.inr (.inr (.inr (.inr (.inl away))))))
      · exact .inr (.inr (.inr (.inr (.inr (.inr (.inr pinned))))))
      · exact .inr (.inr (.inr (.inr (.inr (.inl beyond)))))
      · exact .inr (.inr (.inr (.inr (.inl retired))))
    have pte : x.pte = k := by simpa using List.find?_some busy
    have performs := exec_pageMigration_busy hk busy
    refine ⟨fun other => ?waits, fun same writes => ?outstanding, fun same quiet => ?ends⟩
    case waits =>
      rw [if_pos other] at performs
      refine ⟨_, performs, rfl, ?_, rfl⟩
      dsimp only
      split
      · next queued => simpa using queued
      · simp
    case outstanding => rw [performs, if_neg (not_not.mpr same), if_pos writes]
    case ends =>
      obtain ⟨mem, tlbs, moving, migrations⟩ := s.endMigration_leaves x
      obtain ⟨frame, tier⟩ := migratedEntry_fields (BitVec.ofNat 64 (leNat (Memory.read s.mem x.pte 8))) x.tier x.frame
      rw [if_neg (not_not.mpr same), if_neg (by simp [quiet])] at performs
      refine ⟨_, performs, ?_, moving, pte ▸ migrations, _, frame, tier, ?_⟩
      · rw [tlbs, pte]
        exact fun y hy => by simpa using (List.mem_filter.mp hy).2
      · rw [mem, pte, Moving.new]
        simp only [beq_iff_eq]

end Sys2Proof.Proofs
end


section
/-! PROOFS. The memory invariant after reset (12 R248). -/

namespace Sys2Proof.Proofs

open Sys2Proof.Machine Sys2Proof.Safety

/-- Settles O60: after reset no byte is listed. -/
theorem invAtReset : Obligations.InvAtReset :=
  rfl

end Sys2Proof.Proofs
end


section
/-! PROOFS. The memory invariant (12 R248, log entry 2), from its base. Each function of the model either leaves memory as it is (`f_mem`) or
changes it through `Memory.set`, `Memory.write` or a filter of the cells alone, and so keeps it canonical (`f_wf`); what a function answers in
place of a state has a predicate `Canonical`. The sections below go through the model in its own order. -/

namespace Sys2Proof.Machine

open Sys2Proof.Safety

/-! ## Operations on the list of cells -/

theorem Memory.wfAbove_filter (p : Host.Cell → Bool) (m : List Host.Cell) :
    ∀ lo, Memory.wfAbove lo m = true → Memory.wfAbove lo (m.filter p) = true := by
  induction m with
  | nil => exact fun _ h => h
  | cons c r ih =>
    intro lo h
    have h' := h
    simp only [Memory.wfAbove, Bool.and_eq_true] at h
    obtain ⟨⟨above, set⟩, rest⟩ := h
    cases keep : p c with
    | true =>
      rw [List.filter_cons_of_pos keep]
      simp only [Memory.wfAbove, Bool.and_eq_true]
      exact ⟨⟨above, set⟩, ih _ rest⟩
    | false =>
      rw [List.filter_cons_of_neg (by simp [keep])]
      refine ih _ (Memory.wfAbove_mono (fun a ha l hl => ?_) rest)
      subst hl
      exact Nat.lt_trans (by simpa using above) (ha c.1 rfl)

@[simp] theorem Memory.wf_filter (p : Host.Cell → Bool) {m : List Host.Cell} (h : Memory.wf m = true) : Memory.wf (m.filter p) = true :=
  Memory.wfAbove_filter p m none h

theorem Memory.wf_foldl_set {α : Type} (key : α → Nat) (byte : α → Byte) (l : List α) {m : List Host.Cell} (h : Memory.wf m = true) :
    Memory.wf (l.foldl (fun m x => Memory.set m (key x) (byte x)) m) = true :=
  List.foldlRecOn _ _ (motive := fun m => Memory.wf m = true) h fun _ hm _ _ => Memory.wf_set _ _ hm

@[simp] theorem copyCells_wf {m : List Host.Cell} (src dst n : Nat) (h : Memory.wf m = true) : Memory.wf (copyCells m src dst n) = true :=
  Memory.wf_foldl_set _ _ _ (Memory.wf_filter _ h)

@[simp] theorem updateUnit_wf {m : List Host.Cell} (f : BitVec 4) (keys : List Nat) (src : List Byte) (h : Memory.wf m = true) :
    Memory.wf (updateUnit f m keys src) = true := Memory.wf_foldl_set _ _ _ h

/-! ## Outcomes: the state that one leaves has canonical memory -/

/-- Wherever a body ends, memory is canonical. -/
def Done.Canonical : Done → Prop
  | .next s _ | .wait s | .stop s | .last s => Memory.wf s.mem = true

/-- A range that is found leaves canonical memory. -/
def Ranged.Canonical : Ranged → Prop
  | .ok s _ => Memory.wf s.mem = true
  | .fail _ => True

/-- A translation that succeeds leaves canonical memory. -/
def Translated.Canonical : Translated → Prop
  | .ok s _ => Memory.wf s.mem = true
  | .fail _ => True

/-- A handed-over instruction leaves canonical memory. -/
def Handed.Canonical : Handed → Prop
  | .over s | .waits s => Memory.wf s.mem = true
  | .stays | .fails _ => True

/-- What is carried off leaves canonical memory. -/
def Carried.Canonical : Carried → Prop
  | .gone s => Memory.wf s.mem = true
  | .waits | .failed _ => True

/-- A dequeue leaves canonical memory. -/
def Dequeued.Canonical : Dequeued → Prop
  | .taken s | .left s => Memory.wf s.mem = true

/-- A decision taken here leaves canonical memory. -/
def Decided.Canonical : Decided → Prop
  | .here s _ => Memory.wf s.mem = true
  | .away _ => True

/-- A destination's end leaves canonical memory. -/
def DestEnd.Canonical : DestEnd → Prop
  | .written s | .denied s _ _ => Memory.wf s.mem = true

/-- A unit that moved leaves canonical memory. -/
def UnitEnd.Canonical : UnitEnd → Prop
  | .moved s => Memory.wf s.mem = true
  | .waits | .failed _ => True

/-- A run of a copy leaves canonical memory. -/
def CopyRun.Canonical : CopyRun → Prop
  | .under s | .ended s _ => Memory.wf s.mem = true

/-- What the control unit meets leaves canonical memory. -/
def Turn.Canonical : Turn → Prop
  | .none s | .run _ s => Memory.wf s.mem = true

/-- What is due leaves canonical memory. -/
def Due.Canonical : Due → Prop
  | .event _ s | .lost s | .cycle s => Memory.wf s.mem = true
  | .wrong => True

@[simp] theorem Done.canonical_next (s : State) (pc : Word) : (Done.next s pc).Canonical ↔ Memory.wf s.mem = true := Iff.rfl
@[simp] theorem Done.canonical_wait (s : State) : (Done.wait s).Canonical ↔ Memory.wf s.mem = true := Iff.rfl
@[simp] theorem Done.canonical_stop (s : State) : (Done.stop s).Canonical ↔ Memory.wf s.mem = true := Iff.rfl
@[simp] theorem Done.canonical_last (s : State) : (Done.last s).Canonical ↔ Memory.wf s.mem = true := Iff.rfl
@[simp] theorem Ranged.canonical_ok (s : State) (gs) : (Ranged.ok s gs).Canonical ↔ Memory.wf s.mem = true := Iff.rfl
@[simp] theorem Ranged.canonical_fail (f) : (Ranged.fail f).Canonical ↔ True := Iff.rfl
@[simp] theorem Translated.canonical_ok (s : State) (gs) : (Translated.ok s gs).Canonical ↔ Memory.wf s.mem = true := Iff.rfl
@[simp] theorem Translated.canonical_fail (f) : (Translated.fail f).Canonical ↔ True := Iff.rfl
@[simp] theorem Handed.canonical_over (s : State) : (Handed.over s).Canonical ↔ Memory.wf s.mem = true := Iff.rfl
@[simp] theorem Handed.canonical_waits (s : State) : (Handed.waits s).Canonical ↔ Memory.wf s.mem = true := Iff.rfl
@[simp] theorem Handed.canonical_stays : (Handed.stays).Canonical ↔ True := Iff.rfl
@[simp] theorem Handed.canonical_fails (f) : (Handed.fails f).Canonical ↔ True := Iff.rfl
@[simp] theorem Carried.canonical_gone (s : State) : (Carried.gone s).Canonical ↔ Memory.wf s.mem = true := Iff.rfl
@[simp] theorem Carried.canonical_waits : (Carried.waits).Canonical ↔ True := Iff.rfl
@[simp] theorem Carried.canonical_failed (f) : (Carried.failed f).Canonical ↔ True := Iff.rfl
@[simp] theorem Dequeued.canonical_taken (s : State) : (Dequeued.taken s).Canonical ↔ Memory.wf s.mem = true := Iff.rfl
@[simp] theorem Dequeued.canonical_left (s : State) : (Dequeued.left s).Canonical ↔ Memory.wf s.mem = true := Iff.rfl
@[simp] theorem Decided.canonical_here (s : State) (a) : (Decided.here s a).Canonical ↔ Memory.wf s.mem = true := Iff.rfl
@[simp] theorem Decided.canonical_away (n) : (Decided.away n).Canonical ↔ True := Iff.rfl
@[simp] theorem DestEnd.canonical_written (s : State) : (DestEnd.written s).Canonical ↔ Memory.wf s.mem = true := Iff.rfl
@[simp] theorem DestEnd.canonical_denied (s : State) (c v) : (DestEnd.denied s c v).Canonical ↔ Memory.wf s.mem = true := Iff.rfl
@[simp] theorem UnitEnd.canonical_moved (s : State) : (UnitEnd.moved s).Canonical ↔ Memory.wf s.mem = true := Iff.rfl
@[simp] theorem UnitEnd.canonical_waits : (UnitEnd.waits).Canonical ↔ True := Iff.rfl
@[simp] theorem UnitEnd.canonical_failed (f) : (UnitEnd.failed f).Canonical ↔ True := Iff.rfl
@[simp] theorem CopyRun.canonical_under (s : State) : (CopyRun.under s).Canonical ↔ Memory.wf s.mem = true := Iff.rfl
@[simp] theorem CopyRun.canonical_ended (s : State) (f) : (CopyRun.ended s f).Canonical ↔ Memory.wf s.mem = true := Iff.rfl
@[simp] theorem Turn.canonical_none (s : State) : (Turn.none s).Canonical ↔ Memory.wf s.mem = true := Iff.rfl
@[simp] theorem Turn.canonical_run (s : State) (i) : (Turn.run i s).Canonical ↔ Memory.wf s.mem = true := Iff.rfl
@[simp] theorem Due.canonical_event (s : State) (i) : (Due.event i s).Canonical ↔ Memory.wf s.mem = true := Iff.rfl
@[simp] theorem Due.canonical_lost (s : State) : (Due.lost s).Canonical ↔ Memory.wf s.mem = true := Iff.rfl
@[simp] theorem Due.canonical_cycle (s : State) : (Due.cycle s).Canonical ↔ Memory.wf s.mem = true := Iff.rfl
@[simp] theorem Due.canonical_wrong : (Due.wrong).Canonical ↔ True := Iff.rfl

/-! ## Folds over a state -/

@[simp] theorem foldl_mem {α : Type} {f : State → α → State} (hf : ∀ s x, (f s x).mem = s.mem) (l : List α) (s : State) :
    (l.foldl f s).mem = s.mem :=
  List.foldlRecOn l f (motive := fun u : State => u.mem = s.mem) rfl fun u hu x _ => (hf u x).trans hu

theorem foldl_wf {α : Type} {f : State → α → State} (hf : ∀ s x, Memory.wf s.mem = true → Memory.wf (f s x).mem = true) (l : List α)
    (s : State) (h : Memory.wf s.mem = true) : Memory.wf (l.foldl f s).mem = true :=
  List.foldlRecOn l f (motive := fun u : State => Memory.wf u.mem = true) h fun u hu x _ => hf u x hu

/-- `Memory.wf_write` as a rule of the simplifier. -/
@[simp] theorem Memory.wf_write' {m : List Host.Cell} (k : Nat) (bs : List Byte) (h : Memory.wf m = true) :
    Memory.wf (Memory.write m k bs) = true := Memory.wf_write k bs h

/-- `writeSegs_wf` as a rule of the simplifier. -/
@[simp] theorem writeSegs_wf' {m : List Host.Cell} (gs : List Seg) (bs : List Byte) (h : Memory.wf m = true) : Memory.wf (writeSegs m gs bs) = true :=
  writeSegs_wf gs bs h

end Sys2Proof.Machine
end

section
/-! PROOFS. What keeps memory canonical (12 R248): packets sent (23). -/

namespace Sys2Proof.Machine

open Sys2Proof.Safety

@[simp] theorem State.setPort_mem (s : State) (n p) : (s.setPort n p).mem = s.mem := by
  unfold State.setPort
  split <;> rfl

@[simp] theorem State.sendTo_mem (s : State) (x payload o) : (s.sendTo x payload o).mem = s.mem := by
  unfold State.sendTo
  split <;> simp

end Sys2Proof.Machine
end

section
/-! PROOFS. What keeps memory canonical (12 R248): translation, accesses and machine checks (12 R247 to R252; 13). -/

namespace Sys2Proof.Machine

open Sys2Proof.Safety

theorem State.focus_mem {s : State} {r : CtxRef} {t : State} (e : s.focus r = some t) : t.mem = s.mem := by
  grind [State.focus]

@[simp] theorem State.mapCtxs_mem (s : State) (f) : (s.mapCtxs f).mem = s.mem := rfl

@[simp] theorem State.modCtx_mem (s : State) (r f) : (s.modCtx r f).mem = s.mem := rfl

@[simp] theorem State.pass_mem (s : State) : s.pass.mem = s.mem := rfl

@[simp] theorem State.noteRead_mem (s : State) (sharer k) : (s.noteRead sharer k).mem = s.mem := by
  grind [State.noteRead]

@[simp] theorem State.noteWrite_mem (s : State) (sharer k) : (s.noteWrite sharer k).mem = s.mem := by
  unfold State.noteWrite
  split <;> rfl

@[simp] theorem State.noteRecall_mem (s : State) (k) : (s.noteRecall k).mem = s.mem := rfl

@[simp] theorem State.recallSegs_mem (s : State) (gs) : (s.recallSegs gs).mem = s.mem := by
  grind [State.recallSegs, State.noteRecall_mem, foldl_mem]

@[simp] theorem State.homeWrite_wf {s : State} (h : Memory.wf s.mem = true) (gs bs whole) : Memory.wf (s.homeWrite gs bs whole).mem = true := by
  simp [State.homeWrite, h]

@[simp] theorem State.ask_mem (s : State) (n g x y z payload) : (s.ask n g x y z payload).mem = s.mem := by
  simp [State.ask]

@[simp] theorem State.askLoads_mem (s : State) (gs) : (s.askLoads gs).mem = s.mem := by
  simp [State.askLoads]

@[simp] theorem State.askStores_mem (s : State) (gs bs) : (s.askStores gs bs).mem = s.mem := by
  induction gs generalizing s bs with
  | nil => rfl
  | cons g r ih => simp [State.askStores, ih]

@[simp] theorem State.tlbFill_mem (s : State) (cache asid va l) : (s.tlbFill cache asid va l).mem = s.mem := rfl

@[simp] theorem State.putPte_wf {s : State} (h : Memory.wf s.mem = true) (l k) : Memory.wf (s.putPte l k).mem = true := by
  unfold State.putPte
  split <;> simp [h]

@[simp] theorem State.translate_wf {s : State} (h : Memory.wf s.mem = true) (cache sp va k) : (s.translate cache sp va k).Canonical := by
  grind [State.translate, State.putPte_wf, State.tlbFill_mem, Translated.canonical_ok, Translated.canonical_fail]

@[simp] theorem State.translateRange_wf {s : State} (h : Memory.wf s.mem = true) (cache sp va len k fuel) :
    (s.translateRange cache sp va len k fuel).Canonical := by
  induction fuel generalizing s va len with
  | zero => exact h
  | succ fuel ih => grind [State.translateRange, State.translate_wf, Translated.canonical_ok, Ranged.canonical_ok, Ranged.canonical_fail]

@[simp] theorem Ranged.asked_wf {x : Ranged} (h : x.Canonical) (f k) : (x.asked f k).Canonical := by
  cases x with
  | fail e => trivial
  | ok s gs => grind [Ranged.asked, State.askLoads_mem, Ranged.canonical_ok, Ranged.canonical_fail]

@[simp] theorem State.mapRange_wf {s : State} (h : Memory.wf s.mem = true) (cache f len k onlyVirt) :
    (s.mapRange cache f len k onlyVirt).Canonical := by
  unfold State.mapRange
  split <;> simp [h]

@[simp] theorem State.agentAccess_wf {s : State} (h : Memory.wf s.mem = true) (sp a len k cache) : (s.agentAccess sp a len k cache).Canonical := by
  grind [State.agentAccess, State.translateRange_wf, Ranged.canonical_fail]

theorem State.agentRead_wf {s : State} {sp : Space} {a : Word} {len : Nat} (h : Memory.wf s.mem = true) {t : State} {x : List Byte}
    (e : s.agentRead sp a len = .ok (t, x)) : Memory.wf t.mem = true := by
  grind [State.agentRead, State.agentAccess_wf, Ranged.canonical_ok]

theorem State.agentWrite_wf {s : State} {sp : Space} {a : Word} {bs : List Byte} (h : Memory.wf s.mem = true) {t : State}
    (e : s.agentWrite sp a bs = .ok t) : Memory.wf t.mem = true := by
  grind [State.agentWrite, State.agentAccess_wf, State.homeWrite_wf, Ranged.canonical_ok]

@[simp] theorem State.agentPut_wf {s : State} (h : Memory.wf s.mem = true) (sp a x) : Memory.wf (s.agentPut sp a x).mem = true := by
  grind [State.agentPut, → State.agentWrite_wf]

@[simp] theorem State.setMcb_mem (s : State) (b) : (s.setMcb b).mem = s.mem := rfl

@[simp] theorem State.notify_mem (s : State) (bank when) : (s.notify bank when).mem = s.mem := by
  unfold State.notify
  split <;> rfl

@[simp] theorem State.countCorrected_mem (s : State) (bank) : (s.countCorrected bank).mem = s.mem := by
  simp [State.countCorrected]

@[simp] theorem State.machineCheck_mem (s : State) (bank c) : (s.machineCheck bank c).mem = s.mem := by
  unfold State.machineCheck
  (repeat' split) <;> simp

@[simp] theorem State.clearInj_mem (s : State) (bank) : (s.clearInj bank).mem = s.mem := rfl

@[simp] theorem State.sliceCheck_mem (s : State) (a info) : (s.sliceCheck a info).mem = s.mem := by
  simp [State.sliceCheck]

@[simp] theorem Ranged.checked_wf {x : Ranged} (h : x.Canonical) (f k) : (x.checked f k).Canonical := by
  cases x with
  | fail e => trivial
  | ok s gs =>
    simp only [Ranged.checked]
    split
    · trivial
    · exact h

@[simp] theorem State.access_wf {s : State} (h : Memory.wf s.mem = true) (cache f len k onlyVirt) :
    (s.access cache f len k onlyVirt).Canonical :=
  Ranged.checked_wf (Ranged.asked_wf (State.mapRange_wf h cache f len k onlyVirt) _ k) f k

@[simp] theorem State.wakeOther_mem (s : State) : s.wakeOther.mem = s.mem := by
  unfold State.wakeOther
  (repeat' split) <;> simp

@[simp] theorem State.takePageFault_mem (s : State) (l) : (s.takePageFault l).mem = s.mem := rfl

end Sys2Proof.Machine
end

section
/-! PROOFS. What keeps memory canonical (12 R248): captures (27 R494). -/

namespace Sys2Proof.Machine

open Sys2Proof.Safety

@[simp] theorem State.captureLaunch_mem (s : State) (id x launcher record table) : (s.captureLaunch id x launcher record table).mem = s.mem := rfl

@[simp] theorem State.captureWalk_mem (s : State) (g nnodes) : (s.captureWalk g nnodes).mem = s.mem := rfl

@[simp] theorem State.captureDone_mem (s : State) (id) : (s.captureDone id).mem = s.mem := rfl

@[simp] theorem State.noteUnordered_mem (s : State) (gs) : (s.noteUnordered gs).mem = s.mem := rfl

@[simp] theorem State.noteIf_mem (s : State) (p gs) : (s.noteIf p gs).mem = s.mem := by
  unfold State.noteIf
  split <;> rfl

@[simp] theorem State.captureNotes_mem (before : State) (s : State) : (before.captureNotes s).mem = s.mem := rfl

end Sys2Proof.Machine
end

section
/-! PROOFS. What keeps memory canonical (12 R248): a turn and how it ends (05 R95; 02 R46). -/

namespace Sys2Proof.Machine

open Sys2Proof.Safety

@[simp] theorem State.setBench_mem (s : State) (b) : (s.setBench b).mem = s.mem := rfl

@[simp] theorem State.watchdog_mem (s : State) : s.watchdog.mem = s.mem := by
  unfold State.watchdog
  split <;> rfl

@[simp] theorem State.notYet_mem (s : State) (y) : (s.notYet y).mem = s.mem := rfl

theorem State.turn_wf {s : State} {i : Instr} {g : Bool} {body : State → Done} (h : Memory.wf s.mem = true) (b : (body s).Canonical) :
    Memory.wf (s.turn i g body).mem = true := by
  obtain ⟨t, -, e⟩ | e | e | ⟨s1, pc, d, e⟩ | ⟨s1, d, e⟩ | ⟨s1, d, e⟩ | ⟨s1, d, e⟩ := s.turn_cases i g body
  case inl | inr.inl | inr.inr.inl => rw [e]; exact h
  all_goals rw [e]; rw [d] at b; exact b

@[simp] theorem State.set_wf {s : State} (h : Memory.wf s.mem = true) (c) : (s.set c).Canonical := by
  simp [State.set, h]

@[simp] theorem State.stopTrap_wf {s : State} (h : Memory.wf s.mem = true) (cause va) : (s.stopTrap cause va).Canonical := by
  simp [State.stopTrap, h]

@[simp] theorem State.waitFor_wf {s : State} (h : Memory.wf s.mem = true) (x) : (s.waitFor x).Canonical := by
  simp [State.waitFor, h]

@[simp] theorem State.stopFail_wf {s : State} (h : Memory.wf s.mem = true) (f) : (s.stopFail f).Canonical := by
  simp [State.stopFail, h]

@[simp] theorem State.badWord_mem (s : State) (w) : (s.badWord w).mem = s.mem := rfl

end Sys2Proof.Machine
end

section
/-! PROOFS. What keeps memory canonical (12 R248): CSRs (06 R137; 14 R317). -/

namespace Sys2Proof.Machine

open Sys2Proof.Safety

theorem State.withCsr_wf {s : State} (h : Memory.wf s.mem = true) {n : Nat} {k : Word → Done} (b : ∀ old, (k old).Canonical) :
    (s.withCsr n k).Canonical := by
  unfold State.withCsr
  (repeat' split) <;> simp [h, b]

@[simp] theorem State.noteCsr_mem (s : State) (n) : (s.noteCsr n).mem = s.mem := by
  unfold State.noteCsr
  split <;> rfl

@[simp] theorem State.putCsr_wf {s : State} (h : Memory.wf s.mem = true) (o n old new) : (s.putCsr o n old new).Canonical := by
  unfold State.putCsr
  split <;> simp [h]

@[simp] theorem State.submitCommand_wf {s : State} (h : Memory.wf s.mem = true) (o old) : (s.submitCommand o old).Canonical := by
  have access := State.access_wf h (some 0) (s.cx.sreg o.sa).toNat 64 .load true
  unfold State.submitCommand
  grind [State.stopFail_wf, Done.canonical_next, Ranged.canonical_ok]

end Sys2Proof.Machine
end

section
/-! PROOFS. What keeps memory canonical (12 R248): trace rings, triggers and samples (27). -/

namespace Sys2Proof.Machine

open Sys2Proof.Safety

@[simp] theorem State.tracePut_wf {s : State} (h : Memory.wf s.mem = true) (host a bs) : Memory.wf (s.tracePut host a bs).mem = true := by
  simp [State.tracePut, h]

@[simp] theorem State.traceWrite_wf {s : State} (h : Memory.wf s.mem = true) (ring bs) : Memory.wf (s.traceWrite ring bs).mem = true := by
  grind [State.traceWrite, State.tracePut_wf]

@[simp] theorem State.happens_mem (s : State) (x) : (s.happens x).mem = s.mem := by
  unfold State.happens
  split <;> rfl

@[simp] theorem State.event_mem (s : State) (c kind data) : (s.event c kind data).mem = s.mem := by
  simp [State.event]

@[simp] theorem State.settleTrigger_wf {s : State} (h : Memory.wf s.mem = true) (n) : Memory.wf (s.settleTrigger n).mem = true := by
  grind [State.settleTrigger, State.traceWrite_wf, foldl_wf]

@[simp] theorem State.settleTriggers_wf {s : State} (h : Memory.wf s.mem = true) : Memory.wf s.settleTriggers.mem = true := by
  grind [State.settleTriggers, State.settleTrigger_wf, foldl_wf]

@[simp] theorem State.stoppingEvent_mem (s : State) (kind data) : (s.stoppingEvent kind data).mem = s.mem := by
  unfold State.stoppingEvent
  split <;> simp

@[simp] theorem State.startActivation_mem (s : State) (cause entry) : (s.startActivation cause entry).1.mem = s.mem := by
  grind [State.startActivation, State.happens_mem, State.event_mem]

@[simp] theorem State.becomeIdle_mem (s : State) : s.becomeIdle.mem = s.mem := by
  grind [State.becomeIdle, State.event_mem]

@[simp] theorem State.flushTail_wf {s : State} (h : Memory.wf s.mem = true) (ring) : Memory.wf (s.flushTail ring).mem = true := by
  grind [State.flushTail, State.tracePut_wf]

@[simp] theorem State.sample_wf {s : State} (h : Memory.wf s.mem = true) (x) : Memory.wf (s.sample x).mem = true := by
  unfold State.sample
  (repeat' split) <;> simp [h]

@[simp] theorem State.traceCycle_wf {s : State} (h : Memory.wf s.mem = true) : Memory.wf s.traceCycle.mem = true := by
  grind [State.traceCycle, State.sample_wf, State.flushTail_wf, foldl_wf]

@[simp] theorem State.writeTctl_wf {s : State} (h : Memory.wf s.mem = true) (n w) : Memory.wf (s.writeTctl n w).mem = true := by
  grind [State.writeTctl, State.traceWrite_wf]

end Sys2Proof.Machine
end

section
/-! PROOFS. What keeps memory canonical (12 R248): scalar accesses, atomics and lines (06 R145; 12 R264 to R273). -/

namespace Sys2Proof.Machine

open Sys2Proof.Safety

theorem State.fetch_wf {s : State} (h : Memory.wf s.mem = true) {t : State} {w : Word} (e : s.fetch = .ok (t, w)) : Memory.wf t.mem = true := by
  have access := State.access_wf h (some 0) s.cx.pc.toNat 8 .fetch false
  unfold State.fetch at e
  split at e
  · cases e
  · next s1 gs ok =>
    rw [ok] at access
    split at e <;> cases e
    exact access

@[simp] theorem State.scalar_wf {s : State} (h : Memory.wf s.mem = true) (a bytes k) : (s.scalar a bytes k).Canonical := by
  unfold State.scalar
  (repeat' split) <;> simp [h]

theorem State.withLoad_wf {s : State} (h : Memory.wf s.mem = true) {a : Int} {n : Nat} {body : State → Nat → Done}
    (b : ∀ s x, Memory.wf s.mem = true → (body s x).Canonical) : (s.withLoad a n body).Canonical := by
  grind [State.withLoad, State.scalar_wf, State.stopFail_wf, State.noteRead_mem, Ranged.canonical_ok]

@[simp] theorem State.withStore_wf {s : State} (h : Memory.wf s.mem = true) (a bytes x) : (s.withStore a bytes x).Canonical := by
  grind [State.withStore, State.askStores_mem, State.noteWrite_mem, State.scalar_wf, State.stopFail_wf, Done.canonical_next, Ranged.canonical_ok,
    writeSegs_wf]

@[simp] theorem State.poisonRecord_mem (s : State) (k atHome info) : (s.poisonRecord k atHome info).mem = s.mem := by
  unfold State.poisonRecord
  split <;> simp

@[simp] theorem State.poisonCheck_mem (s : State) (k atHome) : (s.poisonCheck k atHome).mem = s.mem := by
  simp [State.poisonCheck]

@[simp] theorem State.askAtomic_mem (s : State) (gs op double x y) : (s.askAtomic gs op double x y).mem = s.mem := by
  simp [State.askAtomic]

theorem State.withAtomic_wf {s : State} (h : Memory.wf s.mem = true) {a : Word} {z : BitVec 2} {fadd : Bool} {ask : State → List Seg → State}
    {new : Nat → Option Nat} {body : State → Nat → Done} (asks : ∀ s gs, (ask s gs).mem = s.mem)
    (b : ∀ s x, Memory.wf s.mem = true → (body s x).Canonical) : (s.withAtomic a z fadd ask new body).Canonical := by
  grind [State.withAtomic, State.scalar_wf, State.stopFail_wf, State.noteWrite_mem, State.poisonCheck_mem, State.takeTrap_mem, State.noteIf_mem,
    writeSegs_wf, Ranged.canonical_ok, Done.canonical_stop]

@[simp] theorem State.takeAfter_mem (s : State) : s.takeAfter.mem = s.mem := by
  unfold State.takeAfter
  split <;> rfl

@[simp] theorem State.waitvRead_wf {s : State} (h : Memory.wf s.mem = true) (o gs g) : (s.waitvRead o gs g).Canonical := by
  unfold State.waitvRead
  (repeat' split) <;> simp [h]

@[simp] theorem State.rereadAway_wf {s : State} (h : Memory.wf s.mem = true) (o w g) : (s.rereadAway o w g).Canonical := by
  unfold State.rereadAway
  (repeat' split) <;> simp [h]

@[simp] theorem waitvBody_wf {s : State} (h : Memory.wf s.mem = true) (o) : (waitvBody o s).Canonical := by
  grind [waitvBody, State.waitvRead_wf, State.rereadAway_wf, State.scalar_wf, State.stopFail_wf, Done.canonical_wait, Ranged.canonical_ok]

@[simp] theorem State.writeBack_mem (s : State) (scope k) : (s.writeBack scope k).mem = s.mem := rfl

@[simp] theorem State.invalidate_mem (s : State) (scope k) : (s.invalidate scope k).mem = s.mem := rfl

end Sys2Proof.Machine
end

section
/-! PROOFS. What keeps memory canonical (12 R248): migration and the heap (13). -/

namespace Sys2Proof.Machine

open Sys2Proof.Safety

@[simp] theorem State.requestMigration_mem (s : State) (l tier) : (s.requestMigration l tier).mem = s.mem := by
  unfold State.requestMigration
  split <;> rfl

@[simp] theorem State.requestRange_mem (s : State) (tier va len fuel) : (s.requestRange tier va len fuel).mem = s.mem := by
  induction fuel generalizing s va len with
  | zero => rfl
  | succ fuel ih => grind [State.requestRange, State.requestMigration_mem]

@[simp] theorem State.copyRange_wf {s : State} (h : Memory.wf s.mem = true) (src dst n) : Memory.wf (s.copyRange src dst n).mem = true := by
  simp [State.copyRange, h]

@[simp] theorem State.dropPte_mem (s : State) (pte) : (s.dropPte pte).mem = s.mem := rfl

@[simp] theorem State.answerPage_mem (s : State) (pte) : (s.answerPage pte).mem = s.mem := by
  grind [State.answerPage, State.modCtx_mem, foldl_mem]

@[simp] theorem State.followPage_mem (s : State) (m new) : (s.followPage m new).mem = s.mem := rfl

@[simp] theorem State.endMigration_wf {s : State} (h : Memory.wf s.mem = true) (m) : Memory.wf (s.endMigration m).mem = true := by
  simp [State.endMigration, h]

@[simp] theorem State.beginMigration_wf {s : State} (h : Memory.wf s.mem = true) (m e) : Memory.wf (s.beginMigration m e).mem = true := by
  simp [State.beginMigration, h]

@[simp] theorem State.writeEntries_wf {s : State} (h : Memory.wf s.mem = true) (es) : Memory.wf (s.writeEntries es).mem = true := by
  grind [State.writeEntries, State.homeWrite_wf, State.dropPte_mem, foldl_wf]

@[simp] theorem State.stillUnmapped_mem (s : State) : s.stillUnmapped.mem = s.mem := rfl

@[simp] theorem State.putHeap_mem (s : State) (x) : (s.putHeap x).mem = s.mem := rfl

@[simp] theorem State.carve_mem (s : State) (x cls fuel) : (s.carve x cls fuel).1.mem = s.mem := by
  induction fuel generalizing s x with
  | zero => rfl
  | succ fuel ih =>
    unfold State.carve
    (repeat' split) <;> simp [ih]

@[simp] theorem State.alloc_mem (s : State) (x cls) : (s.alloc x cls).1.mem = s.mem := by
  unfold State.alloc
  generalize x.size / 2 ^ 21 + 1 = n
  split
  · rfl
  · generalize (fun h : Heap => (h.chunks.find? fun c => c.cls == cls && decide ((c.fresh + 1) * blockSize cls ≤ 2 ^ 21)).map fun c =>
      c.offset + c.fresh * blockSize cls) = fresh
    dsimp only
    cases fresh x with
    | some a => rfl
    | none =>
      have carved := s.carve_mem x cls n
      generalize s.carve x cls n = found at carved ⊢
      match found with
      | (s1, none) => exact carved
      | (s1, some x1) => cases e : fresh x1 <;> simpa [e] using carved

end Sys2Proof.Machine
end

section
/-! PROOFS. What keeps memory canonical (12 R248): the cohort directory (17). -/

namespace Sys2Proof.Machine

open Sys2Proof.Safety

@[simp] theorem State.putDir_mem (s : State) (d) : (s.putDir d).mem = s.mem := rfl

@[simp] theorem State.modDir_mem (s : State) (n f) : (s.modDir n f).mem = s.mem := rfl

@[simp] theorem State.modRegs_mem (s : State) (n f) : (s.modRegs n f).mem = s.mem := rfl

@[simp] theorem State.allocName_mem (s : State) (stage nmem number launch) : (s.allocName stage nmem number launch).1.mem = s.mem := by
  unfold State.allocName
  split <;> rfl

@[simp] theorem State.retireName_mem (s : State) (n) : (s.retireName n).mem = s.mem := rfl

end Sys2Proof.Machine
end

section
/-! PROOFS. What keeps memory canonical (12 R248): barrier blocks and units (18). -/

namespace Sys2Proof.Machine

open Sys2Proof.Safety

@[simp] theorem State.putBlock_wf {s : State} (h : Memory.wf s.mem = true) (k b) : Memory.wf (s.putBlock k b).mem = true := by
  simp [State.putBlock, h]

@[simp] theorem State.bindUnit_wf {s : State} (h : Memory.wf s.mem = true) (c k b) : Memory.wf (s.bindUnit c k b).mem = true := by
  simp [State.bindUnit, h]

@[simp] theorem State.keepBarrier_wf {s : State} (h : Memory.wf s.mem = true) (k b) : Memory.wf (s.keepBarrier k b).mem = true := by
  unfold State.keepBarrier
  (repeat' split) <;> simp [h]

@[simp] theorem State.rebind_wf {s : State} (h : Memory.wf s.mem = true) (k b) : Memory.wf (s.rebind k b).mem = true := by
  unfold State.rebind
  split <;> simp [h]

@[simp] theorem State.releaseUnits_wf {s : State} (h : Memory.wf s.mem = true) (owner) : Memory.wf (s.releaseUnits owner).mem = true := by
  grind [State.releaseUnits, State.putBlock_wf, foldl_wf]

theorem State.withHandle_wf {s : State} (h : Memory.wf s.mem = true) {a : Word} {body : State → Nat → Option Done}
    (b : ∀ s k, Memory.wf s.mem = true → ∀ d ∈ body s k, d.Canonical) : (s.withHandle a body).Canonical := by
  have access := State.access_wf h (some 0) a.toNat 64 .rmw true
  have trap := fun cause va => State.stopTrap_wf h cause va
  unfold State.withHandle
  split
  · exact trap _ _
  split
  · exact State.stopFail_wf h _
  · next s1 gs ok =>
    rw [ok] at access
    extract_lets k
    split
    · exact trap _ _
    split
    · simp [h]
    · cases d : body s1 k with
      | none => exact trap _ _
      | some d => exact b s1 k access _ ‹_›

@[simp] theorem State.operate_wf {s : State} (h : Memory.wf s.mem = true) (k b b1 drops) : Memory.wf (s.operate k b b1 drops).mem = true := by
  simp [State.operate, h]

@[simp] theorem State.settleBarriers_wf {s : State} (h : Memory.wf s.mem = true) : Memory.wf s.settleBarriers.mem = true := by
  grind [State.settleBarriers, State.keepBarrier_wf, foldl_wf]

theorem State.withBarrier_wf {s : State} (h : Memory.wf s.mem = true) {a : Word} {body : State → Nat → Barrier → Barrier → Option Done}
    (b : ∀ s k x y, Memory.wf s.mem = true → ∀ d ∈ body s k x y, d.Canonical) : (s.withBarrier a body).Canonical := by
  refine State.withHandle_wf h fun s k hs d hd => ?_
  grind

@[simp] theorem State.register_mem (s : State) (k) : (s.register k).mem = s.mem := rfl

@[simp] theorem State.unregister_mem (s : State) (n m k) : (s.unregister n m k).mem = s.mem := rfl

@[simp] theorem State.implicitDrop_wf {s : State} (h : Memory.wf s.mem = true) (n m k) : Memory.wf (s.implicitDrop n m k).1.mem = true := by
  grind [State.implicitDrop, State.poisonCheck_mem, State.unregister_mem, State.operate_wf]

@[simp] theorem State.implicitDrops_wf {s : State} (h : Memory.wf s.mem = true) (n m) : Memory.wf (s.implicitDrops n m).1.mem = true :=
  List.foldlRecOn _ _ (motive := fun x : State × Nat => Memory.wf x.1.mem = true) h fun _ hx r _ => State.implicitDrop_wf hx n m r.2

@[simp] theorem State.beginBarrier_wf {s : State} (h : Memory.wf s.mem = true) (k b) : Memory.wf (s.beginBarrier k b).mem = true := by
  simp [State.beginBarrier, h]

@[simp] theorem State.barrierWait_wf {s : State} (h : Memory.wf s.mem = true) : s.barrierWait.Canonical := by
  simp [State.barrierWait, h]

@[simp] theorem barwBody_wf {s : State} (h : Memory.wf s.mem = true) (o) : (barwBody o s).Canonical := by
  refine State.withBarrier_wf h fun s k x y hs d hd => ?_
  split at hd
  · cases hd; simp [hs]
  · split at hd <;> cases hd
    simp [hs]

@[simp] theorem barvwBody_wf {s : State} (h : Memory.wf s.mem = true) (o) : (barvwBody o s).Canonical := by
  refine State.withBarrier_wf h fun s k x y hs d hd => ?_
  simp only at hd
  split at hd
  · split at hd <;> cases hd
    simp [hs]
  · split at hd
    · cases hd; simp [hs]
    · split at hd <;> cases hd
      simp [hs]

end Sys2Proof.Machine
end

section
/-! PROOFS. What keeps memory canonical (12 R248): forwarding (02 R39). -/

namespace Sys2Proof.Machine

open Sys2Proof.Safety

@[simp] theorem State.forwarded_mem (s : State) (q e) : (s.forwarded q e).mem = s.mem := rfl

@[simp] theorem State.forwardTurn_mem (s : State) (q i g check) {apply : State → State} (ha : ∀ s, (apply s).mem = s.mem) :
    (s.forwardTurn q i g check apply).mem = s.mem := by
  grind [State.forwardTurn, State.takeTrap_mem, State.stalled_mem, State.forwarded_mem]

end Sys2Proof.Machine
end

section
/-! PROOFS. What keeps memory canonical (12 R248): the load and store engines (07). -/

namespace Sys2Proof.Machine

open Sys2Proof.Safety

@[simp] theorem State.prefetch_wf {s : State} (h : Memory.wf s.mem = true) (cache va up) : Memory.wf (s.prefetch cache va up).mem = true := by
  grind [State.prefetch, State.putPte_wf, State.tlbFill_mem]

theorem State.reach_wf {s : State} {e : Entry} {a : Int} {len : Nat} {k : Access} (h : Memory.wf s.mem = true) {t : State} {x : List Seg}
    (e : s.reach e a len k = .ok (t, x)) : Memory.wf t.mem = true := by
  grind [State.reach, State.access_wf, State.prefetch_wf, Ranged.canonical_ok]

theorem State.loadRow_wf {s : State} (h : Memory.wf s.mem = true) {e : Entry} {a : Int} {len : Nat} {t : State} {bs : List Byte}
    (loaded : s.loadRow e a len = .ok (t, bs)) : Memory.wf t.mem = true := by
  unfold State.loadRow at loaded
  split at loaded
  · cases loaded
  · next s1 gs reached =>
    have h1 := State.reach_wf h reached
    split at loaded <;> cases loaded
    split <;> simp [h1]

theorem State.storeRow_wf {s : State} (h : Memory.wf s.mem = true) {e : Entry} {a : Int} {bs : List Byte} {t : State} {gs : List Seg}
    (stored : s.storeRow e a bs = .ok (t, gs)) : Memory.wf t.mem = true := by
  unfold State.storeRow at stored
  split at stored
  · cases stored
  · next s1 gs' reached =>
    have h1 := State.reach_wf h reached
    cases stored
    exact writeSegs_wf _ _ (by simp [h1])

@[simp] theorem State.putTile_wf {s : State} (h : Memory.wf s.mem = true) (n off bs) : Memory.wf (s.putTile n off bs).mem = true := by
  simp [State.putTile, h]

theorem State.moveRow_wf {s : State} (h : Memory.wf s.mem = true) {e : Entry} {x : Shape} {i : Nat} {t : State} {gs : List Seg}
    (moved : s.moveRow e x i = .ok (t, gs)) : Memory.wf t.mem = true := by
  simp only [State.moveRow] at moved
  split at moved
  -- TLD, TCPY, TLDV, VLDB: a run loaded, to a tile or a register
  case h_1 | h_2 | h_4 | h_5 =>
    obtain ⟨⟨s1, bs⟩, loaded, rest⟩ := except_bind_ok moved
    have h1 := State.loadRow_wf h loaded
    cases rest
    simp [h1]
  -- TLDX: element by element
  case h_3 =>
    obtain ⟨⟨s1, bs⟩, loaded, rest⟩ := except_bind_ok moved
    cases rest
    exact foldl_wf (fun s k hs => State.putTile_wf hs _ _ _) _ _ (State.loadRow_wf h loaded)
  -- TGATH, VGATH: at a gathered address
  case h_6 | h_7 =>
    obtain ⟨a, -, rest⟩ := except_bind_ok moved
    obtain ⟨⟨s1, bs⟩, loaded, rest⟩ := except_bind_ok rest
    have h1 := State.loadRow_wf h loaded
    cases rest
    simp [h1]
  -- TFILL, VLDT, VSTT and the rest: no access
  case h_8 | h_9 | h_13 | h_14 => cases moved; simp [h]
  -- TST, TSTV: a row stored
  case h_10 | h_11 => exact State.storeRow_wf h moved
  -- TSCAT
  case h_12 =>
    obtain ⟨a, -, stored⟩ := except_bind_ok moved
    exact State.storeRow_wf h stored

@[simp] theorem State.moveRows_wf {s : State} (h : Memory.wf s.mem = true) (e x i gs n) :
    Memory.wf (s.moveRows e x i gs n).1.mem = true := by
  induction n generalizing s i gs with
  | zero => exact h
  | succ n ih =>
    rw [State.moveRows]
    split
    · exact h
    · next s1 g moved => exact ih (State.moveRow_wf h moved) _ _

@[simp] theorem State.stopAt_mem (s : State) (q e k f) : (s.stopAt q e k f).mem = s.mem := by
  simp [State.stopAt]

@[simp] theorem State.spanNow_mem (s : State) (left whole) : (s.spanNow left whole).1.mem = s.mem := by
  unfold State.spanNow
  (repeat' split) <;> simp

@[simp] theorem State.transfer_wf {s0 : State} (h : Memory.wf s0.mem = true) (q e whole) : Memory.wf (s0.transfer q e whole).mem = true := by
  grind [State.transfer, State.stopAt_mem, State.spanNow_mem, State.moveRows_wf]

@[simp] theorem State.issueXfer_wf {s : State} (h : Memory.wf s.mem = true) (q e) : Memory.wf (s.issueXfer q e).mem = true := by
  unfold State.issueXfer
  split <;> simp [h]

@[simp] theorem setUnfold_mem (o) (s : State) : (setUnfold o s).mem = s.mem := rfl

end Sys2Proof.Machine
end

section
/-! PROOFS. What keeps memory canonical (12 R248): the vector engine (08). -/

namespace Sys2Proof.Machine

open Sys2Proof.Safety

@[simp] theorem State.deliverChannel_mem (s : State) (c next x) : (s.deliverChannel c next x).mem = s.mem := by
  unfold State.deliverChannel
  split <;> rfl

@[simp] theorem State.showSends_mem (s : State) (t) : (s.showSends t).mem = s.mem := by
  grind [State.showSends, State.deliverChannel_mem, foldl_mem]

@[simp] theorem State.showNow_mem (s : State) (t) : (s.showNow t).mem = s.mem := by
  simp [State.showNow]

@[simp] theorem State.issueVector_mem (s : State) (e) : (s.issueVector e).mem = s.mem := by
  grind [State.issueVector, State.takeTrap_mem]

end Sys2Proof.Machine
end

section
/-! PROOFS. What keeps memory canonical (12 R248): the matrix unit (10). -/

namespace Sys2Proof.Machine

open Sys2Proof.Safety

@[simp] theorem State.addChunks_mem (s : State) (e o c d) : (s.addChunks e o c d).mem = s.mem := rfl

@[simp] theorem State.runLevels_mem (s : State) : s.runLevels.mem = s.mem := rfl

@[simp] theorem State.grant_mem (s : State) (b e o) : (s.grant b e o).mem = s.mem := by
  grind [State.grant, State.setBench_mem, State.takeTrap_mem]

@[simp] theorem State.arbitrate_mem (s : State) (snap : State) (n) : (s.arbitrate snap n).mem = s.mem := by
  unfold State.arbitrate
  extract_lets b new ps
  split
  · rfl
  split
  · split <;> rfl
  -- the command that the arbiter picks is granted
  split
  · rfl
  split
  · rfl
  split
  · rfl
  · next s1 focus =>
    have same := State.focus_mem focus
    (repeat' split) <;> simp [same]

@[simp] theorem State.runChunks_mem (s : State) (e o c n) : (s.runChunks e o c n).1.mem = s.mem := by
  induction n generalizing s c with
  | zero => rfl
  | succ n ih => grind [State.runChunks, State.clearInj_mem, State.machineCheck_mem, State.takeTrap_mem, State.addChunks_mem]

@[simp] theorem State.endFetch_mem (s : State) (e o) : (s.endFetch e o).mem = s.mem := by
  grind [State.endFetch, State.runChunks_mem]

@[simp] theorem State.haltProduct_mem (s : State) : s.haltProduct.mem = s.mem := by
  grind [State.haltProduct, State.setBench_mem, State.runChunks_mem, State.endFetch_mem]

@[simp] theorem State.endJoin_wf {s : State} (h : Memory.wf s.mem = true) (e o) : Memory.wf (s.endJoin e o).mem = true := by
  grind [State.endJoin, State.putTile_wf, foldl_wf]

@[simp] theorem State.partitionError_mem (s : State) (e) : (s.partitionError e).mem = s.mem := by
  simp [State.partitionError]

@[simp] theorem State.issueJoin_mem (s : State) (e) : (s.issueJoin e).mem = s.mem := by
  grind [State.issueJoin, State.setBench_mem, State.takeTrap_mem, State.partitionError_mem]

@[simp] theorem State.productCompletion_mem (s : State) : s.productCompletion.mem = s.mem := by
  unfold State.productCompletion
  (repeat' split) <;> simp

end Sys2Proof.Machine
end

section
/-! PROOFS. What keeps memory canonical (12 R248): the message port and its packets (16 R324; 23). -/

namespace Sys2Proof.Machine

open Sys2Proof.Safety

@[simp] theorem State.logRecord_mem (s : State) (c item) : (s.logRecord c item).mem = s.mem := by
  unfold State.logRecord
  split <;> simp

theorem State.recordWrite_wf {s : State} {sp : Space} {a : Word} {bs : List Byte} (h : Memory.wf s.mem = true) {t : State}
    (e : s.recordWrite sp a bs = .ok t) : Memory.wf t.mem = true := by
  grind [State.recordWrite, State.agentAccess_wf, State.homeWrite_wf, Ranged.canonical_ok]

@[simp] theorem State.deviceWrite_wf {s : State} (h : Memory.wf s.mem = true) (c sp a bs item) :
    Memory.wf (s.deviceWrite c sp a bs item).mem = true := by
  grind [State.deviceWrite, → State.recordWrite_wf, State.logRecord_mem]

@[simp] theorem State.completePort_mem (s : State) (o) : (s.completePort o).mem = s.mem := by
  unfold State.completePort
  split <;> rfl

@[simp] theorem State.trapAfter_mem (s : State) (o cause info va) : (s.trapAfter o cause info va).mem = s.mem := by
  unfold State.trapAfter
  split <;> rfl

@[simp] theorem State.linkDone_wf {s : State} (h : Memory.wf s.mem = true) (x code) : Memory.wf (s.linkDone x code).mem = true := by
  grind [State.linkDone, State.deviceWrite_wf, foldl_wf]

@[simp] theorem State.landUnit_wf {s : State} (h : Memory.wf s.mem = true) (x) : Memory.wf (s.landUnit x).mem = true := by
  unfold State.landUnit
  split <;> simp [h]

@[simp] theorem State.breakCopy_mem (s : State) (num cause) : (s.breakCopy num cause).mem = s.mem := rfl

@[simp] theorem State.carry_wf {s : State} (h : Memory.wf s.mem = true) (x payload o vc dim) : (s.carry x payload o vc dim).Canonical := by
  grind [State.carry, State.setPort_mem, Carried.canonical_gone, Carried.canonical_waits, Carried.canonical_failed]

@[simp] theorem State.launchFlight_mem (s : State) (l o port) : (s.launchFlight l o port).mem = s.mem := rfl

@[simp] theorem State.respond_mem (s : State) (n x w data loc) : (s.respond n x w data loc).mem = s.mem := rfl

@[simp] theorem State.handOver_mem (s : State) : s.handOver.mem = s.mem := rfl

@[simp] theorem State.ringNow_mem (s : State) (e) : (s.ringNow e).mem = s.mem := rfl

theorem State.portRead_wf {s : State} (h : Memory.wf s.mem = true) {a : Word} {len : Nat} {v : Bool} {body : State → List Byte → Handed}
    (b : ∀ s bs, Memory.wf s.mem = true → (body s bs).Canonical) : (s.portRead a len v body).Canonical := by
  grind [State.portRead, State.access_wf, Ranged.canonical_ok, Handed.canonical_stays, Handed.canonical_fails]

theorem State.portWrite_wf {s : State} (h : Memory.wf s.mem = true) {a : Word} {bs : List Byte} {v : Bool} {body : State → Handed}
    (b : ∀ s, Memory.wf s.mem = true → (body s).Canonical) : (s.portWrite a bs v body).Canonical := by
  grind [State.portWrite, State.access_wf, State.homeWrite_wf, State.askStores_mem, Ranged.canonical_ok, Handed.canonical_stays,
    Handed.canonical_fails]

theorem State.portProbe_wf {s : State} {a : Word} {len : Nat} {next : Handed} (b : next.Canonical) : (s.portProbe a len next).Canonical := by
  grind [State.portProbe, Handed.canonical_stays, Handed.canonical_fails]

end Sys2Proof.Machine
end

section
/-! PROOFS. What keeps memory canonical (12 R248): tasks (16). -/

namespace Sys2Proof.Machine

open Sys2Proof.Safety

@[simp] theorem State.taskCompl_wf {s : State} (h : Memory.wf s.mem = true) (c sp rec status) :
    Memory.wf (s.taskCompl c sp rec status).mem = true := by
  grind [State.taskCompl, → State.agentRead_wf, State.deviceWrite_wf]

@[simp] theorem State.complLater_wf {s : State} (h : Memory.wf s.mem = true) (c sp rec status) :
    Memory.wf (s.complLater c sp rec status).mem = true := by
  unfold State.complLater
  split <;> simp [h]

@[simp] theorem State.taskWrite_wf {s : State} (h : Memory.wf s.mem = true) (c sp rec ws) : Memory.wf (s.taskWrite c sp rec ws).1.mem = true := by
  grind [State.taskWrite, State.agentAccess_wf, State.homeWrite_wf, State.logRecord_mem, State.complLater_wf, Ranged.canonical_ok, foldl_wf]

@[simp] theorem State.taskSettle_wf {s : State} (h : Memory.wf s.mem = true) (c sp rec ws status) :
    Memory.wf (s.taskSettle c sp rec ws status).mem = true := by
  grind [State.taskSettle, State.taskWrite_wf, State.taskCompl_wf, State.complLater_wf]

@[simp] theorem State.settleOwed_wf {s : State} (h : Memory.wf s.mem = true) : Memory.wf s.settleOwed.mem = true := by
  grind [State.settleOwed, State.taskSettle_wf, foldl_wf]

@[simp] theorem State.taskEnd_wf {s : State} (h : Memory.wf s.mem = true) (c sp rec status) : Memory.wf (s.taskEnd c sp rec status).mem = true := by
  simp [State.taskEnd, h]

@[simp] theorem State.taskFail_wf {s : State} (h : Memory.wf s.mem = true) (c sp rec status) : Memory.wf (s.taskFail c sp rec status).mem = true := by
  simp [State.taskFail, h]

@[simp] theorem State.endTask_wf {s : State} (h : Memory.wf s.mem = true) (status) : Memory.wf (s.endTask status).mem = true := by
  unfold State.endTask
  (repeat' split) <;> simp [h]

@[simp] theorem State.putRun_wf {s : State} (h : Memory.wf s.mem = true) (c off x) : Memory.wf (s.putRun c off x).mem = true := by
  simp [State.putRun, h]

@[simp] theorem State.bumpRun_wf {s : State} (h : Memory.wf s.mem = true) (c off) : Memory.wf (s.bumpRun c off).mem = true := by
  grind [State.bumpRun, State.putRun_wf, → State.agentRead_wf]

theorem State.refillStep_wf {s : State} (h : Memory.wf s.mem = true) {r : CtxRef} {t : State} (e : s.refillStep r = some t) :
    Memory.wf t.mem = true := by
  unfold State.refillStep at e
  split at e
  · cases e
  split at e
  · cases e
  split at e
  · cases e
  split at e
  · cases e
  split at e
  · cases e
  · next read =>
    cases e
    simp [State.agentRead_wf h read]

theorem State.refillOne_wf {s : State} (h : Memory.wf s.mem = true) (r) : Memory.wf (s.refillOne r).mem = true := by
  unfold State.refillOne
  cases e : s.refillStep r with
  | none => exact h
  | some t => exact State.refillStep_wf h e

@[simp] theorem State.refill_wf {s : State} (h : Memory.wf s.mem = true) (r n) : Memory.wf (s.refill r n).mem = true := by
  induction n generalizing s with
  | zero => exact h
  | succ n ih => grind [State.refill, State.refillStep_wf]

theorem State.enqueue_wf {s : State} (h : Memory.wf s.mem = true) {c : Ctx} {rec : Word} {t : State} (e : s.enqueue c rec = some t) :
    Memory.wf t.mem = true := by
  unfold State.enqueue at e
  extract_lets s1 c1 at e
  have h1 : Memory.wf s1.mem = true := State.refill_wf h _ _
  split at e
  · split at e <;> cases e
    exact h1
  · split at e
    · cases e; exact h1
    · split at e <;> cases e
      simp [h1]

theorem State.queueTask_wf {s : State} (h : Memory.wf s.mem = true) {c : Ctx} {rec : Word} {t : State} (e : s.queueTask c rec = some t) :
    Memory.wf t.mem = true := by
  obtain ⟨s1, enqueued, rfl⟩ := Option.map_eq_some_iff.mp e
  exact State.taskWrite_wf (State.enqueue_wf h enqueued) _ _ _ _

@[simp] theorem State.taskArrival_wf {s : State} (h : Memory.wf s.mem = true) (c a) : Memory.wf (s.taskArrival c a).1.mem = true := by
  unfold State.taskArrival
  split
  · exact h
  split
  · simp [h]
  · next s1 bs read =>
    have h1 := State.agentRead_wf h read
    extract_lets off k setTo reached n
    have wset (x) : Memory.wf (setTo x).mem = true := Memory.wf_write _ _ h1
    have wreached : Memory.wf reached.1.mem = true := by
      simp only [reached]
      split
      · exact h
      · exact State.queueTask_wf (wset 0) ‹_›
    clear_value setTo reached
    (repeat' split) <;> simp [h1, wset, wreached]

@[simp] theorem State.dequeue_wf {s : State} (h : Memory.wf s.mem = true) (rec) : (s.dequeue rec).Canonical := by
  grind [State.dequeue, State.taskFail_wf, State.logRecord_mem, State.startActivation_mem, State.taskWrite_wf, State.bumpRun_wf,
    → State.agentRead_wf, Dequeued.canonical_taken, Dequeued.canonical_left, Memory.wf_write]

@[simp] theorem State.startMessage_mem (s : State) : s.startMessage.mem = s.mem := by
  grind [State.startMessage, State.startActivation_mem]

@[simp] theorem State.startTask_wf {s : State} (h : Memory.wf s.mem = true) : Memory.wf s.startTask.mem = true := by
  grind [State.startTask, State.dequeue_wf, State.refill_wf, Dequeued.canonical_taken, Dequeued.canonical_left]

@[simp] theorem State.chooseNext_wf {s : State} (h : Memory.wf s.mem = true) : Memory.wf s.chooseNext.mem = true := by
  grind [State.chooseNext, State.startMessage_mem, State.refill_wf, State.startTask_wf]

@[simp] theorem State.stealFailed_wf {s : State} (h : Memory.wf s.mem = true) : Memory.wf s.stealFailed.mem = true := by
  simp [State.stealFailed, h]

@[simp] theorem State.steal_wf {s : State} (h : Memory.wf s.mem = true) : Memory.wf s.steal.mem = true := by
  unfold State.steal
  extract_lets c m r s0
  have h0 : Memory.wf s0.mem = true := State.refill_wf h _ _
  clear_value s0 r
  split
  · exact h
  split
  · simp [h]
  split
  · simp [h0]
  split
  · simp [h0]
  split
  · simp [h0]
  · next other _ _ _ _ _ _ _ rec _ _ =>
    extract_lets take
    have wother {s} (h : Memory.wf s.mem = true) : Memory.wf (other s).mem = true := by
      simp only [other]
      split <;> exact h
    have wtake {s} (h : Memory.wf s.mem = true) : Memory.wf (take s).mem = true := by
      have dequeued := State.dequeue_wf h rec
      simp only [take]
      split
      · next e =>
        rw [e] at dequeued
        exact dequeued
      · next e =>
        rw [e] at dequeued
        exact wother (State.bumpRun_wf (State.refill_wf (by exact dequeued) _ _) _ _)
    clear_value take other
    split
    · exact wtake h0
    · next read =>
      have h1 := State.agentRead_wf h0 read
      split
      · simp [h1]
      · exact wtake h1

@[simp] theorem State.orphanTasks_wf {s : State} (h : Memory.wf s.mem = true) (c) : Memory.wf (s.orphanTasks c).mem = true := by
  unfold State.orphanTasks
  extract_lets s1
  have h1 : Memory.wf s1.mem = true := State.refill_wf h _ _
  split
  · exact h1
  · extract_lets s2
    have h2 : Memory.wf s2.mem = true := foldl_wf (fun s rec hs => State.taskFail_wf hs _ _ _ _) _ _ h1
    split
    · exact h2
    · refine foldl_wf (fun s i hs => ?_) _ _ h2
      split
      · exact hs
      · next read => exact State.taskFail_wf (State.agentRead_wf hs read) _ _ _ _

@[simp] theorem State.invalidRecord_wf {s : State} (h : Memory.wf s.mem = true) (e) : (s.invalidRecord e).Canonical := by
  grind [State.invalidRecord, State.ringNow_mem, State.portWrite_wf, Handed.canonical_over]

@[simp] theorem issueTaskq_wf {s : State} (h : Memory.wf s.mem = true) (e o) : (issueTaskq s e o).Canonical := by
  grind [issueTaskq, State.invalidRecord_wf, State.handOver_mem, State.portWrite_wf, State.portRead_wf, State.launchFlight_mem, Handed.canonical_over]

@[simp] theorem issueTaskdec_wf {s : State} (h : Memory.wf s.mem = true) (e o) : (issueTaskdec s e o).Canonical := by
  grind [issueTaskdec, State.invalidRecord_wf, State.ringNow_mem, State.portRead_wf, State.launchFlight_mem, Handed.canonical_over]

@[simp] theorem issueTend_wf {s : State} (h : Memory.wf s.mem = true) (e o) : (issueTend s e o).Canonical := by
  simp [issueTend, h]

@[simp] theorem State.tendEffect_wf {s : State} (h : Memory.wf s.mem = true) : Memory.wf s.tendEffect.mem = true := by
  unfold State.tendEffect
  (repeat' split) <;> simp [h]

@[simp] theorem issueQsnap_wf {s : State} (h : Memory.wf s.mem = true) (e o) : (issueQsnap s e o).Canonical := by
  grind [issueQsnap, State.ringNow_mem, State.portWrite_wf, Handed.canonical_over]

end Sys2Proof.Machine
end

section
/-! PROOFS. What keeps memory canonical (12 R248): arrivals at cohort names (17). -/

namespace Sys2Proof.Machine

open Sys2Proof.Safety

@[simp] theorem State.takeBasin_mem (s : State) (r l) : (s.takeBasin r l).mem = s.mem := by
  induction l generalizing s with
  | nil => rfl
  | cons b rest ih =>
    unfold State.takeBasin
    split <;> simp [ih]

@[simp] theorem issueVexp_wf {s : State} (h : Memory.wf s.mem = true) (e o) : (issueVexp s e o).Canonical := by
  simp [issueVexp, h]

@[simp] theorem State.stamped_mem (s : State) (a) : (s.stamped a).1.mem = s.mem := rfl

@[simp] theorem State.storeArrival_mem (s : State) (c a) : (s.storeArrival c a).1.mem = s.mem := by
  grind [State.storeArrival, State.stamped_mem, State.modCtx_mem]

@[simp] theorem State.messageArrival_wf {s : State} (h : Memory.wf s.mem = true) (c a bytes) :
    Memory.wf (s.messageArrival c a bytes).1.mem = true := by
  grind [State.messageArrival, State.stamped_mem, State.modCtx_mem, Memory.wf_write]

@[simp] theorem State.atMember_wf {s : State} (h : Memory.wf s.mem = true) (c a bytes) : Memory.wf (s.atMember c a bytes).1.mem = true := by
  unfold State.atMember
  split <;> simp [h]

@[simp] theorem State.defer_mem (s : State) (d a bytes) : (s.defer d a bytes).1.mem = s.mem := by
  grind [State.defer, State.modDir_mem, State.stamped_mem]

@[simp] theorem State.settingDone_mem (s : State) (a) : (s.settingDone a).mem = s.mem := by
  unfold State.settingDone
  split <;> simp

@[simp] theorem State.deliverDeferred_wf {s : State} (h : Memory.wf s.mem = true) (name) : Memory.wf (s.deliverDeferred name).1.mem = true := by
  unfold State.deliverDeferred
  split
  · exact h
  split
  · exact h
  split
  · exact h
  · next a rest _ =>
    have member (c : Ctx) := State.atMember_wf h c a (deferredBytes a rest)
    split
    · split <;> simp [h]
    split
    · split
      · split <;> simp [h]
      · simp [h]
    · next c _ =>
      have kept := member c
      split <;> grind [State.settingDone_mem, State.modDir_mem]

@[simp] theorem State.drainDeferred_wf {s : State} (h : Memory.wf s.mem = true) (name n) : Memory.wf (s.drainDeferred name n).mem = true := by
  induction n generalizing s with
  | zero => exact h
  | succ n ih => grind [State.drainDeferred, State.deliverDeferred_wf]

@[simp] theorem State.endDrain_mem (s : State) (name) : (s.endDrain name).mem = s.mem := by
  unfold State.endDrain
  split <;> rfl

@[simp] theorem State.atCluster_wf {s : State} (h : Memory.wf s.mem = true) (a bytes) : (s.atCluster a bytes).Canonical := by
  unfold State.atCluster
  (repeat' split) <;> simp [h]

@[simp] theorem State.atHome_wf {s : State} (h : Memory.wf s.mem = true) (a bytes) : (s.atHome a bytes).Canonical := by
  unfold State.atHome
  (repeat' split) <;> simp [h]

@[simp] theorem State.locate_mem (s : State) (o n node) : (s.locate o n node).mem = s.mem := by
  unfold State.locate
  split <;> rfl

@[simp] theorem State.placeArrival_wf {s : State} (h : Memory.wf s.mem = true) (o a bytes) : (s.placeArrival o a bytes).Canonical := by
  unfold State.placeArrival
  (repeat' split) <;> simp [h]

@[simp] theorem State.unrefuse_mem (s : State) (a) : (s.unrefuse a).mem = s.mem := rfl

@[simp] theorem State.outcome_wf {s0 : State} (h : Memory.wf s0.mem = true) (a o code cause) :
    Memory.wf (s0.outcome a o code cause).mem = true := by
  unfold State.outcome
  extract_lets task s
  have hs : Memory.wf s.mem = true := by
    simp only [s]
    cases s0.knownAt a.name <;> simp [h]
  clear_value s
  cases o with
  | none | copy _ | deferred => exact hs
  | ctx b sp e d n status =>
    dsimp -zeta only
    extract_lets s1 s2 s3
    have h1 : Memory.wf s1.mem = true := by
      simp only [s1]
      split <;> simp [hs]
    have h2 : Memory.wf s2.mem = true := by
      simp only [s2]
      split <;> simp [h1]
    have h3 : Memory.wf s3.mem = true := by
      simp only [s3]
      split <;> simp [h2]
    split <;> simp [h3]
  | link x sp =>
    dsimp only
    split <;> simp [hs]
  | node n tag => simp [hs]

@[simp] theorem State.dropFlight_mem (s : State) (k) : (s.dropFlight k).mem = s.mem := rfl

@[simp] theorem State.modFlight_mem (s : State) (k f) : (s.modFlight k f).mem = s.mem := rfl

@[simp] theorem State.arriveAway_mem (s : State) (k a bytes o n) : (s.arriveAway k a bytes o n).mem = s.mem := rfl

@[simp] theorem State.refuseFrom_mem (s : State) (n tag a bytes) : (s.refuseFrom n tag a bytes).mem = s.mem := rfl

@[simp] theorem State.busyAnswer_wf {s : State} (h : Memory.wf s.mem = true) (k a bytes o busy) :
    Memory.wf (s.busyAnswer k a bytes o busy).mem = true := by
  unfold State.busyAnswer
  (repeat' split) <;> simp [h]

@[simp] theorem State.arrive_wf {s : State} (h : Memory.wf s.mem = true) (k) : Memory.wf (s.arrive k).mem = true := by
  grind [State.arrive, State.placeArrival_wf, State.arriveAway_mem, State.outcome_wf, State.modFlight_mem, State.busyAnswer_wf, State.dropFlight_mem,
    Decided.canonical_here]

@[simp] theorem issueRstv_wf {s : State} (h : Memory.wf s.mem = true) (rel e o) : (issueRstv rel s e o).Canonical := by
  simp [issueRstv, h]

@[simp] theorem issueCname_wf {s : State} (h : Memory.wf s.mem = true) (e o) : (issueCname s e o).Canonical := by
  grind [issueCname, State.ringNow_mem, State.portWrite_wf, Handed.canonical_over]

@[simp] theorem State.messageBad_wf {s : State} (h : Memory.wf s.mem = true) (e cause) : (s.messageBad e cause).Canonical := by
  simp [State.messageBad, h]

@[simp] theorem issueAmsg_wf {s : State} (h : Memory.wf s.mem = true) (e o) : (issueAmsg s e o).Canonical := by
  grind [issueAmsg, State.handOver_mem, State.portRead_wf, State.launchFlight_mem, State.messageBad_wf, Handed.canonical_over]

end Sys2Proof.Machine
end

section
/-! PROOFS. What keeps memory canonical (12 R248): futures and tools (19). -/

namespace Sys2Proof.Machine

open Sys2Proof.Safety

@[simp] theorem State.putFuture_mem (s : State) (f) : (s.putFuture f).mem = s.mem := rfl

@[simp] theorem State.armFuture_mem (s : State) (i deadline) : (s.armFuture i deadline).1.mem = s.mem := rfl

@[simp] theorem State.freeEntry_mem (s : State) (f) : (s.freeEntry f).mem = s.mem := rfl

@[simp] theorem State.toolOutcome_mem (s : State) (n outcome) : (s.toolOutcome n outcome).mem = s.mem := rfl

@[simp] theorem State.putTool_mem (s : State) (t) : (s.putTool t).mem = s.mem := rfl

@[simp] theorem State.logFuture_mem (s : State) : s.logFuture.mem = s.mem := by
  simp [State.logFuture]

@[simp] theorem State.appendRequest_wf {s : State} (h : Memory.wf s.mem = true) (t bs x) : Memory.wf (s.appendRequest t bs x).mem = true := by
  grind [State.appendRequest, State.putTool_mem, State.agentPut_wf, → State.agentWrite_wf, State.logFuture_mem]

@[simp] theorem State.resolve_mem (s : State) (f status detail) : (s.resolve f status detail).mem = s.mem := rfl

theorem State.tokens_wf {s : State} {sp : Space} {a : Word} {n : Nat} (h : Memory.wf s.mem = true) {t : State} {x : List Byte}
    (e : s.tokens sp a n = some (t, x)) : Memory.wf t.mem = true := by
  grind [State.tokens, State.clearInj_mem, State.logFuture_mem, → State.agentRead_wf]

theorem State.content_wf {s : State} {f : Future} (h : Memory.wf s.mem = true) {t : State} {x : List Byte} (e : s.content f = some (t, x)) :
    Memory.wf t.mem = true := by
  grind [State.content, → State.tokens_wf]

theorem State.putTokens_wf {s : State} {sp : Space} {l : List (Word × Nat)} {bs : List Byte} (h : Memory.wf s.mem = true) {t : State}
    (e : s.putTokens sp l bs = .ok t) : Memory.wf t.mem = true := by
  induction l generalizing s bs with
  | nil => cases e; exact h
  | cons r rest ih =>
    simp only [State.putTokens] at e
    split at e
    · cases e
    · next written => exact ih (State.agentWrite_wf h written) e

@[simp] theorem State.prefill_wf {s : State} (h : Memory.wf s.mem = true) (f bs) : Memory.wf (s.prefill f bs).1.mem = true := by
  grind [State.prefill, → State.putTokens_wf, State.agentPut_wf, → State.agentWrite_wf, State.logFuture_mem, → State.agentRead_wf]

@[simp] theorem State.sendLink_wf {s : State} (h : Memory.wf s.mem = true) (f) : Memory.wf (s.sendLink f).mem = true := by
  grind [State.sendLink, State.launchFlight_mem, State.linkDone_wf, State.logFuture_mem, → State.agentRead_wf]

@[simp] theorem State.linkNow_wf {s : State} (h : Memory.wf s.mem = true) (f) : Memory.wf (s.linkNow f).mem = true := by
  unfold State.linkNow
  split <;> simp [h]

theorem State.settleReply_wf {s : State} {f : Future} (h : Memory.wf s.mem = true) {t : State} {x : Future} (e : s.settleReply f = some (t, x)) :
    Memory.wf t.mem = true := by
  grind [State.settleReply, → State.agentWrite_wf, State.logFuture_mem, → State.agentRead_wf]

@[simp] theorem State.endResolution_wf {s : State} (h : Memory.wf s.mem = true) (f0) : Memory.wf (s.endResolution f0).mem = true := by
  grind [State.endResolution, → State.settleReply_wf, State.prefill_wf, → State.content_wf, State.freeEntry_mem, State.putFuture_mem,
    State.sendLink_wf]

@[simp] theorem State.finishFuture_wf {s : State} (h : Memory.wf s.mem = true) (f) : Memory.wf (s.finishFuture f).mem = true := by
  unfold State.finishFuture
  (repeat' split) <;> simp [h]

@[simp] theorem State.finishFutures_wf {s : State} (h : Memory.wf s.mem = true) : Memory.wf s.finishFutures.mem = true := by
  grind [State.finishFutures, State.finishFuture_wf, foldl_wf]

@[simp] theorem State.deadline_mem (s : State) (f) : (s.deadline f).mem = s.mem := by
  unfold State.deadline
  split <;> rfl

@[simp] theorem State.atDeadline_mem (s : State) (f) : (s.atDeadline f).mem = s.mem := by
  unfold State.atDeadline
  split <;> simp

@[simp] theorem State.resolveStore_wf {s : State} (h : Memory.wf s.mem = true) (t x status) : Memory.wf (s.resolveStore t x status).mem = true := by
  grind [State.resolveStore, State.putTool_mem, State.toolOutcome_mem, State.resolve_mem, State.logFuture_mem, State.deadline_mem,
    → State.agentRead_wf]

@[simp] theorem State.putOff_mem (s : State) (i) : (s.putOff i).mem = s.mem := rfl

@[simp] theorem State.endToolContext_mem (s : State) (t detail) : (s.endToolContext t detail).mem = s.mem := by
  grind [State.endToolContext, State.resolve_mem, foldl_mem]

@[simp] theorem State.violate_mem (s : State) (t a) : (s.violate t a).mem = s.mem := by
  simp [State.violate]

@[simp] theorem State.toolAccess_wf {s : State} (h : Memory.wf s.mem = true) (t x) : Memory.wf (s.toolAccess t x).mem = true := by
  unfold State.toolAccess
  cases x <;> dsimp only <;> (repeat' split) <;> simp [h]

@[simp] theorem State.toolFails_mem (s : State) (t) : (s.toolFails t).mem = s.mem := by
  simp [State.toolFails]

@[simp] theorem State.portAnswer_wf {s s2 : State} (h1 : Memory.wf s2.mem = true) (e x code) : (s.portAnswer s2 e x code).Canonical := by
  grind [State.portAnswer, State.ringNow_mem, State.portWrite_wf, State.portProbe_wf, Handed.canonical_over]

@[simp] theorem issueFcall_wf {s : State} (h : Memory.wf s.mem = true) (e o) : (issueFcall s e o).Canonical := by
  grind [issueFcall, State.putFuture_mem, State.appendRequest_wf, State.portRead_wf, State.armFuture_mem, State.portAnswer_wf]

theorem State.answerFuture_wf {s : State} (h : Memory.wf s.mem = true) {e : Entry} {bs : List Byte} {result : Nat} {body : State → State}
    (b : ∀ s, Memory.wf s.mem = true → Memory.wf (body s).mem = true) : (s.answerFuture e bs result body).Canonical := by
  unfold State.answerFuture
  split
  · have hb := b s h
    simp only [Handed.canonical_over, State.ringNow_mem]
    split <;> simp [hb]
  · exact State.portWrite_wf h fun s hs => by simp [b s hs]

@[simp] theorem State.nextFree_mem (s : State) : s.nextFree.mem = s.mem := rfl

@[simp] theorem issueFwait_wf {s : State} (h : Memory.wf s.mem = true) (e o) : (issueFwait s e o).Canonical := by
  grind [issueFwait, State.nextFree_mem, State.answerFuture_wf, Handed.canonical_over, Handed.canonical_waits, Handed.canonical_stays,
    Handed.canonical_fails]

@[simp] theorem issueFpoll_wf {s : State} (h : Memory.wf s.mem = true) (e o) : (issueFpoll s e o).Canonical := by
  grind [issueFpoll, State.nextFree_mem, State.answerFuture_wf, Handed.canonical_over, Handed.canonical_waits, Handed.canonical_stays,
    Handed.canonical_fails]

@[simp] theorem issueFdone_wf {s : State} (h : Memory.wf s.mem = true) (e o) : (issueFdone s e o).Canonical := by
  grind [issueFdone, State.freeEntry_mem, State.nextFree_mem, State.answerFuture_wf, Handed.canonical_over, Handed.canonical_waits,
    Handed.canonical_stays, Handed.canonical_fails]

@[simp] theorem issueFcancel_wf {s : State} (h : Memory.wf s.mem = true) (e o) : (issueFcancel s e o).Canonical := by
  unfold issueFcancel
  split
  · exact State.answerFuture_wf h fun s hs => by simp [hs]
  · extract_lets s1
    have h1 : Memory.wf s1.mem = true := by
      simp only [s1]
      cases s.futureOf e.opa <;> simp [h]
    clear_value s1
    split
    · exact State.answerFuture_wf h1 fun s hs => hs
    · split
      · exact State.answerFuture_wf h1 fun s hs => by simp [hs]
      · exact State.answerFuture_wf h1 fun s hs => hs

@[simp] theorem issueFlink_wf {s : State} (h : Memory.wf s.mem = true) (e o) : (issueFlink s e o).Canonical := by
  grind [issueFlink, State.ringNow_mem, State.putFuture_mem, State.linkNow_wf, State.nextFree_mem, State.answerFuture_wf, Handed.canonical_over,
    Handed.canonical_waits, Handed.canonical_stays, Handed.canonical_fails]

@[simp] theorem State.putResidency_mem (s : State) (r) : (s.putResidency r).mem = s.mem := rfl

@[simp] theorem State.referAdapter_mem (s : State) (r launch) : (s.referAdapter r launch).mem = s.mem := rfl

@[simp] theorem issueAdref_wf {s : State} (h : Memory.wf s.mem = true) (e o) : (issueAdref s e o).Canonical := by
  grind [issueAdref, State.referAdapter_mem, State.putFuture_mem, State.armFuture_mem, State.portAnswer_wf]

@[simp] theorem State.settleFutures_mem (s : State) (launch) : (s.settleFutures launch).mem = s.mem := by
  grind [State.settleFutures, State.freeEntry_mem, State.putFuture_mem, State.resolve_mem, foldl_mem]

end Sys2Proof.Machine
end

section
/-! PROOFS. What keeps memory canonical (12 R248): multicasts, reductions and copies (23 R457 to R464). -/

namespace Sys2Proof.Machine

open Sys2Proof.Safety

@[simp] theorem State.putWalk_mem (s : State) (w) : (s.putWalk w).mem = s.mem := rfl

@[simp] theorem State.nodeFinished_mem (s : State) (num i launch cause) : (s.nodeFinished num i launch cause).mem = s.mem := by
  unfold State.nodeFinished
  (repeat' split) <;> simp

@[simp] theorem State.askLater_mem (s : State) (n g x y payload) : (s.askLater n g x y payload).mem = s.mem := rfl

@[simp] theorem State.askReduce_mem (s : State) (f g src) : (s.askReduce f g src).mem = s.mem := by
  grind [State.askReduce, State.askLater_mem, foldl_mem]

@[simp] theorem State.askDest_mem (s : State) (red gs src) : (s.askDest red gs src).mem = s.mem := by
  induction gs generalizing s src with
  | nil => rfl
  | cons g r ih => cases red <;> grind [State.askDest, State.askLater_mem, State.askReduce_mem]

theorem foldl_updateUnit_wf (f : BitVec 4) (l : List (List Nat × List Byte)) {m : List Host.Cell} (h : Memory.wf m = true) :
    Memory.wf (l.foldl (fun m u => updateUnit f m u.1 u.2) m) = true :=
  List.foldlRecOn _ _ (motive := fun m => Memory.wf m = true) h fun _ hm u _ => updateUnit_wf f u.1 u.2 hm

@[simp] theorem State.reduceAt_wf {s : State} (h : Memory.wf s.mem = true) (f op a gs src) : (s.reduceAt f op a gs src).Canonical := by
  unfold State.reduceAt
  extract_lets element
  split
  · simp only [DestEnd.canonical_denied]
    (repeat' split) <;> simp [h]
  · next units s1 now _ =>
    have h1 : Memory.wf s1.mem = true := by simp [s1, h]
    have hnow : Memory.wf now.mem = true := by simp [now, foldl_updateUnit_wf f units h1]
    (repeat' split) <;> simp [h1, hnow]

@[simp] theorem State.destAt_wf {s : State} (h : Memory.wf s.mem = true) (red op a src) : (s.destAt red op a src).Canonical := by
  grind [State.destAt, State.reduceAt_wf, State.askDest_mem, State.homeWrite_wf, State.mapRange_wf, Ranged.canonical_ok, DestEnd.canonical_written,
    DestEnd.canonical_denied]

@[simp] theorem State.finishMulti_wf {s : State} (h : Memory.wf s.mem = true) (r) : Memory.wf (s.finishMulti r).mem = true := by
  unfold State.finishMulti
  (repeat' split) <;> simp [h]

theorem State.destinations_wf {s : State} (h : Memory.wf s.mem = true) (red op src dests) :
    Memory.wf (s.destinations red op src dests).1.mem = true :=
  List.foldlRecOn _ _ (motive := fun x : DestSum => Memory.wf x.1.mem = true) h fun x hx d _ => by
    have moved := State.destAt_wf hx red op d.1 src
    split <;> simp_all

@[simp] theorem issueMulti_wf {s : State} (h : Memory.wf s.mem = true) (red e o) : (issueMulti red s e o).Canonical := by
  unfold issueMulti
  refine State.portRead_wf h fun s1 src h1 => State.portRead_wf h1 fun s2 head h2 => ?_
  extract_lets org op compl
  split
  · trivial
  split
  · simp [h2]
  · refine State.portRead_wf h2 fun s3 list h3 => ?_
    dsimp only
    split
    · trivial
    · have sent := State.destinations_wf (s := s3.handOver) h3 (red o) op src (destsOf list)
      simp only [Handed.canonical_over]
      split <;> simp [sent]

@[simp] theorem issueMcst_wf {s : State} (h : Memory.wf s.mem = true) (e o) : (issueMcst s e o).Canonical := by
  simp [issueMcst, h]

@[simp] theorem issueRedst_wf {s : State} (h : Memory.wf s.mem = true) (e o) : (issueRedst s e o).Canonical := by
  simp [issueRedst, h]

@[simp] theorem State.reductionDone_wf {s : State} (h : Memory.wf s.mem = true) (op) : Memory.wf (s.reductionDone op).mem = true := by
  unfold State.reductionDone
  (repeat' split) <;> simp [h]

@[simp] theorem State.divertBlocks_mem (s : State) : s.divertBlocks.mem = s.mem := rfl

@[simp] theorem State.blockStep_wf {s : State} (h : Memory.wf s.mem = true) (quay) : Memory.wf (s.blockStep quay).mem = true := by
  unfold State.blockStep
  extract_lets s1
  split
  · exact h
  · exact State.reductionDone_wf (by simp [s1, h]) _

@[simp] theorem State.copyEnd_wf {s : State} (h : Memory.wf s.mem = true) (c cause bytes va) : Memory.wf (s.copyEnd c cause bytes va).mem = true := by
  grind [State.copyEnd, State.trapAfter_mem, State.nodeFinished_mem, → State.agentWrite_wf, State.completePort_mem, State.deviceWrite_wf]

@[simp] theorem State.copied_mem (s : State) (num n m) : (s.copied num n m).mem = s.mem := rfl

@[simp] theorem State.sendUnit_mem (s : State) (num gs bs) : (s.sendUnit num gs bs).mem = s.mem := by
  induction gs generalizing s bs with
  | nil => rfl
  | cons g r ih => grind [State.sendUnit, State.sendTo_mem]

@[simp] theorem State.localUnit_wf {s : State} (h : Memory.wf s.mem = true) (gs bs) : Memory.wf (s.localUnit gs bs).mem = true := by
  induction gs generalizing s bs with
  | nil => exact h
  | cons g r ih => grind [State.localUnit, State.homeWrite_wf]

@[simp] theorem State.copyUnit_wf {s : State} (h : Memory.wf s.mem = true) (engine c done n) : (s.copyUnit engine c done n).Canonical := by
  grind [State.copyUnit, State.agentAccess_wf, State.sendUnit_mem, State.copied_mem, State.localUnit_wf, Ranged.canonical_ok,
    UnitEnd.canonical_moved, UnitEnd.canonical_waits, UnitEnd.canonical_failed]

@[simp] theorem State.copyUnits_wf {s : State} (h : Memory.wf s.mem = true) (engine num n) : (s.copyUnits engine num n).Canonical := by
  induction n generalizing s with
  | zero => exact h
  | succ n ih =>
    unfold State.copyUnits
    split
    · exact h
    · next c _ =>
      extract_lets next
      split
      · split <;> exact h
      · have moved := State.copyUnit_wf h engine c next (min 2048 (c.len - next))
        split
        · exact h
        · split <;> exact h
        · next e => rw [e] at moved; exact ih moved

@[simp] theorem State.engineFails_mem (s : State) (bank info) : (s.engineFails bank info).mem = s.mem := by
  simp [State.engineFails]

@[simp] theorem State.endCopy_wf {s : State} (h : Memory.wf s.mem = true) (num cause va) : Memory.wf (s.endCopy num cause va).mem = true := by
  unfold State.endCopy
  split <;> simp [h]

@[simp] theorem State.runCopy_wf {s : State} (h : Memory.wf s.mem = true) (k) : Memory.wf (s.runCopy k).mem = true := by
  grind [State.runCopy, State.endCopy_wf, State.engineFails_mem, State.copyUnits_wf, CopyRun.canonical_under, CopyRun.canonical_ended]

@[simp] theorem State.runCopiesFrom_wf {s : State} (h : Memory.wf s.mem = true) (k n) : Memory.wf (s.runCopiesFrom k n).mem = true := by
  induction n generalizing s k with
  | zero => exact h
  | succ n ih => exact ih (State.runCopy_wf h k) _

@[simp] theorem State.runCopies_wf {s : State} (h : Memory.wf s.mem = true) : Memory.wf s.runCopies.mem = true := by
  simp [State.runCopies, h]

@[simp] theorem State.startCopy_mem (s : State) (c) : (s.startCopy c).mem = s.mem := rfl

@[simp] theorem issueCpy_wf {s : State} (h : Memory.wf s.mem = true) (e o) : (issueCpy s e o).Canonical := by
  unfold issueCpy
  split <;> simp [h]

@[simp] theorem issueCpyw_wf {s : State} (h : Memory.wf s.mem = true) (e o) : (issueCpyw s e o).Canonical := by
  grind [issueCpyw, State.handOver_mem, State.copyEnd_wf, State.startCopy_mem, State.portRead_wf, Handed.canonical_over, Handed.canonical_stays]

end Sys2Proof.Machine
end

section
/-! PROOFS. What keeps memory canonical (12 R248): a member's end (02 R37). -/

namespace Sys2Proof.Machine

open Sys2Proof.Safety

@[simp] theorem State.flushAq_mem (s : State) (sends) : (s.flushAq sends).mem = s.mem := by
  unfold State.flushAq
  split <;> simp

@[simp] theorem State.endXfer_wf {s : State} (h : Memory.wf s.mem = true) (q halt) : Memory.wf (s.endXfer q halt).mem = true := by
  grind [State.endXfer, State.transfer_wf]

@[simp] theorem State.endMatrix_wf {s : State} (h : Memory.wf s.mem = true) (halt) : Memory.wf (s.endMatrix halt).mem = true := by
  unfold State.endMatrix
  (repeat' split) <;> simp [h]

@[simp] theorem State.drain_wf {s : State} (h : Memory.wf s.mem = true) (halt stop sends) : Memory.wf (s.drain halt stop sends).mem = true := by
  grind [State.drain, State.flushAq_mem, State.endXfer_wf, State.endMatrix_wf]

@[simp] theorem State.putLaunch_mem (s : State) (l) : (s.putLaunch l).mem = s.mem := rfl

@[simp] theorem State.setEntry_mem (s : State) (id n m x) : (s.setEntry id n m x).mem = s.mem := by
  unfold State.setEntry
  split <;> rfl

@[simp] theorem State.dropBasin_mem (s : State) (n m) : (s.dropBasin n m).1.mem = s.mem := rfl

@[simp] theorem State.cohortExit_wf {s : State} (h : Memory.wf s.mem = true) (n c) : Memory.wf (s.cohortExit n c).mem = true := by
  grind [State.cohortExit, State.modDir_mem, State.taskFail_wf, State.releaseUnits_wf, foldl_wf]

@[simp] theorem State.clearLive_wf {s : State} (h : Memory.wf s.mem = true) (n m c) : Memory.wf (s.clearLive n m c).mem = true := by
  grind [State.clearLive, State.modDir_mem, State.cohortExit_wf]

@[simp] theorem State.memberGone_wf {s : State} (h : Memory.wf s.mem = true) (c kind status extra) :
    Memory.wf (s.memberGone c kind status extra).mem = true := by
  grind [State.memberGone, State.setEntry_mem, State.orphanTasks_wf, State.modCtx_mem, State.implicitDrops_wf, State.dropBasin_mem,
    State.clearLive_wf]

@[simp] theorem State.terminate_wf {s : State} (h : Memory.wf s.mem = true) (cause) : Memory.wf (s.terminate cause).mem = true := by
  grind [State.terminate, State.memberGone_wf, State.endTask_wf, State.drain_wf, State.event_mem]

@[simp] theorem State.forget_mem (s : State) (n) : (s.forget n).mem = s.mem := rfl

end Sys2Proof.Machine
end

section
/-! PROOFS. What keeps memory canonical (12 R248): launches (21 R409 to R421). -/

namespace Sys2Proof.Machine

open Sys2Proof.Safety

theorem State.readImage_wf {s : State} {sp : Space} {base : Word} (h : Memory.wf s.mem = true) {t : State} {x : Image}
    (e : s.readImage sp base = .ok (t, x)) : Memory.wf t.mem = true := by
  grind [State.readImage, → State.agentRead_wf]

theorem State.checkLaunch_wf {s : State} {r : List Byte} {launcher : Space} {own : Space} {priv : Bool} {hostRead : Bool}
    (h : Memory.wf s.mem = true) {t : State} {x : Checked} (e : s.checkLaunch r launcher own priv hostRead = .ok (t, x)) :
    Memory.wf t.mem = true := by
  unfold State.checkLaunch at e
  split at e
  · cases e
  next image =>
  have h1 := State.readImage_wf h image
  split at e
  · cases e
  split at e
  · cases e
  split at e
  · cases e
  next table =>
  have h2 := State.agentRead_wf h1 table
  dsimp only at e
  split at e
  · cases e
  split at e
  · cases e
  next blocks =>
  have h3 := State.agentRead_wf h2 blocks
  split at e
  · cases e
  split at e
  · cases e
  · cases e
    exact h3

@[simp] theorem State.tellLauncher_wf {s : State} (h : Memory.wf s.mem = true) (b sp id st) : Memory.wf (s.tellLauncher b sp id st).mem = true := by
  unfold State.tellLauncher
  (repeat' split) <;> simp [h]

@[simp] theorem State.refuseLaunch_wf {s : State} (h : Memory.wf s.mem = true) (x compl reason cause) :
    Memory.wf (s.refuseLaunch x compl reason cause).mem = true := by
  unfold State.refuseLaunch
  extract_lets st s1
  refine State.tellLauncher_wf ?_ _ _ _ _
  simp only [s1]
  split
  · exact h
  · split
    · exact h
    · split
      · exact h
      · next written => exact State.agentPut_wf (State.agentWrite_wf h written) _ _ _

theorem State.takeStock_mem {s : State} {b : Nat} {c : LCohort} {id : Word} {t : State} {x : BitVec 32} (e : s.takeStock b c id = some (t, x)) :
    t.mem = s.mem := by
  grind [State.takeStock, State.modDir_mem]

@[simp] theorem State.nameCohorts_mem (s : State) (id b l) : (s.nameCohorts id b l).1.mem = s.mem := by
  induction l generalizing s with
  | nil => rfl
  | cons c rest ih =>
    unfold State.nameCohorts
    split
    · exact ih _
    · dsimp only
      rw [ih]
      split
      · next taken => exact State.takeStock_mem taken
      · simp

@[simp] theorem State.addStock_mem (s : State) (b k) : (s.addStock b k).mem = s.mem := by
  induction k generalizing s with
  | zero => rfl
  | succ k ih =>
    have named := s.allocName_mem 0 0 0 0
    unfold State.addStock
    split
    · split
      · rfl
      · split
        · rfl
        · next e => rw [ih, ← named, e]
    · rfl

@[simp] theorem State.acceptLaunch_wf {s : State} (h : Memory.wf s.mem = true) (x r k complSpace) :
    Memory.wf (s.acceptLaunch x r k complSpace).mem = true := by
  simp [State.acceptLaunch, h]

@[simp] theorem State.takeHanded_wf {s : State} (h : Memory.wf s.mem = true) (x) : Memory.wf (s.takeHanded x).mem = true := by
  grind [State.takeHanded, State.nameCohorts_mem, → State.readImage_wf]

@[simp] theorem State.checkSubmission_wf {s : State} (h : Memory.wf s.mem = true) (x) : Memory.wf (s.checkSubmission x).mem = true := by
  grind [State.checkSubmission, → State.checkLaunch_wf, State.acceptLaunch_wf, State.refuseLaunch_wf, → State.agentRead_wf]

@[simp] theorem State.unload_mem (s : State) (sp base) : (s.unload sp base).mem = s.mem := by
  unfold State.unload
  split <;> rfl

@[simp] theorem State.memberEndedAway_mem (s : State) (n m x) : (s.memberEndedAway n m x).mem = s.mem := by
  unfold State.memberEndedAway
  (repeat' split) <;> simp

@[simp] theorem State.launchBell_mem (s : State) (pa) : (s.launchBell pa).mem = s.mem := by
  unfold State.launchBell
  split <;> rfl

@[simp] theorem issueLaunch_wf {s : State} (h : Memory.wf s.mem = true) (e o) : (issueLaunch s e o).Canonical := by
  grind [issueLaunch, State.handOver_mem, State.portProbe_wf, Handed.canonical_over]

@[simp] theorem State.enterCtx_mem (s : State) (c entry) : (s.enterCtx c entry).mem = s.mem := by
  grind [State.enterCtx, State.startActivation_mem]

@[simp] theorem State.bindCohort_wf {s : State} (h : Memory.wf s.mem = true) (l c slots binding) :
    Memory.wf (s.bindCohort l c slots binding).mem = true := by
  unfold State.bindCohort
  split <;> simp [h]

@[simp] theorem State.stampFirst_mem (s : State) : s.stampFirst.mem = s.mem := by
  unfold State.stampFirst
  split <;> rfl

@[simp] theorem State.bindFree_wf {s : State} (h : Memory.wf s.mem = true) (id k) : Memory.wf (s.bindFree id k).mem = true := by
  unfold State.bindFree
  (repeat' split) <;> simp [h]

@[simp] theorem State.bindLaunch_wf {s : State} (h : Memory.wf s.mem = true) (l) : Memory.wf (s.bindLaunch l).mem = true := by
  grind [State.bindLaunch, State.bindFree_wf, foldl_wf]

@[simp] theorem State.bindPending_wf {s : State} (h : Memory.wf s.mem = true) : Memory.wf s.bindPending.mem = true := by
  grind [State.bindPending, State.bindLaunch_wf, foldl_wf]

@[simp] theorem State.writeCompletion_wf {s : State} (h : Memory.wf s.mem = true) (l) : Memory.wf (s.writeCompletion l).mem = true := by
  grind [State.writeCompletion, → State.recordWrite_wf, State.agentPut_wf, State.machineCheck_mem]

@[simp] theorem State.replayDone_mem (s : State) (id code) : (s.replayDone id code).mem = s.mem := rfl

@[simp] theorem State.replayNext_wf {s : State} (h : Memory.wf s.mem = true) : Memory.wf s.replayNext.mem = true := by
  grind [State.replayNext, State.checkSubmission_wf, → State.agentWrite_wf]

@[simp] theorem State.completeLaunch_wf {s : State} (h : Memory.wf s.mem = true) (l0 told) : Memory.wf (s.completeLaunch l0 told).mem = true := by
  grind [State.completeLaunch, State.retireName_mem, State.nodeFinished_mem, State.captureDone_mem, State.forget_mem, State.settleFutures_mem,
    State.writeCompletion_wf, State.replayDone_mem, foldl_wf]

end Sys2Proof.Machine
end

section
/-! PROOFS. What keeps memory canonical (12 R248): graphs and host rings (21 R422 to R429). -/

namespace Sys2Proof.Machine

open Sys2Proof.Safety

@[simp] theorem State.setHostRing_mem (s : State) (r x) : (s.setHostRing r x).mem = s.mem := by
  unfold State.setHostRing
  split <;> rfl

@[simp] theorem State.raiseRing_mem (s : State) (r) : (s.raiseRing r).mem = s.mem := by
  simp [State.raiseRing]

@[simp] theorem State.appendRing_wf {s : State} (h : Memory.wf s.mem = true) (r bs) : Memory.wf (s.appendRing r bs).mem = true := by
  grind [State.appendRing, State.raiseRing_mem, Memory.wf_write]

@[simp] theorem issueHring_wf {s : State} (h : Memory.wf s.mem = true) (e o) : (issueHring s e o).Canonical := by
  grind [issueHring, State.ringNow_mem, State.portWrite_wf, State.appendRing_wf, State.portRead_wf, Handed.canonical_over]

theorem State.startWalk_mem {s : State} {g : Word} {nnodes : Nat} {sp : Space} {priv : Bool} {compl : Option Word} {t : State}
    (e : s.startWalk g nnodes sp priv compl = some t) : t.mem = s.mem := by
  grind [State.startWalk, State.captureWalk_mem]

@[simp] theorem State.endWalk_wf {s : State} (h : Memory.wf s.mem = true) (w code cause node) :
    Memory.wf (s.endWalk w code cause node).mem = true := by
  unfold State.endWalk
  (repeat' split) <;> simp [h]

@[simp] theorem issueGraphgo_wf {s : State} (h : Memory.wf s.mem = true) (e o) : (issueGraphgo s e o).Canonical := by
  grind [issueGraphgo, State.trapAfter_mem, State.ringNow_mem, State.portWrite_wf, State.portProbe_wf, → State.startWalk_mem, Handed.canonical_over]

@[simp] theorem State.graphBell_wf {s : State} (h : Memory.wf s.mem = true) (pa) : Memory.wf (s.graphBell pa).mem = true := by
  grind [State.graphBell, State.agentPut_wf, → State.startWalk_mem, → State.agentRead_wf]

@[simp] theorem State.failWalk_mem (s : State) (w cause) : (s.failWalk w cause).mem = s.mem := rfl

@[simp] theorem State.nextNode_mem (s : State) (w next) : (s.nextNode w next).mem = s.mem := rfl

@[simp] theorem State.nodeLaunches_mem (s : State) (w) : (s.nodeLaunches w).mem = s.mem := rfl

@[simp] theorem State.nodeCopies_mem (s : State) (w) : (s.nodeCopies w).mem = s.mem := by
  unfold State.nodeCopies
  split <;> rfl

@[simp] theorem State.nodeWaits_wf {s : State} (h : Memory.wf s.mem = true) (w) : Memory.wf (s.nodeWaits w).mem = true := by
  grind [State.nodeWaits, State.putWalk_mem, State.nextNode_mem, State.failWalk_mem, → State.agentRead_wf]

@[simp] theorem State.nodeSignals_wf {s : State} (h : Memory.wf s.mem = true) (w) : Memory.wf (s.nodeSignals w).mem = true := by
  grind [State.nodeSignals, State.agentAccess_wf, State.homeWrite_wf, → State.agentWrite_wf, State.nextNode_mem, State.failWalk_mem,
    Ranged.canonical_ok]

@[simp] theorem State.nodeDecides_wf {s : State} (h : Memory.wf s.mem = true) (w past) : Memory.wf (s.nodeDecides w past).mem = true := by
  grind [State.nodeDecides, → State.agentWrite_wf, State.nextNode_mem, State.failWalk_mem, → State.agentRead_wf]

@[simp] theorem State.nodeDrains_mem (s : State) (w) : (s.nodeDrains w).mem = s.mem := by
  grind [State.nodeDrains, State.nextNode_mem, State.raiseRing_mem]

@[simp] theorem State.nodeEnds_wf {s : State} (h : Memory.wf s.mem = true) (w) : Memory.wf (s.nodeEnds w).mem = true := by
  unfold State.nodeEnds
  (repeat' split) <;> simp [h]

@[simp] theorem State.nodeEffect_wf {s : State} (h : Memory.wf s.mem = true) (w past) : Memory.wf (s.nodeEffect w past).mem = true := by
  unfold State.nodeEffect
  split <;> simp [h]

@[simp] theorem State.startNode_wf {s : State} (h : Memory.wf s.mem = true) (w kind past) : Memory.wf (s.startNode w kind past).mem = true := by
  grind [State.startNode, State.nodeEffect_wf, State.engineFails_mem, → State.agentWrite_wf, State.failWalk_mem, → State.agentRead_wf]

@[simp] theorem State.runWalk_wf {s : State} (h : Memory.wf s.mem = true) (num kind past) : Memory.wf (s.runWalk num kind past).mem = true := by
  unfold State.runWalk
  (repeat' split) <;> simp [h]

end Sys2Proof.Machine
end

section
/-! PROOFS. What keeps memory canonical (12 R248): images (14 R304). -/

namespace Sys2Proof.Machine

open Sys2Proof.Safety

@[simp] theorem State.putKey_mem (s : State) (k) : (s.putKey k).mem = s.mem := rfl

@[simp] theorem State.setLive_mem (s : State) (slots b) : (s.setLive slots b).mem = s.mem := rfl

@[simp] theorem State.makeImage_mem (s : State) (c) : (s.makeImage c).1.mem = s.mem := by
  unfold State.makeImage
  (repeat' split) <;> simp

end Sys2Proof.Machine
end

section
/-! PROOFS. What keeps memory canonical (12 R248): contexts, saves and restores (14). -/

namespace Sys2Proof.Machine

open Sys2Proof.Safety

@[simp] theorem State.exitEffect_wf {s : State} (h : Memory.wf s.mem = true) (status) : Memory.wf (s.exitEffect status).mem = true := by
  simp [State.exitEffect, h]

@[simp] theorem State.takeExit_wf {s : State} (h : Memory.wf s.mem = true) (c) : Memory.wf (s.takeExit c).mem = true := by
  grind [State.takeExit, State.exitEffect_wf, → State.focus_mem]

theorem State.withCtx_wf {s : State} (h : Memory.wf s.mem = true) {r : CtxRef} {f : State → State}
    (hf : ∀ s, Memory.wf s.mem = true → Memory.wf (f s).mem = true) : Memory.wf (s.withCtx r f).mem = true := by
  unfold State.withCtx
  split
  · exact h
  · next s1 focus =>
    have h2 := hf s1 (by rw [State.focus_mem focus]; exact h)
    dsimp only
    split
    · exact h2
    · split
      · next back => rw [State.focus_mem back]; exact h2
      · exact h2

theorem State.withCtx_mem {s : State} {r : CtxRef} {f : State → State} (hf : ∀ s, (f s).mem = s.mem) : (s.withCtx r f).mem = s.mem := by
  unfold State.withCtx
  split
  · rfl
  · next s1 focus =>
    have same : (f s1).mem = s.mem := (hf s1).trans (State.focus_mem focus)
    dsimp only
    split
    · exact same
    · split
      · next back => rw [State.focus_mem back]; exact same
      · exact same

@[simp] theorem State.leaveActive_wf {s : State} (h : Memory.wf s.mem = true) : Memory.wf s.leaveActive.mem = true := by
  simp [State.leaveActive, h]

@[simp] theorem State.standDown_wf {s : State} (h : Memory.wf s.mem = true) (c) : Memory.wf (s.standDown c).mem = true :=
  foldl_wf (fun _ _ hs => State.withCtx_wf hs fun _ hs => State.leaveActive_wf hs) _ s h

@[simp] theorem State.activate_wf {s : State} (h : Memory.wf s.mem = true) (r) : Memory.wf (s.activate r).mem = true := by
  unfold State.activate
  (repeat' split) <;> simp [h]

@[simp] theorem State.bankTurn_wf {s : State} (h : Memory.wf s.mem = true) (c) : Memory.wf (s.bankTurn c).mem = true := by
  unfold State.bankTurn
  extract_lets go
  have hgo {s} (h : Memory.wf s.mem = true) : Memory.wf (go s).mem = true := by
    simp only [go]
    split
    · exact State.withCtx_wf (by simp [h]) fun s hs => State.chooseNext_wf hs
    · simp [h]
  clear_value go
  split
  · split <;> simp [h]
  · split
    · exact hgo h
    · exact h

@[simp] theorem State.bankTurns_wf {s : State} (h : Memory.wf s.mem = true) : Memory.wf s.bankTurns.mem = true := by
  grind [State.bankTurns, State.bankTurn_wf, foldl_wf]

@[simp] theorem State.yieldTurn_wf {s : State} (h : Memory.wf s.mem = true) (c) : Memory.wf (s.yieldTurn c).mem = true := by
  unfold State.yieldTurn
  dsimp only
  split
  · simp [h]
  · exact State.withCtx_wf (by simp [h]) fun s hs => State.chooseNext_wf hs

theorem foldl_agentPut_wf {s : State} (h : Memory.wf s.mem = true) (sp : Space) (slot : Nat → Word) (l : List (Word × Nat)) :
    Memory.wf (l.foldl (fun s x => s.agentPut sp (slot x.2) x.1) s).mem = true :=
  foldl_wf (fun _ _ hs => State.agentPut_wf hs _ _ _) l s h

@[simp] theorem State.spillRun_wf {s : State} (h : Memory.wf s.mem = true) (c) : Memory.wf (s.spillRun c).mem = true := by
  unfold State.spillRun
  split
  · exact h
  · next b _ =>
    rw [State.modCtx_mem]
    exact State.putRun_wf (foldl_agentPut_wf h c.space (fun n => b.slot (_ + n)) _) _ _ _

@[simp] theorem State.quiesce_wf {s : State} (h : Memory.wf s.mem = true) : Memory.wf s.quiesce.mem = true := by
  simp [State.quiesce, h]

theorem State.writeImage_wf {s : State} {sp : Space} {a : Word} {bs : List Byte} (h : Memory.wf s.mem = true) {t : State}
    (e : s.writeImage sp a bs = .ok t) : Memory.wf t.mem = true := by
  grind [State.writeImage, → State.recordWrite_wf]

@[simp] theorem State.saveMember_wf {s : State} (h : Memory.wf s.mem = true) (c sp a) : Memory.wf (s.saveMember c sp a).1.mem = true := by
  grind [State.saveMember, State.makeImage_mem, → State.writeImage_wf]

@[simp] theorem State.saveMembers_wf {s : State} (h : Memory.wf s.mem = true) (n sp addr l) :
    Memory.wf (s.saveMembers n sp addr l).1.mem = true := by
  induction l generalizing s with
  | nil => exact h
  | cons m rest ih =>
    unfold State.saveMembers
    split
    · exact ih h
    · next c _ =>
      cases addr m with
      | error e =>
        dsimp only
        split
        · exact ih h
        · exact h
      | ok a =>
        have saved := State.saveMember_wf h c sp a
        dsimp only
        split
        · exact ih saved
        · exact saved

@[simp] theorem State.endTransfer_wf {s : State} (h : Memory.wf s.mem = true) (t w) : Memory.wf (s.endTransfer t w).mem = true := by
  unfold State.endTransfer
  split <;> simp [h]

@[simp] theorem State.putTransfer_mem (s : State) (t) : (s.putTransfer t).mem = s.mem := rfl

@[simp] theorem State.leaveBank_mem (s : State) (r imageAt) : (s.leaveBank r imageAt).mem = s.mem := rfl

@[simp] theorem State.saveWritten_wf {s : State} (h : Memory.wf s.mem = true) (t members) : Memory.wf (s.saveWritten t members).mem = true := by
  grind [State.saveWritten, State.modDir_mem, State.leaveBank_mem, State.putTransfer_mem, State.releaseUnits_wf, foldl_wf]

@[simp] theorem State.runSave_wf {s : State} (h : Memory.wf s.mem = true) (t) : Memory.wf (s.runSave t).mem = true := by
  unfold State.runSave
  extract_lets members
  split
  · exact h
  split
  · simp [h]
  · next s0 s1 _ _ =>
    have h1 : Memory.wf s1.mem = true := foldl_wf (fun s m hs => State.withCtx_wf hs fun s hs => by simp [hs]) _ s0 (by simp [s0, h])
    have saved := State.saveMembers_wf h1 t.name t.space (t.addr s1) members
    clear_value s1
    split
    · next e => rw [e] at saved; simp [show Memory.wf _ = true from saved]
    · next e => rw [e] at saved; simp [show Memory.wf _ = true from saved]

@[simp] theorem State.beginSave_mem (s : State) (n desc images) : (s.beginSave n desc images).mem = s.mem := rfl

@[simp] theorem State.saveDone_wf {s : State} (h : Memory.wf s.mem = true) (n) : Memory.wf (s.saveDone n).mem = true := by
  unfold State.saveDone
  (repeat' split) <;> simp [h]

@[simp] theorem State.refuseRestore_wf {s : State} (h : Memory.wf s.mem = true) (t cause m) : Memory.wf (s.refuseRestore t cause m).mem = true := by
  unfold State.refuseRestore
  split <;> simp [h]

@[simp] theorem State.acceptRestore_wf {s : State} (h : Memory.wf s.mem = true) (t) : Memory.wf (s.acceptRestore t).mem = true := by
  unfold State.acceptRestore
  (repeat' split) <;> simp [h]

@[simp] theorem State.loadMember_wf {s : State} (h : Memory.wf s.mem = true) (n m b p) : Memory.wf (s.loadMember n m b p).mem = true := by
  grind [State.loadMember, State.refill_wf, State.activate_wf, State.modCtx_mem, Memory.wf_write]

@[simp] theorem State.loadCohort_wf {s : State} (h : Memory.wf s.mem = true) (t slots) : Memory.wf (s.loadCohort t slots).mem = true := by
  grind [State.loadCohort, State.modDir_mem, State.setLive_mem, State.loadMember_wf, State.endTransfer_wf, State.drainDeferred_wf, foldl_wf]

@[simp] theorem State.restorePending_wf {s : State} (h : Memory.wf s.mem = true) : Memory.wf s.restorePending.mem = true := by
  grind [State.restorePending, State.loadCohort_wf, foldl_wf]

@[simp] theorem State.adopt_mem (s : State) (n x) : (s.adopt n x).mem = s.mem := rfl

@[simp] theorem State.beginRestore_wf {s : State} (h : Memory.wf s.mem = true) (r) : Memory.wf (s.beginRestore r).mem = true := by
  unfold State.beginRestore
  (repeat' split) <;> simp [h]

theorem State.access_ok_wf {s t : State} (h : Memory.wf s.mem = true) {cache : Option Nat} {f : Int} {len : Nat} {k : Access} {v : Bool}
    {gs : List Seg} (e : s.access cache f len k v = .ok t gs) : Memory.wf t.mem = true := by
  have access := State.access_wf h cache f len k v
  rwa [e] at access

theorem State.withDesc_wf {s : State} (h : Memory.wf s.mem = true) {k : Access} {body : State → List Byte → Done} {o : SR}
    (b : ∀ s bs, Memory.wf s.mem = true → (body s bs).Canonical) : (s.withDesc k body o).Canonical := by
  simp only [State.withDesc]
  split
  · exact State.stopTrap_wf h _ _
  · split
    · exact State.stopFail_wf h _
    · next e =>
      split
      · exact State.stopTrap_wf h _ _
      · exact b _ _ (State.access_ok_wf h e)

@[simp] theorem State.setSd_wf {s : State} (h : Memory.wf s.mem = true) (o x) : (s.setSd o x).Canonical := by
  simp [State.setSd, h]

end Sys2Proof.Machine
end

section
/-! PROOFS. What keeps memory canonical (12 R248): links and what arrives (23). -/

namespace Sys2Proof.Machine

open Sys2Proof.Safety

@[simp] theorem State.linkEvent_mem (s : State) (n sev synd) : (s.linkEvent n sev synd).mem = s.mem := by
  simp [State.linkEvent]

@[simp] theorem State.failSent_wf {s : State} (h : Memory.wf s.mem = true) (x cause) : Memory.wf (s.failSent x cause).mem = true := by
  grind [State.failSent, State.breakCopy_mem, State.outcome_wf]

@[simp] theorem State.failRetained_wf {s : State} (h : Memory.wf s.mem = true) (n cause) : Memory.wf (s.failRetained n cause).mem = true := by
  grind [State.failRetained, State.setPort_mem, State.failSent_wf, foldl_wf]

@[simp] theorem State.failPort_wf {s : State} (h : Memory.wf s.mem = true) (n) : Memory.wf (s.failPort n).mem = true := by
  simp [State.failPort, h]

@[simp] theorem State.train_mem (s : State) (n) : (s.train n).mem = s.mem := by
  simp [State.train]

@[simp] theorem State.dropAcked_wf {s : State} (h : Memory.wf s.mem = true) (port seq) : Memory.wf (s.dropAcked port seq).mem = true := by
  grind [State.dropAcked, State.setPort_mem, State.landUnit_wf, foldl_wf]

@[simp] theorem State.takeAck_wf {s : State} (h : Memory.wf s.mem = true) (port seq) : Memory.wf (s.takeAck port seq).mem = true := by
  simp [State.takeAck, h]

@[simp] theorem State.takeNak_wf {s : State} (h : Memory.wf s.mem = true) (port seq) : Memory.wf (s.takeNak port seq).mem = true := by
  grind [State.takeNak, State.dropAcked_wf, State.setPort_mem, State.linkEvent_mem]

@[simp] theorem State.takeRetire_mem (s : State) (port) : (s.takeRetire port).mem = s.mem := by
  grind [State.takeRetire, State.setPort_mem]

@[simp] theorem State.withdraw_wf {s : State} (h : Memory.wf s.mem = true) (n) : Memory.wf (s.withdraw n).mem = true := by
  simp [State.withdraw, h]

@[simp] theorem State.failFacing_wf {s : State} (h : Memory.wf s.mem = true) : Memory.wf s.failFacing.mem = true := by
  grind [State.failFacing, State.failPort_wf, foldl_wf]

@[simp] theorem State.respondTo_wf {s : State} (h : Memory.wf s.mem = true) (x) : Memory.wf (s.respondTo x).mem = true := by
  grind [State.respondTo, State.locate_mem, State.outcome_wf, State.busyAnswer_wf, State.dropFlight_mem]

@[simp] theorem State.takeBlocks_mem (s : State) (n x payload o) : (s.takeBlocks n x payload o).mem = s.mem := by
  grind [State.takeBlocks, State.respond_mem]

@[simp] theorem State.deliverPacket_wf {s : State} (h : Memory.wf s.mem = true) (n x payload) :
    Memory.wf (s.deliverPacket n x payload).mem = true := by
  unfold State.deliverPacket
  extract_lets o pa k
  have launched (l o p) : Memory.wf (s.launchFlight l o p).mem = true := h
  have refused (w) : Memory.wf (s.respond x.src x w []).mem = true := h
  split
  · exact State.respondTo_wf h x
  split
  · exact launched _ _ _
  split
  · exact refused _
  iterate 3
    split
    · exact launched _ _ _
  split
  · exact refused _
  iterate 3
    split
    · exact launched _ _ _
  split
  · rw [State.takeBlocks_mem]; exact h
  · exact refused _

@[simp] theorem State.acceptPacket_wf {s : State} (h : Memory.wf s.mem = true) (n vc x payload) :
    Memory.wf (s.acceptPacket n vc x payload).mem = true := by
  unfold State.acceptPacket
  split <;> simp [h]

@[simp] theorem State.freeFlits_mem (s : State) (n vc x payload) : (s.freeFlits n vc x payload).mem = s.mem := by
  simp [State.freeFlits]

@[simp] theorem State.acknowledge_mem (s : State) (n) : (s.acknowledge n).mem = s.mem := by
  simp [State.acknowledge]

@[simp] theorem State.grantCredits_mem (s : State) : s.grantCredits.mem = s.mem := by
  grind [State.grantCredits, State.acknowledge_mem, foldl_mem]

@[simp] theorem State.oweNak_mem (s : State) (n) : (s.oweNak n).mem = s.mem := by
  simp [State.oweNak]

@[simp] theorem State.takeCtl_wf {s : State} (h : Memory.wf s.mem = true) (n f) : Memory.wf (s.takeCtl n f).mem = true := by
  grind [State.takeCtl, State.takeAck_wf, State.takeRetire_mem, State.takeNak_wf]

@[simp] theorem State.takeFlits_wf {s : State} (h : Memory.wf s.mem = true) (n fs) : Memory.wf (s.takeFlits n fs).mem = true := by
  grind [State.takeFlits, State.setPort_mem, State.acceptPacket_wf, State.freeFlits_mem, State.acknowledge_mem, State.oweNak_mem]

@[simp] theorem State.carryFlight_wf {s : State} (h : Memory.wf s.mem = true) (k) : Memory.wf (s.carryFlight k).mem = true := by
  grind [State.carryFlight, State.carry_wf, State.freeFlits_mem, State.failSent_wf, State.dropFlight_mem, Carried.canonical_gone]

@[simp] theorem State.performRemote_wf {s : State} (h : Memory.wf s.mem = true) (k) : Memory.wf (s.performRemote k).mem = true := by
  unfold State.performRemote
  obtain ⟨key, named⟩ : ∃ key, key = devKey s.node := ⟨_, rfl⟩
  rw [← named]
  extract_lets answer
  have answered {s} (h : Memory.wf s.mem = true) (o n w bs) : Memory.wf (answer s o n w bs).mem = true := by
    simp only [answer]
    split <;> exact h
  clear_value answer
  have dropped : Memory.wf (s.dropFlight k).mem = true := by rw [State.dropFlight_mem]; exact h
  split
  · dsimp only
    split
    · exact answered dropped _ _ _ _
    · split
      · exact answered (by rw [State.sliceCheck_mem]; exact dropped) _ _ _ _
      · exact answered (by rw [State.recallSegs_mem]; exact dropped) _ _ _ _
  · exact answered (State.homeWrite_wf dropped _ _ _) _ _ _ _
  · next pa op double x y o _ _ _ _ _ _ =>
    generalize (if double = true then 64 else 32) = w
    dsimp only
    split
    · exact answered (by rw [State.poisonRecord_mem]; exact dropped) _ _ _ _
    · split
      · exact answered (by rw [State.sliceCheck_mem]; exact dropped) _ _ _ _
      · exact answered (by rw [State.noteIf_mem]; exact State.homeWrite_wf dropped _ _ _) _ _ _ _
  · exact h

end Sys2Proof.Machine
end

section
/-! PROOFS. What keeps memory canonical (12 R248): decisions on traps and machine checks (26). -/

namespace Sys2Proof.Machine

open Sys2Proof.Safety

@[simp] theorem State.putHandler_mem (s : State) (x) : (s.putHandler x).mem = s.mem := rfl

@[simp] theorem State.tellHandler_mem (s : State) (x rec) : (s.tellHandler x rec).mem = s.mem := rfl

theorem State.appendTrap_wf {s : State} {x : Handler} {c : Ctx} {r : TrapRec} (h : Memory.wf s.mem = true) {t : State}
    (e : s.appendTrap x c r = some t) : Memory.wf t.mem = true := by
  grind [State.appendTrap, State.putHandler_mem, State.tellHandler_mem, → State.agentWrite_wf]

@[simp] theorem State.resumeCtx_mem (s : State) (c) : (s.resumeCtx c).mem = s.mem := by
  grind [State.resumeCtx, State.modCtx_mem, State.event_mem]

@[simp] theorem State.terminateCtx_wf {s : State} (h : Memory.wf s.mem = true) (r cause) : Memory.wf (s.terminateCtx r cause).mem = true :=
  State.withCtx_wf h fun s hs => by simp [hs]

@[simp] theorem State.saveFor_wf {s : State} (h : Memory.wf s.mem = true) (c cause) : Memory.wf (s.saveFor c cause).mem = true := by
  unfold State.saveFor
  (repeat' split) <;> simp [h]

@[simp] theorem State.noteRetry_mem (s : State) (c r bench) : (s.noteRetry c r bench).mem = s.mem := rfl

@[simp] theorem State.decideFeature_wf {s : State} (h : Memory.wf s.mem = true) (c r) : Memory.wf (s.decideFeature c r).mem = true := by
  unfold State.decideFeature
  (repeat' split) <;> simp [h]

@[simp] theorem State.fenceBench_mem (s : State) (n) : (s.fenceBench n).mem = s.mem := by
  grind [State.fenceBench, State.setBench_mem]

@[simp] theorem State.decideMismatch_wf {s : State} (h : Memory.wf s.mem = true) (c r) : Memory.wf (s.decideMismatch c r).mem = true := by
  grind [State.decideMismatch, State.terminateCtx_wf, State.resumeCtx_mem, State.noteRetry_mem, State.fenceBench_mem, State.saveFor_wf]

@[simp] theorem State.decideDefault_wf {s : State} (h : Memory.wf s.mem = true) (c r) : Memory.wf (s.decideDefault c r).mem = true := by
  unfold State.decideDefault
  (repeat' split) <;> simp [h]

@[simp] theorem State.handlerDecides_wf {s : State} (h : Memory.wf s.mem = true) (x c r rec) : Memory.wf (s.handlerDecides x c r rec).mem = true := by
  grind [State.handlerDecides, State.putHandler_mem, State.terminateCtx_wf, State.resumeCtx_mem, State.saveFor_wf, → State.agentRead_wf]

@[simp] theorem State.decideTrap_wf {s : State} (h : Memory.wf s.mem = true) (c r) : Memory.wf (s.decideTrap c r).mem = true := by
  unfold State.decideTrap
  split
  · exact h
  split
  · simp [h]
  split
  · simp [h]
  split
  · simp [h]
  · next x _ _ _ _ =>
    cases told : s.appendTrap x c r with
    | none => simp [h]
    | some t => exact State.appendTrap_wf h told

@[simp] theorem State.badLine_mem (s : State) (pa bank synd) : (s.badLine pa bank synd).mem = s.mem := by
  simp [State.badLine]

@[simp] theorem State.unitCheck_mem (s : State) (bank c) : (s.unitCheck bank c).mem = s.mem := by
  unfold State.unitCheck
  split <;> simp

@[simp] theorem State.askRecess_mem (s : State) (n) : (s.askRecess n).mem = s.mem := by
  grind [State.askRecess, State.setBench_mem]

@[simp] theorem State.endQuiesce_mem (s : State) (n) : (s.endQuiesce n).mem = s.mem := by
  grind [State.endQuiesce, State.setBench_mem]

@[simp] theorem State.endRecess_mem (s : State) (n failing) : (s.endRecess n failing).mem = s.mem := by
  unfold State.endRecess
  split <;> simp

end Sys2Proof.Machine
end

section
/-! PROOFS. What keeps memory canonical (12 R248): the management interface (28). -/

namespace Sys2Proof.Machine

open Sys2Proof.Safety

@[simp] theorem State.answerCommand_wf {s : State} (h : Memory.wf s.mem = true) (c code) : Memory.wf (s.answerCommand c code).mem = true := by
  simp [State.answerCommand, h]

theorem State.serve_wf {s : State} (h : Memory.wf s.mem = true) {op sub : Nat} {body : Serve}
    (b : ∀ s sp bs t n, Memory.wf s.mem = true → body s sp bs = some (t, n) → Memory.wf t.mem = true) :
    Memory.wf (s.serve op sub body).mem = true := by
  unfold State.serve
  split
  · exact h
  · next c rest _ =>
    dsimp only
    split
    · exact h
    split
    · simp [h]
    split
    · exact h
    split
    · exact h
    · next s1 n served => exact State.answerCommand_wf (b { s with commands := rest } _ _ _ _ h served) _ _

theorem State.refuse_mem {s : State} {t : State} {x : Nat} (e : s.refuse = some (t, x)) : t.mem = s.mem := by
  grind [State.refuse]

theorem State.unserved_mem {s : State} {sp : Space} {a : Word} {n : Nat} {k : Access} {t : State} {x : Nat} (e : s.unserved sp a n k = some (t, x)) :
    t.mem = s.mem := by
  grind [State.unserved, → State.refuse_mem]

theorem State.done_mem {s : State} {t : State} {x : Nat} (e : s.done = some (t, x)) : t.mem = s.mem := by
  grind [State.done]

theorem serveKeyset_wf {s : State} {sp : Space} {bs : List Byte} (h : Memory.wf s.mem = true) {t : State} {x : Nat}
    (e : serveKeyset s sp bs = some (t, x)) : Memory.wf t.mem = true := by
  grind [serveKeyset, State.setPort_mem, State.putKey_mem, → State.refuse_mem, → State.unserved_mem, → State.done_mem, → State.agentRead_wf]

theorem serveKeyerase_wf {s : State} {sp : Space} {bs : List Byte} (h : Memory.wf s.mem = true) {t : State} {x : Nat}
    (e : serveKeyerase s sp bs = some (t, x)) : Memory.wf t.mem = true := by
  grind [serveKeyerase, State.setPort_mem, → State.refuse_mem, State.withdraw_wf, → State.done_mem]

theorem serveTool_wf {s : State} {sp : Space} {bs : List Byte} (h : Memory.wf s.mem = true) {t : State} {x : Nat}
    (e : serveTool s sp bs = some (t, x)) : Memory.wf t.mem = true := by
  grind [serveTool, → State.refuse_mem, State.putTool_mem, → State.unserved_mem, → State.done_mem, → State.agentRead_wf]

theorem serveAdapter_mem {s : State} {sp : Space} {bs : List Byte} {t : State} {x : Nat} (e : serveAdapter s sp bs = some (t, x)) :
    t.mem = s.mem := by
  grind [serveAdapter, → State.refuse_mem, → State.done_mem]

theorem serveHandler_mem {s : State} {sp : Space} {bs : List Byte} {t : State} {x : Nat} (e : serveHandler s sp bs = some (t, x)) :
    t.mem = s.mem := by
  grind [serveHandler, → State.refuse_mem, → State.done_mem]

@[simp] theorem State.dropStock_mem (s : State) (names) : (s.dropStock names).mem = s.mem := by
  grind [State.dropStock, State.retireName_mem, foldl_mem]

theorem serveBinding_mem {s : State} {sp : Space} {bs : List Byte} {t : State} {x : Nat} (e : serveBinding s sp bs = some (t, x)) :
    t.mem = s.mem := by
  grind [serveBinding, State.dropStock_mem, → State.refuse_mem, → State.done_mem]

theorem serveSample_mem {s : State} {sp : Space} {bs : List Byte} {t : State} {x : Nat} (e : serveSample s sp bs = some (t, x)) : t.mem = s.mem := by
  grind [serveSample, → State.refuse_mem, → State.done_mem]

@[simp] theorem State.discardMember_wf {s0 : State} (h : Memory.wf s0.mem = true) (c) : Memory.wf (s0.discardMember c).mem = true := by
  unfold State.discardMember
  (repeat' split) <;> simp [h]

@[simp] theorem State.endMember_wf {s : State} (h : Memory.wf s.mem = true) (r) : Memory.wf (s.endMember r).mem = true := by
  unfold State.endMember
  (repeat' split) <;> simp [h]

@[simp] theorem State.endLaunch_wf {s : State} (h : Memory.wf s.mem = true) (l) : Memory.wf (s.endLaunch l).mem = true := by
  grind [State.endLaunch, State.endMember_wf, foldl_wf]

@[simp] theorem State.dropPending_mem (s : State) (l) : (s.dropPending l).mem = s.mem := rfl

theorem serveTerminate_wf {s : State} {sp : Space} {bs : List Byte} (h : Memory.wf s.mem = true) {t : State} {x : Nat}
    (e : serveTerminate s sp bs = some (t, x)) : Memory.wf t.mem = true := by
  grind [serveTerminate, State.dropPending_mem, State.takeExit_wf, → State.refuse_mem, State.putLaunch_mem, State.endLaunch_wf, → State.done_mem,
    foldl_wf]

@[simp] theorem State.stopIdle_mem (s : State) (p) : (s.stopIdle p).mem = s.mem := by
  simp [State.stopIdle]

theorem serveStop_mem {s : State} {sp : Space} {bs : List Byte} {t : State} {x : Nat} (e : serveStop s sp bs = some (t, x)) : t.mem = s.mem := by
  grind [serveStop, → State.refuse_mem, State.stopIdle_mem, → State.done_mem]

@[simp] theorem State.releaseCtx_mem (s : State) (r) : (s.releaseCtx r).mem = s.mem := by
  grind [State.releaseCtx, State.modCtx_mem, State.event_mem]

@[simp] theorem State.release_mem (s : State) (p) : (s.release p).mem = s.mem := by
  simp [State.release]

theorem serveRelease_mem {s : State} {sp : Space} {bs : List Byte} {t : State} {x : Nat} (e : serveRelease s sp bs = some (t, x)) :
    t.mem = s.mem := by
  grind [serveRelease, → State.refuse_mem, → State.done_mem, State.release_mem]

@[simp] theorem State.takeOut_mem (s : State) (cls unit retired test) : (s.takeOut cls unit retired test).mem = s.mem := rfl

@[simp] theorem State.bringBack_mem (s : State) (cls unit) : (s.bringBack cls unit).mem = s.mem := rfl

theorem State.serviceUnit_mem {s : State} {cls : Nat} {unit : Nat} {action : Nat} {test : Nat} {t : State} {x : Nat}
    (e : s.serviceUnit cls unit action test = some (t, x)) : t.mem = s.mem := by
  unfold State.serviceUnit at e
  split at e <;> cases e
  case h_6 => split <;> rfl
  all_goals rfl

theorem State.serviceBench_mem {s : State} {n : Nat} {action : Nat} {t : State} {x : Nat} (e : s.serviceBench n action = some (t, x)) :
    t.mem = s.mem := by
  unfold State.serviceBench at e
  dsimp only at e
  (repeat' split at e) <;> cases e <;> simp

@[simp] theorem State.fencePort_wf {s : State} (h : Memory.wf s.mem = true) (n) : Memory.wf (s.fencePort n).mem = true := by
  simp [State.fencePort, h]

theorem State.servicePort_wf {s : State} {n : Nat} {action : Nat} (h : Memory.wf s.mem = true) {t : State} {x : Nat}
    (e : s.servicePort n action = some (t, x)) : Memory.wf t.mem = true := by
  unfold State.servicePort at e
  dsimp only at e
  (repeat' split at e) <;> cases e <;> simp [h]

@[simp] theorem State.scrubRange_mem (s : State) (base len) : (s.scrubRange base len).mem = s.mem := by
  grind [State.scrubRange, State.badLine_mem, foldl_mem]

theorem State.serviceRange_mem {s : State} {base : Nat} {len : Nat} {action : Nat} {t : State} {x : Nat}
    (e : s.serviceRange base len action = some (t, x)) : t.mem = s.mem := by
  grind [State.serviceRange, → State.refuse_mem, → State.done_mem, State.scrubRange_mem]

@[simp] theorem State.endToolCore_mem (s : State) (unit) : (s.endToolCore unit).mem = s.mem := by
  simp [State.endToolCore]

theorem serveService_wf {s : State} {sp : Space} {b : List Byte} (h : Memory.wf s.mem = true) {t : State} {x : Nat}
    (e : serveService s sp b = some (t, x)) : Memory.wf t.mem = true := by
  unfold serveService at e
  dsimp only at e
  have refused (e : s.refuse = some (t, x)) : Memory.wf t.mem = true := by cases e; exact h
  split at e
  · exact refused e
  split at e
  · split at e
    · exact refused e
    · rw [State.serviceBench_mem e]; exact h
  split at e
  · split at e
    · exact refused e
    · rw [State.serviceUnit_mem e]; exact h
  split at e
  · split at e
    · exact refused e
    · exact State.servicePort_wf h e
  split at e
  · split at e
    · exact refused e
    · rw [State.serviceRange_mem e]; exact h
  split at e
  · split at e
    · exact refused e
    · obtain ⟨⟨s1, n⟩, served, ends⟩ := Option.map_eq_some_iff.mp e
      have h1 : Memory.wf s1.mem = true := by rw [State.serviceUnit_mem served]; exact h
      split at ends <;> cases ends <;> simp [h1]
  · split at e
    · exact refused e
    · rw [State.serviceUnit_mem e]; exact h

theorem serveUpdate_wf {s : State} {sp : Space} {bs : List Byte} (h : Memory.wf s.mem = true) {t : State} {x : Nat}
    (e : serveUpdate s sp bs = some (t, x)) : Memory.wf t.mem = true := by
  grind [serveUpdate, → State.refuse_mem, → State.unserved_mem, → State.done_mem, → State.agentRead_wf]

theorem serveAttest_wf {s : State} {sp : Space} {b : List Byte} (h : Memory.wf s.mem = true) {t : State} {x : Nat}
    (e : serveAttest s sp b = some (t, x)) : Memory.wf t.mem = true := by
  unfold serveAttest at e
  dsimp only at e
  split at e
  · cases e; exact h
  split at e
  · cases e; exact h
  split at e
  · cases e; exact h
  split at e
  · split at e
    · cases e
    · cases e; exact h
  · next written =>
    cases e
    exact State.agentWrite_wf (s := { s with hssUsed := s.hssUsed + 1 }) h written

@[simp] theorem State.serveHead_wf {s : State} (h : Memory.wf s.mem = true) : Memory.wf s.serveHead.mem = true := by
  unfold State.serveHead
  split
  · exact h
  split
  · exact State.serve_wf h fun _ _ _ _ _ hs e => serveKeyset_wf hs e
  · exact State.serve_wf h fun _ _ _ _ _ hs e => serveKeyerase_wf hs e
  · exact State.serve_wf h fun _ _ _ _ _ hs e => serveTool_wf hs e
  · exact State.serve_wf h fun _ _ _ _ _ hs e => serveAdapter_mem e ▸ hs
  · exact State.serve_wf h fun _ _ _ _ _ hs e => serveHandler_mem e ▸ hs
  · exact State.serve_wf h fun _ _ _ _ _ hs e => serveBinding_mem e ▸ hs
  · exact State.serve_wf h fun _ _ _ _ _ hs e => serveTerminate_wf hs e
  · exact State.serve_wf h fun _ _ _ _ _ hs e => serveStop_mem e ▸ hs
  · exact State.serve_wf h fun _ _ _ _ _ hs e => serveRelease_mem e ▸ hs
  · exact State.serve_wf h fun _ _ _ _ _ hs e => serveSample_mem e ▸ hs
  · exact State.serve_wf h fun _ _ _ _ _ hs e => serveService_wf hs e
  · exact State.serve_wf h fun _ _ _ _ _ hs e => serveAttest_wf hs e
  · exact State.serve_wf h fun _ _ _ _ _ hs e => serveUpdate_wf hs e

@[simp] theorem State.switchFirmware_mem (s : State) : s.switchFirmware.mem = s.mem := by
  unfold State.switchFirmware
  split <;> rfl

@[simp] theorem State.rescaled_mem (s : State) (f) : (s.rescaled f).mem = s.mem := rfl

@[simp] theorem State.setClock_mem (s : State) (n) : (s.setClock n).mem = s.mem := by
  simp [State.setClock]

@[simp] theorem State.rebooted_wf {s : State} (h : Memory.wf s.mem = true) (mcbs) : Memory.wf (s.rebooted mcbs).mem = true :=
  Memory.wf_filter _ h

@[simp] theorem State.boot_mem (s : State) (e) : (s.boot e).mem = s.mem := by
  unfold State.boot
  split <;> simp

@[simp] theorem State.recheckRing_mem (s : State) (r) : (s.recheckRing r).mem = s.mem := by
  grind [State.recheckRing, State.raiseRing_mem]

@[simp] theorem State.writeTrigger_wf {s : State} (h : Memory.wf s.mem = true) (n word w) : Memory.wf (s.writeTrigger n word w).mem = true := by
  unfold State.writeTrigger
  split <;> simp [h]

@[simp] theorem State.submitMailbox_mem (s : State) : s.submitMailbox.mem = s.mem := rfl

@[simp] theorem State.windowWrite_wf {s : State} (h : Memory.wf s.mem = true) (off w) : Memory.wf (s.windowWrite off w).mem = true := by
  unfold State.windowWrite
  dsimp only
  split
  · exact h
  split
  · split
    · rw [State.submitMailbox_mem]; exact h
    · exact h
  split
  · rw [State.writeMailbox_mem]; exact h
  split
  · rw [State.recheckRing_mem, State.setHostRing_mem]; exact h
  split
  · split <;> exact h
  split
  · split
    · exact State.writeTrigger_wf h _ _ _
    · exact h
  split
  · rw [State.launchBell_mem]; exact h
  split
  · exact State.graphBell_wf h _
  split
  · rw [State.setMcb_mem]; exact h
  · exact h

end Sys2Proof.Machine
end

section
/-! PROOFS. What keeps memory canonical (12 R248): the engines and the hub of a cycle (02 R40 to R48). -/

namespace Sys2Proof.Machine

open Sys2Proof.Safety

@[simp] theorem State.residueCheck_mem (s : State) (cls synd queue) : (s.residueCheck cls synd queue).mem = s.mem := by
  simp [State.residueCheck]

@[simp] theorem State.mismatchXfer_mem (s : State) (q e) : (s.mismatchXfer q e).mem = s.mem := by
  simp [State.mismatchXfer]

@[simp] theorem State.mismatchVector_mem (s : State) (e) : (s.mismatchVector e).mem = s.mem := by
  grind [State.mismatchVector, State.issueVector_mem, State.clearInj_mem, State.residueCheck_mem, State.takeTrap_mem]

@[simp] theorem State.issueLs_wf {s : State} (h : Memory.wf s.mem = true) (q e) : Memory.wf (s.issueLs q e).mem = true := by
  unfold State.issueLs
  split <;> simp [h]

@[simp] theorem State.issueAq_mem (s : State) (e) : (s.issueAq e).mem = s.mem := by
  unfold State.issueAq
  split <;> simp

theorem portBody_wf {i : Instr} {b : PortBody} (body : portBody i = some b) {s : State} (h : Memory.wf s.mem = true) (x : Entry) (o : N) :
    (b s x o).Canonical := by
  unfold portBody at body
  split at body <;> cases body
  all_goals simp [h]

@[simp] theorem State.portServes_wf {s : State} (h : Memory.wf s.mem = true) (e) : (s.portServes e).Canonical := by
  unfold State.portServes
  split
  · next body _ => exact portBody_wf body h _ _
  · trivial

@[simp] theorem State.issuePort_wf {s : State} (h : Memory.wf s.mem = true) (e) : Memory.wf (s.issuePort e).mem = true := by
  grind [State.issuePort, State.takeFail_mem, State.portServes_wf, Handed.canonical_over, Handed.canonical_waits]

@[simp] theorem State.issueHead_wf {s : State} (h : Memory.wf s.mem = true) (q e) : Memory.wf (s.issueHead q e).mem = true := by
  unfold State.issueHead
  split <;> simp [h]

@[simp] theorem State.tryIssue_wf {s : State} (h : Memory.wf s.mem = true) (snap q) : Memory.wf (s.tryIssue snap q).mem = true := by
  unfold State.tryIssue
  (repeat' split) <;> simp [h]

@[simp] theorem State.moveOn_wf {s : State} (h : Memory.wf s.mem = true) (q) : Memory.wf (s.moveOn q).mem = true := by
  grind [State.moveOn, State.mismatchXfer_mem, State.transfer_wf]

@[simp] theorem State.moveMatrix_wf {s : State} (h : Memory.wf s.mem = true) : Memory.wf s.moveMatrix.mem = true := by
  unfold State.moveMatrix
  split <;> simp [h]

@[simp] theorem State.movePort_wf {s : State} (h : Memory.wf s.mem = true) : Memory.wf s.movePort.mem = true := by
  grind [State.movePort, State.takeFail_mem, State.tendEffect_wf, State.portServes_wf, Handed.canonical_over, Handed.canonical_waits]

@[simp] theorem State.issuePart_wf {s : State} (h : Memory.wf s.mem = true) (n q) : Memory.wf (State.issuePart n q s).mem = true := by
  unfold State.issuePart
  split <;> simp [h]

@[simp] theorem State.movePart_wf {s : State} (h : Memory.wf s.mem = true) (q) : Memory.wf (s.movePart q).mem = true := by
  unfold State.movePart
  (repeat' split) <;> simp [h]

theorem State.foldl_movePart_wf {s n : State} (h : Memory.wf s.mem = true) (qs : List Queue) :
    Memory.wf (qs.foldl (fun s q => (State.issuePart n q s).movePart q) s).mem = true := by
  refine foldl_wf (fun s q hs => ?_) qs s h
  have issued := State.issuePart_wf hs n q
  exact State.movePart_wf issued q

@[simp] theorem State.queuePhase_wf {snap s : State} (h : Memory.wf s.mem = true) (qs r) : Memory.wf (snap.queuePhase qs s r).mem = true := by
  unfold State.queuePhase
  split
  · exact h
  · split
    · exact State.withCtx_wf h fun s hs => State.foldl_movePart_wf hs qs
    · exact h

@[simp] theorem State.engines_wf {snap s : State} (h : Memory.wf s.mem = true) (r) : Memory.wf (snap.engines s r).mem = true :=
  State.queuePhase_wf h _ r

@[simp] theorem State.arbiters_mem (snap : State) (s : State) : (snap.arbiters s).mem = s.mem := by
  simp [State.arbiters]

@[simp] theorem State.settle_wf {s : State} (h : Memory.wf s.mem = true) : Memory.wf s.settle.mem = true := by
  grind [State.settle, State.wakeOther_mem, State.drain_wf, State.movePort_wf]

@[simp] theorem State.idleSteal_wf {s : State} (h : Memory.wf s.mem = true) : Memory.wf s.idleSteal.mem = true := by
  unfold State.idleSteal
  split <;> simp [h]

@[simp] theorem State.restPhase_wf {s : State} (h : Memory.wf s.mem = true) (r) : Memory.wf (s.restPhase r).mem = true := by
  refine State.withCtx_wf h fun s hs => ?_
  split
  · exact hs
  · split <;> (try split) <;> simp [hs]

@[simp] theorem State.stealPhase_wf {s : State} (h : Memory.wf s.mem = true) : Memory.wf s.stealPhase.mem = true := by
  unfold State.stealPhase
  split
  · exact h
  · exact foldl_wf (fun s r hs => State.withCtx_wf hs fun s hs => State.idleSteal_wf hs) _ s h

@[simp] theorem State.watchPhase_mem (snap s : State) (r) : (snap.watchPhase s r).mem = s.mem := by
  refine State.withCtx_mem fun s => ?_
  split
  · rfl
  · split <;> simp

@[simp] theorem State.flightStep_wf {s : State} (h : Memory.wf s.mem = true) (k) : Memory.wf (s.flightStep k).mem = true := by
  unfold State.flightStep
  (repeat' split) <;> simp [h]

@[simp] theorem State.flightSteps_wf {s : State} (h : Memory.wf s.mem = true) (p k n) : Memory.wf (s.flightSteps p k n).mem = true := by
  induction n generalizing s k with
  | zero => exact h
  | succ n ih =>
    unfold State.flightSteps
    extract_lets s1
    have h1 : Memory.wf s1.mem = true := by
      simp only [s1]
      split <;> simp [h]
    split <;> exact ih h1 _

@[simp] theorem State.orderFlights_mem (s : State) : s.orderFlights.mem = s.mem := rfl

@[simp] theorem State.serveFlights_wf {s : State} (h : Memory.wf s.mem = true) (others) : Memory.wf (s.serveFlights others).mem = true := by
  simp [State.serveFlights, h]

@[simp] theorem State.settleCohort_wf {s : State} (h : Memory.wf s.mem = true) (n) : Memory.wf (s.settleCohort n).mem = true := by
  unfold State.settleCohort
  extract_lets member s1 mine s2
  have hmember {s} (h : Memory.wf s.mem = true) : Memory.wf (member s).mem = true := by
    simp only [member]
    have taken : Memory.wf (if s.cx.isRunning && !s.cx.after.isEmpty then s.takeAfter else s).mem = true := by
      split <;> simp [h]
    generalize (if s.cx.isRunning && !s.cx.after.isEmpty then s.takeAfter else s) = s1 at taken ⊢
    split
    · split
      · exact State.exitEffect_wf taken _
      · exact taken
    · exact State.tendEffect_wf taken
  clear_value member
  have h1 : Memory.wf s1.mem = true := foldl_wf (fun s m hs => State.withCtx_wf hs fun s hs => hmember hs) _ s h
  clear_value s1
  have h2 : Memory.wf s2.mem = true := by simp [s2, h1]
  exact State.flightSteps_wf h2 _ _ _

@[simp] theorem State.transferStep_wf {s : State} (h : Memory.wf s.mem = true) (t) : Memory.wf (s.transferStep t).mem = true := by
  have settled := State.settleCohort_wf h t.name
  unfold State.transferStep
  split
  · split <;> simp [h]
  split
  · simp [h]
  split
  · dsimp only
    split
    · exact State.runSave_wf settled _
    · exact settled
  · exact h

@[simp] theorem State.saveOne_wf {s : State} (h : Memory.wf s.mem = true) (n images) : Memory.wf (s.saveOne n images).mem = true := by
  grind [State.saveOne, State.putTransfer_mem, State.runSave_wf, State.beginSave_mem]

@[simp] theorem State.preempt_wf {s : State} (h : Memory.wf s.mem = true) (r) : Memory.wf (s.preempt r).mem = true := by
  grind [State.preempt, State.saveOne_wf, foldl_wf]

@[simp] theorem State.quaySteps_wf {s : State} (h : Memory.wf s.mem = true) : Memory.wf s.quaySteps.mem = true := by
  grind [State.quaySteps, State.divertBlocks_mem, State.reductionDone_wf, State.blockStep_wf, foldl_wf]

@[simp] theorem State.submissionSteps_wf {s : State} (h : Memory.wf s.mem = true) : Memory.wf s.submissionSteps.mem = true := by
  grind [State.submissionSteps, State.checkSubmission_wf, foldl_wf]

@[simp] theorem State.endDrains_wf {s : State} (h : Memory.wf s.mem = true) : Memory.wf s.endDrains.mem = true :=
  foldl_wf (fun s d hs => by rw [State.endDrain_mem]; exact State.drainDeferred_wf hs _ _) _ s h

@[simp] theorem State.wakeSaved_wf {s : State} (h : Memory.wf s.mem = true) : Memory.wf s.wakeSaved.mem = true := by
  grind [State.wakeSaved, State.beginRestore_wf, State.mapCtxs_mem, foldl_wf]

@[simp] theorem State.deadlines_mem (s : State) : s.deadlines.mem = s.mem := by
  simp [State.deadlines]

@[simp] theorem State.hub_wf {s snap : State} (h : Memory.wf s.mem = true) : Memory.wf (s.hub snap).mem = true := by
  unfold State.hub
  extract_lets s1 s2 s3 s4 s5 s6 s7 s10 s11 s12 s13
  have h1 : Memory.wf s1.mem = true := by simp [s1, h]
  clear_value s1
  have h2 : Memory.wf s2.mem = true := foldl_wf (fun s l hs => State.endLaunch_wf hs l) _ _ (State.settleOwed_wf h1)
  clear_value s2
  have h3 : Memory.wf s3.mem = true := by
    have ended : Memory.wf (s2.launches.foldl (fun s l => s.completeLaunch l false) s2).mem = true :=
      foldl_wf (fun s l hs => State.completeLaunch_wf hs l false) _ s2 h2
    exact State.restorePending_wf (State.bindPending_wf (State.replayNext_wf ended))
  clear_value s3
  have h4 : Memory.wf s4.mem = true := foldl_wf (fun s w hs => State.runWalk_wf hs w.num none (some snap.mem)) _ s3 h3
  clear_value s4
  have h5 : Memory.wf s5.mem = true := foldl_wf (fun s d hs => State.drainDeferred_wf hs _ _) _ s4 h4
  clear_value s5
  have h7 : Memory.wf s7.mem = true := State.runCopies_wf (State.quaySteps_wf (State.serveFlights_wf h5 false))
  clear_value s7
  have h10 : Memory.wf s10.mem = true := State.wakeSaved_wf (State.serveFlights_wf (State.finishFutures_wf h7) true)
  clear_value s10
  have h11 : Memory.wf s11.mem = true := foldl_wf (fun s t hs => State.transferStep_wf hs t) _ _ (by simp [h10])
  clear_value s11
  have h12 : Memory.wf s12.mem = true := foldl_wf (fun s r hs => by split <;> simp [hs]) _ s11 h11
  clear_value s12
  have h13 : Memory.wf s13.mem = true := by simp [s13, h12]
  clear_value s13
  exact foldl_wf (fun s b hs => by simp [hs]) _ s13 h13

@[simp] theorem State.delay_mem (s : State) : s.delay.1.mem = s.mem := by
  unfold State.delay
  split <;> rfl

@[simp] theorem State.dawn_mem (s : State) : s.dawn.mem = s.mem := by
  have shown (s : State) (r : CtxRef) : (s.withCtx r fun s =>
      if s.isFrozen s.cx then s else if s.cx.life == .running then s.showNow s.cx.now else s.showSends s.cx.now).mem = s.mem := by
    refine State.withCtx_mem fun s => ?_
    split
    · rfl
    · split <;> simp
  exact foldl_mem shown s.inOrder { s.mapCtxs Ctx.cycleEnd with freed := [] }

@[simp] theorem State.cycle_wf {s : State} (h : Memory.wf s.mem = true) (snap) :
    Memory.wf (s.cycle snap).mem = true := by
  unfold State.cycle
  extract_lets s3 s4 s5 s6 s7
  have h3 : Memory.wf s3.mem = true := foldl_wf (fun s r hs => State.queuePhase_wf hs _ _) _ _ (by simp [h])
  clear_value s3
  have h4 : Memory.wf s4.mem = true := State.stealPhase_wf (foldl_wf (fun s r hs => State.restPhase_wf hs r) _ s3 h3)
  clear_value s4
  have h5 : Memory.wf s5.mem = true := by
    simp only [s5]
    split
    · simp [h4]
    · split <;> simp [h4]
  clear_value s5
  have h6 : Memory.wf s6.mem = true := by
    simp only [s6]
    split <;> simp [h5]
  clear_value s6
  have watched : Memory.wf (s6.inOrder.foldl snap.watchPhase s6).mem = true :=
    foldl_wf (fun s r hs => by rw [State.watchPhase_mem]; exact hs) _ s6 h6
  have h7 : Memory.wf s7.mem = true := by simp [s7, watched]
  clear_value s7
  rw [State.dawn_mem]
  split <;> simp [h7]

@[simp] theorem State.cycles_wf {s : State} (h : Memory.wf s.mem = true) (n) : Memory.wf (s.cycles_ n).mem = true := by
  induction n generalizing s with
  | zero => exact h
  | succ n ih =>
    unfold State.cycles_
    extract_lets snap
    have risen : Memory.wf snap.mem = true := by simp [snap, h]
    clear_value snap
    have moved : Memory.wf (snap.inOrder.foldl snap.engines snap).mem = true := foldl_wf (fun s r hs => State.engines_wf hs r) _ snap risen
    exact ih (State.cycle_wf moved snap)

@[simp] theorem State.around_wf {s : State} (h : Memory.wf s.mem = true) (snap) : Memory.wf (s.around snap).mem = true := by
  have delayed : Memory.wf s.delay.1.mem = true := by rw [State.delay_mem]; exact h
  unfold State.around
  exact State.cycles_wf (State.cycle_wf delayed snap) _

@[simp] theorem State.turnOrder_mem (s : State) : s.turnOrder.1.mem = s.mem := by
  unfold State.turnOrder
  split <;> rfl

@[simp] theorem State.meet_wf {s : State} (h : Memory.wf s.mem = true) : s.meet.Canonical := by
  grind [State.meet, State.takeFail_mem, State.badWord_mem, State.takeAfter_mem, State.stalled_mem, State.clearInj_mem, State.residueCheck_mem,
    → State.fetch_wf, State.takeTrap_mem, Turn.canonical_none, Turn.canonical_run]

@[simp] theorem State.due_wf {s : State} (h : Memory.wf s.mem = true) : s.due.Canonical := by
  unfold State.due
  (repeat' split) <;> simp [h]

@[simp] theorem State.completeQueue_wf {s : State} (h : Memory.wf s.mem = true) (q) : Memory.wf (s.completeQueue q).mem = true := by
  unfold State.completeQueue
  (repeat' split) <;> simp [h]

end Sys2Proof.Machine
end

section
/-! PROOFS. Every event keeps memory canonical (12 R248). -/

namespace Sys2Proof.Machine

open Sys2Proof.Safety

/-- A step that goes on leaves canonical memory. -/
def NextCanonical : Host.Outcome State Fault Refusal → Prop
  | .next t => Memory.wf t.mem = true
  | .fault _ | .refused _ => True

@[simp] theorem nextCanonical_next (t : State) : NextCanonical (.next t) ↔ Memory.wf t.mem = true := Iff.rfl

/-! ## Words without an instruction (05 R95) -/

theorem execUnassignedMajorOpcode_wf {s : State} (h : Memory.wf s.mem = true) (w) : NextCanonical (execUnassignedMajorOpcode w s) := by
  simp [execUnassignedMajorOpcode, h]

/-! ## Traces, samples and debug hold (27) -/

theorem execTraceTailFlush_wf {s : State} (h : Memory.wf s.mem = true) (ring) : NextCanonical (execTraceTailFlush ring s) := by
  unfold execTraceTailFlush
  rw [nextCanonical_next]
  split <;> simp [h]

theorem execSample_wf {s : State} (h : Memory.wf s.mem = true) (c) : NextCanonical (execSample c s) := by
  unfold execSample
  rw [nextCanonical_next]
  split <;> simp [h]

theorem execTriggerArm_wf {s : State} (h : Memory.wf s.mem = true) (n value) : NextCanonical (execTriggerArm n value s) := by
  unfold execTriggerArm
  rw [nextCanonical_next]
  split <;> simp [h]

theorem execFreeze_wf {s : State} (h : Memory.wf s.mem = true) (domains) : NextCanonical (execFreeze domains s) := by
  unfold execFreeze
  rw [nextCanonical_next]
  split <;> simp [h]

theorem execThaw_wf {s : State} (h : Memory.wf s.mem = true) (domains) : NextCanonical (execThaw domains s) := by
  simp [execThaw, h]

theorem execDebugHoldEnter_wf {s : State} (h : Memory.wf s.mem = true)  : NextCanonical (execDebugHoldEnter s) := by
  simp [execDebugHoldEnter, h]

theorem execDebugHoldExit_wf {s : State} (h : Memory.wf s.mem = true)  : NextCanonical (execDebugHoldExit s) := by
  unfold execDebugHoldExit
  rw [nextCanonical_next]
  split <;> simp [h]

/-! ## Scalar accesses, atomics and lines (06 R145; 12 R264 to R273) -/

theorem execRedPoisonTrap_wf {s : State} (h : Memory.wf s.mem = true) (c) : NextCanonical (execRedPoisonTrap c s) := by
  grind [execRedPoisonTrap, State.takeAfter_mem, → State.focus_mem, nextCanonical_next]

theorem execWaitvReread_wf {s : State} (h : Memory.wf s.mem = true) (c) : NextCanonical (execWaitvReread c s) := by
  unfold execWaitvReread
  rw [nextCanonical_next]
  split
  · exact h
  next s1 focused =>
    have h1 : Memory.wf s1.mem = true := State.focus_mem focused ▸ h
    split
    · exact h
    split
    · exact h
    next s2 w fetched =>
      have h2 := State.fetch_wf h1 fetched
      split
      · exact State.turn_wf h2 (waitvBody_wf h2 _)
      · exact h

/-! ## Pages, migration and the heap (13) -/

theorem execPageFaultAnswer_wf {s : State} (h : Memory.wf s.mem = true) (c a) : NextCanonical (execPageFaultAnswer c a s) := by
  unfold execPageFaultAnswer
  rw [nextCanonical_next]
  split <;> simp [h]

theorem execPageMigration_wf {s : State} (h : Memory.wf s.mem = true) (m) : NextCanonical (execPageMigration m s) := by
  unfold execPageMigration
  rw [nextCanonical_next]
  (repeat' split) <;> simp [h]

/-! ## Barriers (18) -/

theorem execBarrierWaitEnd_wf {s : State} (h : Memory.wf s.mem = true) (c) : NextCanonical (execBarrierWaitEnd c s) := by
  unfold execBarrierWaitEnd
  rw [nextCanonical_next]
  split
  · exact h
  next s1 focused =>
    have h1 : Memory.wf s1.mem = true := State.focus_mem focused ▸ h
    split
    · exact h
    split
    · exact h
    next s2 w fetched =>
      have h2 := State.fetch_wf h1 fetched
      split
      · exact State.turn_wf h2 (barwBody_wf h2 _)
      · exact State.turn_wf h2 (barvwBody_wf h2 _)
      · exact h

/-! ## The matrix unit (10) -/

theorem execMatrixGrant_wf {s : State} (h : Memory.wf s.mem = true) (bench) : NextCanonical (execMatrixGrant bench s) := by
  simp [execMatrixGrant, h]

theorem execMatrixCompletion_wf {s : State} (h : Memory.wf s.mem = true) (c) : NextCanonical (execMatrixCompletion c s) := by
  grind [execMatrixCompletion, → State.focus_mem, State.productCompletion_mem, nextCanonical_next]

theorem execLevelStep_wf {s : State} (h : Memory.wf s.mem = true) (bench) : NextCanonical (execLevelStep bench s) := by
  unfold execLevelStep
  rw [nextCanonical_next]
  split <;> simp [h]

theorem execMhintHoldExpiry_wf {s : State} (h : Memory.wf s.mem = true) (bench) : NextCanonical (execMhintHoldExpiry bench s) := by
  unfold execMhintHoldExpiry
  rw [nextCanonical_next]
  (repeat' split) <;> simp [h]

/-! ## Tasks (16) -/

theorem execTendTakesEffect_wf {s : State} (h : Memory.wf s.mem = true) (c) : NextCanonical (execTendTakesEffect c s) := by
  grind [execTendTakesEffect, State.tendEffect_wf, → State.focus_mem, nextCanonical_next]

theorem execTaskDequeue_wf {s : State} (h : Memory.wf s.mem = true) (c) : NextCanonical (execTaskDequeue c s) := by
  grind [execTaskDequeue, State.chooseNext_wf, → State.focus_mem, nextCanonical_next]

theorem execStealAttempt_wf {s : State} (h : Memory.wf s.mem = true) (c) : NextCanonical (execStealAttempt c s) := by
  grind [execStealAttempt, State.steal_wf, → State.focus_mem, nextCanonical_next]

theorem execRunListRefill_wf {s : State} (h : Memory.wf s.mem = true) (c) : NextCanonical (execRunListRefill c s) := by
  grind [execRunListRefill, State.refillOne_wf, nextCanonical_next]

/-! ## Arrivals at cohort names (17) -/

theorem execTaskDecrementArrival_wf {s : State} (h : Memory.wf s.mem = true) (k) : NextCanonical (execTaskDecrementArrival k s) := by
  unfold execTaskDecrementArrival
  rw [nextCanonical_next]
  split <;> simp [h]

theorem execCounterSettingArrival_wf {s : State} (h : Memory.wf s.mem = true) (k) : NextCanonical (execCounterSettingArrival k s) := by
  unfold execCounterSettingArrival
  rw [nextCanonical_next]
  split <;> simp [h]

theorem execRegisterStoreArrival_wf {s : State} (h : Memory.wf s.mem = true) (k) : NextCanonical (execRegisterStoreArrival k s) := by
  unfold execRegisterStoreArrival
  rw [nextCanonical_next]
  split <;> simp [h]

theorem execBusyRetry_wf {s : State} (h : Memory.wf s.mem = true) (k) : NextCanonical (execBusyRetry k s) := by
  unfold execBusyRetry
  rw [nextCanonical_next]
  (repeat' split) <;> simp [h]

theorem execDeferredDelivery_wf {s : State} (h : Memory.wf s.mem = true) (name) : NextCanonical (execDeferredDelivery name s) := by
  simp [execDeferredDelivery, h]

theorem execActiveMessageArrival_wf {s : State} (h : Memory.wf s.mem = true) (k) : NextCanonical (execActiveMessageArrival k s) := by
  unfold execActiveMessageArrival
  rw [nextCanonical_next]
  split <;> simp [h]

/-! ## Futures and tools (19) -/

theorem execResolveOk_wf {s : State} (h : Memory.wf s.mem = true) (tool handle) : NextCanonical (execResolveOk tool handle s) := by
  unfold execResolveOk
  rw [nextCanonical_next]
  split <;> simp [h]

theorem execResolveErr_wf {s : State} (h : Memory.wf s.mem = true) (tool handle) : NextCanonical (execResolveErr tool handle s) := by
  unfold execResolveErr
  rw [nextCanonical_next]
  split <;> simp [h]

theorem execResolveOutcome_wf {s : State} (h : Memory.wf s.mem = true) (tool) : NextCanonical (execResolveOutcome tool s) := by
  simp [execResolveOutcome, h]

theorem execRemoteResolve_wf {s : State} (h : Memory.wf s.mem = true) (payload) : NextCanonical (execRemoteResolve payload s) := by
  unfold execRemoteResolve
  split
  · exact h
  extract_lets s1 discard status
  have h1 : Memory.wf s1.mem = true := by
    simp only [s1]
    cases s.futureOf (recWord payload 0) <;> simp [h]
  have discarded : Memory.wf discard.mem = true := h1
  clear_value s1 discard
  rw [nextCanonical_next]
  split
  · exact discarded
  split
  · exact discarded
  split
  · simp [h1]
  split
  · simp [h1]
  split
  · simp [h1]
  rw [State.resolve_mem]
  split
  next written => exact State.agentWrite_wf h1 written
  next => simp [h1]

theorem execFutureDeadline_wf {s : State} (h : Memory.wf s.mem = true) (index) : NextCanonical (execFutureDeadline index s) := by
  unfold execFutureDeadline
  rw [nextCanonical_next]
  split <;> simp [h]

theorem execFutureResolution_wf {s : State} (h : Memory.wf s.mem = true) (index) : NextCanonical (execFutureResolution index s) := by
  grind [execFutureResolution, State.finishFuture_wf, foldl_wf, nextCanonical_next]

theorem execAdapterLoadDone_wf {s : State} (h : Memory.wf s.mem = true) (entry addr cause) :
    NextCanonical (execAdapterLoadDone entry addr cause s) := by
  unfold execAdapterLoadDone
  rw [nextCanonical_next]
  split
  · exact h
  split
  · exact h
  extract_lets settle fail
  have settled (u : State) (hu : Memory.wf u.mem = true) (status detail) : Memory.wf (settle u status detail).mem = true :=
    foldl_wf (fun v i hv => by
      split
      · split <;> simp [hv]
      · exact hv) _ _ hu
  have failed (c) : Memory.wf (fail c).mem = true :=
    settled { s with residency := s.residency.filter (·.entry != entry) } h 2 c
  clear_value settle fail
  split
  · exact failed _
  split
  · exact h
  extract_lets src
  split
  · exact failed _
  · exact settled _ (by simp [h]) _ _

theorem execSandboxViolation_wf {s : State} (h : Memory.wf s.mem = true) (tool addr) : NextCanonical (execSandboxViolation tool addr s) := by
  unfold execSandboxViolation
  rw [nextCanonical_next]
  split <;> simp [h]

theorem execToolCoreAccess_wf {s : State} (h : Memory.wf s.mem = true) (tool access) : NextCanonical (execToolCoreAccess tool access s) := by
  unfold execToolCoreAccess
  rw [nextCanonical_next]
  (repeat' split) <;> simp [h]

/-! ## Multicasts, reductions and copies (23 R457 to R464) -/

theorem execBlockReduction_wf {s : State} (h : Memory.wf s.mem = true) (quay) : NextCanonical (execBlockReduction quay s) := by
  simp [execBlockReduction, h]

theorem execCopyComplete_wf {s : State} (h : Memory.wf s.mem = true) (k) : NextCanonical (execCopyComplete k s) := by
  simp [execCopyComplete, h]

/-! ## Launches (21 R409 to R421) -/

theorem execCohortBind_wf {s : State} (h : Memory.wf s.mem = true) (launch k slots) : NextCanonical (execCohortBind launch k slots s) := by
  grind [execCohortBind, State.bindCohort_wf, nextCanonical_next]

theorem execStandingBind_wf {s : State} (h : Memory.wf s.mem = true) (launch k slots) : NextCanonical (execStandingBind launch k slots s) := by
  unfold execStandingBind
  rw [nextCanonical_next]
  (repeat' split) <;> simp [h]

theorem execLaunchRecordArrival_wf {s : State} (h : Memory.wf s.mem = true) (r) : NextCanonical (execLaunchRecordArrival r s) := by
  unfold execLaunchRecordArrival
  rw [nextCanonical_next]
  (repeat' split) <;> simp [h]

theorem execLaunchCompletion_wf {s : State} (h : Memory.wf s.mem = true) (launch) : NextCanonical (execLaunchCompletion launch s) := by
  unfold execLaunchCompletion
  rw [nextCanonical_next]
  split <;> simp [h]

theorem execLaunchDoorbell_wf {s : State} (h : Memory.wf s.mem = true) (pa) : NextCanonical (execLaunchDoorbell pa s) := by
  simp [execLaunchDoorbell, h]

/-! ## Graphs and host rings (21 R422 to R429) -/

theorem execGraphDoorbell_wf {s : State} (h : Memory.wf s.mem = true) (pa) : NextCanonical (execGraphDoorbell pa s) := by
  simp [execGraphDoorbell, h]

theorem execNodeLaunch_wf {s : State} (h : Memory.wf s.mem = true) (num) : NextCanonical (execNodeLaunch num s) := by
  simp [execNodeLaunch, h]

theorem execNodeCopy_wf {s : State} (h : Memory.wf s.mem = true) (num) : NextCanonical (execNodeCopy num s) := by
  simp [execNodeCopy, h]

theorem execNodeWaitOnWord_wf {s : State} (h : Memory.wf s.mem = true) (num) : NextCanonical (execNodeWaitOnWord num s) := by
  simp [execNodeWaitOnWord, h]

theorem execNodeSignalWord_wf {s : State} (h : Memory.wf s.mem = true) (num) : NextCanonical (execNodeSignalWord num s) := by
  simp [execNodeSignalWord, h]

theorem execNodeConditional_wf {s : State} (h : Memory.wf s.mem = true) (num) : NextCanonical (execNodeConditional num s) := by
  simp [execNodeConditional, h]

theorem execNodeHostRingDrain_wf {s : State} (h : Memory.wf s.mem = true) (num) : NextCanonical (execNodeHostRingDrain num s) := by
  simp [execNodeHostRingDrain, h]

theorem execNodeEnd_wf {s : State} (h : Memory.wf s.mem = true) (num) : NextCanonical (execNodeEnd num s) := by
  simp [execNodeEnd, h]

theorem execGraphWaitTimeout_wf {s : State} (h : Memory.wf s.mem = true) (num) : NextCanonical (execGraphWaitTimeout num s) := by
  unfold execGraphWaitTimeout
  rw [nextCanonical_next]
  (repeat' split) <;> simp [h]

theorem execHostRingTimeRule_wf {s : State} (h : Memory.wf s.mem = true) (r) : NextCanonical (execHostRingTimeRule r s) := by
  unfold execHostRingTimeRule
  rw [nextCanonical_next]
  split <;> simp [h]

theorem execWaitOnWordReread_wf {s : State} (h : Memory.wf s.mem = true) (num) : NextCanonical (execWaitOnWordReread num s) := by
  unfold execWaitOnWordReread
  rw [nextCanonical_next]
  split <;> simp [h]

/-! ## Contexts, saves and restores (14) -/

theorem execExitTakesEffect_wf {s : State} (h : Memory.wf s.mem = true) (c) : NextCanonical (execExitTakesEffect c s) := by
  simp [execExitTakesEffect, h]

theorem execBankSwitch_wf {s : State} (h : Memory.wf s.mem = true) (c) : NextCanonical (execBankSwitch c s) := by
  unfold execBankSwitch
  rw [nextCanonical_next]
  (repeat' split) <;> simp [h]

theorem execSaveDone_wf {s : State} (h : Memory.wf s.mem = true) (name) : NextCanonical (execSaveDone name s) := by
  simp [execSaveDone, h]

theorem execCohortRestore_wf {s : State} (h : Memory.wf s.mem = true) (r) : NextCanonical (execCohortRestore r s) := by
  grind [execCohortRestore, State.beginRestore_wf, State.loadCohort_wf, State.acceptRestore_wf, nextCanonical_next]

theorem execCohortMigration_wf {s : State} (h : Memory.wf s.mem = true) (name node cluster) :
    NextCanonical (execCohortMigration name node cluster s) := by
  unfold execCohortMigration
  rw [nextCanonical_next]
  (repeat' split) <;> simp [h]

/-! ## Links and what arrives (23) -/

theorem execRemoteLoad_wf {s : State} (h : Memory.wf s.mem = true) (k) : NextCanonical (execRemoteLoad k s) := by
  unfold execRemoteLoad
  rw [nextCanonical_next]
  split <;> simp [h]

theorem execRemoteStore_wf {s : State} (h : Memory.wf s.mem = true) (k) : NextCanonical (execRemoteStore k s) := by
  unfold execRemoteStore
  rw [nextCanonical_next]
  split <;> simp [h]

theorem execRemoteAtomic_wf {s : State} (h : Memory.wf s.mem = true) (k) : NextCanonical (execRemoteAtomic k s) := by
  unfold execRemoteAtomic
  rw [nextCanonical_next]
  split <;> simp [h]

theorem execPacketReceive_wf {s : State} (h : Memory.wf s.mem = true) (port flits) : NextCanonical (execPacketReceive port flits s) := by
  grind [execPacketReceive, State.takeFlits_wf, State.clearInj_mem, State.oweNak_mem, State.takeCtl_wf, State.linkEvent_mem, foldl_wf,
    nextCanonical_next]

theorem execAckReceive_wf {s : State} (h : Memory.wf s.mem = true) (port seq) : NextCanonical (execAckReceive port seq s) := by
  simp [execAckReceive, h]

theorem execNakReceive_wf {s : State} (h : Memory.wf s.mem = true) (port seq) : NextCanonical (execNakReceive port seq s) := by
  simp [execNakReceive, h]

theorem execReplayDone_wf {s : State} (h : Memory.wf s.mem = true) (port) : NextCanonical (execReplayDone port s) := by
  unfold execReplayDone
  rw [nextCanonical_next]
  split <;> simp [h]

theorem execLaneFailure_wf {s : State} (h : Memory.wf s.mem = true) (port lane) : NextCanonical (execLaneFailure port lane s) := by
  unfold execLaneFailure
  rw [nextCanonical_next]
  (repeat' split) <;> simp [h]

theorem execLinkTrained_wf {s : State} (h : Memory.wf s.mem = true) (port seq) : NextCanonical (execLinkTrained port seq s) := by
  unfold execLinkTrained
  rw [nextCanonical_next]
  (repeat' split) <;> simp [h]

theorem execRetrainTimeout_wf {s : State} (h : Memory.wf s.mem = true) (port) : NextCanonical (execRetrainTimeout port s) := by
  unfold execRetrainTimeout
  rw [nextCanonical_next]
  split <;> simp [h]

theorem execTrainingRequest_wf {s : State} (h : Memory.wf s.mem = true) (port) : NextCanonical (execTrainingRequest port s) := by
  unfold execTrainingRequest
  rw [nextCanonical_next]
  split <;> simp [h]

theorem execDetourInstall_wf {s : State} (h : Memory.wf s.mem = true) (dest order) : NextCanonical (execDetourInstall dest order s) := by
  simp [execDetourInstall, h]

theorem execKeyPhaseSwitch_wf {s : State} (h : Memory.wf s.mem = true) (port) : NextCanonical (execKeyPhaseSwitch port s) := by
  unfold execKeyPhaseSwitch
  rw [nextCanonical_next]
  (repeat' split) <;> simp [h]

theorem execRetireReceive_wf {s : State} (h : Memory.wf s.mem = true) (port) : NextCanonical (execRetireReceive port s) := by
  simp [execRetireReceive, h]

theorem execPartitionDissolve_wf {s : State} (h : Memory.wf s.mem = true) (ports) : NextCanonical (execPartitionDissolve ports s) := by
  grind [execPartitionDissolve, State.withdraw_wf, foldl_wf, nextCanonical_next]

theorem execHostSnoop_wf {s : State} (h : Memory.wf s.mem = true) (line exclusive) : NextCanonical (execHostSnoop line exclusive s) := by
  unfold execHostSnoop
  rw [nextCanonical_next]
  split <;> simp [h]

theorem execHostAtomic_wf {s : State} (h : Memory.wf s.mem = true) (pa op double x) : NextCanonical (execHostAtomic pa op double x s) := by
  unfold execHostAtomic
  rw [nextCanonical_next]
  (repeat' split) <;> simp [h]

theorem execHostMemoryAccess_wf {s : State} (h : Memory.wf s.mem = true) (pa access) :
    NextCanonical (execHostMemoryAccess pa access s) := by
  unfold execHostMemoryAccess
  obtain ⟨key, named⟩ : ∃ key, key = devKey s.node pa := ⟨_, rfl⟩
  rw [← named, nextCanonical_next]
  have unread (l : List Nat) (u : State) : (l.foldl (fun s k => s.noteRead 25 k) u).mem = u.mem :=
    foldl_mem (fun s k => State.noteRead_mem s 25 k) l u
  have unwritten (l : List Nat) (u : State) : (l.foldl (fun s k => s.noteWrite 25 k) u).mem = u.mem :=
    foldl_mem (fun s k => State.noteWrite_mem s 25 k) l u
  split
  next n =>
    split
    · rw [State.sliceCheck_mem]; exact h
    · rw [unread]; exact h
  next bs =>
    split
    · exact h
    · exact Memory.wf_write _ _ (by rw [unwritten]; exact h)

theorem execCreditReceive_wf {s : State} (h : Memory.wf s.mem = true) (port cls vc n) : NextCanonical (execCreditReceive port cls vc n s) := by
  unfold execCreditReceive
  rw [nextCanonical_next]
  (repeat' split) <;> simp [h]

theorem execPodFormation_wf {s : State} (h : Memory.wf s.mem = true) (dx dy dz place) : NextCanonical (execPodFormation dx dy dz place s) := by
  unfold execPodFormation
  rw [nextCanonical_next]
  split <;> simp [h]

/-! ## Decisions on traps and machine checks (26) -/

theorem execTrapDecision_wf {s : State} (h : Memory.wf s.mem = true) (c) : NextCanonical (execTrapDecision c s) := by
  unfold execTrapDecision
  rw [nextCanonical_next]
  (repeat' split) <;> simp [h]

theorem execPatrolScrub_wf {s : State} (h : Memory.wf s.mem = true) (line bad synd) : NextCanonical (execPatrolScrub line bad synd s) := by
  unfold execPatrolScrub
  rw [nextCanonical_next]
  split <;> simp [h]

theorem execRecessStart_wf {s : State} (h : Memory.wf s.mem = true) (bench) : NextCanonical (execRecessStart bench s) := by
  unfold execRecessStart
  rw [nextCanonical_next]
  (repeat' split) <;> simp [h]

theorem execRecessEnd_wf {s : State} (h : Memory.wf s.mem = true) (bench failing) : NextCanonical (execRecessEnd bench failing s) := by
  unfold execRecessEnd
  rw [nextCanonical_next]
  (repeat' split) <;> simp [h]

theorem execMcbStatusClear_wf {s : State} (h : Memory.wf s.mem = true) (bank value) : NextCanonical (execMcbStatusClear bank value s) := by
  unfold execMcbStatusClear
  rw [nextCanonical_next]
  split <;> simp [h]

theorem execHostLinkLoss_wf {s : State} (h : Memory.wf s.mem = true) (lost synd) : NextCanonical (execHostLinkLoss lost synd s) := by
  simp [execHostLinkLoss, h]

theorem execDieToDieLinkEvent_wf {s : State} (h : Memory.wf s.mem = true) (link synd) : NextCanonical (execDieToDieLinkEvent link synd s) := by
  unfold execDieToDieLinkEvent
  rw [nextCanonical_next]
  split <;> simp [h]

theorem execLockstepMismatch_wf {s : State} (h : Memory.wf s.mem = true)  : NextCanonical (execLockstepMismatch s) := by
  simp [execLockstepMismatch, h]

theorem execSecurityBlockFault_wf {s : State} (h : Memory.wf s.mem = true)  : NextCanonical (execSecurityBlockFault s) := by
  simp [execSecurityBlockFault, h]

/-! ## The management interface (28) -/

theorem execPowerWindow_wf {s0 : State} (h : Memory.wf s0.mem = true) (watts celsius) : NextCanonical (execPowerWindow watts celsius s0) := by
  unfold execPowerWindow
  rw [nextCanonical_next]
  (repeat' split) <;> simp [h]

theorem execColdReset_wf {s : State} (h : Memory.wf s.mem = true) (boots) : NextCanonical (execColdReset boots s) := by
  simp [execColdReset, h]

theorem execWarmReset_wf {s : State} (h : Memory.wf s.mem = true) (boots) : NextCanonical (execWarmReset boots s) := by
  simp [execWarmReset, h]

theorem execRegisterWindowWrite_wf {s : State} (h : Memory.wf s.mem = true) (offset value) :
    NextCanonical (execRegisterWindowWrite offset value s) := by
  simp [execRegisterWindowWrite, h]

theorem execClockStepUp_wf {s : State} (h : Memory.wf s.mem = true)  : NextCanonical (execClockStepUp s) := by
  unfold execClockStepUp
  rw [nextCanonical_next]
  split <;> simp [h]

theorem execFirmwareSwitch_wf {s : State} (h : Memory.wf s.mem = true)  : NextCanonical (execFirmwareSwitch s) := by
  simp [execFirmwareSwitch, h]

theorem execKeyset_wf {s : State} (h : Memory.wf s.mem = true)  : NextCanonical (execKeyset s) := by
  grind [execKeyset, State.serve_wf, → serveKeyset_wf, nextCanonical_next]

theorem execKeyerase_wf {s : State} (h : Memory.wf s.mem = true)  : NextCanonical (execKeyerase s) := by
  grind [execKeyerase, State.serve_wf, → serveKeyerase_wf, nextCanonical_next]

theorem execTool_wf {s : State} (h : Memory.wf s.mem = true)  : NextCanonical (execTool s) := by
  grind [execTool, State.serve_wf, → serveTool_wf, nextCanonical_next]

theorem execAdapter_wf {s : State} (h : Memory.wf s.mem = true)  : NextCanonical (execAdapter s) := by
  grind [execAdapter, State.serve_wf, → serveAdapter_mem, nextCanonical_next]

theorem execHandler_wf {s : State} (h : Memory.wf s.mem = true)  : NextCanonical (execHandler s) := by
  grind [execHandler, State.serve_wf, → serveHandler_mem, nextCanonical_next]

theorem execBinding_wf {s : State} (h : Memory.wf s.mem = true)  : NextCanonical (execBinding s) := by
  grind [execBinding, State.serve_wf, → serveBinding_mem, nextCanonical_next]

theorem execTerminate_wf {s : State} (h : Memory.wf s.mem = true)  : NextCanonical (execTerminate s) := by
  grind [execTerminate, State.serve_wf, → serveTerminate_wf, nextCanonical_next]

theorem execStop_wf {s : State} (h : Memory.wf s.mem = true)  : NextCanonical (execStop s) := by
  grind [execStop, State.serve_wf, → serveStop_mem, nextCanonical_next]

theorem execRelease_wf {s : State} (h : Memory.wf s.mem = true)  : NextCanonical (execRelease s) := by
  grind [execRelease, State.serve_wf, → serveRelease_mem, nextCanonical_next]

theorem execSampleConfig_wf {s : State} (h : Memory.wf s.mem = true)  : NextCanonical (execSampleConfig s) := by
  grind [execSampleConfig, State.serve_wf, → serveSample_mem, nextCanonical_next]

theorem execService_wf {s : State} (h : Memory.wf s.mem = true)  : NextCanonical (execService s) := by
  grind [execService, State.serve_wf, → serveService_wf, nextCanonical_next]

theorem execUpdate_wf {s : State} (h : Memory.wf s.mem = true)  : NextCanonical (execUpdate s) := by
  grind [execUpdate, State.serve_wf, → serveUpdate_wf, nextCanonical_next]

theorem execAttest_wf {s : State} (h : Memory.wf s.mem = true)  : NextCanonical (execAttest s) := by
  grind [execAttest, State.serve_wf, → serveAttest_wf, nextCanonical_next]

/-! ## The engines and the hub of a cycle (02 R40 to R48) -/

theorem execQueueIssue_wf {s : State} (h : Memory.wf s.mem = true) (c q) : NextCanonical (execQueueIssue c q s) :=
  State.withCtx_wf h fun s hs => by split <;> simp [hs]

theorem execEngineCompletion_wf {s : State} (h : Memory.wf s.mem = true) (c q) : NextCanonical (execEngineCompletion c q s) :=
  State.withCtx_wf h fun s hs => by split <;> simp [hs]

theorem execWatchdogExpiry_wf {s : State} (h : Memory.wf s.mem = true) (c) : NextCanonical (execWatchdogExpiry c s) := by
  grind [execWatchdogExpiry, State.watchdog_mem, State.withCtx_mem, nextCanonical_next]

theorem execCohortSave_wf {s0 : State} (h : Memory.wf s0.mem = true) (r) : NextCanonical (execCohortSave r s0) := by
  grind [execCohortSave, State.preempt_wf, State.settleCohort_wf, State.runSave_wf, foldl_wf, nextCanonical_next]

end Sys2Proof.Machine
end

section
/-! PROOFS. Every instruction keeps memory canonical (12 R248). -/

namespace Sys2Proof.Machine

open Sys2Proof.Safety

theorem State.run_canonical {s : State} {i : Instr} {g : Bool} {body : State → Done} (h : Memory.wf s.mem = true) (b : (body s).Canonical) :
    NextCanonical (s.run i g body) := State.turn_wf h b

/-! ## Control transfer, CSRs, shapes and bells (06 R134 to R144) -/

theorem execRet_wf {s : State} (h : Memory.wf s.mem = true) (o) : NextCanonical (execRet o s) :=
  State.run_canonical h (by dsimp only; split <;> simp [h])

theorem execLoop_wf {s : State} (h : Memory.wf s.mem = true) (o) : NextCanonical (execLoop o s) :=
  State.run_canonical h (by dsimp only; split <;> simp [h])

theorem execCsrr_wf {s : State} (h : Memory.wf s.mem = true) (o) : NextCanonical (execCsrr o s) :=
  State.run_canonical h (State.withCsr_wf h fun old => by simp [h])

theorem execCsrw_wf {s : State} (h : Memory.wf s.mem = true) (o) : NextCanonical (execCsrw o s) :=
  State.run_canonical h (State.withCsr_wf h fun old => by split <;> simp [h])

theorem execCsrs_wf {s : State} (h : Memory.wf s.mem = true) (o) : NextCanonical (execCsrs o s) :=
  State.run_canonical h (State.withCsr_wf h fun _ => State.putCsr_wf h _ _ _ _)

theorem execCsrc_wf {s : State} (h : Memory.wf s.mem = true) (o) : NextCanonical (execCsrc o s) :=
  State.run_canonical h (State.withCsr_wf h fun _ => State.putCsr_wf h _ _ _ _)

theorem execQsync_wf {s : State} (h : Memory.wf s.mem = true) (o) : NextCanonical (execQsync o s) :=
  State.run_canonical h (by split <;> simp [h])

theorem execShp_wf {s : State} (h : Memory.wf s.mem = true) (o) : NextCanonical (execShp o s) :=
  State.run_canonical h (by dsimp only; split <;> simp [h])

theorem execShpx_wf {s : State} (h : Memory.wf s.mem = true) (c o) : NextCanonical (execShpx c o s) :=
  State.run_canonical h (by dsimp only; split <;> simp [h])

theorem execBellw_wf {s : State} (h : Memory.wf s.mem = true) (o) : NextCanonical (execBellw o s) :=
  State.run_canonical h (by split <;> simp [h])

theorem execTrap_wf {s : State} (h : Memory.wf s.mem = true) (o) : NextCanonical (execTrap o s) :=
  State.run_canonical h (by simp [h])

/-! ## Traces, samples and debug hold (27) -/

theorem execBrk_wf {s : State} (h : Memory.wf s.mem = true) (o) : NextCanonical (execBrk o s) :=
  State.run_canonical h (by simp [h])

/-! ## Scalar accesses, atomics and lines (06 R145; 12 R264 to R273) -/

theorem loadForm_wf {s : State} (h : Memory.wf s.mem = true) (i o signed) : NextCanonical (loadForm i o signed s) :=
  State.run_canonical h (State.withLoad_wf h fun _ _ hs => State.set_wf hs _)

theorem storeForm_wf {s : State} (h : Memory.wf s.mem = true) (i o) : NextCanonical (storeForm i o s) :=
  State.run_canonical h (State.withStore_wf h _ _ _)

theorem execAmo_wf {s : State} (h : Memory.wf s.mem = true) (o) : NextCanonical (execAmo o s) :=
  State.run_canonical h (State.withAtomic_wf h (fun _ _ => State.askAtomic_mem _ _ _ _ _ _) fun _ _ hs => State.set_wf hs _)

theorem execAmocas_wf {s : State} (h : Memory.wf s.mem = true) (o) : NextCanonical (execAmocas o s) :=
  State.run_canonical h (State.withAtomic_wf h (fun _ _ => State.askAtomic_mem _ _ _ _ _ _) fun _ _ hs => State.set_wf hs _)

theorem execRed_wf {s : State} (h : Memory.wf s.mem = true) (o) : NextCanonical (execRed o s) := by
  refine State.run_canonical h ?_
  have scalar := State.scalar_wf h (s.cx.sreg o.sa).toNat (atomicBits o.size / 8) .rmw
  dsimp only
  split
  · exact State.stopFail_wf h _
  next s1 gs e =>
    rw [e] at scalar
    have h1 : Memory.wf s1.mem = true := scalar
    split <;> simp [h1]

theorem lineForm_wf {s : State} (h : Memory.wf s.mem = true) (i o k) {f : State → Nat → State} (hf : ∀ s n, (f s n).mem = s.mem) :
    NextCanonical (lineForm i o k f s) := by
  refine State.run_canonical h ?_
  have scalar := State.scalar_wf h (s.ea o) 1 k
  split
  · exact State.stopFail_wf h _
  next s1 gs e =>
    rw [e] at scalar
    have h1 : Memory.wf s1.mem = true := scalar
    rw [Done.canonical_next]
    split <;> simp [h1, hf]

/-! ## Pages, migration and the heap (13) -/

theorem execMigr_wf {s : State} (h : Memory.wf s.mem = true) (o) : NextCanonical (execMigr o s) := by
  refine State.run_canonical h ?_
  dsimp only
  split
  · exact h
  split
  · split
    · exact h
    · exact State.stopFail_wf h _
  · exact h
  · simp [h]

theorem execHalloc_wf {s : State} (h : Memory.wf s.mem = true) (o) : NextCanonical (execHalloc o s) := by
  refine State.run_canonical h ?_
  extract_lets n answer
  have answered (t : State) (a st : Nat) (ht : Memory.wf t.mem = true) : (answer t a st).Canonical := State.set_wf ht _
  clear_value answer
  split
  · exact answered _ _ _ h
  split
  · exact answered _ _ _ h
  split
  · exact answered _ _ _ h
  next x _ _ _ =>
    have allocated := State.alloc_mem s x (classOf n)
    split
    next e => exact answered _ _ _ (by rw [e] at allocated; rw [allocated]; exact h)
    next e => exact answered _ _ _ (by rw [e] at allocated; rw [allocated]; exact h)

theorem execHfree_wf {s : State} (h : Memory.wf s.mem = true) (o) : NextCanonical (execHfree o s) := by
  refine State.run_canonical h ?_
  extract_lets a answer
  have answered (t : State) (st : Nat) (ht : Memory.wf t.mem = true) : (answer t st).Canonical := State.set_wf ht _
  clear_value answer
  split
  · exact answered _ _ h
  split
  · exact answered _ _ h
  split
  · exact answered _ _ h
  split
  · exact answered _ _ h
  · exact answered _ _ h

theorem execTlbinv_wf {s : State} (h : Memory.wf s.mem = true) (o) : NextCanonical (execTlbinv o s) := by
  refine State.run_canonical h ?_
  dsimp only
  split
  · exact State.stopTrap_wf h _ _
  split
  · exact h
  · exact h

/-! ## Barriers (18) -/

theorem execBinit_wf {s : State} (h : Memory.wf s.mem = true) (o) : NextCanonical (execBinit o s) :=
  State.run_canonical h (State.withHandle_wf h fun t k ht d hd => by
    dsimp only at hd
    split at hd <;> cases hd
    simp [ht])

theorem execBreg_wf {s : State} (h : Memory.wf s.mem = true) (o) : NextCanonical (execBreg o s) :=
  State.run_canonical h (State.withBarrier_wf h fun t k b v ht d hd => by
    dsimp only at hd
    split at hd <;> cases hd
    simp [ht])

theorem execBarv_wf {s : State} (h : Memory.wf s.mem = true) (o) : NextCanonical (execBarv o s) :=
  State.run_canonical h (State.withBarrier_wf h fun t k b v ht d hd => by
    dsimp only at hd
    split at hd <;> cases hd
    simp [ht])

theorem execBdrop_wf {s : State} (h : Memory.wf s.mem = true) (o) : NextCanonical (execBdrop o s) :=
  State.run_canonical h (State.withBarrier_wf h fun t k b v ht d hd => by
    dsimp only at hd
    split at hd <;> cases hd
    simp [ht])

theorem execBtest_wf {s : State} (h : Memory.wf s.mem = true) (o) : NextCanonical (execBtest o s) :=
  State.run_canonical h (State.withHandle_wf h fun t k ht d hd => by
    dsimp only at hd
    split at hd
    · cases hd
    · cases hd; exact State.set_wf ht _
    · split at hd
      · cases hd; exact State.set_wf ht _
      · split at hd <;> cases hd
        exact State.set_wf ht _)

/-! ## SLIP (06 R125) -/

theorem execSlip_wf {s : State} (h : Memory.wf s.mem = true) (o) : NextCanonical (execSlip o s) := by
  refine State.run_canonical h ?_
  dsimp only
  split
  · exact State.stopTrap_wf h _ _
  split
  · exact State.waitFor_wf h _
  split
  · exact h
  split
  · exact State.set_wf h _
  · exact h

/-! ## The matrix unit (10) -/

theorem execMwrr_wf {s : State} (h : Memory.wf s.mem = true) (o) : NextCanonical (execMwrr o s) := by
  refine State.run_canonical h ?_
  dsimp only
  split
  · exact State.stopTrap_wf h _ _
  · exact h

/-! ## Contexts, saves and restores (14) -/

theorem execExit_wf {s : State} (h : Memory.wf s.mem = true) (o) : NextCanonical (execExit o s) :=
  State.run_canonical h (by dsimp only; split <;> simp [State.waitFor, h])

theorem execYield_wf {s : State} (h : Memory.wf s.mem = true) (o) : NextCanonical (execYield o s) :=
  State.run_canonical h (by split <;> simp [h])

theorem execSnapr_wf {s : State} (h : Memory.wf s.mem = true) (o) : NextCanonical (execSnapr o s) :=
  State.run_canonical h (by dsimp only; split <;> simp [h])

theorem execCtxst_wf {s : State} (h : Memory.wf s.mem = true) (o) : NextCanonical (execCtxst o s) :=
  State.run_canonical h (State.withDesc_wf h fun t _ ht => State.setSd_wf (by split <;> exact ht) _ _)

theorem execCtxld_wf {s : State} (h : Memory.wf s.mem = true) (o) : NextCanonical (execCtxld o s) :=
  State.run_canonical h (State.withDesc_wf h fun t _ ht => State.setSd_wf (by split <;> exact ht) _ _)

/-- What the control unit executes itself: a body that only changes its context, or one of those above. -/
theorem exec_cu_canonical {s : State} (h : Memory.wf s.mem = true) {i : Instr} {pg : BitVec 3} {pn : Bool}
    (unit : i.cuGuard = some (pg, pn)) : NextCanonical (exec i s) := by
  cases i <;> cases unit
  case ret => exact execRet_wf h _
  case loop => exact execLoop_wf h _
  case csrr => exact execCsrr_wf h _
  case csrw => exact execCsrw_wf h _
  case csrs => exact execCsrs_wf h _
  case csrc => exact execCsrc_wf h _
  case slip => exact execSlip_wf h _
  case qsync => exact execQsync_wf h _
  case shp => exact execShp_wf h _
  case shpx => exact execShpx_wf h _ _
  case bellw => exact execBellw_wf h _
  case trap => exact execTrap_wf h _
  case brk => exact execBrk_wf h _
  case exit => exact execExit_wf h _
  case yield => exact execYield_wf h _
  case snapr => exact execSnapr_wf h _
  case ld | ldu | lda => exact loadForm_wf h _ _ _
  case st | stl => exact storeForm_wf h _ _
  case amo => exact execAmo_wf h _
  case amocas => exact execAmocas_wf h _
  case red => exact execRed_wf h _
  case waitv => exact State.run_canonical h (waitvBody_wf h _)
  case dcwb => exact lineForm_wf h _ _ _ fun s k => State.writeBack_mem s _ k
  case dcinv => exact lineForm_wf h _ _ _ fun s k => State.invalidate_mem s _ k
  case migr => exact execMigr_wf h _
  case halloc => exact execHalloc_wf h _
  case hfree => exact execHfree_wf h _
  case tlbinv => exact execTlbinv_wf h _
  case ctxst => exact execCtxst_wf h _
  case ctxld => exact execCtxld_wf h _
  case mwrr => exact execMwrr_wf h _
  case binit => exact execBinit_wf h _
  case breg => exact execBreg_wf h _
  case barv => exact execBarv_wf h _
  case barw => exact State.run_canonical h (barwBody_wf h _)
  case barvw => exact State.run_canonical h (barvwBody_wf h _)
  case bdrop => exact execBdrop_wf h _
  case btest => exact execBtest_wf h _
  all_goals exact State.run_canonical h h

/-- NOP is a turn. Any other instruction that the control unit does not execute itself is forwarded to a queue: what it changes at
forwarding is not memory. -/
theorem exec_forwarded_canonical {s : State} (h : Memory.wf s.mem = true) {i : Instr} (word : i.sync.isSome = true) (queued : i.cuGuard = none) :
    NextCanonical (exec i s) := by
  have forwarded (q g check) {apply : State → State} (neutral : ∀ s, (apply s).mem = s.mem) :
      Memory.wf (s.forwardTurn q i g check apply).mem = true := by
    rw [State.forwardTurn_mem s q i g check neutral]; exact h
  cases i <;> cases word <;> cases queued
  case nop.refl.refl => exact State.run_canonical h h
  all_goals exact forwarded _ _ _ (fun _ => rfl)

end Sys2Proof.Machine
end

section
/-! PROOFS. A step keeps memory canonical (12 R248, log entry 2): the table of exec, the turns of a cycle, and the step. -/

namespace Sys2Proof.Machine

open Sys2Proof.Safety

/-- An event is of no instruction word: one lemma for each row. -/
theorem exec_event_canonical {s : State} (h : Memory.wf s.mem = true) {i : Instr} (event : i.sync = none) : NextCanonical (exec i s) := by
  cases i <;> cases event
  case unassignedMajorOpcode => exact execUnassignedMajorOpcode_wf h _
  case queueIssue => exact execQueueIssue_wf h _ _
  case engineCompletion => exact execEngineCompletion_wf h _ _
  case pageFaultAnswer => exact execPageFaultAnswer_wf h _ _
  case trapDecision => exact execTrapDecision_wf h _
  case watchdogExpiry => exact execWatchdogExpiry_wf h _
  case exitTakesEffect => exact execExitTakesEffect_wf h _
  case tendTakesEffect => exact execTendTakesEffect_wf h _
  case bankSwitch => exact execBankSwitch_wf h _
  case cohortSave => exact execCohortSave_wf h _
  case saveDone => exact execSaveDone_wf h _
  case cohortRestore => exact execCohortRestore_wf h _
  case cohortMigration => exact execCohortMigration_wf h _ _ _
  case cohortBind => exact execCohortBind_wf h _ _ _
  case standingBind => exact execStandingBind_wf h _ _ _
  case launchRecordArrival => exact execLaunchRecordArrival_wf h _
  case launchCompletion => exact execLaunchCompletion_wf h _
  case launchDoorbell => exact execLaunchDoorbell_wf h _
  case graphDoorbell => exact execGraphDoorbell_wf h _
  case nodeLaunch => exact execNodeLaunch_wf h _
  case nodeCopy => exact execNodeCopy_wf h _
  case nodeWaitOnWord => exact execNodeWaitOnWord_wf h _
  case nodeSignalWord => exact execNodeSignalWord_wf h _
  case nodeConditional => exact execNodeConditional_wf h _
  case nodeHostRingDrain => exact execNodeHostRingDrain_wf h _
  case nodeEnd => exact execNodeEnd_wf h _
  case graphWaitTimeout => exact execGraphWaitTimeout_wf h _
  case hostRingTimeRule => exact execHostRingTimeRule_wf h _
  case matrixGrant => exact execMatrixGrant_wf h _
  case matrixCompletion => exact execMatrixCompletion_wf h _
  case levelStep => exact execLevelStep_wf h _
  case mhintHoldExpiry => exact execMhintHoldExpiry_wf h _
  case taskDequeue => exact execTaskDequeue_wf h _
  case stealAttempt => exact execStealAttempt_wf h _
  case runListRefill => exact execRunListRefill_wf h _
  case taskDecrementArrival => exact execTaskDecrementArrival_wf h _
  case counterSettingArrival => exact execCounterSettingArrival_wf h _
  case registerStoreArrival => exact execRegisterStoreArrival_wf h _
  case busyRetry => exact execBusyRetry_wf h _
  case deferredDelivery => exact execDeferredDelivery_wf h _
  case activeMessageArrival => exact execActiveMessageArrival_wf h _
  case remoteLoad => exact execRemoteLoad_wf h _
  case remoteStore => exact execRemoteStore_wf h _
  case remoteAtomic => exact execRemoteAtomic_wf h _
  case blockReduction => exact execBlockReduction_wf h _
  case copyComplete => exact execCopyComplete_wf h _
  case redPoisonTrap => exact execRedPoisonTrap_wf h _
  case waitvReread => exact execWaitvReread_wf h _
  case barrierWaitEnd => exact execBarrierWaitEnd_wf h _
  case resolveOk => exact execResolveOk_wf h _ _
  case resolveErr tool handle => exact execResolveErr_wf h tool handle
  case resolveOutcome tool => exact execResolveOutcome_wf h tool
  case remoteResolve => exact execRemoteResolve_wf h _
  case futureDeadline => exact execFutureDeadline_wf h _
  case futureResolution => exact execFutureResolution_wf h _
  case adapterLoadDone => exact execAdapterLoadDone_wf h _ _ _
  case sandboxViolation => exact execSandboxViolation_wf h _ _
  case pageMigration => exact execPageMigration_wf h _
  case packetReceive => exact execPacketReceive_wf h _ _
  case ackReceive => exact execAckReceive_wf h _ _
  case nakReceive => exact execNakReceive_wf h _ _
  case replayDone => exact execReplayDone_wf h _
  case laneFailure => exact execLaneFailure_wf h _ _
  case linkTrained => exact execLinkTrained_wf h _ _
  case retrainTimeout => exact execRetrainTimeout_wf h _
  case trainingRequest => exact execTrainingRequest_wf h _
  case detourInstall => exact execDetourInstall_wf h _ _
  case keyPhaseSwitch => exact execKeyPhaseSwitch_wf h _
  case retireReceive => exact execRetireReceive_wf h _
  case partitionDissolve => exact execPartitionDissolve_wf h _
  case hostSnoop => exact execHostSnoop_wf h _ _
  case hostAtomic => exact execHostAtomic_wf h _ _ _ _
  case patrolScrub => exact execPatrolScrub_wf h _ _ _
  case recessStart => exact execRecessStart_wf h _
  case recessEnd => exact execRecessEnd_wf h _ _
  case powerWindow => exact execPowerWindow_wf h _ _
  case coldReset => exact execColdReset_wf h _
  case warmReset => exact execWarmReset_wf h _
  case traceTailFlush => exact execTraceTailFlush_wf h _
  case sample => exact execSample_wf h _
  case triggerArm => exact execTriggerArm_wf h _ _
  case freeze => exact execFreeze_wf h _
  case thaw => exact execThaw_wf h _
  case mcbStatusClear => exact execMcbStatusClear_wf h _ _
  case registerWindowWrite => exact execRegisterWindowWrite_wf h _ _
  case hostMemoryAccess => exact execHostMemoryAccess_wf h _ _
  case toolCoreAccess => exact execToolCoreAccess_wf h _ _
  case creditReceive => exact execCreditReceive_wf h _ _ _ _
  case waitOnWordReread => exact execWaitOnWordReread_wf h _
  case hostLinkLoss => exact execHostLinkLoss_wf h _ _
  case dieToDieLinkEvent => exact execDieToDieLinkEvent_wf h _ _
  case podFormation => exact execPodFormation_wf h _ _ _ _
  case clockStepUp => exact execClockStepUp_wf h
  case firmwareSwitch => exact execFirmwareSwitch_wf h
  case debugHoldEnter => exact execDebugHoldEnter_wf h
  case keyset => exact execKeyset_wf h
  case keyerase => exact execKeyerase_wf h
  case tool => exact execTool_wf h
  case adapter => exact execAdapter_wf h
  case handler => exact execHandler_wf h
  case binding => exact execBinding_wf h
  case terminate => exact execTerminate_wf h
  case stop => exact execStop_wf h
  case release => exact execRelease_wf h
  case sampleConfig => exact execSampleConfig_wf h
  case service => exact execService_wf h
  case update => exact execUpdate_wf h
  case attest => exact execAttest_wf h
  case debugHoldExit => exact execDebugHoldExit_wf h
  case lockstepMismatch => exact execLockstepMismatch_wf h
  case securityBlockFault => exact execSecurityBlockFault_wf h

/-- Whatever exec is given, a state that it goes on with has canonical memory. -/
theorem exec_canonical {s : State} (h : Memory.wf s.mem = true) (i : Instr) : NextCanonical (exec i s) := by
  cases word : i.sync with
  | none => exact exec_event_canonical h word
  | some b =>
    cases unit : i.cuGuard with
    | none => exact exec_forwarded_canonical h (by rw [word]; rfl) unit
    | some g => exact exec_cu_canonical h unit

/-- By induction on the cores: each meets what it holds, executes it, and moves its engines. -/
theorem takeTurns_canonical (snap : State) (who : List CtxRef) (l : List CtxRef) :
    ∀ {s : State}, Memory.wf s.mem = true → NextCanonical (takeTurns snap who l s) := by
  induction l with
  | nil => exact fun h => h
  | cons r rest ih =>
    intro s h
    unfold takeTurns
    split
    · exact ih (State.engines_wf h r)
    next s1 focused =>
      have h1 : Memory.wf s1.mem = true := by
        split at focused
        · exact State.focus_mem focused ▸ h
        · cases focused
      have met := State.meet_wf h1
      split
      next s2 e => rw [e] at met; exact ih (State.engines_wf met r)
      next i s2 e =>
        rw [e] at met
        have done := exec_canonical met i
        split
        next s3 e => rw [e] at done; exact ih (State.engines_wf done r)
        · trivial
        · trivial

theorem State.turnsTaken_canonical {s : State} (h : Memory.wf s.mem = true) : NextCanonical s.turnsTaken :=
  takeTurns_canonical _ _ _ (by rw [State.turnOrder_mem]; exact h)

theorem step_canonical {s : State} (h : Memory.wf s.mem = true) : NextCanonical (step s) := by
  have due := State.due_wf h
  unfold step
  split
  next i s1 e => rw [e] at due; exact exec_canonical due i
  next s1 e => rw [e] at due; exact due
  · trivial
  next s1 e =>
    rw [e] at due
    split
    · trivial
    have taken := State.turnsTaken_canonical due
    split
    next s2 e => rw [e] at taken; exact State.around_wf taken _
    · trivial
    · trivial

end Sys2Proof.Machine

namespace Sys2Proof.Proofs

open Sys2Proof.Machine Sys2Proof.Safety

/-- Settles O59: every event and every cycle changes memory by writes at an address, each of which keeps the canonical form. -/
theorem stepKeepsMemory : Obligations.StepKeepsMemory := fun s t h e => by
  have kept := step_canonical h
  rw [e] at kept
  exact kept

end Sys2Proof.Proofs
end


section
/-! PROOFS. XLAT, MIGR, TLBINV, HALLOC and HFREE (13 R290, R293 to R297): each is a turn with a body, and each way that the body ends. -/

namespace Sys2Proof.Machine

open Sys2Proof.Safety

/-! ## XLAT (13 R293) -/

theorem probeKind_eq (z : BitVec 2) :
    probeKind z = if z = 0 then some .load else if z = 1 then some .store else if z = 2 then some .fetch else none := by
  simp only [probeKind, beq_iff_eq]

/-! ## MIGR (13 R294) -/

/-- Only requests for migrations are added. -/
def State.RequestsOnly (s t : State) : Prop := ∃ l, t = { s with migrations := s.migrations ++ l }

namespace State.RequestsOnly

variable {s t u : State}

theorem refl (s : State) : s.RequestsOnly s := ⟨[], by rw [List.append_nil]⟩

theorem trans (h : s.RequestsOnly t) (k : t.RequestsOnly u) : s.RequestsOnly u := by
  obtain ⟨l, rfl⟩ := h
  obtain ⟨l', rfl⟩ := k
  exact ⟨l ++ l', by rw [List.append_assoc]⟩

end State.RequestsOnly

theorem State.requestMigration_requestsOnly (s : State) (l : Leaf) (tier : Nat) : s.RequestsOnly (s.requestMigration l tier) := by
  unfold State.requestMigration
  split
  · exact .refl s
  · exact ⟨_, rfl⟩

theorem State.requestRange_requestsOnly (s : State) (tier va len fuel : Nat) : s.RequestsOnly (s.requestRange tier va len fuel) := by
  induction fuel generalizing s va len with
  | zero => exact .refl s
  | succ fuel ih =>
    unfold State.requestRange
    split
    · exact .refl s
    · refine State.RequestsOnly.trans ?_ (ih ..)
      split
      · exact s.requestMigration_requestsOnly _ _
      · exact .refl s
      · exact .refl s

section
variable (o : M) (s : State)

/-- The bytes of MIGR's range. -/
def migrLen : Nat := min (s.cx.sreg o.sd).toNat (2 ^ 30)

/-- What MIGR does with a range at a place. -/
def migrAt : Place → Done
  | .bad c => if c == 0x21 then .next s s.after else s.stopFail ⟨c, BitVec.ofInt 64 (s.ea o), .load, false⟩
  | .scratch _ => .next s s.after
  | .virt => .next (s.requestRange (if o.size == 1 then 1 else 0) (s.ea o).toNat (migrLen o s) (migrLen o s / 65536 + 2)) s.after

/-- MIGR's work: the place of its range decides. -/
def migrBody : Done := if migrLen o s == 0 then .next s s.after else migrAt o s (s.placeOf (s.ea o) (migrLen o s) false)

theorem migr_turnOf : TurnOf (.migr o) s (migrBody o) := .guarded rfl rfl

variable {o s}

theorem migrBody_empty (empty : migrLen o s = 0) : migrBody o s = .next s s.after := by
  simp only [migrBody, empty, beq_self_eq_true, if_true]

theorem migrBody_placed {p : Place} (ne : migrLen o s ≠ 0) (placed : s.placeOf (s.ea o) (migrLen o s) false = p) :
    migrBody o s = migrAt o s p := by
  simp only [migrBody, beq_eq_false_iff_ne.mpr ne, placed, Bool.false_eq_true, if_false]

end

/-! ## TLBINV (13 R297) -/

/-- The fields of a control word that decide whether it is legal, and its scope, as numbers. -/
theorem control_fields (w : Word) : ((field w 6 42 : BitVec 42) = 0 ↔ w.toNat / 2 ^ 6 % 2 ^ 42 = 0) ∧
    (field w 0 3 : BitVec 3).toNat = w.toNat % 8 ∧ (field w 3 3 : BitVec 3).toNat = w.toNat / 8 % 8 := by
  refine ⟨?_, ?_, ?_⟩
  · rw [← BitVec.toNat_inj]
    simp [field, Nat.shiftRight_eq_div_pow]
  · simp [field]
  · simp [field, Nat.shiftRight_eq_div_pow]

theorem controlBad_iff (w : Word) : (field w 6 42 != (0 : BitVec 42) || decide (3 ≤ (field w 0 3 : BitVec 3).toNat)) = true ↔
    ¬ (w.toNat / 2 ^ 6 % 2 ^ 42 = 0 ∧ w.toNat % 8 < 3) := by
  obtain ⟨reserved, kind, -⟩ := control_fields w
  rw [Bool.or_eq_true, bne_iff_ne, decide_eq_true_eq, kind, Ne, reserved]
  omega

theorem State.translatedWaits_iff (s : State) (w : Word) : s.translatedWaits w = true ↔ 3 ≤ w.toNat / 8 % 8 ∧ s.blocks ≠ [] := by
  obtain ⟨-, -, scope⟩ := control_fields w
  simp only [State.translatedWaits, scope, Bool.and_eq_true, decide_eq_true_eq, Bool.not_eq_true', List.isEmpty_eq_false_iff]

/-- The entries in the scope that match have left the caches, and a WAITV of the scope translates anew. -/
def State.invalidated (s : State) (w a : Word) : State :=
  ({ s with tlbs := s.tlbs.filter fun e => !(s.tlbInScope w e && tlbMatches w a e) } : State).mapCtxs fun c =>
    if s.ctxInScope w c then { c with watch := none } else c

theorem State.invalidated_after (s : State) (w a : Word) : (s.invalidated w a).after = s.cx.pc + 8 := by
  simp only [State.invalidated, State.mapCtxs, State.after]
  split <;> rfl

theorem tlbinv_turnOf (o : SR) (s : State) : TurnOf (.tlbinv o) s fun s =>
    if field (s.cx.sreg o.sb) 6 42 != (0 : BitVec 42) || decide (3 ≤ (field (s.cx.sreg o.sb) 0 3 : BitVec 3).toNat) then s.stopTrap 0x02
    else if s.translatedWaits (s.cx.sreg o.sb) then .wait s
    else .next (s.invalidated (s.cx.sreg o.sb) (s.cx.sreg o.sa)) (s.invalidated (s.cx.sreg o.sb) (s.cx.sreg o.sa)).after := .guarded rfl rfl

/-! ## The heap (13 R290, R295, R296) -/

theorem State.heap_none {s : State} (h : s.cx.heapBase = 0) : s.heap = none := by
  simp only [State.heap, h, beq_self_eq_true, if_true]

theorem State.heap_some {s : State} (h : s.cx.heapBase ≠ 0) : ∃ x, s.heap = some x := by
  simp only [State.heap, beq_eq_false_iff_ne.mpr h, Bool.false_eq_true, if_false]
  exact ⟨_, rfl⟩

/-- A heap that is kept is among the heaps. -/
theorem State.mem_putHeap (s : State) (h : Heap) : h ∈ (s.putHeap h).heaps := List.mem_cons_self

/-- A heap after a block of a chunk is released. -/
def Heap.released (h : Heap) (c : Chunk) (off : Nat) : Heap :=
  { h with free := (c.cls, off) :: h.free,
           chunks := h.chunks.map fun x => if x == c then { x with used := x.used.erase off } else x }

section
variable (o : M) (s : State)

/-- HALLOC's answer: an address and a status, in two registers. -/
def hallocAnswer (a st : Nat) : Done := s.set ((s.cx.setSreg o.sd (BitVec.ofNat 64 a)).setSreg (o.sd + 1) (BitVec.ofNat 64 st))

/-- HALLOC's answer to what the allocator finds. -/
def hallocFound : State × Option Nat → Done
  | (s1, some a) => hallocAnswer o s1 a 0
  | (s1, none) => hallocAnswer o s1 0 1

/-- HALLOC's work: its checks, then the allocator. -/
def hallocBody : Done :=
  match s.heap with
  | none => hallocAnswer o s 0 4
  | some h =>
    if (s.cx.sreg o.sa).toNat == 0 then hallocAnswer o s 0 2
    else if 2 ^ 21 < (s.cx.sreg o.sa).toNat then hallocAnswer o s 0 3
    else hallocFound o (s.alloc h (classOf (s.cx.sreg o.sa).toNat))

theorem halloc_turnOf : TurnOf (.halloc o) s (hallocBody o) := .guarded rfl rfl

/-- HFREE's answer: a status. -/
def hfreeAnswer (st : Nat) : Done := s.set (s.cx.setSreg o.sd (BitVec.ofNat 64 st))

/-- HFREE's answer to the chunk in which an address is allocated. -/
def hfreeFound (h : Heap) : Option Chunk → Done
  | none => hfreeAnswer o s 1
  | some c => hfreeAnswer o (s.putHeap (h.released c ((s.cx.sreg o.sa).toNat - h.base))) 0

/-- HFREE's work: its checks, then the release. -/
def hfreeBody : Done :=
  if (s.cx.sreg o.sa).toNat == 0 then hfreeAnswer o s 0
  else match s.heap with
    | none => hfreeAnswer o s 2
    | some h =>
      if (s.cx.sreg o.sa).toNat < h.base || h.base + h.size ≤ (s.cx.sreg o.sa).toNat then hfreeAnswer o s 2
      else hfreeFound o s h (h.chunks.find? fun c => c.used.contains ((s.cx.sreg o.sa).toNat - h.base))

theorem hfree_turnOf : TurnOf (.hfree o) s (hfreeBody o) := .guarded rfl rfl

end

section
variable {o : M} {s : State} {x : Heap}

theorem hallocBody_unbound (h : s.cx.heapBase = 0) : hallocBody o s = hallocAnswer o s 0 4 := by
  simp only [hallocBody, State.heap_none h]

theorem hallocBody_zero (hx : s.heap = some x) (h : (s.cx.sreg o.sa).toNat = 0) : hallocBody o s = hallocAnswer o s 0 2 := by
  simp only [hallocBody, hx, h, beq_self_eq_true, if_true]

theorem hallocBody_large (hx : s.heap = some x) (h : 2 ^ 21 < (s.cx.sreg o.sa).toNat) : hallocBody o s = hallocAnswer o s 0 3 := by
  have ne : ((s.cx.sreg o.sa).toNat == 0) = false := beq_eq_false_iff_ne.mpr (Nat.ne_of_gt (Nat.zero_lt_of_lt h))
  simp only [hallocBody, hx, ne, h, Bool.false_eq_true, if_false, if_true]

theorem hallocBody_asks {r : State × Option Nat} (hx : s.heap = some x) (pos : 0 < (s.cx.sreg o.sa).toNat)
    (fits : (s.cx.sreg o.sa).toNat ≤ 2 ^ 21) (found : s.alloc x (classOf (s.cx.sreg o.sa).toNat) = r) :
    hallocBody o s = hallocFound o r := by
  simp only [hallocBody, hx, beq_eq_false_iff_ne.mpr (Nat.ne_of_gt pos), Nat.not_lt.mpr fits, found, Bool.false_eq_true, if_false]

theorem hfreeBody_zero (h : (s.cx.sreg o.sa).toNat = 0) : hfreeBody o s = hfreeAnswer o s 0 := by
  simp only [hfreeBody, h, beq_self_eq_true, if_true]

variable (h : (s.cx.sreg o.sa).toNat ≠ 0)
include h

theorem hfreeBody_unbound (unbound : s.cx.heapBase = 0) : hfreeBody o s = hfreeAnswer o s 2 := by
  simp only [hfreeBody, beq_eq_false_iff_ne.mpr h, State.heap_none unbound, Bool.false_eq_true, if_false]

variable (hx : s.heap = some x)
include hx

theorem hfreeBody_outside (outside : (s.cx.sreg o.sa).toNat < x.base ∨ x.base + x.size ≤ (s.cx.sreg o.sa).toNat) :
    hfreeBody o s = hfreeAnswer o s 2 := by
  have outside : (decide ((s.cx.sreg o.sa).toNat < x.base) || decide (x.base + x.size ≤ (s.cx.sreg o.sa).toNat)) = true := by simpa using outside
  simp only [hfreeBody, beq_eq_false_iff_ne.mpr h, hx, outside, Bool.false_eq_true, if_false, if_true]

theorem hfreeBody_inside {r : Option Chunk} (low : x.base ≤ (s.cx.sreg o.sa).toNat) (high : (s.cx.sreg o.sa).toNat < x.base + x.size)
    (found : x.chunks.find? (fun c => c.used.contains ((s.cx.sreg o.sa).toNat - x.base)) = r) : hfreeBody o s = hfreeFound o s x r := by
  simp only [hfreeBody, beq_eq_false_iff_ne.mpr h, hx, Nat.not_lt.mpr low, Nat.not_le.mpr high, decide_false, Bool.or_self, found,
    Bool.false_eq_true, if_false]

end

end Sys2Proof.Machine

namespace Sys2Proof.Proofs

open Sys2Proof.Machine Sys2Proof.Safety

/-- Settles O29: XLAT by its turn, MIGR by the place of its range, TLBINV by its control word. -/
theorem pageInstructions : Obligations.PageInstructions := by
  refine ⟨fun o s h => ?_, fun o s h => ?_, fun o s h => ?_⟩
  · rw [← probeKind_eq]
    exact (TurnOf.guarded rfl rfl).set h rfl
  · intro n a
    have turn := migr_turnOf o s
    refine ⟨fun empty => turn.next h (migrBody_empty empty), fun ne => ?_, fun ne placed => ?_⟩
    · exact ⟨fun key placed => turn.next h (migrBody_placed ne placed), fun placed => turn.next h (migrBody_placed ne placed),
        fun c other placed => turn.stop h ((migrBody_placed ne placed).trans (if_neg (mt beq_iff_eq.mp other)))⟩
    · obtain ⟨l, requests⟩ := s.requestRange_requestsOnly (if o.size == 1 then 1 else 0) (s.ea o).toNat n (n / 65536 + 2)
      have added : migrBody o s = .next { s with migrations := s.migrations ++ l } s.after :=
        (migrBody_placed ne placed).trans (congrArg (Done.next · s.after) requests)
      refine ⟨_, turn.next h added, rfl, rfl, rfl, fun _ => rfl, fun x hx => List.mem_append_left l hx⟩
  · intro w
    have turn := tlbinv_turnOf o s
    refine ⟨fun legal rests => turn.next h ?_, fun legal wide busy => turn.wait h ?_, fun bad => turn.stop h ?_⟩
    · have goes : s.translatedWaits w = false := by
        rw [Bool.eq_false_iff, Ne, State.translatedWaits_iff]
        exact fun ⟨wide, busy⟩ => rests.elim (Nat.not_lt.mpr wide) busy
      rw [if_neg (mt (controlBad_iff w).mp (not_not_intro legal)), goes, State.invalidated_after]
      rfl
    · rw [if_neg (mt (controlBad_iff w).mp (not_not_intro legal)), (s.translatedWaits_iff w).mpr ⟨wide, busy⟩]
      rfl
    · rw [if_pos ((controlBad_iff w).mpr bad)]
      rfl

/-- Settles O30: each answer by the check that gives it; a released block is among its heap's free ones. -/
theorem heapInstructions : Obligations.HeapInstructions := by
  refine ⟨fun o s h => ?_, fun o s h => ?_⟩
  · intro n answers
    have turn := halloc_turnOf o s
    refine ⟨fun unbound => turn.set h ?_, fun bound zero => turn.set h ?_, fun bound large => turn.set h ?_,
      fun x s1 b hx pos fits found => turn.next h ?_, fun x s1 hx pos fits full => turn.next h ?_⟩
    · exact hallocBody_unbound unbound
    · obtain ⟨x, hx⟩ := State.heap_some bound
      exact hallocBody_zero hx zero
    · obtain ⟨x, hx⟩ := State.heap_some bound
      exact hallocBody_large hx large
    · exact hallocBody_asks hx pos fits found
    · exact hallocBody_asks hx pos fits full
  · intro a answers
    have turn := hfree_turnOf o s
    refine ⟨fun zero => turn.set h (hfreeBody_zero zero), fun ne unbound => turn.set h (hfreeBody_unbound ne unbound),
      fun x ne hx => ⟨fun outside => turn.set h (hfreeBody_outside ne hx outside), fun low high unused => ?_, fun c low high found => ?_⟩⟩
    · have no : x.chunks.find? (fun c => c.used.contains (a - x.base)) = none := by
        simpa only [List.find?_eq_none, List.contains_iff_mem] using unused
      exact turn.set h (hfreeBody_inside ne hx low high no)
    · refine ⟨_, turn.next h (hfreeBody_inside ne hx low high found), rfl, rfl, ?_, _, s.mem_putHeap _, rfl, List.mem_cons_self⟩
      rw [executed_sreg, Ctx.sreg_setSreg_same]
      exact ite_self _

end Sys2Proof.Proofs
end


section
/-! PROOFS. An access that fails (13 R287, R288; 26 R476, R482; 27 R493), and what a faulted context leaves its core's other bank (02 R48). -/

namespace Sys2Proof.Machine

open Sys2Proof.Safety

/-! ## The ways in which a failed access is taken (13 R288) -/

theorem addressFor_eq (cause : BitVec 7) (va : Word) :
    addressFor cause va = if 0x20 ≤ cause.toNat ∧ cause.toNat ≤ 0x25 then va else 0 := by
  simp only [addressFor, Bool.and_eq_true, decide_eq_true_eq]

section
variable {s : State} (q : Nat) (a : Word) {f : Fail}

/-- An access that waits for the host link is no failure (27 R493). -/
theorem State.takeFail_again (h : f.cause = 0) : s.takeFail q a f = s := by
  simp only [State.takeFail, h, beq_self_eq_true, if_true]

/-- A context without a trap takes a page fault (13 R287). -/
theorem State.takeFail_pageFault (untrapped : s.cx.trap = none) (h : f.cause = 0x20) : s.takeFail q a f =
    { s with cx := { s.cx with life := .faulted, faultRec := s.cx.faultRec ++ [⟨q, a, f.va, f.access, f.cause, f.malformed⟩] } } := by
  have fails : (f.cause == 0) = false := by rw [h]; rfl
  simp only [State.takeFail, fails, beq_iff_eq.mpr h, Bool.false_eq_true, if_false, if_true, State.takePageFault_eq, untrapped, Option.map_none]

variable (fails : f.cause ≠ 0) (mapped : f.cause ≠ 0x20)
include fails mapped

theorem State.takeFail_trap (whole : s.sliceOf f = none) :
    s.takeFail q a f = s.takeTrap { cause := f.cause, queue := q, iaddr := a, va := addressFor f.cause f.va } := by
  simp only [State.takeFail, beq_eq_false_iff_ne.mpr fails, beq_eq_false_iff_ne.mpr mapped, whole, Bool.false_eq_true, if_false]

theorem State.takeFail_sliceCheck {k : Nat} (slice : s.sliceOf f = some k) :
    s.takeFail q a f = (s.sliceCheck k (some (s.cx.mcInfo s.cx.item q))).takeTrap
      { cause := f.cause, queue := q, iaddr := a, va := addressFor f.cause f.va, mc := true, code := 0x72 } := by
  simp only [State.takeFail, beq_eq_false_iff_ne.mpr fails, beq_eq_false_iff_ne.mpr mapped, slice, Bool.false_eq_true, if_false]

end

/-- A home slice fails the reads of poison alone (26 R482). -/
theorem State.sliceOf_cause {s : State} {f : Fail} {k : Nat} (h : s.sliceOf f = some k) : f.cause = 0x25 := by
  by_contra other
  simp only [State.sliceOf, bne_iff_ne.mpr other, if_true] at h
  cases h

theorem State.sliceCheck_logged {s : State} {k : Nat} (empty : NoRecord s (homeBank k)) (info : Option Word) :
    Logged (s.sliceCheck k info) (homeBank k) 2 0x72 0 :=
  State.contained_logged (noRecord_clearInj empty) 0x72 0 _ info

/-! ## The end of a faulted context's cycle (02 R48) -/

/-- The core's other bank wakes after a page fault, unless the fault has become a trap (13 R288). -/
theorem State.settle_faulted {s : State} (faulted : s.cx.life = .faulted) (idle : (s.drain true).cx.nq.issued = false) :
    s.settle = if (s.drain true).cx.trap.isNone then (s.drain true).wakeOther else s.drain true := by
  simp only [State.settle, faulted, idle, beq_self_eq_true, Bool.false_and, Bool.false_eq_true, if_false, Bool.true_and]

theorem State.coreFree_iff (s : State) (c : Ctx) : s.coreFree c = true ↔ CoreFree s c := by
  simp only [State.coreFree, CoreFree, Bool.not_eq_true', List.any_eq_false, Bool.and_eq_true, beq_iff_eq, not_and, ne_eq]

theorem State.wakeOther_wakes {s : State} {c : Ctx} (ready : s.others.find? (fun x => x.sameCore s.cx && x.isReady) = some c)
    (free : CoreFree s s.cx) : s.wakeOther = s.modCtx c.ref Ctx.activated := by
  simp only [State.wakeOther, (s.coreFree_iff s.cx).mpr free, Bool.not_true, Bool.false_eq_true, if_false, ready]

theorem State.wakeOther_busy {s : State} (busy : ¬ CoreFree s s.cx) : s.wakeOther = s := by
  simp only [State.wakeOther, Bool.eq_false_iff.mpr (mt (s.coreFree_iff s.cx).mp busy), Bool.not_false, if_true]

end Sys2Proof.Machine

namespace Sys2Proof.Proofs

open Sys2Proof.Machine Sys2Proof.Safety

/-- Settles O20: a failed access by its cause and its home slice, the end of the cycle by what the drain leaves, the other bank by whether the
core is free. -/
theorem failedAccess : Obligations.FailedAccess := by
  refine ⟨fun s q a f running untrapped => ?_, fun s faulted idle => ?_, fun s c other ready => ⟨fun free => ?_, fun busy => ?_⟩⟩
  · intro va
    refine ⟨State.takeFail_pageFault q a untrapped, State.takeFail_again q a, fun mapped fails whole => ?_, fun k slice => ?_⟩
    · rw [State.takeFail_trap q a fails mapped whole, addressFor_eq]
    · have cause := State.sliceOf_cause slice
      have taken := State.takeFail_sliceCheck q a (by rw [cause]; decide) (by rw [cause]; decide) slice
      have same : (s.sliceCheck k (some (s.cx.mcInfo s.cx.item q))).cx = s.cx := by rw [State.sliceCheck_eq]
      rw [cause, State.takeTrap, same, Ctx.takeTrap_running _ _ running] at taken
      refine ⟨cause, _, taken, ?_, rfl, _, rfl, rfl, rfl, rfl, rfl, rfl, rfl, rfl, fun empty => State.sliceCheck_logged empty _⟩
      rw [State.sliceCheck_eq]
  · rw [State.settle_faulted faulted idle]
    exact ⟨fun untrapped => if_pos (by rw [untrapped]; rfl), fun trapped => if_neg (by simpa using trapped)⟩
  · rw [State.wakeOther_wakes ready free]
    exact State.modCtx_activated other
  · obtain ⟨x, hx, same, running⟩ := busy
    exact State.wakeOther_busy fun free => free x hx same running

end Sys2Proof.Proofs
end


section
/-! PROOFS. The end of a trapped context (06 R121): its drain leaves it bound, and where it is. -/

namespace Sys2Proof.Machine

open Sys2Proof.Safety

/-! ## A drain leaves a context bound (02 R47, R48) -/

/-- Whoever traps is bound. -/
theorem Ctx.takeTrap_bound (c : Ctx) (t : Trap) : (c.takeTrap t).life ≠ .unbound := by
  unfold Ctx.takeTrap
  split <;> simp [*]

section
variable {s : State} (bound : s.cx.life ≠ .unbound)
include bound

theorem State.takeFail_bound (q : Nat) (a : Word) (f : Fail) : (s.takeFail q a f).cx.life ≠ .unbound := by
  unfold State.takeFail
  split
  · exact bound
  · split
    · simp [State.takePageFault]
    · split <;> exact Ctx.takeTrap_bound _ _

theorem State.stopAt_bound (q : Queue) (e : Entry) (k : Nat) (f : Fail) : (s.stopAt q e k f).cx.life ≠ .unbound := by
  refine State.takeFail_bound ?_ _ _ _
  simpa only [Ctx.setQueue_keeps, (s.cx.setPoint_dataOnly e true k).life] using bound

/-- A transfer changes the life of its context where a row fails, and nowhere else. -/
theorem State.transfer_bound (q : Queue) (e : Entry) (whole : Bool) : (s.transfer q e whole).cx.life ≠ .unbound := by
  have rows (u : State) (h : Shape) (k n : Nat) : (u.moveRows e h k [] n).1.cx.life = u.cx.life := (u.moveRows_dataOnly e h k [] n).life
  have cleared (c : Ctx) : (c.clearPoint e).life = c.life := (c.clearPoint_dataOnly e).life
  grind [State.transfer, → State.spanNow_cx, State.stopAt_bound, Ctx.setQueue_keeps, Ctx.pauseXfer]

theorem State.endXfer_bound (q : Queue) : (s.endXfer q false).cx.life ≠ .unbound := by
  grind [State.endXfer, State.transfer_bound, Ctx.completeXfer_keeps]

/-- Chunks change the life of their context where a checksum fails, and nowhere else. -/
theorem State.runChunks_bound (e : Entry) (o : X) (c n : Nat) : (s.runChunks e o c n).1.cx.life ≠ .unbound := by
  induction n generalizing s c with
  | zero => exact bound
  | succ n ih =>
    unfold State.runChunks
    extract_lets
    split
    · exact Ctx.takeTrap_bound _ _
    · exact ih (s := s.addChunks e o c (c + 1)) bound (c + 1)

theorem State.endFetch_bound (e : Entry) (o : X) : (s.endFetch e o).cx.life ≠ .unbound := by
  have read (c : Ctx) : (c.readDone e).life = c.life :=
    (Ctx.DataOnly.foldl (fun c p => c.finishOper_dataOnly p) (readsOnce (opersOf e.instr)) c).life
  grind [State.endFetch, State.runChunks_bound, Ctx.retire_keeps]

theorem State.endJoin_bound (e : Entry) (o : X) : (s.endJoin e o).cx.life ≠ .unbound := by
  unfold State.endJoin
  split
  case h_3 =>
    extract_lets f n s1 fl
    have same : s1.cx = s.cx := List.foldlRecOn _ _ (motive := fun u : State => u.cx = s.cx) rfl fun _ hu _ _ => hu
    exact (Ctx.complete_keeps _ .mq e).1.trans_ne ((congrArg Ctx.life same :).trans_ne bound)
  all_goals exact (Ctx.complete_keeps _ .mq e).1.trans_ne bound

theorem State.endMatrix_bound : (s.endMatrix false).cx.life ≠ .unbound := by
  grind [State.endMatrix, State.endFetch_bound, State.endJoin_bound]

end

/-- Every result of AQ is visible, those for channels too. -/
theorem State.flushAq_sends_resultsOnly (s : State) : s.cx.ResultsOnly (s.flushAq true).cx :=
  ((s.cx.showData_resultsOnly _).1.trans (State.showSends_resultsOnly _ _).1).trans (Ctx.showRest_resultsOnly _ _).1

/-- A context that leaves its core drains where it is. -/
theorem State.drain_sends_samePlace (s : State) : s.cx.SamePlace (s.drain false false true).cx :=
  ((((s.endXfer_samePlace .lq).trans (State.flushAq_sends_resultsOnly _).samePlace).trans (State.endXfer_samePlace _ .sq)).trans
    (State.endMatrix_samePlace _)).productsDone _

theorem State.drain_sends_bound {s : State} (bound : s.cx.life ≠ .unbound) : (s.drain false false true).cx.life ≠ .unbound := by
  have flushed := (State.flushAq_sends_resultsOnly (s.endXfer .lq false)).life.trans_ne (State.endXfer_bound bound .lq)
  exact (Ctx.productsDone_keeps _ _).1.trans_ne (State.endMatrix_bound (State.endXfer_bound flushed .sq))

/-! ## The end of a member (02 R37; 06 R121) -/

/-- The context of a member that has ended: nothing is forwarded, and no trap, EXIT or message waits. -/
def Ctx.ended (c : Ctx) : Ctx := { c.discard with life := .exited, trap := none, exiting := none, inbox := [], runList := [], outside := .none }

@[simp] theorem Ctx.ended_keeps (c : Ctx) : c.ended.cohort = c.cohort ∧ c.ended.coord = c.coord ∧ c.ended.life = .exited ∧
    c.ended.trap = none ∧ c.ended.inbox = [] ∧ c.ended.exiting = none := ⟨rfl, rfl, rfl, rfl, rfl, rfl⟩

theorem State.memberGone_ended {s : State} (bound : s.cx.life ≠ .unbound) (kind status extra : Nat) :
    ∃ c, s.cx.RunListOnly c ∧ (s.memberGone s.cx kind status extra).cx = c.ended := by
  let u : State := ((s.implicitDrops s.cx.cohort s.cx.coord.member.toNat).1.dropBasin s.cx.cohort s.cx.coord.member.toNat).1
  have before : u.cx = s.cx := s.implicitDrops_cx _ _
  have orphaned := u.orphanTasks_runListOnly s.cx
  rw [before] at orphaned
  refine ⟨_, orphaned, ?_⟩
  simp only [State.memberGone, State.clearLive_cx, State.setEntry_cx, State.modCtx, State.mapCtxs]
  exact if_pos (orphaned.is_ref bound)

/-- EXIT leaves the current context ended. -/
theorem State.exitEffect_ended {s : State} (running : s.cx.life = .running) (status : BitVec 16) : ∃ c, (s.exitEffect status).cx = Ctx.ended c := by
  unfold State.exitEffect
  extract_lets s1
  have same : s1.cx = s.cx := (State.endTask_cx _ _).trans (State.event_cx ..)
  obtain ⟨c, -, gone⟩ := State.memberGone_ended (s := s1) (same ▸ Ctx.ne_unbound running) 1 status.toNat 0
  exact ⟨c, gone⟩

/-- A context that is terminated drains, and its member ends where it is. -/
theorem State.terminate_ended {s : State} (bound : s.cx.life ≠ .unbound) (cause : Nat) :
    ∃ c, s.cx.SamePlace c ∧ (s.terminate cause).cx = c.ended := by
  have place := s.drain_sends_samePlace
  have life := State.drain_sends_bound bound
  unfold State.terminate
  extract_lets s1 s2
  have same : s2.cx = s1.cx := (State.endTask_cx _ _).trans (State.event_cx ..)
  rw [← same] at place life
  obtain ⟨c, only, gone⟩ := State.memberGone_ended life 2 cause 0
  have moved : s2.cx.SamePlace c := ⟨(congrArg Ctx.pc only :), (congrArg Ctx.cohort only :), (congrArg Ctx.coord only :)⟩
  exact ⟨c, place.trans moved, gone⟩

/-- The current context is terminated by its reference. -/
theorem State.terminateCtx_ref {s : State} (bound : s.cx.life ≠ .unbound) (cause : Nat) :
    (s.terminateCtx s.cx.ref cause).cx.life = .exited ∧ (s.terminateCtx s.cx.ref cause).cx.trap = none := by
  obtain ⟨c, place, gone⟩ := State.terminate_ended bound cause
  have own : (s.terminate cause).cx.is s.cx.ref = true := by
    rw [gone]
    exact Ctx.is_ref (by simp) (by simp [place.cohort]) (by simp [place.coord])
  rw [State.terminateCtx, State.withCtx_ref (f := fun s => s.terminate cause) bound own, gone]
  simp

end Sys2Proof.Machine
end


section
/-! PROOFS. The events of chapters 02, 13, 14 and 26 at the current context: page-fault answers, decisions on traps, the ends of activations,
bank switches and the ends of waits. -/

namespace Sys2Proof.Machine

open Sys2Proof.Safety

/-! ## The context that an event names -/

section
variable {s : State} (bound : s.cx.life ≠ .unbound)
include bound

theorem State.focus_ref : s.focus s.cx.ref = some s := if_pos (Ctx.is_ref bound rfl rfl)

theorem State.findCtx_ref : s.findCtx s.cx.ref = some s.cx := by
  simp only [State.findCtx, State.ctxs, beq_eq_false_iff_ne.mpr bound, Bool.false_eq_true, if_false, List.find?_cons, Ctx.is_ref bound rfl rfl]

end

theorem State.modCtx_own {s : State} {r : CtxRef} (own : s.cx.is r = true) (f : Ctx → Ctx) : (s.modCtx r f).cx = f s.cx := if_pos own

/-! ## PAGE_FAULT_ANSWER (13 R287, R288) -/

/-- One entry is written, and its translations leave. -/
def State.writeEntry (s : State) (e : Nat × Word) : State :=
  (s.homeWrite [(devKey s.node e.1, 8)] (wordBytes e.2)).dropPte (devKey s.node e.1)

theorem State.dropPte_accessOnly (s : State) (pte : Nat) : s.AccessOnly (s.dropPte pte) := rfl

theorem State.writeEntry_accessOnly (s : State) (e : Nat × Word) : s.AccessOnly (s.writeEntry e) :=
  (s.homeWrite_accessOnly _ _).trans (State.dropPte_accessOnly _ _)

theorem State.writeEntry_mem (s : State) (e : Nat × Word) : (s.writeEntry e).mem = Memory.write s.mem (devKey s.node e.1) (wordBytes e.2) := by
  rw [State.writeEntry, State.dropPte_mem]
  exact (s.homeWrite_dword (devKey s.node e.1) e.2).1

theorem State.writeEntries_eq (s : State) (es : List (Nat × Word)) : s.writeEntries es = es.foldl State.writeEntry s := rfl

theorem State.writeEntries_accessOnly (s : State) (es : List (Nat × Word)) : s.AccessOnly (s.writeEntries es) :=
  List.foldlRecOn es State.writeEntry (motive := s.AccessOnly) (.refl s) fun u only e _ => only.trans (u.writeEntry_accessOnly e)

theorem State.writeEntries_mem (s : State) (es : List (Nat × Word)) :
    (s.writeEntries es).mem = es.foldl (fun m e => Memory.write m (devKey s.node e.1) (wordBytes e.2)) s.mem := by
  rw [State.writeEntries_eq]
  induction es generalizing s with
  | nil => rfl
  | cons e es ih =>
    have node : (s.writeEntry e).node = s.node := (congrArg State.node (s.writeEntry_accessOnly e) :)
    rw [List.foldl_cons, List.foldl_cons, ih, node, State.writeEntry_mem]

/-- Entries that are written change no context. -/
theorem State.answered_keeps (s : State) (es : List (Nat × Word)) : (s.writeEntries es).stillUnmapped.cx = s.cx ∧
    (s.writeEntries es).stillUnmapped.poison = s.poison ∧ ∀ c, (s.writeEntries es).stillUnmapped.coreFree c = s.coreFree c := by
  have only := s.writeEntries_accessOnly es
  refine ⟨only.cx, only.poison, fun c => ?_⟩
  unfold State.AccessOnly at only
  rw [only]
  rfl

/-- A context whose last line has a mapping goes on, as its core allows. -/
def Ctx.goesOn (c : Ctx) (free : Bool) : Ctx := { c with faultRec := [], life := if free then .running else .inactive }

/-- The trap of a line without a mapping (13 R288). -/
def FaultLine.trap (l : FaultLine) : Trap := { cause := l.cause, queue := l.queue, iaddr := l.iaddr, va := l.vaddr }

section
variable (s : State) {c : Ctx} (faulted : c.life = .faulted)
include faulted

/-- A context without a line to answer is trapped, or goes on as its core allows (13 R288). -/
theorem State.ready_answered (empty : c.faultRec = []) :
    s.ready c = { c with life := if c.trap.isSome then .trapped else if s.coreFree c then .running else .inactive } := by
  have settled : (!c.faultRec.isEmpty || c.life != .faulted) = false := by rw [empty, faulted]; rfl
  simp only [State.ready, settled, Bool.false_eq_true, if_false, State.coreFree]
  split
  · rfl
  · split <;> simp [*]

variable {l : FaultLine} (line : c.faultRec = [l]) (untrapped : c.trap = none)
include line untrapped

theorem State.answerLine_mapped : s.answerLine c true = c.goesOn (s.coreFree c) := by
  have answer : s.answerLine c true = s.ready { c with faultRec := [] } := by
    simp only [State.answerLine, line, Bool.true_or, if_true]
  rw [answer, State.ready_answered s (c := { c with faultRec := [] }) faulted rfl]
  simp only [untrapped, Ctx.goesOn]
  rfl

theorem State.answerLine_unmapped :
    s.answerLine c false = { c with faultRec := [], life := .trapped, trap := some (l.trap.record c.pc) } := by
  have answer : s.answerLine c false = s.ready { c with faultRec := [], trap := some (l.trap.record c.pc) } := by
    simp only [State.answerLine, line, untrapped]
    rfl
  rw [answer]
  exact State.ready_answered s (c := { c with faultRec := [], trap := some (l.trap.record c.pc) }) faulted rfl

end

section
variable {s : State} {l : FaultLine} (faulted : s.cx.life = .faulted) (line : s.cx.faultRec = [l]) (untrapped : s.cx.trap = none)
include faulted line untrapped

theorem pageFaultAnswer_mapped (es : List (Nat × Word)) : ∃ t, exec (.pageFaultAnswer s.cx.ref (.mapped es)) s = .next t ∧
    t.cx = s.cx.goesOn (s.coreFree s.cx) ∧ t.poison = s.poison ∧
      t.mem = es.foldl (fun m e => Memory.write m (devKey s.node e.1) (wordBytes e.2)) s.mem := by
  obtain ⟨same, poison, free⟩ := s.answered_keeps es
  refine ⟨_, rfl, ?_, poison, s.writeEntries_mem es⟩
  rw [State.modCtx_own (by rw [same]; exact Ctx.is_ref (by simp [faulted]) rfl rfl), same, State.answerLine_mapped _ faulted line untrapped, free]

theorem pageFaultAnswer_unanswerable : ∃ t, exec (.pageFaultAnswer s.cx.ref .unanswerable) s = .next t ∧
    t.cx = { s.cx with faultRec := [], life := .trapped, trap := some (l.trap.record s.cx.pc) } ∧ t.mem = s.mem := by
  refine ⟨_, rfl, ?_, rfl⟩
  rw [State.modCtx_own (Ctx.is_ref (by simp [faulted]) rfl rfl), State.answerLine_unmapped s faulted line untrapped]

end

/-! ## TRAP_DECISION (26 R477 to R479, R482) -/

section
variable {s : State} {r : TrapRec}

theorem trapDecision_ref (trapped : s.cx.life = .trapped) (record : s.cx.trap = some r) :
    exec (.trapDecision s.cx.ref) s = .next (s.decideTrap s.cx r) := by
  show execTrapDecision s.cx.ref s = _
  simp only [execTrapDecision, State.findCtx_ref (s := s) (by simp [trapped]), trapped, record]

variable {c : Ctx}

theorem State.decideTrap_waits (h : ∃ x ∈ s.transfers, x.name = c.cohort) : s.decideTrap c r = s :=
  if_pos (by simpa using h)

theorem State.decideTrap_default (still : ∀ x ∈ s.transfers, x.name ≠ c.cohort) (alone : ∀ h ∈ s.handlers, h.asid ≠ c.asid) :
    s.decideTrap c r = s.decideDefault c r := by
  have moves : (s.transfers.any (·.name == c.cohort)) = false := by simpa using still
  have handler : s.handlers.find? (·.asid == c.asid) = none := by simpa using alone
  simp only [State.decideTrap, moves, handler, Bool.false_eq_true, if_false]

theorem State.decideDefault_terminates (feature : r.cause ≠ 0x03) (mismatch : r.cause ≠ 0x12) :
    s.decideDefault c r = s.terminateCtx c.ref r.cause.toNat := by
  simp only [State.decideDefault, beq_eq_false_iff_ne.mpr feature, beq_eq_false_iff_ne.mpr mismatch, Bool.false_eq_true, if_false]

/-- The first mismatch of an instruction of the control unit, LQ or SQ is noted, and the context resumes (26 R482). -/
theorem State.decideDefault_resumes (mismatch : r.cause = 0x12) (vector : r.queue ≠ 3) (matrix : r.queue ≠ 4) (first : s.retried c r = false) :
    s.decideDefault c r = (s.noteRetry c r none).resumeCtx c := by
  have feature : (r.cause == 0x03) = false := by rw [mismatch]; rfl
  simp only [State.decideDefault, State.decideMismatch, feature, beq_iff_eq.mpr mismatch, beq_eq_false_iff_ne.mpr vector,
    beq_eq_false_iff_ne.mpr matrix, first, Bool.false_eq_true, if_false, if_true]

/-- A context that no stop names runs again, where its core is free (06 R124). -/
theorem State.resumeCtx_runs (goes : s.isStopped c = false) (free : CoreFree s c) : s.resumeCtx c = s.modCtx c.ref Ctx.resume := by
  have idle : (s.ctxs.any fun x => x.sameCore c && x.life == .running && !x.is c.ref) = false := by
    simp only [List.any_eq_false, Bool.and_eq_true, beq_iff_eq, not_and]
    exact fun x hx ⟨same, running⟩ => absurd running (free x hx same)
  simp only [State.resumeCtx, goes, idle, Bool.false_eq_true, if_false]

/-- A decision that terminates the context (06 R121). -/
theorem trapDecision_terminates (trapped : s.cx.life = .trapped) (record : s.cx.trap = some r)
    (decides : s.decideTrap s.cx r = s.decideDefault s.cx r) (feature : r.cause ≠ 0x03) (mismatch : r.cause ≠ 0x12) :
    ∃ t, exec (.trapDecision s.cx.ref) s = .next t ∧ t.cx.life = .exited ∧ t.cx.trap = none := by
  rw [trapDecision_ref trapped record, decides, State.decideDefault_terminates feature mismatch]
  exact ⟨_, rfl, State.terminateCtx_ref (by simp [trapped]) _⟩

/-- A decision that lets the context execute its instruction again (26 R482). -/
theorem trapDecision_resumes (trapped : s.cx.life = .trapped) (record : s.cx.trap = some r)
    (decides : s.decideTrap s.cx r = s.decideDefault s.cx r) (mismatch : r.cause = 0x12) (vector : r.queue ≠ 3) (matrix : r.queue ≠ 4)
    (first : s.retried s.cx r = false) (goes : s.isStopped s.cx = false) (free : CoreFree s s.cx) : ∃ t, exec (.trapDecision s.cx.ref) s = .next t ∧
      t.cx = { s.cx with life := .running, trap := none, pc := r.pc } ∧ t.mem = s.mem := by
  let u := s.noteRetry s.cx r none
  have own : u.cx.is s.cx.ref = true := Ctx.is_ref (c := s.cx) (d := s.cx) (by simp [trapped]) rfl rfl
  have next : s.cx.resume = { s.cx with life := .running, trap := none, pc := r.pc } := by
    simp only [Ctx.resume, record, mismatch]
    rfl
  rw [trapDecision_ref trapped record, decides, State.decideDefault_resumes mismatch vector matrix first, State.resumeCtx_runs (s := u) goes free]
  exact ⟨_, rfl, (State.modCtx_own own Ctx.resume).trans next, rfl⟩

end

/-! ## Ends of activations (02 R37; 16 R341; 17 R361; 12 R270) -/

theorem State.becomeIdle_keeps (s : State) : s.becomeIdle.cx.life = .idle ∧ s.becomeIdle.cx.nq = s.cx.nq := by
  unfold State.becomeIdle
  extract_lets c
  split
  · rw [State.event_cx]
    exact ⟨rfl, rfl⟩
  · exact ⟨rfl, rfl⟩

section
variable {s : State} (running : s.cx.life = .running)
include running

theorem exitTakesEffect_ref {n : BitVec 16} (h : s.cx.exiting = some n) :
    exec (.exitTakesEffect s.cx.ref) s = .next (if s.cx.allQuiet = true ∧ s.cx.after = [] then s.exitEffect n else s) := by
  show Host.Outcome.next (s.takeExit s.cx.ref) = _
  simp only [State.takeExit, State.focus_ref (Ctx.ne_unbound running), h, Ctx.exitReady, Ctx.isRunning, running, beq_self_eq_true, Bool.true_and,
    Option.isSome_some, Bool.and_true, Bool.and_eq_true, List.isEmpty_iff]

/-- TEND's effect: its entry retires, and the context is idle (16 R341). -/
theorem tendTakesEffect_ref {e : Entry} {rest : List Entry} (ready : s.cx.tendReady = true) (head : s.cx.nq.entries = e :: rest) :
    ∃ t, exec (.tendTakesEffect s.cx.ref) s = .next t ∧ t.cx.life = .idle ∧ t.cx.nq.entries = rest := by
  have effect : exec (.tendTakesEffect s.cx.ref) s = .next s.tendEffect := by
    show execTendTakesEffect s.cx.ref s = _
    rw [execTendTakesEffect, State.focus_ref (Ctx.ne_unbound running)]
  let u : State := (s.stoppingEvent 2 1).endTask 0x01
  have retired : s.tendEffect = ({ u with cx := (u.cx.ring e.ringsDone).retire .nq } : State).becomeIdle := by
    simp only [State.tendEffect, head, ready, Ctx.isRunning, running, beq_self_eq_true, Bool.not_true, Bool.or_self, Bool.false_eq_true, if_false]
    rfl
  have queue : ((u.cx.ring e.ringsDone).queue .nq).entries = e :: rest := by
    rw [(u.cx.ring_dataOnly e.ringsDone).queue, State.endTask_cx, State.stoppingEvent_eq]
    exact head
  obtain ⟨life, nq⟩ := State.becomeIdle_keeps { u with cx := (u.cx.ring e.ringsDone).retire .nq }
  refine ⟨_, effect, ?_, ?_⟩
  · rw [retired, life]
  · rw [retired, nq]
    exact congrArg EQueue.entries (Ctx.queue_retire queue)

theorem redPoisonTrap_ref {r : TrapRec} {rest : List TrapRec} (waits : s.cx.after = r :: rest) : exec (.redPoisonTrap s.cx.ref) s =
    .next { s with cx := { s.cx with after := rest, life := .trapped, trap := some { r with pc := s.cx.pc } } } := by
  show execRedPoisonTrap s.cx.ref s = _
  simp only [execRedPoisonTrap, State.focus_ref (Ctx.ne_unbound running), running, beq_self_eq_true, if_true, State.takeAfter, waits]

end

/-! ## BANK_SWITCH (14 R300) -/

theorem bankSwitch_stopped {s : State} {r : CtxRef} {x : Ctx} (found : s.findCtx r = some x) (inactive : x.life = .inactive)
    (stopped : s.isStopped x = true) : exec (.bankSwitch r) s = .next s := by
  show execBankSwitch r s = _
  simp only [execBankSwitch, found, stopped, inactive, beq_self_eq_true, Bool.and_self, if_true]

/-- Where the core holds no context that runs or has stopped, none stands down. -/
theorem State.standDown_none {s : State} {x : Ctx}
    (alone : ∀ y ∈ s.ctxs, y.sameCore x = true → y.life ≠ .running ∧ y.life ≠ .faulted ∧ y.life ≠ .trapped) : s.standDown x = s := by
  have none : (s.ctxs.filter fun y => y.sameCore x && (y.life == .running || y.life == .faulted || y.life == .trapped) && !y.is x.ref) = [] := by
    rw [List.filter_eq_nil_iff]
    intro y hy
    have := alone y hy
    simp_all
  rw [State.standDown, none, List.foldl_nil]

theorem bankSwitch_activates {s : State} {r : CtxRef} {x : Ctx} (found : s.findCtx r = some x) (inactive : x.life = .inactive)
    (goes : s.isStopped x = false)
    (alone : ∀ y ∈ s.ctxs, y.sameCore x = true → y.life ≠ .running ∧ y.life ≠ .faulted ∧ y.life ≠ .trapped) :
    exec (.bankSwitch r) s =
      .next (s.mapCtxs fun y => if y.is r ∧ y.life = .inactive then { y with life := .running, since := y.clk } else y) := by
  have resident : x.resident = true := by simp only [Ctx.resident, inactive]
  show execBankSwitch r s = _
  simp only [execBankSwitch, found, goes, Bool.false_and, Bool.false_eq_true, if_false, State.activate, resident, Bool.not_true,
    State.standDown_none alone, State.modCtx, beq_iff_eq, ite_and]
  rfl

/-! ## Waits of the control unit end (12 R272; 18 R376) -/

section
variable {s s1 : State} {w : Word} (running : s.cx.life = .running) (fetched : s.fetch = .ok (s1, w))
include running fetched

theorem waitvReread_ref {o : M} (h : decode w = some (.waitv o)) : exec (.waitvReread s.cx.ref) s = exec (.waitv o) s1 := by
  show execWaitvReread s.cx.ref s = _
  simp only [execWaitvReread, State.focus_ref (Ctx.ne_unbound running), running, bne_self_eq_false, Bool.false_eq_true, if_false, fetched, h]
  rfl

theorem barrierWaitEnd_ref : (∀ o, decode w = some (.barw o) → exec (.barrierWaitEnd s.cx.ref) s = exec (.barw o) s1) ∧
    ∀ o, decode w = some (.barvw o) → exec (.barrierWaitEnd s.cx.ref) s = exec (.barvw o) s1 := by
  have waits : exec (.barrierWaitEnd s.cx.ref) s = execBarrierWaitEnd s.cx.ref s := rfl
  simp only [waits, execBarrierWaitEnd, State.focus_ref (Ctx.ne_unbound running), running, bne_self_eq_false, Bool.false_eq_true, if_false, fetched]
  constructor <;> intro o h <;> simp only [h] <;> rfl

end

end Sys2Proof.Machine

namespace Sys2Proof.Proofs

open Sys2Proof.Machine Sys2Proof.Safety

/-- Settles O43: each event by what it does at the context that it names. -/
theorem contextEvents : Obligations.ContextEvents := by
  refine ⟨fun s l faulted line untrapped => ⟨fun es => ?_, ?_⟩, fun s r trapped record alone moves => ?_,
    fun s r trapped record alone still => ?_, fun s n running exiting => ?_, fun s e rest running => tendTakesEffect_ref running,
    fun s c x found inactive => ?_, fun s r rest running => redPoisonTrap_ref running, fun s s1 w running fetched => ?_⟩
  · obtain ⟨t, answered, cx, poison, mem⟩ := pageFaultAnswer_mapped faulted line untrapped es
    refine ⟨t, answered, ?_, ?_, poison, mem, fun free => ?_, fun busy => ?_⟩ <;> rw [cx]
    · rfl
    · rfl
    · exact if_pos ((s.coreFree_iff s.cx).mpr free)
    · exact if_neg (mt (s.coreFree_iff s.cx).mp busy)
  · obtain ⟨t, answered, cx, mem⟩ := pageFaultAnswer_unanswerable faulted line untrapped
    exact ⟨t, _, answered, by rw [cx], by rw [cx], rfl, rfl, rfl, rfl, rfl, mem⟩
  · rw [trapDecision_ref trapped record, State.decideTrap_waits moves]
  · have decides := State.decideTrap_default (r := r) still alone
    refine ⟨trapDecision_terminates trapped record decides, fun mismatch vector matrix first goes free => ?_⟩
    obtain ⟨t, decided, cx, mem⟩ := trapDecision_resumes trapped record decides mismatch vector matrix first goes free
    refine ⟨t, decided, ?_, ?_, ?_, mem⟩ <;> rw [cx]
  · have effect := exitTakesEffect_ref running exiting
    refine ⟨fun quiet early => ?_, fun waits => ?_⟩
    · obtain ⟨c, ended⟩ := State.exitEffect_ended running n
      rw [effect, if_pos ⟨quiet, early⟩]
      exact ⟨_, rfl, by simp [ended]⟩
    · have stays : ¬ (s.cx.allQuiet = true ∧ s.cx.after = []) := fun ⟨quiet, early⟩ => waits.elim (by simp [quiet]) (absurd early)
      rw [effect, if_neg stays]
  · exact ⟨bankSwitch_stopped found inactive, bankSwitch_activates found inactive⟩
  · obtain ⟨barw, barvw⟩ := barrierWaitEnd_ref running fetched
    exact ⟨fun o h => ⟨_, waitvReread_ref running fetched h, rfl⟩, fun o h => ⟨_, barw o h, rfl⟩, fun o h => ⟨_, barvw o h, rfl⟩⟩

end Sys2Proof.Proofs
end


section
/-! PROOFS. The instructions that act on contexts: CTXST and CTXLD answer by their descriptor and their cohort, SNAPR reads the image (14 R311 to
R316). -/

namespace Sys2Proof.Machine

open Sys2Proof.Safety

/-! ## The check of a save descriptor (14 R311) -/

section
variable {i : Instr} {s : State} {k : Access} {o : SR} {body : State → List Byte → Done}
  (turn : TurnOf i s fun s => s.withDesc k body o) (h : Executes i s)
include turn h

theorem TurnOf.desc_misaligned (off : (s.cx.sreg o.sa).toNat % 8 ≠ 0) :
    exec i s = .next (s.takeTrap { s.cuTrap 0x24 with va := s.cx.sreg o.sa }) :=
  turn.stop h (by simp [State.withDesc, aligned, off, State.stopTrap])

variable (on : (s.cx.sreg o.sa).toNat % 8 = 0)
include on

theorem TurnOf.desc_fail {f : Fail} (failed : s.access (some 0) (s.cx.sreg o.sa).toNat 520 k true = .fail f) :
    exec i s = .next (s.takeFail 0 s.cx.pc f) :=
  turn.stop h (by simp [State.withDesc, aligned, on, failed, State.stopFail])

variable {s1 : State} {gs : List Seg} (ok : s.access (some 0) (s.cx.sreg o.sa).toNat 520 k true = .ok s1 gs)
include ok

theorem TurnOf.desc_poisoned (poisoned : segsPoisoned s1.poison gs = true) :
    exec i s = .next (s.takeTrap { s.cuTrap 0x25 with va := s.cx.sreg o.sa }) :=
  turn.stop h (by simp [State.withDesc, aligned, on, ok, poisoned, State.stopTrap])

/-- A descriptor that passes its checks: the instruction sets s[sd] in the state that its body leaves. -/
theorem TurnOf.desc_sets (clean : segsPoisoned s1.poison gs = false) {s2 : State} {x : Word}
    (sets : body s1 (readSegs s1.mem gs) = s2.setSd o x) : exec i s = .next (executedTo i s2 (s2.cx.setSreg o.sd x)) :=
  turn.next h (Eq.trans (by simp [State.withDesc, aligned, on, ok, clean]) sets)

end

/-! ## CTXST (14 R313) -/

/-- A bank holds a member of the cohort here (14 R298). -/
def State.HoldsMember (s : State) (n : BitVec 32) : Prop := ∃ m < 64, ∃ c, s.findCtx ⟨n, m⟩ = some c ∧ c.resident = true

/-- Where the name's home is this node, its directory has the cohort resident here (17 R345). -/
def State.HomeAgrees (s : State) (n : BitVec 32) : Prop :=
  nameHome n ≠ s.node ∨ ∃ d, s.lookup n = .current d ∧ d.state = .resident ∧ d.node = s.node

theorem State.savable_iff (s : State) (n : BitVec 32) : s.savable n = true ↔ s.HoldsMember n ∧ s.HomeAgrees n := by
  have members : (!(s.membersOf n).isEmpty) = true ↔ s.HoldsMember n := by
    have held (x : Option Ctx) : x.elim false Ctx.resident = true ↔ ∃ c, x = some c ∧ c.resident = true := by cases x <;> simp
    simp [State.membersOf, State.HoldsMember, held]
  simp only [State.savable, State.HomeAgrees, Bool.and_eq_true, Bool.or_eq_true, bne_iff_ne, members]
  refine and_congr_right' (or_congr_right ?_)
  cases s.lookup n <;> simp

section
variable {s : State} {n : BitVec 32}

theorem State.ctxstStatus_own (own : n = s.cx.cohort) : s.ctxstStatus n = 3 := if_pos (beq_iff_eq.mpr own)

variable (other : n ≠ s.cx.cohort)
include other

theorem State.ctxstStatus_moving (moving : ∃ x ∈ s.transfers, x.name = n) : s.ctxstStatus n = 1 := by
  have moving : s.transfers.any (·.name == n) = true := by simpa using moving
  simp only [State.ctxstStatus, beq_eq_false_iff_ne.mpr other, moving, Bool.false_eq_true, if_false, if_true]

theorem State.ctxstStatus_still (still : ∀ x ∈ s.transfers, x.name ≠ n) : s.ctxstStatus n = if s.savable n then 0 else 2 := by
  have still : s.transfers.any (·.name == n) = false := by simpa using still
  simp only [State.ctxstStatus, beq_eq_false_iff_ne.mpr other, still, Bool.false_eq_true, if_false]

end

/-- CTXST's work once its descriptor is checked: the status, and the save where it is 0. -/
def ctxstBody (o : SR) (s : State) (_ : List Byte) : Done :=
  let n := (s.cx.sreg o.sb).extractLsb' 0 32
  let s2 := if s.ctxstStatus n == 0 then s.beginSave n (some (s.cx.sreg o.sa, s.cx.space)) [] else s
  s2.setSd o (BitVec.ofNat 64 (s.ctxstStatus n))

section
variable {o : SR} {s : State} {bs : List Byte} {c : Ctx} (cx : s.cx = c)

theorem ctxst_turnOf (o : SR) (s : State) : TurnOf (.ctxst o) s fun s => s.withDesc .store (ctxstBody o) o := .guarded rfl rfl

include cx

theorem ctxstBody_requests (accepted : s.ctxstStatus ((c.sreg o.sb).extractLsb' 0 32) = 0) : ctxstBody o s bs =
    ({ s with transfers := s.transfers ++ [requestedSave ((c.sreg o.sb).extractLsb' 0 32) (c.sreg o.sa) c.space] } : State).setSd o 0 := by
  subst cx
  simp only [ctxstBody, accepted]
  rfl

theorem ctxstBody_refuses {st : Nat} (refused : s.ctxstStatus ((c.sreg o.sb).extractLsb' 0 32) = st) (ne : st ≠ 0) :
    ctxstBody o s bs = s.setSd o (BitVec.ofNat 64 st) := by
  subst cx
  simp only [ctxstBody, refused, beq_eq_false_iff_ne.mpr ne, Bool.false_eq_true, if_false]

end

/-! ## CTXLD (14 R314) -/

theorem mem_descImages (bs : List Byte) (m : Nat) (x : Word) : (m, x) ∈ descImages bs ↔ m < 64 ∧ recWord bs (8 + 8 * m) = x ∧ x ≠ 0 := by
  simp only [descImages, List.mem_filterMap, List.mem_range, Option.ite_none_left_eq_some, Option.some.injEq, Prod.mk.injEq, beq_iff_eq]
  constructor
  · rintro ⟨_, lt, named, rfl, rfl⟩
    exact ⟨lt, rfl, named⟩
  · rintro ⟨lt, rfl, named⟩
    exact ⟨m, lt, named, rfl, rfl⟩

section
variable {s : State} {images : List (Nat × Word)} {p : Word}

theorem State.ctxldStatus_invalid (invalid : 24 < p.toNat ∨ images = []) : s.ctxldStatus images p = 4 :=
  if_pos (by simpa using invalid)

theorem State.ctxldStatus_valid (place : p.toNat ≤ 24) (named : images ≠ []) :
    s.ctxldStatus images p = if s.transferring (s.descName images) images then 1 else 0 :=
  if_neg (by simp [place, named])

end

/-- CTXLD's work once its descriptor is checked: the status, and the restore where it is 0. -/
def ctxldBody (o : SR) (s : State) (bs : List Byte) : Done :=
  let images := descImages bs
  let s2 := if s.ctxldStatus images (s.cx.sreg o.sb) == 0 then
      { s with transfers := s.transfers ++ [requestedRestore (s.descName images) (s.cx.sreg o.sa) s.cx.space images (s.cx.sreg o.sb).toNat] }
    else s
  s2.setSd o (BitVec.ofNat 64 (s.ctxldStatus images (s.cx.sreg o.sb)))

/-- The placement of a requested restore is absent where s[sb] is 0 (14 R314). -/
theorem placement_eq (p : Word) : (if p == 0 then none else some (p.toNat - 1)) = if p.toNat = 0 then none else some (p.toNat - 1) :=
  if_congr (by rw [beq_iff_eq, ← BitVec.toNat_inj]; rfl) rfl rfl

section
variable {o : SR} {s : State} {bs : List Byte} {c : Ctx} (cx : s.cx = c)

theorem ctxld_turnOf (o : SR) (s : State) : TurnOf (.ctxld o) s fun s => s.withDesc .load (ctxldBody o) o := by
  refine .guarded rfl ?_
  show execCtxld o s = _
  simp only [execCtxld, State.run, placement_eq]
  rfl

include cx

theorem ctxldBody_queues (accepted : s.ctxldStatus (descImages bs) (c.sreg o.sb) = 0) : ctxldBody o s bs =
    ({ s with transfers := s.transfers ++ [requestedRestore (s.descName (descImages bs)) (c.sreg o.sa) c.space (descImages bs)
        (c.sreg o.sb).toNat] } : State).setSd o 0 := by
  subst cx
  simp only [ctxldBody, accepted]
  rfl

theorem ctxldBody_refuses {st : Nat} (refused : s.ctxldStatus (descImages bs) (c.sreg o.sb) = st) (ne : st ≠ 0) :
    ctxldBody o s bs = s.setSd o (BitVec.ofNat 64 st) := by
  subst cx
  simp only [ctxldBody, refused, beq_eq_false_iff_ne.mpr ne, Bool.false_eq_true, if_false]

end

/-! ## Dwords of the image (14 R304, R316) -/

/-- A dword behind the first part of a record. -/
theorem recWord_append_right (l r : List Byte) {off : Nat} (h : l.length ≤ off) : recWord (l ++ r) off = recWord r (off - l.length) := by
  simp only [recWord, recNat, List.drop_append, List.drop_eq_nil_of_le h, List.nil_append]

theorem recWord_leBytes (n : Nat) (r : List Byte) : recWord (leBytes 8 n ++ r) 0 = BitVec.ofNat 64 n := by
  rw [recWord, recNat, List.drop_zero, List.take_left' (leBytes_length 8 n), leNat_leBytes]
  exact BitVec.eq_of_toNat_eq (by simp)

theorem recWord_wordBytes (x : Word) (r : List Byte) : recWord (wordBytes x ++ r) 0 = x := by
  rw [wordBytes, recWord_leBytes, BitVec.ofNat_toNat, BitVec.setWidth_eq]

/-- The dwords of a record that begins with words. -/
theorem recWord_words {α : Type} (f : α → Word) (l : List α) (r : List Byte) {k : Nat} (h : k < l.length) :
    recWord (l.flatMap (fun a => wordBytes (f a)) ++ r) (8 * k) = f l[k] := by
  induction l generalizing k with
  | nil => exact absurd h (Nat.not_lt_zero k)
  | cons a l ih =>
    rw [List.flatMap_cons, List.append_assoc]
    cases k with
    | zero => exact recWord_wordBytes _ _
    | succ k =>
      rw [recWord_append_right _ _ (by rw [wordBytes_length]; omega), wordBytes_length, Nat.mul_succ, Nat.add_sub_cancel]
      exact ih (Nat.lt_of_succ_lt_succ h)

section
variable (c : Ctx) (pc : Word)

theorem Ctx.imageRegs_sreg (k : BitVec 5) : recWord (c.imageRegs pc) (8 * k.toNat) = c.sreg k := by
  have inRange : k.toNat < (List.range 32).length := by rw [List.length_range]; exact k.isLt
  unfold Ctx.imageRegs
  simp only [List.append_assoc]
  rw [recWord_words _ _ _ inRange, List.getElem_range, BitVec.ofNat_toNat, BitVec.setWidth_eq]

/-- The program counter and the state of the image stand behind 392 bytes: the scalar registers, eight CSRs, the predicates, the bells and the
tags. -/
theorem Ctx.imageRegs_stop : ∃ front rest : List Byte, front.length = 392 ∧
    c.imageRegs pc = front ++ (wordBytes pc ++ (leBytes 8 c.life.code ++ rest)) := by
  unfold Ctx.imageRegs
  -- the 17 parts behind the two dwords, and then the dwords themselves, group to the right
  iterate 18 rw [List.append_assoc]
  refine ⟨_, _, ?_, rfl⟩
  simp

theorem Ctx.imageRegs_pc : recWord (c.imageRegs pc) 392 = pc := by
  obtain ⟨front, rest, length, eq⟩ := c.imageRegs_stop pc
  rw [eq, recWord_append_right _ _ length.le, length]
  exact recWord_wordBytes _ _

theorem Ctx.imageRegs_state : recWord (c.imageRegs pc) 400 = BitVec.ofNat 64 c.life.code := by
  obtain ⟨front, rest, length, eq⟩ := c.imageRegs_stop pc
  rw [eq, recWord_append_right _ _ (by omega), length, recWord_append_right _ _ (by simp)]
  exact recWord_leBytes _ _

end

end Sys2Proof.Machine

namespace Sys2Proof.Proofs

open Sys2Proof.Machine Sys2Proof.Safety

/-- Settles O22: CTXST and CTXLD by the check of their descriptor and then by their status, SNAPR by the dwords of the image. -/
theorem contextInstructions : Obligations.ContextInstructions := by
  refine ⟨fun o s h => ?ctxst, fun o s h => ?ctxld, mem_descImages, fun o s h => ?snapr⟩
  case ctxst =>
    intro i a n answers
    have turn := ctxst_turnOf o s
    refine ⟨turn.desc_misaligned h, fun f on => turn.desc_fail h on, fun s1 gs on ok => ⟨turn.desc_poisoned h on ok, fun clean => ?_⟩⟩
    have cx := (State.access_accessOnly ok).cx
    have refuses {st : Nat} (status : s1.ctxstStatus n = st) (ne : st ≠ 0) : answers s1 st :=
      turn.desc_sets h on ok clean (ctxstBody_refuses cx status ne)
    refine ⟨fun own => refuses (State.ctxstStatus_own (by rwa [cx])) (by decide), fun other moving => ?_, fun other still => ?_⟩
    · exact refuses (State.ctxstStatus_moving (by rwa [cx]) moving) (by decide)
    have status : s1.ctxstStatus n = if s1.savable n then 0 else 2 := State.ctxstStatus_still (by rwa [cx]) still
    have absent (not : ¬ (s1.HoldsMember n ∧ s1.HomeAgrees n)) : answers s1 2 :=
      refuses (status.trans (if_neg (mt (s1.savable_iff n).mp not))) (by decide)
    refine ⟨fun none => absent ?_, fun here gone => absent ?_, fun d here current away => absent ?_, fun m c lt found resident home => ?_⟩
    · rintro ⟨⟨m, -, c, found, resident⟩, -⟩
      exact absurd (none m c found) (by simp [resident])
    · rintro ⟨-, abroad | ⟨d, current, -⟩⟩
      · exact abroad here
      · simp [current] at gone
    · rintro ⟨-, abroad | ⟨e, current', state, node⟩⟩
      · exact abroad here
      · cases current.symm.trans current'
        exact away.elim (absurd state) (absurd node)
    · have accepted := status.trans (if_pos ((s1.savable_iff n).mpr ⟨⟨m, lt, c, found, resident⟩, home⟩))
      exact turn.desc_sets h on ok clean (ctxstBody_requests cx accepted)
  case ctxld =>
    intro i a p answers
    have turn := ctxld_turnOf o s
    refine ⟨turn.desc_misaligned h, fun f on => turn.desc_fail h on, fun s1 gs on ok => ⟨turn.desc_poisoned h on ok, fun clean => ?_⟩⟩
    intro images
    have cx := (State.access_accessOnly ok).cx
    have refuses {st : Nat} (status : s1.ctxldStatus images (s.cx.sreg o.sb) = st) (ne : st ≠ 0) : answers s1 st :=
      turn.desc_sets h on ok clean (ctxldBody_refuses cx status ne)
    refine ⟨fun invalid => refuses (State.ctxldStatus_invalid invalid) (by decide), fun place named moving => ?_, fun place named still => ?_⟩
    · exact refuses ((State.ctxldStatus_valid place named).trans (if_pos moving)) (by decide)
    · have accepted := (State.ctxldStatus_valid place named).trans (if_neg (Bool.eq_false_iff.mp still))
      exact turn.desc_sets h on ok clean (ctxldBody_queues cx accepted)
  case snapr =>
    intro n x
    have turn : TurnOf (.snapr o) s fun s => if (s.cx.sreg o.sa).toNat % 8 != 0 || (s.cx.sreg o.sa).toNat < 256 || 16383 < (s.cx.sreg o.sa).toNat
      then s.stopTrap 0x02 else s.setSd o (recWord (s.cx.imageRegs s.cx.pc) ((s.cx.sreg o.sa).toNat - 256)) := .guarded rfl rfl
    have bad : (n % 8 != 0 || decide (n < 256) || decide (16383 < n)) = true ↔ ¬ (n % 8 = 0 ∧ 256 ≤ n ∧ n ≤ 16383) := by
      simp only [Bool.or_eq_true, bne_iff_ne, decide_eq_true_eq]
      omega
    refine ⟨fun inside => turn.set h (if_neg (mt bad.mp (not_not_intro inside))), fun k at_k => ?_, fun at_pc => ?_, fun at_state running => ?_,
      fun outside => turn.stop h (if_pos (bad.mpr outside))⟩
    · simp only [x, at_k, Nat.add_sub_cancel_left, Ctx.imageRegs_sreg]
    · simp only [x, at_pc, Nat.reduceSub, Ctx.imageRegs_pc]
    · simp only [x, at_state, Nat.reduceSub, Ctx.imageRegs_state, running]
      rfl

end Sys2Proof.Proofs
end


section
/-! PROOFS. Arrivals (16 R328, R329, R339; 17 R347, R348, R352, R353; 23 R455): what becomes of a flight by the answer that it gets, what each
kind of arrival does at its member, and the deliveries of a deferred list. -/

namespace Sys2Proof.Machine

open Sys2Proof.Safety

/-! ## A flight that is due -/

theorem State.modFlight_getElem {s : State} {k : Nat} {x : Flight} (found : s.flights[k]? = some x) (f : Flight → Flight) :
    (s.modFlight k f).flights[k]? = some (f x) := by
  simp [State.modFlight, found]

/-- The k-th flight once it waits for a full ring (16 R331). -/
def State.park (s : State) (k : Nat) : State := s.modFlight k fun f => { f with parked := true }

/-- The k-th flight once it is decided. -/
def State.conclude (s : State) (k : Nat) (a : Arrival) (bytes : List Byte) (x : Flight) : Decided → State
  | .away n => s.arriveAway k a bytes x.origin n
  | .here s1 (.settled code cause) => (s1.dropFlight k).outcome a x.origin code cause
  | .here _ .hold => s
  | .here _ .full => s.park k
  | .here _ .busy => s.busyAnswer k a bytes x.origin x.busy

/-- The k-th flight once its sender's port is to try it again (17 R353). -/
def State.retry (s : State) (k : Nat) : State :=
  s.modFlight k fun f => { f with away := false, busy := f.busy + 1, due := s.time + 1024 * clockPeriod s.clock }

section
variable {s : State} {k : Nat} {a : Arrival} {bytes : List Byte} {x : Flight} (due : ArrivalDue s k a bytes x)
include due

theorem State.arrive_due : s.arrive k = s.conclude k a bytes x (s.placeArrival x.origin a bytes) := by
  obtain ⟨_, o, busy, time, _, parked, port⟩ := x
  obtain ⟨found, rfl, rfl, late, first, free, present⟩ := due
  simp only [State.arrive, found, Bool.false_or, decide_eq_false (Nat.not_lt.mpr late), first, present, free, Bool.false_eq_true, if_false]
  split <;> simp only [State.conclude, State.park, *]

theorem exec_arrivalEvents : ∀ f ∈ arrivalEvents k, a.kind = f.1 → exec f.2 s = .next (s.arrive k) := by
  obtain ⟨_, o, busy, time, _, parked, port⟩ := x
  obtain ⟨found, rfl, -⟩ := due
  have isKind (n : Nat) (kind : a.kind = n) : s.isArrival k [n] = true := by simp [State.isArrival, found, kind]
  simp only [arrivalEvents, List.forall_mem_cons]
  exact ⟨fun h => congrArg Host.Outcome.next (if_pos (isKind 1 h)), fun h => congrArg Host.Outcome.next (if_pos (isKind 2 h)),
    fun h => congrArg Host.Outcome.next (if_pos (isKind 3 h)), fun h => congrArg Host.Outcome.next (if_pos (isKind 4 h)), List.forall_mem_nil _⟩

theorem exec_busyRetry (refused : x.busy ≠ 0) : exec (.busyRetry k) s = .next (s.arrive k) := by
  obtain ⟨found, -⟩ := due
  show execBusyRetry k s = _
  simp only [execBusyRetry, found, bne_iff_ne.mpr refused, if_true]

theorem State.park_leaves : (s.park k).mem = s.mem ∧ (s.park k).cx = s.cx ∧ (s.park k).flights[k]? = some { x with parked := true } := by
  obtain ⟨found, -⟩ := due
  exact ⟨rfl, rfl, State.modFlight_getElem found _⟩

theorem State.retry_leaves : (s.retry k).mem = s.mem ∧ (s.retry k).cx = s.cx ∧
    (s.retry k).flights[k]? = some { x with busy := x.busy + 1, due := s.time + 1024 * clockPeriod s.clock } := by
  obtain ⟨found, -, here, -⟩ := due
  refine ⟨rfl, rfl, ?_⟩
  rw [State.retry, State.modFlight_getElem found, ← here]

end

theorem busyCause_eq (kind : Nat) : busyCause kind = if kind = 4 then 0x5B else 0x52 := by simp [busyCause]

section
variable {s : State} {k busy : Nat} {a : Arrival} {bytes : List Byte} {o : Origin} (here : ∀ n tag, o ≠ .node n tag) (sent : o ≠ .deferred)
include here sent

/-- A busy answer to a sender of this node: its port tries again, up to the 4,096th (17 R353). -/
theorem State.busyAnswer_own : s.busyAnswer k a bytes o busy =
    if 4095 ≤ busy then (s.dropFlight k).outcome a o 3 (busyCause a.kind) else s.retry k := by
  cases o with
  | node n tag => exact absurd rfl (here n tag)
  | deferred => exact absurd rfl sent
  | none | ctx | link | copy => rfl

end

/-! ## Arrivals at their member (16 R328, R339; 17 R352; 23 R455) -/

section
variable {s : State} {c : Ctx} {a : Arrival}

theorem State.storeArrival_expected (open_ : c.expecting (BitVec.ofNat 6 a.reg) = true) :
    s.storeArrival c a = (s.modCtx c.ref fun x => x.applyArrival a, .settled 0 0) := if_pos open_

theorem State.storeArrival_early (closed : c.expecting (BitVec.ofNat 6 a.reg) = false)
    (room : s.basinCount c.coord.cluster.toNat c.coord.core.toNat < 16) :
    s.storeArrival c a = ({ s with arrivalSeq := s.arrivalSeq + 1, basins := s.basins ++ [⟨c.coord.cluster.toNat, c.coord.core.toNat,
      { a with seq := s.arrivalSeq % 2 ^ 32, stamp := s.ns }⟩] }, .settled 1 0) := by
  simp only [State.storeArrival, closed, room, Bool.false_eq_true, if_false, if_true, State.stamped]

theorem State.storeArrival_busy (closed : c.expecting (BitVec.ofNat 6 a.reg) = false)
    (full : 16 ≤ s.basinCount c.coord.cluster.toNat c.coord.core.toNat) : s.storeArrival c a = (s, .busy) := by
  simp only [State.storeArrival, closed, Nat.not_lt.mpr full, Bool.false_eq_true, if_false]

variable {bytes : List Byte}

theorem State.messageArrival_outside (outside : c.abext < 64 * recNat bytes 22 2 + bytes.length) :
    s.messageArrival c a bytes = (s, .settled 3 0x5A) := if_pos outside

variable (inside : 64 * recNat bytes 22 2 + bytes.length ≤ c.abext)
include inside

theorem State.messageArrival_busy (full : 32 ≤ c.inbox.length) : s.messageArrival c a bytes = (s, .busy) := by
  simp only [State.messageArrival, Nat.not_lt.mpr inside, full, if_false, if_true]

theorem State.messageArrival_taken (room : c.inbox.length < 32) : (s.messageArrival c a bytes).2 = .settled 0 0 ∧
    (s.messageArrival c a bytes).1.mem = Memory.write s.mem (c.counterKey (64 * recNat bytes 22 2)) bytes := by
  simp only [State.messageArrival, Nat.not_lt.mpr inside, Nat.not_le.mpr room, if_false, State.stamped, State.modCtx_mem, and_self]

end

section
variable {s s1 : State} {c : Ctx} {a : Arrival} {bs : List Byte} (present : s.absent c.space a.record 128 .store = false)
  (read : s.agentRead c.space (a.record + 16) 4 = .ok (s1, bs)) (counter : Machine.counterOk c (recNat bs 0 4) = true) (decrement : a.kind = 3)

/-- A counter of the home member is set (16 R328). -/
def State.setCounter (s : State) (c : Ctx) (off x : Nat) : State := { s with mem := Memory.write s.mem (c.counterKey off) (leBytes 4 x) }

/-- The counter has come to 0: the task is queued, or waits for a full ring (16 R328, R331). -/
def State.reached (s s1 : State) (c : Ctx) (a : Arrival) (off : Nat) : State × Answer :=
  ((s1.setCounter c off 0).queueTask c a.record).elim (s, .full) fun s2 => (s2, .settled 1 0)

theorem State.reached_queued {off : Nat} {s2 : State} (queued : (s1.setCounter c off 0).queueTask c a.record = some s2) :
    s.reached s1 c a off = (s2, .settled 1 0) := by
  rw [State.reached, queued]
  rfl

theorem State.reached_full {off : Nat} (full : (s1.setCounter c off 0).queueTask c a.record = none) : s.reached s1 c a off = (s, .full) := by
  rw [State.reached, full]
  rfl

include present read counter decrement

theorem State.taskArrival_decrement : s.taskArrival c a =
    (let n := leNat (Memory.read s1.mem (c.counterKey (recNat bs 0 4)) 4)
     if n < a.value then (s1, .settled 2 0)
     else if n = a.value then s.reached s1 c a (recNat bs 0 4)
     else (s1.setCounter c (recNat bs 0 4) (n - a.value), .settled 0 0)) := by
  simp only [State.taskArrival, present, read, counter, decrement, Bool.false_eq_true, if_false, Bool.not_true, Nat.reduceBEq, beq_iff_eq,
    State.reached, State.setCounter]
  cases State.queueTask { s1 with mem := Memory.write s1.mem (c.counterKey (recNat bs 0 4)) (leBytes 4 0) } c a.record <;> rfl

end

/-! ## Deliveries of a deferred list (17 R348) -/

theorem exec_deferredDelivery (name : BitVec 32) (s : State) :
    exec (.deferredDelivery name) s = .next ((s.deliverDeferred name).1.endDrain name) := rfl

theorem State.endDrain_delivering {s : State} {name : BitVec 32} (busy : s.delivering name = true) : s.endDrain name = s := if_pos busy

/-- The oldest deferred register store leaves its list. -/
def State.dropOldest (s : State) (name : BitVec 32) (rest : List Arrival) : State :=
  s.modDir name fun d => { d with deferred := rest, defhead := (d.defhead + 1) % max 1 d.defcap }

/-- What leaves a deferred list completes a TASKQ only as its counter setting (16 R339). -/
theorem State.settingDone_other (s : State) {a : Arrival} (other : a.kind ≠ 2) : s.settingDone a = s := by
  unfold State.settingDone
  split
  · next h =>
    have setting := List.find?_some h
    simp [other] at setting
  · rfl

/-- The list once its oldest register store has had an answer at its member: it stays in its list where it did not settle. -/
def State.delivered (s : State) (name : BitVec 32) (rest : List Arrival) : State × Answer → State × Bool
  | (s1, .settled _ _) => (s1.dropOldest name rest, true)
  | (_, .busy) | (_, .hold) | (_, .full) => (s, false)

section
variable {s : State} {name : BitVec 32} {d : DirEntry} (found : s.dirOf name = some d)
include found

theorem State.deliverDeferred_none (h : d.state ≠ .resident ∨ d.draining = false ∨ d.deferred = []) : s.deliverDeferred name = (s, false) := by
  simp only [State.deliverDeferred, found]
  obtain away | still | empty := h
  · simp [away]
  · simp [still]
  · rw [empty]
    exact ite_self _

variable {a : Arrival} {rest : List Arrival} (resident : d.state = .resident) (drains : d.draining = true) (oldest : d.deferred = a :: rest)
  (store : a.kind = 1)
include resident drains oldest store

/-- What the oldest deferred register store meets: a cohort elsewhere, a member that has exited, or its member here. -/
theorem State.deliverDeferred_store : s.deliverDeferred name =
    if d.node ≠ s.node then
      (if s.delivering name then (s, false) else ((s.dropOldest name rest).launchFlight (.arrival a []) .deferred, true))
    else ((s.findCtx ⟨name, a.member⟩).filter Ctx.resident).elim (s.dropOldest name rest, true) fun c =>
      s.delivered name rest (s.storeArrival c a) := by
  have all : afterFirst a rest = rest := by simp [afterFirst, store]
  have none_ : deferredBytes a rest = [] := by simp [deferredBytes, store]
  have done (s : State) := s.settingDone_other (a := a) (by rw [store]; decide)
  have one : rest.length + 1 - rest.length = 1 := by omega
  simp only [State.deliverDeferred, found, resident, drains, oldest, all, none_, done, one, store, State.atMember, bne_iff_ne, ne_eq,
    bne_self_eq_false, Bool.not_true, Bool.or_self, Bool.false_eq_true, if_false, Nat.reduceBEq]
  cases (s.findCtx ⟨name, a.member⟩).filter Ctx.resident with
  | none => rfl
  | some c =>
    simp only [Option.elim_some]
    obtain ⟨s1, answer⟩ := s.storeArrival c a
    cases answer <;> rfl

end

end Sys2Proof.Machine

namespace Sys2Proof.Proofs

open Sys2Proof.Machine Sys2Proof.Safety

/-- Settles O47: a due flight by the answer that it gets, each kind of arrival by what its member holds, and a delivery by where the cohort is and
what its member answers. -/
theorem arrivalEvents : Obligations.ArrivalEvents := by
  refine ⟨fun s k a bytes x due f hf kind => ?flight, fun s c a => ?store, fun s c a bytes => ?message,
    fun s s1 c a bs present read counter decrement => ?task, fun s name d => ?deferred⟩
  case flight =>
    have runs := exec_arrivalEvents due f hf kind
    have concludes {ans : Decided} (h : s.placeArrival x.origin a bytes = ans) : exec f.2 s = .next (s.conclude k a bytes x ans) := by
      rw [runs, State.arrive_due due, h]
    refine ⟨fun s1 code cause h => concludes h, fun n h => concludes h, fun s1 h => concludes h,
      fun s1 h => ⟨_, concludes h, State.park_leaves due⟩, fun s1 h => ?_, fun refused => ⟨_, exec_busyRetry due refused, runs⟩⟩
    have busy : exec f.2 s = .next (s.busyAnswer k a bytes x.origin x.busy) := concludes h
    refine ⟨fun n tag sender => ?_, fun list => ⟨s.retry k, ?_, State.retry_leaves due⟩,
      fun here sent => ⟨fun few => ⟨s.retry k, ?_, State.retry_leaves due⟩, fun last => ?_⟩⟩
    · rw [busy, sender]
      rfl
    · rw [busy, list]
      rfl
    · rw [busy, State.busyAnswer_own here sent, if_neg (by omega)]
    · rw [busy, State.busyAnswer_own here sent, if_pos last, busyCause_eq]
  case store =>
    refine ⟨State.storeArrival_expected, fun closed room => ?_, State.storeArrival_busy⟩
    rw [State.storeArrival_early closed room]
    exact ⟨rfl, rfl⟩
  case message => exact ⟨State.messageArrival_outside, State.messageArrival_busy, State.messageArrival_taken⟩
  case task =>
    intro key n
    have decided := State.taskArrival_decrement present read counter decrement
    have zero (reached : n = a.value) : s.taskArrival c a = s.reached s1 c a (recNat bs 0 4) :=
      decided.trans ((if_neg (Nat.not_lt.mpr reached.ge)).trans (if_pos reached))
    refine ⟨fun under => ?_, fun more => ?_, fun reached s2 queued => ?_, fun reached full => ?_⟩
    · rw [decided]
      exact if_pos under
    · rw [decided]
      exact (if_neg (Nat.lt_asymm more)).trans (if_neg (Nat.ne_of_gt more))
    · exact (zero reached).trans (State.reached_queued queued)
    · exact (zero reached).trans (State.reached_full full)
  case deferred =>
    refine ⟨State.endDrain_delivering, fun more => if_neg (Bool.eq_false_iff.mp more), fun found => ⟨fun h => ?_, ?_⟩⟩
    · rw [exec_deferredDelivery, State.deliverDeferred_none found h]
    intro a rest resident drains oldest store drop
    have runs := exec_deferredDelivery name s
    rw [State.deliverDeferred_store found resident drains oldest store] at runs
    refine ⟨fun away busy => ?_, fun away free => ?_, fun here gone => ?_,
      fun c here member lives => ⟨fun s1 refused => ?_, fun s1 x y settled => ?_⟩⟩
    · rw [runs, if_pos away, if_pos busy, State.endDrain_delivering busy]
    · rw [runs, if_pos away, if_neg (Bool.eq_false_iff.mp free)]
      rfl
    · have none_ : (s.findCtx ⟨name, a.member⟩).filter Ctx.resident = none :=
        Option.filter_eq_none_iff.mpr fun c found => by simp [gone c found]
      rw [runs, if_neg (not_not_intro here), none_]
      rfl
    · rw [runs, if_neg (not_not_intro here), member, Option.filter_some_pos lives, Option.elim_some, refused]
      rfl
    · rw [runs, if_neg (not_not_intro here), member, Option.filter_some_pos lives, Option.elim_some, settled]
      rfl

end Sys2Proof.Proofs
end


section
/-! PROOFS. Tasks, steals, remote accesses, block reductions and copies (16 R330 to R333; 12 R252; 23 R454, R462, R463): what each event does
where its case holds. -/

namespace Sys2Proof.Machine

open Sys2Proof.Safety

/-! ## Writes at their home (12 R250) -/

theorem State.recallSegs_fabricOnly (s : State) (gs : List Seg) : s.FabricOnly (s.recallSegs gs) :=
  .foldl (f := State.noteRecall) (fun s k => s.noteRecall_fabricOnly k) _ _

theorem State.FabricOnly.flights {s t : State} (h : s.FabricOnly t) : t.flights = s.flights := (congrArg State.flights h :)

theorem writeSegs_single (m : List Host.Cell) (k n : Nat) (bs : List Byte) (h : bs.length = n) : writeSegs m [(k, n)] bs = Memory.write m k bs := by
  simp only [writeSegs, List.take_of_length_le h.le]

theorem State.homeWrite_mem (s : State) (gs : List Seg) (bs : List Byte) (whole : Bool) : (s.homeWrite gs bs whole).mem = writeSegs s.mem gs bs :=
  congrArg (writeSegs · gs bs) (s.recallSegs_mem gs)

theorem State.homeWrite_flights (s : State) (gs : List Seg) (bs : List Byte) (whole : Bool) : (s.homeWrite gs bs whole).flights = s.flights :=
  (s.recallSegs_fabricOnly gs).flights

/-! ## Device agents and run lists (12 R509; 16 R331) -/

theorem State.agentAccess_accessOnly {s s1 : State} {sp : Space} {a : Word} {len : Nat} {k : Access} {cache : Option Nat} {gs : List Seg}
    (h : s.agentAccess sp a len k cache = .ok s1 gs) : s.AccessOnly s1 := by
  unfold State.agentAccess at h
  extract_lets l at h
  split at h
  · exact State.translateRange_accessOnly h
  · iterate 3 (split at h; cases h)
    exact State.translateRange_accessOnly h

theorem State.agentRead_accessOnly {s : State} {sp : Space} {a : Word} {len : Nat} {x : State × List Byte} (h : s.agentRead sp a len = .ok x) :
    s.AccessOnly x.1 := by
  unfold State.agentRead at h
  split at h
  · cases h
  · next ok =>
    split at h <;> cases h
    exact State.agentAccess_accessOnly ok

theorem State.agentPut_accessOnly (s : State) (sp : Space) (a x : Word) : s.AccessOnly (s.agentPut sp a x) := by
  unfold State.agentPut State.agentWrite
  split
  · rfl
  · next h =>
    split at h <;> cases h
    next ok => exact (State.agentAccess_accessOnly ok).trans (State.homeWrite_accessOnly _ _ _)

theorem State.AccessOnly.triggers {s t : State} (h : s.AccessOnly t) : t.triggers = s.triggers := (congrArg State.triggers h :)

theorem State.AccessOnly.node {s t : State} (h : s.AccessOnly t) : t.node = s.node := (congrArg State.node h :)

@[simp] theorem State.bumpRun_cx (s : State) (c : Ctx) (off : Nat) : (s.bumpRun c off).cx = s.cx := by
  unfold State.bumpRun
  split
  · rfl
  · next read => rw [State.putRun, State.agentPut_cx, State.agentRead_cx read]

/-- A refill where there is room and an entry (16 R331). -/
theorem State.refillStep_moves {s s1 : State} {r : CtxRef} {c : Ctx} {b : RunBlock} {bs : List Byte} (found : s.findCtx r = some c)
    (block : s.runBlockOf c = some b) (room : c.runList.length < 64) (holds : b.count ≠ 0)
    (read : s.agentRead c.space (b.slot b.head) 8 = .ok (s1, bs)) : s.refillStep r =
      some ((s1.modCtx r fun c => { c with runList := c.runList ++ [recWord bs 0] }).putRun c 16 ((b.head + 1) % 2 ^ 64)) := by
  simp only [State.refillStep, found, Nat.not_le.mpr room, if_false, block, beq_eq_false_iff_ne.mpr holds, Bool.false_eq_true, read]

theorem State.refillStep_none {s : State} {r : CtxRef} {c : Ctx} {b : RunBlock} (found : s.findCtx r = some c)
    (block : s.runBlockOf c = some b) (h : 64 ≤ c.runList.length ∨ b.count = 0) : s.refillStep r = none := by
  simp only [State.refillStep, found, block]
  split
  · rfl
  · next room => rw [if_pos (beq_iff_eq.mpr (h.resolve_left room))]

theorem State.refillStep_triggers {s s1 : State} {r : CtxRef} (h : s.refillStep r = some s1) : s1.triggers = s.triggers := by
  unfold State.refillStep at h
  split at h
  · cases h
  split at h
  · cases h
  split at h
  · cases h
  split at h
  · cases h
  split at h
  · cases h
  · next read =>
    cases h
    exact (State.agentPut_accessOnly _ _ _ _).triggers.trans (State.agentRead_accessOnly read).triggers

theorem State.refill_triggers (s : State) (r : CtxRef) (n : Nat) : (s.refill r n).triggers = s.triggers := by
  induction n generalizing s with
  | zero => rfl
  | succ n ih =>
    unfold State.refill
    split
    · rfl
    · next step => rw [ih, State.refillStep_triggers step]

/-! ## The next activation (16 R332; 23 R455) -/

/-- Without a breakpoint no activation is stopped as it starts (27 R491). -/
theorem State.breaks_noBreaks {s : State} (h : NoBreaks s) (c : Ctx) : s.breaks c = false := by
  simp only [State.breaks, State.breaksAt, List.any_eq_false, Bool.and_eq_true, not_and]
  intro t ht brkpt
  simp [h t ht] at brkpt

theorem State.startActivation_noBreaks {s : State} (h : NoBreaks s) (cause : ActCause) (entry : Word) :
    (s.startActivation cause entry).2 = true ∧ (s.startActivation cause entry).1.cx =
      { s.cx with life := .running, since := s.cx.clk, pc := entry, wdog := 0, cause := cause, entry := entry, started := s.ns,
                  actno := s.cx.actno + 1 } := by
  simp only [State.startActivation, State.breaks_noBreaks h, Bool.false_eq_true, if_false, State.event_cx, true_and]
  rfl

section
variable {s : State}

theorem exec_taskDequeue_ref (bound : s.cx.life ≠ .unbound) : exec (.taskDequeue s.cx.ref) s = .next s.chooseNext := by
  show execTaskDequeue s.cx.ref s = _
  rw [execTaskDequeue, State.focus_ref bound]

theorem exec_stealAttempt_ref (bound : s.cx.life ≠ .unbound) : exec (.stealAttempt s.cx.ref) s = .next s.steal := by
  show execStealAttempt s.cx.ref s = _
  rw [execStealAttempt, State.focus_ref bound]

theorem State.chooseNext_barred (barred : s.mayStart = false) : s.chooseNext = s := by simp [State.chooseNext, barred]

variable (may : s.mayStart = true)
include may

/-- A message of the inbox has its turn: it begins at its handler (23 R455). -/
theorem State.chooseNext_message {m : InboxMsg} {rest : List InboxMsg} (inbox : s.cx.inbox = m :: rest) (turn : s.cx.listTurn = false)
    (free : NoBreaks s) : s.chooseNext.cx.life = .running ∧ s.chooseNext.cx.pc = m.arr.record ∧ s.chooseNext.cx.inbox = rest ∧
      s.chooseNext.cx.actno = s.cx.actno + 1 := by
  have lists : s.cx.RunListOnly (s.refill s.cx.ref 64).cx := s.refill_runListOnly _ _
  have inbox1 : (s.refill s.cx.ref 64).cx.inbox = m :: rest := (congrArg Ctx.inbox lists :).trans inbox
  have turn1 : (s.refill s.cx.ref 64).cx.listTurn = false := (congrArg Ctx.listTurn lists :).trans turn
  have actno1 : (s.refill s.cx.ref 64).cx.actno = s.cx.actno := (congrArg Ctx.actno lists :)
  have free1 : NoBreaks (s.refill s.cx.ref 64) := by rwa [NoBreaks, State.refill_triggers]
  obtain ⟨ok, cx⟩ := State.startActivation_noBreaks free1 (.message (recWord m.bytes 24)) m.arr.record
  simp only [State.chooseNext, may, Bool.not_true, Bool.false_eq_true, if_false, inbox1, turn1, Bool.not_false, List.isEmpty_cons, Bool.true_or,
    Bool.and_self, if_true, State.startMessage, ok, cx, actno1, and_self]

/-- An empty inbox leaves the turn to the run list (16 R332). -/
theorem State.chooseNext_task {rec : Word} {rest : List Word} {s1 : State} (inbox : s.cx.inbox = [])
    (list : (s.refill s.cx.ref 64).cx.runList = rec :: rest) (taken : (s.refill s.cx.ref 64).dequeue rec = .taken s1) :
    s.chooseNext = State.refill { s1 with cx := { s1.cx with runList := s1.cx.runList.tail, listTurn := false } } s1.cx.ref 64 := by
  have lists : s.cx.RunListOnly (s.refill s.cx.ref 64).cx := s.refill_runListOnly _ _
  have inbox1 : (s.refill s.cx.ref 64).cx.inbox = [] := (congrArg Ctx.inbox lists :).trans inbox
  simp only [State.chooseNext, may, Bool.not_true, Bool.false_eq_true, if_false, inbox1, List.isEmpty_nil, Bool.false_and, State.startTask,
    list, taken]

end

/-! ## Steals (16 R333) -/

theorem State.stealFailed_cx (s : State) :
    s.stealFailed.cx = { s.cx with stealFails := s.cx.stealFails + 1, stealPrev := !s.cx.stealPrev } := by
  rw [State.stealFailed, State.bumpRun_cx]

/-- The neighbour from which the next attempt of a context steals. -/
def Ctx.victim (c : Ctx) : CtxRef :=
  ⟨c.cohort, if c.stealPrev then (c.coord.member.toNat + c.nmem - 1) % c.nmem else (c.coord.member.toNat + 1) % c.nmem⟩

/-- A steal has succeeded: the entry leaves the victim's list, and where the thief stays idle its next attempt goes to the other neighbour. -/
def State.stolen (s : State) (thief : Ctx) : State :=
  let u := ((s.modCtx thief.victim fun v => { v with runList := v.runList.tail }).refill thief.victim 64).bumpRun thief 40
  if u.cx.life = .idle then { u with cx := { u.cx with stealPrev := !thief.stealPrev } } else u

section
variable {s : State}

theorem State.steal_busy (h : s.cx.nmem ≤ 1 ∨ s.cx.inbox ≠ [] ∨ s.cx.runList ≠ []) : s.steal = s := by
  unfold State.steal
  extract_lets c
  refine if_pos ?_
  simp only [Bool.or_eq_true, decide_eq_true_eq, Bool.not_eq_true', List.isEmpty_eq_false_iff]
  tauto

variable (idle : s.cx.life = .idle) (inbox : s.cx.inbox = []) (list : s.cx.runList = []) (members : 1 < s.cx.nmem)
include idle inbox list members

theorem State.steal_barred (barred : s.mayStart = false) : s.steal = s.stealFailed := by
  simp [State.steal, idle, inbox, list, Nat.not_le.mpr members, barred]

variable (may : s.mayStart = true)
include may

theorem State.steal_alone (gone : (s.refill s.cx.victim 64).findCtx s.cx.victim = none) : s.steal = (s.refill s.cx.victim 64).stealFailed := by
  unfold Ctx.victim at *
  simp [State.steal, idle, inbox, list, Nat.not_le.mpr members, may, gone]

/-- The victim's first task may be stolen, or its record cannot be read and is dequeued as such (16 R333, R508). -/
theorem State.steal_takes {v : Ctx} {rec : Word} {rest : List Word} {s1 s2 : State}
    (found : (s.refill s.cx.victim 64).findCtx s.cx.victim = some v) (resident : v.resident = true)
    (runs : (s.refill s.cx.victim 64).isStopped v = false) (has : v.runList = rec :: rest)
    (head : (∃ bs, (s.refill s.cx.victim 64).agentRead s.cx.space (rec + 13) 1 = .ok (s1, bs) ∧ (bs.headD 0).getLsbD 0 = false) ∨
      (∃ c, (s.refill s.cx.victim 64).agentRead s.cx.space (rec + 13) 1 = .error c) ∧ s1 = s.refill s.cx.victim 64)
    (taken : s1.dequeue rec = .taken s2) : s.steal = s2.stolen s.cx := by
  have mayNot : (s.cx.life != .idle || !s.cx.inbox.isEmpty || !s.cx.runList.isEmpty || decide (s.cx.nmem ≤ 1)) = false := by
    simp [idle, inbox, list, Nat.not_le.mpr members]
  unfold Ctx.victim at found runs head
  simp only [State.steal, mayNot, Bool.false_eq_true, if_false, may, Bool.not_true, found, resident, runs, Bool.or_self, has]
  obtain ⟨bs, read, free⟩ | ⟨⟨cause, read⟩, rfl⟩ := head
  · simp only [read, bit, free, Bool.false_eq_true, if_false, taken, beq_iff_eq]
    rfl
  · simp only [read, taken, beq_iff_eq]
    rfl

end

/-! ## Remote accesses (12 R252; 23 R454) -/

section
variable {s : State} {k pa busy due port : Nat} {away parked : Bool}

/-- A load leaves memory and poison, whatever its check finds. -/
theorem State.performRemote_load {n : Nat} (found : s.flights[k]? = some ⟨.load pa n, .none, busy, due, away, parked, port⟩) :
    (s.performRemote k).mem = s.mem ∧ (s.performRemote k).poison = s.poison ∧ (s.performRemote k).flights = s.flights.eraseIdx k := by
  unfold State.performRemote
  extract_lets answer
  -- a request without a sender gets no response
  have silent (u : State) (n : Nat) (w : Word) (bs : List Byte) : answer u .none n w bs = u := rfl
  clear_value answer
  simp only [found, silent]
  split
  · exact ⟨rfl, rfl, rfl⟩
  split
  · next a _ =>
    rw [State.sliceCheck_eq]
    exact ⟨rfl, rfl, rfl⟩
  · have recalled := (s.dropFlight k).recallSegs_fabricOnly [(devKey s.node pa, n)]
    exact ⟨recalled.mem, recalled.poison, recalled.flights⟩

theorem State.performRemote_store {bs : List Byte} (found : s.flights[k]? = some ⟨.store pa bs, .none, busy, due, away, parked, port⟩) :
    (s.performRemote k).mem = Memory.write s.mem (devKey s.node pa) bs ∧ (s.performRemote k).flights = s.flights.eraseIdx k := by
  simp only [State.performRemote, found]
  refine ⟨?_, State.homeWrite_flights ..⟩
  rw [State.homeWrite_mem, writeSegs_single _ _ _ _ rfl]
  rfl

section
variable {op : BitVec 4} {double : Bool} {x y : Word}
  (found : s.flights[k]? = some ⟨.atomic pa op double x y, .none, busy, due, away, parked, port⟩)
include found

theorem State.performRemote_atomic_poisoned (h : segsPoisoned s.poison [(devKey s.node pa, (if double then 64 else 32) / 8)] = true) :
    (s.performRemote k).mem = s.mem := by
  unfold State.performRemote
  extract_lets answer
  -- a request without a sender gets no response
  have silent (u : State) (n : Nat) (w : Word) (bs : List Byte) : answer u .none n w bs = u := rfl
  clear_value answer
  simp only [found, silent, h, if_true, State.poisonRecord_mem]
  rfl

variable (clean : segsPoisoned s.poison [(devKey s.node pa, (if double then 64 else 32) / 8)] = false)
include clean

theorem State.performRemote_atomic_unchecked (h : s.sliceFault 0 [(devKey s.node pa, (if double then 64 else 32) / 8)] ≠ none) :
    (s.performRemote k).mem = s.mem := by
  obtain ⟨⟨n, a⟩, h⟩ := Option.ne_none_iff_exists'.mp h
  simp only [State.performRemote, found, clean, h, Bool.false_eq_true, if_false, State.sliceCheck_mem, State.dropFlight_mem]

theorem State.performRemote_atomic (h : s.sliceFault 0 [(devKey s.node pa, (if double then 64 else 32) / 8)] = none) :
    let w := if double then 64 else 32
    let old := leNat (Memory.read s.mem (devKey s.node pa) (w / 8))
    (s.performRemote k).mem = Memory.write s.mem (devKey s.node pa) (leBytes (w / 8)
      (if op = 0xF then (if old = x.toNat % 2 ^ w then y.toNat % 2 ^ w else old) else atomicOp op w old (x.toNat % 2 ^ w))) := by
  intro w old
  simp only [State.performRemote, found, clean, h, Bool.false_eq_true, if_false, State.noteIf_mem, State.homeWrite_mem, State.dropFlight_mem,
    beq_iff_eq]
  exact writeSegs_single _ _ _ _ (leBytes_length _ _)

end

end

/-! ## Block reductions (23 R462; 01 R24) -/

theorem exec_blockReduction (quay : Nat) (s : State) : exec (.blockReduction quay) s = .next (s.blockStep quay) := rfl

theorem State.quayFor_serves {s : State} {p k q : Nat} (h : s.quayFor p k = some q) : s.quayInService q = true := List.find?_some h

/-- Blocks at quay cores in service stay where they are. -/
theorem State.divertBlocks_served {s : State} (h : ∀ x ∈ s.blocks, s.quayInService x.quay = true) : s.divertBlocks = s := by
  have same : s.divertBlocks.blocks = s.blocks := (List.map_congr_left fun b hb => if_pos (h b hb)).trans (List.map_id _)
  exact congrArg (fun l => { s with blocks := l }) same

/-- No block stays at a quay core out of service whose port has another. -/
theorem State.divertBlocks_leave {s : State} {quay q : Nat} (out : s.quayInService quay = false)
    (other : s.quayFor (quay / 4) (quay % 4) = some q) : ∀ x ∈ s.divertBlocks.blocks, x.quay ≠ quay := by
  have served {n : Nat} (h : s.quayInService n = true) : n ≠ quay := fun e => by simp [e, out] at h
  intro x hx
  obtain ⟨b, -, rfl⟩ := List.mem_map.mp hx
  split
  · next h => exact served h
  split
  · next h => exact served (State.quayFor_serves h)
  · next h =>
    split
    · next h =>
      obtain ⟨p, -, h⟩ := Option.bind_eq_some_iff.mp h
      exact served (State.quayFor_serves h)
    · rintro rfl
      simp [other] at h

theorem State.reductionDone_none {s : State} {op : Nat} (h : ∀ r ∈ s.reductions, r.op ≠ op) : s.reductionDone op = s := by
  have none_ : s.reductions.find? (·.op == op) = none := by simpa using h
  simp only [State.reductionDone, none_]

theorem State.blockStep_out {s : State} {quay : Nat} (out : s.quayInService quay = false) : s.blockStep quay = s.divertBlocks := by
  have out : s.divertBlocks.quayInService quay = false := out
  have none_ : s.divertBlocks.blocks.find? (fun b => b.quay == quay && s.divertBlocks.quayInService quay) = none :=
    List.find?_eq_none.mpr fun b _ => by simp [out]
  simp only [State.blockStep, none_]

/-- The oldest block at a quay core is performed, where its reduction has already ended. -/
theorem State.blockStep_updates {s : State} {quay : Nat} {b : BlockJob} (served : ∀ x ∈ s.blocks, s.quayInService x.quay = true)
    (oldest : s.blocks.find? (·.quay == quay) = some b) (ended : ∀ r ∈ s.reductions, r.op ≠ b.op) :
    (s.blockStep quay).mem = updateUnit b.fmt s.mem b.keys b.src ∧ (s.blockStep quay).blocks = s.blocks.erase b ∧
      (s.blockStep quay).cx = s.cx := by
  have here : b.quay = quay := by simpa using List.find?_some oldest
  have serves : s.quayInService quay = true := here ▸ served b (List.mem_of_find?_eq_some oldest)
  have recalled : s.recallSegs (b.keys.map (·, 1)) = _ := s.recallSegs_fabricOnly _
  simp only [State.blockStep, State.divertBlocks_served served, serves, Bool.and_true, oldest]
  rw [State.reductionDone_none, State.noteIf_eq, recalled]
  · exact ⟨rfl, rfl, rfl⟩
  · rw [State.noteIf_eq, recalled]
    exact ended

/-! ## Copies (23 R463) -/

theorem exec_copyComplete (k : Nat) (s : State) : exec (.copyComplete k) s = .next (s.runCopy k) := rfl

/-- A copy once its units have gone as far as they go. -/
def CopyRun.finish (num : Nat) : CopyRun → State
  | .under s1 => s1
  | .ended s1 none => s1.endCopy num 0 0
  | .ended s1 (some f) => s1.endCopy num f.cause f.va

section
variable {s : State} {k engine : Nat} {c : Copy} (found : s.copies[k]? = some c)
  (serves : s.copyEngines[k % max 1 s.copyEngines.length]? = some engine)
include found serves

theorem State.runCopy_broken (broken : c.broken ≠ 0) : s.runCopy k = s.endCopy c.num c.broken 0 := by
  simp only [State.runCopy, found, serves, Option.orElse_some, bne_iff_ne.mpr broken, if_true]

variable (whole : c.broken = 0)
include whole

theorem State.runCopy_waits (h : (s.copies.take k).any c.follows = true ∨ s.reductions.any c.followsReduction = true ∨ s.copyAbsent c = true) :
    s.runCopy k = s := by
  simp only [State.runCopy, found, serves, Option.orElse_some, whole, bne_self_eq_false, Bool.false_eq_true, if_false]
  split
  · rfl
  · next first =>
    have absent : s.copyAbsent c = true := by simp only [Bool.or_eq_true, not_or] at first; tauto
    rw [if_pos absent]

theorem State.runCopy_runs (first : (s.copies.take k).any c.follows = false) (reduced : s.reductions.any c.followsReduction = false)
    (present : s.copyAbsent c = false) (sound : s.injected (1812 + engine) = false) :
    s.runCopy k = (s.copyUnits engine c.num (c.len / 2048 + 2)).finish c.num := by
  simp only [State.runCopy, found, serves, Option.orElse_some, whole, bne_self_eq_false, Bool.false_eq_true, if_false, first, reduced, Bool.or_self,
    present, sound, Bool.and_false]
  split <;> simp only [CopyRun.finish, *]

end

/-! ### A unit of a copy -/

/-- A unit all of whose runs lie in this package or in host memory is written there. -/
theorem State.localUnit_leaves {s : State} {ds : List Seg} (bs : List Byte) (home : ∀ g ∈ ds, s.remote g.1 = false) :
    (s.localUnit ds bs).mem = writeSegs s.mem ds bs ∧ (s.localUnit ds bs).cx = s.cx ∧ (s.localUnit ds bs).node = s.node := by
  induction ds generalizing s bs with
  | nil => exact ⟨rfl, rfl, rfl⟩
  | cons g r ih =>
    obtain ⟨first, rest⟩ := List.forall_mem_cons.mp home
    have node : (s.homeWrite [g] (bs.take g.2) true).node = s.node := (congrArg State.node (s.recallSegs_fabricOnly [g]) :)
    have away (k : Nat) : (s.homeWrite [g] (bs.take g.2) true).remote k = s.remote k := by simp only [State.remote, node]
    obtain ⟨mem, cx, node'⟩ := ih (s := s.homeWrite [g] (bs.take g.2) true) (bs.drop g.2) (by simpa only [away] using rest)
    rw [State.localUnit, first, if_neg Bool.false_ne_true, mem, cx, node', node, State.homeWrite_mem, State.homeWrite_cx]
    exact ⟨by simp only [writeSegs, List.take_take, min_self], rfl, rfl⟩

theorem State.sendUnit_local {s : State} {ds : List Seg} (num : Nat) (bs : List Byte) (home : ∀ g ∈ ds, s.remote g.1 = false) :
    s.sendUnit num ds bs = s := by
  induction ds generalizing bs with
  | nil => rfl
  | cons g r ih =>
    obtain ⟨first, rest⟩ := List.forall_mem_cons.mp home
    rw [State.sendUnit, first, if_neg Bool.false_ne_true, ih _ rest]

/-- A unit that nothing sent stands before moves, where its bytes are to stay here. -/
theorem State.copyUnit_moves {s s1 s2 : State} {engine done n : Nat} {c : Copy} {gs ds : List Seg} (alone : c.ahead = 0)
    (source : s.agentAccess c.space (c.src + BitVec.ofNat 64 done) n .load (some (4 + engine)) = .ok s1 gs)
    (clean : segsPoisoned s1.poison gs = false)
    (dest : s1.agentAccess c.space (c.dst + BitVec.ofNat 64 done) n .store (some (4 + engine)) = .ok s2 ds)
    (home : ∀ g ∈ ds, s.remote g.1 = false) :
    ∃ t, s.copyUnit engine c done n = .moved t ∧ t.mem = writeSegs s2.mem ds (readSegs s1.mem gs) ∧ t.cx = s2.cx := by
  have same (k : Nat) : s2.remote k = s.remote k := by
    simp only [State.remote, (State.agentAccess_accessOnly dest).node, (State.agentAccess_accessOnly source).node]
  have none_ : (ds.filter fun g => s.remote g.1) = [] := List.filter_eq_nil_iff.mpr fun g hg => by simp [home g hg]
  obtain ⟨mem, cx, node⟩ := State.localUnit_leaves (s := s2) (readSegs s1.mem gs) (by simpa only [same] using home)
  have still : ∀ g ∈ ds, (s2.localUnit ds (readSegs s1.mem gs)).remote g.1 = false := by
    simpa only [State.remote, node, same] using fun g hg => (same g.1).trans (home g hg)
  have sent := State.sendUnit_local c.num (readSegs s1.mem gs) still
  refine ⟨(s2.localUnit ds (readSegs s1.mem gs)).copied c.num n 0, ?_, mem, cx⟩
  · simp only [State.copyUnit, alone, source, clean, dest, none_, bne_self_eq_false, Bool.false_and, Bool.and_false, Bool.false_eq_true, if_false,
      List.any_nil, List.all_nil, Bool.not_true, Bool.or_self, sent]
    rfl

end Sys2Proof.Machine

namespace Sys2Proof.Proofs

open Sys2Proof.Machine Sys2Proof.Safety

/-- Settles O48: each event by the case that holds of the context, the flight, the block or the copy that it names. -/
theorem taskAndCopyEvents : Obligations.TaskAndCopyEvents := by
  refine ⟨fun s idle => ?tasks, fun s r c b found block => ?refill, fun s k pa busy due n port away parked found => ?load,
    fun s k pa busy due port away parked bs found => ?store, fun s k pa busy due port away parked double op x y found => ?atomic,
    fun s quay b served oldest ended => ⟨_, exec_blockReduction quay s, State.blockStep_updates served oldest ended⟩,
    fun s quay out => ?out, fun s k engine c found serves => ?copy,
    fun s s1 s2 engine done n c gs ds alone source clean dest home => State.copyUnit_moves alone source clean dest home⟩
  case tasks =>
    have bound : s.cx.life ≠ .unbound := by rw [idle]; decide
    have chooses := exec_taskDequeue_ref bound
    have steals := exec_stealAttempt_ref bound
    refine ⟨fun barred => ?_, fun barred inbox list members => ?_, fun m rest may inbox turn free => ?_, fun rec rest s1 may inbox list taken => ?_,
      fun h => ?_, fun may inbox list members => ⟨fun gone => ?_, fun v rec rest s1 s2 found resident runs has head taken => ?_⟩⟩
    · rw [chooses, State.chooseNext_barred barred]
    · refine ⟨_, steals, ?_⟩
      rw [State.steal_barred idle inbox list members barred, State.stealFailed_cx]
      exact ⟨rfl, idle⟩
    · exact ⟨_, chooses, State.chooseNext_message may inbox turn free⟩
    · rw [chooses, State.chooseNext_task may inbox list taken]
    · rw [steals, State.steal_busy h]
    · refine ⟨_, steals, ?_⟩
      rw [State.steal_alone idle inbox list members may gone, State.stealFailed_cx]
      exact ⟨rfl, rfl⟩
    · rw [steals, State.steal_takes idle inbox list members may found resident runs has head taken]
      rfl
  case refill =>
    refine ⟨fun h => ?_, fun s1 bs room holds read => ?_⟩
    · exact congrArg (fun t : Option State => Host.Outcome.next (t.getD s)) (State.refillStep_none found block h)
    · exact congrArg (fun t : Option State => Host.Outcome.next (t.getD s)) (State.refillStep_moves found block room holds read)
  case load =>
    have kind : s.remoteKind k = 1 := by simp only [State.remoteKind, found]
    exact ⟨_, congrArg Host.Outcome.next (if_pos (beq_iff_eq.mpr kind)), State.performRemote_load found⟩
  case store =>
    have kind : s.remoteKind k = 2 := by simp only [State.remoteKind, found]
    exact ⟨_, congrArg Host.Outcome.next (if_pos (beq_iff_eq.mpr kind)), State.performRemote_store found⟩
  case atomic =>
    have kind : s.remoteKind k = 3 := by simp only [State.remoteKind, found]
    have performs : exec (.remoteAtomic k) s = .next (s.performRemote k) := congrArg Host.Outcome.next (if_pos (beq_iff_eq.mpr kind))
    exact ⟨fun h => ⟨_, performs, State.performRemote_atomic_poisoned found h⟩,
      fun clean h => ⟨_, performs, State.performRemote_atomic_unchecked found clean h⟩,
      fun clean h => ⟨_, performs, State.performRemote_atomic found clean h⟩⟩
  case out =>
    refine ⟨_, exec_blockReduction quay s, ?_⟩
    rw [State.blockStep_out out]
    exact ⟨rfl, rfl, fun q other => State.divertBlocks_leave out other⟩
  case copy =>
    have runs := exec_copyComplete k s
    refine ⟨fun broken => ?_, fun whole h => ?_, fun whole first reduced present sound => ?_⟩
    · rw [runs, State.runCopy_broken found serves broken]
    · rw [runs, State.runCopy_waits found serves whole h]
    · rw [State.runCopy_runs found serves whole first reduced present sound] at runs
      have ends {r : CopyRun} (h : s.copyUnits engine c.num (c.len / 2048 + 2) = r) : exec (.copyComplete k) s = .next (r.finish c.num) := h ▸ runs
      exact ⟨fun s1 h => ends h, fun s1 h => ends h, fun s1 f h => ends h⟩

end Sys2Proof.Proofs
end


section
/-! PROOFS. Barriers (18 R366 to R378): arrivals, drops and phases; the checks of a handle and of the barrier behind it; what each instruction
does where they pass; where a barrier is kept, and the end of a cycle. -/

namespace Sys2Proof.Machine

open Sys2Proof.Safety

/-! ## Arrivals, drops and phases (18 R368, R369) -/

section
variable {b : Barrier} {p : Nat}

theorem Barrier.arrive_counts (more : b.arr + 1 ≠ b.exp) : b.arrive = ({ b with arr := b.arr + 1 }, b.phase) := by
  simp only [Barrier.arrive, beq_eq_false_iff_ne.mpr more, Bool.false_eq_true, if_false]

theorem Barrier.arrive_completes (last : b.arr + 1 = b.exp) :
    b.arrive = ({ b with phase := (b.phase + 1) % 2 ^ 32, arr := 0, exp := b.base }, b.phase) := by
  simp only [Barrier.arrive, beq_iff_eq.mpr last, if_true]

/-- The phase before the current one has completed. -/
theorem Barrier.completed_before (bounded : p < 2 ^ 32) (next : b.phase = (p + 1) % 2 ^ 32) : b.completed p = true := by
  have behind : (b.phase + 2 ^ 32 - p % 2 ^ 32) % 2 ^ 32 = 1 := by rw [next, Nat.mod_eq_of_lt bounded]; omega
  simp only [Barrier.completed, behind]
  decide

/-- The current phase has not completed. -/
theorem Barrier.completed_current (bounded : p < 2 ^ 32) (current : b.phase = p) : b.completed p = false := by
  have level : (b.phase + 2 ^ 32 - p % 2 ^ 32) % 2 ^ 32 = 0 := by rw [current, Nat.mod_eq_of_lt bounded]; omega
  simp only [Barrier.completed, level]
  decide

@[simp] theorem Barrier.settle_nil (b : Barrier) : b.settle [] = b := rfl

/-- No arrivals are carried below EXP. -/
theorem Barrier.carry_rests (below : b.arr < b.exp) (fuel : Nat) : b.carry fuel = b := by
  cases fuel with
  | zero => rfl
  | succ fuel => simp only [Barrier.carry, Nat.not_le.mpr below, decide_false, Bool.false_and, Bool.false_eq_true, if_false]

theorem Barrier.settle_last (last : b.base = 1) (p : Nat) : (b.settle [p]).dissolved = true := by
  have empty : (b.reduce p).base = 0 := by simp [Barrier.reduce, last]
  simp [Barrier.settle, empty]

/-- A drop that leaves parties, and no phase to complete, reduces and no more. -/
theorem Barrier.settle_one (parties : 2 ≤ b.base) (below : b.arr < (b.reduce p).exp) : b.settle [p] = b.reduce p := by
  have remain : (b.reduce p).base ≠ 0 := by simp only [Barrier.reduce]; omega
  have rests := Barrier.carry_rests (b := b.reduce p) below ((b.reduce p).arr + 1)
  simp only [Barrier.settle, List.isEmpty_cons, List.foldl_cons, List.foldl_nil, beq_eq_false_iff_ne.mpr remain, rests, Bool.false_eq_true,
    if_false]

theorem Barrier.reduce_eq (b : Barrier) (p : Nat) :
    b.reduce p = { b with base := b.base - 1, exp := if p = b.phase then b.exp else b.exp - 1 } := by
  by_cases own : p = b.phase <;> simp [Barrier.reduce, own]

/-- A drop whose own phase is the current one leaves EXP. -/
theorem Barrier.reduce_current (own : p = b.phase) : b.reduce p = { b with base := b.base - 1 } := by
  rw [b.reduce_eq, if_pos own]

end

/-! ## A block written and read back (18 R365) -/

/-- The counts of a barrier are NAT32 values of R365, and its phase is a number modulo 2^32. -/
def Barrier.Bounded (b : Barrier) : Prop :=
  b.exp ≤ 1048575 ∧ b.arr ≤ 1048575 ∧ b.base ≤ 1048575 ∧ b.regcount ≤ 1048575 ∧ b.phase < 2 ^ 32

theorem leNat_four {n : Nat} (h : n < 2 ^ 32) : leNat (leBytes 4 n) = n := by
  rw [leNat_leBytes]
  exact Nat.mod_eq_of_lt h

/-- The flags of R365's byte 17. -/
theorem flags_bits (w x y z : Bool) : let f := BitVec.ofNat 8 (w.toNat + 2 * x.toNat + 4 * y.toNat + 8 * z.toNat)
    bit f 0 = w ∧ bit f 1 = x ∧ bit f 2 = y ∧ bit f 3 = z ∧ (field f 4 4 : BitVec 4) = 0 := by
  revert w x y z
  decide

theorem Barrier.ofBytes_bytes {b : Barrier} (h : b.Bounded) : Barrier.ofBytes b.bytes = b := by
  obtain ⟨exp, arr, base, regcount, phase⟩ := h
  obtain ⟨init, unit, bound, dissolved, -⟩ := flags_bits b.init b.wantsUnit b.bound b.dissolved
  have expRead : recNat b.bytes 0 4 = b.exp := leNat_four (by omega)
  have arrRead : recNat b.bytes 4 4 = b.arr := leNat_four (by omega)
  have baseRead : recNat b.bytes 8 4 = b.base := leNat_four (by omega)
  have phaseRead : recNat b.bytes 12 4 = b.phase := leNat_four phase
  have ownerRead : recNat b.bytes 20 4 = b.owner.toNat := leNat_four b.owner.isLt
  have regcountRead : recNat b.bytes 24 4 = b.regcount := leNat_four (by omega)
  have scope : (b.bytes.getD 16 0).setWidth 3 = b.scope := by
    show (b.scope.setWidth 8).setWidth 3 = b.scope
    simp
  have flags : b.bytes.getD 17 0 = BitVec.ofNat 8 (b.init.toNat + 2 * b.wantsUnit.toNat + 4 * b.bound.toNat + 8 * b.dissolved.toNat) := rfl
  simp only [Barrier.ofBytes, expRead, arrRead, baseRead, phaseRead, ownerRead, regcountRead, scope, flags, init, unit, bound, dissolved,
    BitVec.ofNat_toNat, BitVec.setWidth_eq]

/-- The checks of a written block are those of its barrier: its zero fields are zero, and its counts bounded. -/
theorem blockOk_bytes {b : Barrier} (h : b.Bounded) : blockOk b.bytes = ((b.wantsUnit || b.owner == 0) &&
    (b.dissolved || (decide (1 ≤ b.base) && decide (b.arr < b.exp) && decide (b.exp ≤ b.base + b.arr)))) := by
  obtain ⟨-, -, -, -, flags⟩ := flags_bits b.init b.wantsUnit b.bound b.dissolved
  have scope : (field (b.bytes.getD 16 0) 3 5 : BitVec 5) = 0 := by
    show (field (b.scope.setWidth 8) 3 5 : BitVec 5) = 0
    generalize b.scope = x
    revert x
    decide
  have flags : (field (b.bytes.getD 17 0) 4 4 : BitVec 4) = 0 := flags
  have gap : recZero b.bytes 18 2 = true := rfl
  have tail : recZero b.bytes 28 36 = true := rfl
  have read := Barrier.ofBytes_bytes h
  obtain ⟨exp, arr, base, regcount, -⟩ := h
  simp only [blockOk, read, exp, arr, base, regcount, gap, tail, scope, flags, decide_true, beq_self_eq_true, Bool.and_self, Bool.true_and]

/-! ## Where a barrier is kept (18 R366) -/

theorem State.putBlock_mem (s : State) (k : Nat) (b : Barrier) : (s.putBlock k b).mem = Memory.write s.mem k b.bytes :=
  (s.homeWrite_mem _ _ _).trans (writeSegs_single _ _ _ _ rfl)

theorem State.AccessOnly.units {s t : State} (h : s.AccessOnly t) : t.units = s.units := (congrArg State.units h :)

@[simp] theorem State.putBlock_units (s : State) (k : Nat) (b : Barrier) : (s.putBlock k b).units = s.units :=
  (s.homeWrite_accessOnly _ _).units

section
variable {s : State} {k : Nat} {b : Barrier}

theorem State.unitOf_head {u : BarrierUnit} {rest : List BarrierUnit} (units : s.units = u :: rest) (named : u.key = k) : s.unitOf k = some u := by
  simp only [State.unitOf, units, List.find?_cons, beq_iff_eq.mpr named]

theorem State.unitOf_key {u : BarrierUnit} (unit : s.unitOf k = some u) : u.key = k :=
  beq_iff_eq.mp (List.find?_some (p := fun u : BarrierUnit => u.key == k) unit)

/-- No unit holds the barrier of a key whose units have been left out. -/
theorem State.unitOf_without {l : List BarrierUnit} (units : s.units = l.filter (·.key != k)) : s.unitOf k = none := by
  simp [State.unitOf, units]

theorem State.unitOf_congr {t : State} (units : t.units = s.units) : t.unitOf k = s.unitOf k := by
  rw [State.unitOf, units, State.unitOf]

theorem State.barrierAt_congr {t : State} (units : t.units = s.units) (mem : t.mem = s.mem) : t.barrierAt k = s.barrierAt k := by
  rw [State.barrierAt, State.unitOf_congr units, mem, State.barrierAt]

theorem State.barrierAt_unit {u : BarrierUnit} (unit : s.unitOf k = some u) : s.barrierAt k = some u.block := by
  simp only [State.barrierAt, unit]

theorem State.keepBarrier_unit {u : BarrierUnit} (unit : s.unitOf k = some u) (lives : b.dissolved = false) :
    s.keepBarrier k b = { s with units := { u with block := b } :: s.units.filter (·.key != k) } := by
  simp only [State.keepBarrier, unit, lives, Bool.false_eq_true, if_false]

theorem State.keepBarrier_binds {c : Nat} (unheld : s.unitOf k = none) (free : s.unitFor b = some c) : s.keepBarrier k b = s.bindUnit c k b := by
  simp only [State.keepBarrier, unheld, free]

theorem State.keepBarrier_home (unheld : s.unitOf k = none) (none_free : s.unitFor b = none) :
    s.keepBarrier k b = s.putBlock k { b with bound := false } := by
  simp only [State.keepBarrier, unheld, none_free]

theorem State.unitFor_none (home : b.wantsUnit = false) : s.unitFor b = none := by
  unfold State.unitFor
  split
  · rfl
  · simp [home]

/-- A block written at its home holds its barrier. -/
theorem State.barrierAt_putBlock (canonical : Memory.wf s.mem = true) (unheld : s.unitOf k = none) (init : b.init = true) (bounded : b.Bounded)
    (ok : blockOk b.bytes = true) : (s.putBlock k b).barrierAt k = some b := by
  have unheld : (s.putBlock k b).unitOf k = none := by rw [State.unitOf, State.putBlock_units]; exact unheld
  have read : Memory.read (s.putBlock k b).mem k 64 = b.bytes := by rw [State.putBlock_mem]; exact Memory.read_write _ _ _ canonical
  simp only [State.barrierAt, unheld, read, Barrier.ofBytes_bytes bounded, init, ok, Bool.and_self, if_true]

/-- A barrier that no unit holds is kept in the unit that it binds, or at its home; BOUND says which. -/
theorem State.barrierAt_keepBarrier (canonical : Memory.wf s.mem = true) (unheld : s.unitOf k = none) (init : b.init = true) (bounded : b.Bounded)
    (ok : blockOk ({ b with bound := false } : Barrier).bytes = true) :
    (s.keepBarrier k b).barrierAt k = some { b with bound := ((s.keepBarrier k b).unitOf k).isSome } := by
  cases free : s.unitFor b with
  | some c =>
    have unit : (s.bindUnit c k b).unitOf k = some ⟨c, k, { b with bound := true }⟩ := State.unitOf_head rfl rfl
    rw [State.keepBarrier_binds unheld free, State.barrierAt_unit unit, unit]
    rfl
  | none =>
    have still : (s.putBlock k { b with bound := false }).unitOf k = none := (State.unitOf_congr (s.putBlock_units k _)).trans unheld
    rw [State.keepBarrier_home unheld free, still]
    exact State.barrierAt_putBlock canonical unheld init bounded ok

@[simp] theorem State.rebind_cx (s : State) (k : Nat) (b : Barrier) : (s.rebind k b).cx = s.cx := by
  unfold State.rebind
  split
  · exact s.bindUnit_cx _ k b
  · rfl

/-- An operation at a barrier that a unit holds changes the unit alone. -/
theorem State.operate_unit {u : BarrierUnit} {b1 : Barrier} (unit : s.unitOf k = some u) (lives : b1.dissolved = false) (drops : List Nat) :
    (s.operate k b b1 drops).mem = s.mem ∧ (s.operate k b b1 drops).barrierAt k = some b1 := by
  unfold State.operate
  extract_lets before t
  have held : t.unitOf k = some u := unit
  rw [State.keepBarrier_unit held lives]
  have kept : State.unitOf { t with units := { u with block := b1 } :: t.units.filter (·.key != k) } k = some { u with block := b1 } :=
    State.unitOf_head rfl (State.unitOf_key unit : u.key = k)
  exact ⟨rfl, State.barrierAt_unit kept⟩

/-- An operation at a barrier of the home slice writes its block. -/
theorem State.operate_home {b1 : Barrier} (unheld : s.unitOf k = none) (home : b1.wantsUnit = false) (drops : List Nat) :
    (s.operate k b b1 drops).units = s.units ∧
      (s.operate k b b1 drops).mem = Memory.write s.mem k ({ b1 with bound := false } : Barrier).bytes := by
  unfold State.operate
  extract_lets before t
  have unheld : t.unitOf k = none := unheld
  rw [State.keepBarrier_home unheld (State.unitFor_none home)]
  exact ⟨t.putBlock_units _ _, t.putBlock_mem _ _⟩

/-- The end of a cycle that met one barrier takes its drops. -/
theorem State.settleBarriers_one {v : Barrier} {drops : List Nat} (met : s.meetings = [⟨k, v, drops⟩]) (some_drop : drops.isEmpty = false)
    (stands : s.barrierAt k = some b) : s.settleBarriers = { (s.keepBarrier k (b.settle drops)) with meetings := [] } := by
  simp only [State.settleBarriers, met, List.foldl_cons, List.foldl_nil, some_drop, stands]

end

/-! ## The checks of a handle (18 R372) -/

theorem handle_aligned (a : Word) : (field a 0 6 != (0 : BitVec 6)) = false ↔ a.toNat % 64 = 0 := by
  rw [bne_eq_false_iff_eq, ← BitVec.toNat_inj]
  simp [field]

/-- A handle passes steps 1 to 4: s1 is the state once it is translated, and k the key of its block. -/
def State.Reaches (s : State) (a : Word) (s1 : State) (k : Nat) : Prop :=
  a.toNat % 64 = 0 ∧ isHost k = false ∧ ∃ gs, s.access (some 0) a.toNat 64 .rmw true = .ok s1 gs ∧ firstKey gs = k ∧
    ((s1.unitOf k).isSome = true ∨ segsPoisoned s1.poison gs = false)

section
variable {s s1 : State} {a : Word} {k : Nat}

theorem State.Reaches.cx (reach : s.Reaches a s1 k) : s1.cx = s.cx := by
  obtain ⟨-, -, gs, ok, -⟩ := reach
  exact (State.access_accessOnly ok).cx

theorem State.Reaches.withHandle (reach : s.Reaches a s1 k) (body : State → Nat → Option Done) :
    s.withHandle a body = (body s1 k).getD (s.stopTrap 0x60) := by
  obtain ⟨on, home, gs, ok, key, clean⟩ := reach
  have clean : ((s1.unitOf k).isNone && segsPoisoned s1.poison gs) = false := by
    rcases clean with held | clean
    · rw [← Option.not_isSome, held]; rfl
    · rw [clean, Bool.and_false]
  simp only [State.withHandle, (handle_aligned a).mpr on, ok, key, home, clean, Bool.false_eq_true, if_false]

theorem State.withHandle_misaligned (off : a.toNat % 64 ≠ 0) (body : State → Nat → Option Done) :
    s.withHandle a body = s.stopTrap 0x24 a := by
  have off : (field a 0 6 != (0 : BitVec 6)) = true := Bool.of_not_eq_false (mt (handle_aligned a).mp off)
  simp only [State.withHandle, off, if_true]

variable {i : Instr} {r : BitVec 5} {body : State → Nat → Option Done} (turn : TurnOf i s fun s => s.withHandle (s.cx.sreg r) body)
  (h : Executes i s)
include turn h

theorem TurnOf.handle_misaligned (off : (s.cx.sreg r).toNat % 64 ≠ 0) :
    exec i s = .next (s.takeTrap { s.cuTrap 0x24 with va := s.cx.sreg r }) :=
  turn.stop h (State.withHandle_misaligned off body)

variable (reach : s.Reaches (s.cx.sreg r) s1 k)
include reach

theorem TurnOf.handle_next {t : State} {pc : Word} (done : body s1 k = some (.next t pc)) : exec i s = .next (executed i t pc) :=
  turn.next h ((reach.withHandle body).trans (congrArg (Option.getD · _) done))

theorem TurnOf.handle_waits {t : State} (done : body s1 k = some t.barrierWait) :
    exec i s = .next { t with cx := { t.cx with held := some true, outside := .barrier } } :=
  turn.wait h ((reach.withHandle body).trans (congrArg (Option.getD · _) done))

theorem TurnOf.handle_fails (done : body s1 k = none) : exec i s = .next (s.takeTrap (s.cuTrap 0x60)) :=
  turn.stop h ((reach.withHandle body).trans (congrArg (Option.getD · _) done))

end

/-- Step 5 of every instruction but BINIT and BTEST, before its own body. -/
def State.ofMember (body : State → Nat → Barrier → Barrier → Option Done) (s : State) (k : Nat) : Option Done :=
  match s.barrierAt k with
  | none => none
  | some b => if !(s.foundAs k b).init || (b.wantsUnit && b.owner != s.cx.cohort) then none else body s k b (s.foundAs k b)

/-- Step 5 passes: the context may use the barrier b that stands at the key, which the cycle found as v. -/
def State.Sees (s : State) (k : Nat) (b v : Barrier) : Prop :=
  s.barrierAt k = some b ∧ s.foundAs k b = v ∧ v.init = true ∧ (b.wantsUnit = true → b.owner = s.cx.cohort)

/-- The member test of R372's step 5. -/
theorem ownerCheck_passes {b : Barrier} {n : BitVec 32} (member : b.wantsUnit = true → b.owner = n) : (b.wantsUnit && b.owner != n) = false := by
  cases wants : b.wantsUnit with
  | false => rfl
  | true => simp [member wants]

theorem State.Sees.ofMember {s : State} {k : Nat} {b v : Barrier} (sees : s.Sees k b v)
    (body : State → Nat → Barrier → Barrier → Option Done) : s.ofMember body k = body s k b v := by
  obtain ⟨stands, found, init, member⟩ := sees
  simp only [State.ofMember, stands, found, init, ownerCheck_passes member, Bool.not_true, Bool.or_self, Bool.false_eq_true, if_false]

theorem State.foundAs_eq (s : State) (k : Nat) (b : Barrier) :
    s.foundAs k b = ((s.meetings.find? (·.key == k)).map Meeting.found).getD b := by
  unfold State.foundAs
  split <;> simp [*]

/-! ## The instructions, each with the body that runs once its checks pass (18 R373 to R377) -/

/-- The state in which BINIT's barrier has begun at a block. -/
def State.setUpAt (s : State) (k : Nat) (w : Word) : State := s.beginBarrier k (Barrier.setup w s.cx.cohort)

section
variable (o : SR) (s : State) (k : Nat)

/-- BINIT's work at a block. -/
def binitAt : Option Done :=
  if !setupOk (s.cx.sreg o.sb) || s.inUse k then none
  else
    let s1 := s.setUpAt k (s.cx.sreg o.sb)
    some (s1.set (s1.cx.setSreg o.sd (if (s1.unitOf k).isSome then 0 else 1)))

/-- BTEST's work at a block. -/
def btestAt : Option Done :=
  match s.foundFor k with
  | .broken => none
  | .none => some (s.set (s.cx.setSreg o.sd 0))
  | .barrier b0 =>
    let b := s.foundAs k b0
    if !b.init then some (s.set (s.cx.setSreg o.sd 0))
    else if b.wantsUnit && b.owner != s.cx.cohort then none
    else some (s.set (s.cx.setSreg o.sd (b.report (field (s.cx.sreg o.sb) 0 32).toNat)))

variable (b v : Barrier)

/-- BREG's work at a barrier. -/
def bregAt : Option Done :=
  if v.dissolved || s.registered k || s.tooMany k then none
  else
    let s1 := (s.register k).operate k b { b with regcount := b.regcount + 1 } []
    some (.next s1 s1.after)

/-- BARV's work at a barrier. -/
def barvAt : Option Done :=
  if v.dissolved then none
  else
    let s1 := s.operate k b b.arrive.1 []
    some (s1.set (s1.cx.setSreg o.sd (BitVec.ofNat 64 b.arrive.2)))

/-- BARW's work at a barrier. -/
def barwAt : Option Done :=
  if v.completed (field (s.cx.sreg o.sb) 0 32).toNat then some (.next (s.rebind k b) s.after)
  else if v.dissolved then none
  else some (s.rebind k b).barrierWait

/-- BARVW's work at a barrier. -/
def barvwAt : Option Done :=
  let w := s.cx.sreg o.sd
  if bit w 63 then
    if v.dissolved then none
    else
      let s1 := s.operate k b b.arrive.1 []
      some ({ s1 with cx := s1.cx.setSreg o.sd (BitVec.ofNat 64 b.arrive.2) } : State).barrierWait
  else if v.completed (field w 0 32).toNat then some ((s.rebind k b).set (s.cx.setSreg o.sd ((w &&& 0xFFFFFFFF) ||| bitAt true 63)))
  else if v.dissolved then none
  else some (s.rebind k b).barrierWait

/-- BDROP's work at a barrier. -/
def bdropAt : Option Done :=
  if v.dissolved then none
  else
    let b0 := if s.registered k then { b with regcount := b.regcount - 1 } else b
    let s1 := (s.unregister s.cx.cohort s.cx.coord.member.toNat k).operate k b b0.arrive.1 [b0.arrive.2]
    some (s1.set (s1.cx.setSreg o.sd (BitVec.ofNat 64 b0.arrive.2)))

end

section
variable (o : SR) (s : State)

theorem binit_turnOf : TurnOf (.binit o) s fun s => s.withHandle (s.cx.sreg o.sa) (binitAt o) := .guarded rfl rfl
theorem btest_turnOf : TurnOf (.btest o) s fun s => s.withHandle (s.cx.sreg o.sa) (btestAt o) := .guarded rfl rfl
theorem breg_turnOf : TurnOf (.breg o) s fun s => s.withHandle (s.cx.sreg o.sa) (State.ofMember bregAt) := .guarded rfl rfl
theorem barv_turnOf : TurnOf (.barv o) s fun s => s.withHandle (s.cx.sreg o.sa) (State.ofMember (barvAt o)) := .guarded rfl rfl
theorem barw_turnOf : TurnOf (.barw o) s fun s => s.withHandle (s.cx.sreg o.sa) (State.ofMember (barwAt o)) := .guarded rfl rfl
theorem barvw_turnOf : TurnOf (.barvw o) s fun s => s.withHandle (s.cx.sreg o.sa) (State.ofMember (barvwAt o)) := .guarded rfl rfl
theorem bdrop_turnOf : TurnOf (.bdrop o) s fun s => s.withHandle (s.cx.sreg o.sa) (State.ofMember (bdropAt o)) := .guarded rfl rfl

/-- A handle that is not a multiple of 64 stops each of the seven (18 R372). -/
theorem exec_barrier_misaligned (off : (s.cx.sreg o.sa).toNat % 64 ≠ 0) :
    ∀ i ∈ [Instr.binit o, .breg o, .barv o, .barw o, .barvw o, .bdrop o, .btest o], Executes i s →
      exec i s = .next (s.takeTrap { s.cuTrap 0x24 with va := s.cx.sreg o.sa }) := by
  simp only [List.forall_mem_cons]
  exact ⟨fun h => (binit_turnOf o s).handle_misaligned h off, fun h => (breg_turnOf o s).handle_misaligned h off,
    fun h => (barv_turnOf o s).handle_misaligned h off, fun h => (barw_turnOf o s).handle_misaligned h off,
    fun h => (barvw_turnOf o s).handle_misaligned h off, fun h => (bdrop_turnOf o s).handle_misaligned h off,
    fun h => (btest_turnOf o s).handle_misaligned h off, List.forall_mem_nil _⟩

end

/-- A register's phase: bits [63:32] are ignored (18 R376). -/
theorem phaseField_toNat (w : Word) : (field w 0 32 : BitVec 32).toNat = w.toNat % 2 ^ 32 := by simp [field]

/-! ## BINIT (18 R373) -/

/-- A set-up word that may be used names a block that obeys R365 and R368. -/
theorem Barrier.setup_ok {w : Word} (ok : setupOk w = true) (n : BitVec 32) :
    (Barrier.setup w n).Bounded ∧ blockOk (Barrier.setup w n).bytes = true := by
  have parties : (field w 0 20 : BitVec 20).toNat ≠ 0 := by
    simp only [setupOk, Bool.and_eq_true, bne_iff_ne, ne_eq] at ok
    obtain ⟨⟨-, parties⟩, -⟩ := ok
    exact fun zero => parties (BitVec.eq_of_toNat_eq zero)
  have small := (field w 0 20 : BitVec 20).isLt
  have bounded : (Barrier.setup w n).Bounded := by
    simp only [Barrier.Bounded, Barrier.setup]
    omega
  refine ⟨bounded, ?_⟩
  have owned : ((Barrier.setup w n).wantsUnit || (Barrier.setup w n).owner == 0) = true := by
    simp only [Barrier.setup]
    cases bit w 31 <;> rfl
  rw [blockOk_bytes bounded, owned]
  have begun : 1 ≤ (field w 0 20 : BitVec 20).toNat ∧ 0 < (field w 0 20 : BitVec 20).toNat := ⟨by omega, by omega⟩
  simpa [Barrier.setup] using begun

/-- BINIT's block holds the barrier of its set-up word. -/
theorem State.barrierAt_setUpAt {s : State} (canonical : Memory.wf s.mem = true) (k : Nat) {w : Word} (ok : setupOk w = true) :
    (s.setUpAt k w).barrierAt k = some { Barrier.setup w s.cx.cohort with bound := ((s.setUpAt k w).unitOf k).isSome } := by
  obtain ⟨bounded, ok⟩ := Barrier.setup_ok ok s.cx.cohort
  unfold State.setUpAt State.beginBarrier
  extract_lets old v t
  exact State.barrierAt_keepBarrier canonical (State.unitOf_without rfl) rfl bounded ok

@[simp] theorem State.setUpAt_cx (s : State) (k : Nat) (w : Word) : (s.setUpAt k w).cx = s.cx := State.keepBarrier_cx ..

/-- BINIT's status: s0 reads zero whatever is set. -/
theorem Ctx.sreg_setSreg_status (c : Ctx) (d : BitVec 5) (bound : Bool) :
    (c.setSreg d (if bound then 0 else 1)).sreg d = if d = 0 ∨ bound = true then 0 else 1 := by
  simp only [Ctx.sreg_setSreg_same, beq_iff_eq, ite_or]

theorem binitAt_begins {o : SR} {s : State} {k : Nat} (ok : setupOk (s.cx.sreg o.sb) = true) (idle : s.inUse k = false) :
    binitAt o s k = some ((s.setUpAt k (s.cx.sreg o.sb)).set
      (s.cx.setSreg o.sd (if ((s.setUpAt k (s.cx.sreg o.sb)).unitOf k).isSome then 0 else 1))) := by
  simp only [binitAt, ok, idle, Bool.not_true, Bool.or_self, Bool.false_eq_true, if_false, State.setUpAt_cx]

/-! ## BTEST (18 R377) -/

section
variable {o : SR} {s : State} {k : Nat}

theorem btestAt_empty (unheld : s.unitOf k = none) (blank : (Barrier.ofBytes (Memory.read s.mem k 64)).init = false) :
    btestAt o s k = some (s.set (s.cx.setSreg o.sd 0)) := by
  have absent : s.barrierAt k = none := by simp only [State.barrierAt, unheld, blank, Bool.false_and, Bool.false_eq_true, if_false]
  have found : s.foundFor k = .none := by simp only [State.foundFor, absent, blank, Bool.false_eq_true, if_false]
  simp only [btestAt, found]

/-- BTEST reports a barrier that no other operation has reached in its cycle. -/
theorem btestAt_reports {b v : Barrier} (sees : s.Sees k b v) (alone : s.meetings.find? (·.key == k) = none) :
    btestAt o s k = some (s.set (s.cx.setSreg o.sd (v.report ((s.cx.sreg o.sb).toNat % 2 ^ 32)))) := by
  obtain ⟨stands, seen, init, member⟩ := sees
  have same : v = b := by rw [← seen, State.foundAs_eq, alone]; rfl
  subst same
  have drops : s.dropsAt k = [] := by rw [State.dropsAt, alone]; rfl
  have found : s.foundFor k = .barrier v := by simp only [State.foundFor, stands, drops, Barrier.settle_nil]
  simp only [btestAt, found, seen, init, ownerCheck_passes member, phaseField_toNat, Bool.not_true, Bool.false_eq_true, if_false]

end

/-! ## BREG, BARV and BDROP (18 R374, R375) -/

section
variable {o : SR} {s s1 : State} {k : Nat} {b v : Barrier}

/-- A dissolved barrier takes no arrival and no registration (18 R369, R374). -/
theorem exec_barrier_dissolved (reach : s.Reaches (s.cx.sreg o.sa) s1 k) (sees : s1.Sees k b v) (ended : v.dissolved = true) :
    ∀ i ∈ [Instr.barv o, .breg o, .bdrop o], Executes i s → exec i s = .next (s.takeTrap (s.cuTrap 0x60)) := by
  simp only [List.forall_mem_cons]
  refine ⟨fun h => (barv_turnOf o s).handle_fails h reach ((sees.ofMember _).trans ?_),
    fun h => (breg_turnOf o s).handle_fails h reach ((sees.ofMember _).trans ?_),
    fun h => (bdrop_turnOf o s).handle_fails h reach ((sees.ofMember _).trans ?_), List.forall_mem_nil _⟩
  · simp only [barvAt, ended, if_true]
  · simp only [bregAt, ended, Bool.true_or, if_true]
  · simp only [bdropAt, ended, if_true]

theorem bregAt_refuses (again : s.registered k = true ∨ s.tooMany k = true) : bregAt s k b v = none := by
  have again : (s.registered k || s.tooMany k) = true := Bool.or_eq_true_iff.mpr again
  simp only [bregAt, Bool.or_assoc, again, Bool.or_true, if_true]

variable (active : v.dissolved = false)
include active

theorem bregAt_registers (fresh : s.registered k = false) (room : s.tooMany k = false) : bregAt s k b v =
    some (.next ((s.register k).operate k b { b with regcount := b.regcount + 1 } []) s.after) := by
  simp only [bregAt, active, fresh, room, Bool.or_self, Bool.false_eq_true, if_false, State.after, State.operate_cx]
  rfl

theorem barvAt_arrives : barvAt o s k b v =
    some ((s.operate k b b.arrive.1 []).set (s.cx.setSreg o.sd (BitVec.ofNat 64 b.phase))) := by
  simp only [barvAt, active, Bool.false_eq_true, if_false, State.operate_cx]
  rfl

/-- BDROP arrives with the registration that it ends no longer counted. -/
theorem bdropAt_drops : bdropAt o s k b v =
    some (((s.unregister s.cx.cohort s.cx.coord.member.toNat k).operate k b
      (({ b with regcount := if s.registered k then b.regcount - 1 else b.regcount } : Barrier).arrive.1) [b.phase]).set
        (s.cx.setSreg o.sd (BitVec.ofNat 64 b.phase))) := by
  have counted : (if s.registered k then { b with regcount := b.regcount - 1 } else b) =
      { b with regcount := if s.registered k then b.regcount - 1 else b.regcount } := by split <;> rfl
  simp only [bdropAt, active, counted, Bool.false_eq_true, if_false, State.operate_cx]
  rfl

end

/-! ## BARW and BARVW (18 R376) -/

theorem armed_iff (w : Word) : bit w 63 = true ↔ 2 ^ 63 ≤ w.toNat := by
  have top : bit w 63 = w.msb := (BitVec.msb_eq_getLsbD_last w).symm
  rw [top, BitVec.msb_eq_decide, decide_eq_true_eq]

/-- A phase word armed again. -/
theorem rearmed_eq (w : Word) : (w &&& 0xFFFFFFFF) ||| bitAt true 63 = BitVec.ofNat 64 (w.toNat % 2 ^ 32 + 2 ^ 63) := by
  have low : (w &&& 0xFFFFFFFF).toNat = w.toNat % 2 ^ 32 := by
    rw [BitVec.toNat_and]
    exact Nat.and_two_pow_sub_one_eq_mod w.toNat 32
  have lt : w.toNat % 2 ^ 32 < 2 ^ 63 := Nat.lt_of_lt_of_le (Nat.mod_lt _ (by decide)) (by decide)
  have top : (bitAt true 63).toNat = 1 <<< 63 := rfl
  apply BitVec.eq_of_toNat_eq
  rw [BitVec.toNat_or, low, top, Nat.or_comm, ← Nat.shiftLeft_add_eq_or_of_lt lt, BitVec.toNat_ofNat]
  omega

section
variable {o : SR} {s : State} {k : Nat} {b v : Barrier}

theorem barwAt_eq : barwAt o s k b v = if v.completed ((s.cx.sreg o.sb).toNat % 2 ^ 32) then some (.next (s.rebind k b) s.after)
    else if v.dissolved then none else some (s.rebind k b).barrierWait := by
  simp only [barwAt, phaseField_toNat]

theorem barwAt_passes (completed : v.completed ((s.cx.sreg o.sb).toNat % 2 ^ 32) = true) :
    barwAt o s k b v = some (.next (s.rebind k b) s.after) := by
  rw [barwAt_eq, if_pos completed]

section
variable (waits : v.completed ((s.cx.sreg o.sb).toNat % 2 ^ 32) = false)
include waits

theorem barwAt_waits (active : v.dissolved = false) : barwAt o s k b v = some (s.rebind k b).barrierWait := by
  rw [barwAt_eq, if_neg (Bool.eq_false_iff.mp waits), if_neg (Bool.eq_false_iff.mp active)]

theorem barwAt_fails (ended : v.dissolved = true) : barwAt o s k b v = none := by
  rw [barwAt_eq, if_neg (Bool.eq_false_iff.mp waits), if_pos ended]

end

theorem barvwAt_arrives (armed : 2 ^ 63 ≤ (s.cx.sreg o.sd).toNat) (active : v.dissolved = false) : barvwAt o s k b v =
    some ({ s.operate k b b.arrive.1 [] with cx := s.cx.setSreg o.sd (BitVec.ofNat 64 b.phase) } : State).barrierWait := by
  simp only [barvwAt, (armed_iff _).mpr armed, active, Bool.false_eq_true, if_false, if_true, State.operate_cx]
  rfl

theorem barvwAt_passes (made : (s.cx.sreg o.sd).toNat < 2 ^ 63) (completed : v.completed ((s.cx.sreg o.sd).toNat % 2 ^ 32) = true) :
    barvwAt o s k b v = some ((s.rebind k b).set (s.cx.setSreg o.sd (BitVec.ofNat 64 ((s.cx.sreg o.sd).toNat % 2 ^ 32 + 2 ^ 63)))) := by
  have disarmed : bit (s.cx.sreg o.sd) 63 = false := Bool.eq_false_iff.mpr (mt (armed_iff _).mp (Nat.not_le.mpr made))
  simp only [barvwAt, disarmed, phaseField_toNat, completed, rearmed_eq, Bool.false_eq_true, if_false, if_true]

end

end Sys2Proof.Machine

namespace Sys2Proof.Proofs

open Sys2Proof.Machine Sys2Proof.Safety

/-- Settles O31: phases by the arithmetic of counts, each instruction by its body once the checks of its handle and of the barrier pass, and a
barrier's place by what holds it. -/
theorem barrierInstructions : Obligations.BarrierInstructions := by
  refine ⟨fun b => ?phases, fun o s off => exec_barrier_misaligned o s off, fun o s s1 k gs on ok key home clean => ?handles,
    fun s k b b1 ps => ⟨fun u unit lives => State.operate_unit unit lives ps, fun unheld home => State.operate_home unheld home ps⟩,
    fun s k b v p ps met stands => State.settleBarriers_one met rfl stands⟩
  case phases =>
    refine ⟨Barrier.arrive_counts, Barrier.arrive_completes, fun last bounded => ?_, fun more bounded => ?_, b.settle_nil,
      fun p last => b.settle_last last p, fun p parties below => ?_, fun p parties own below => ?_⟩
    · rw [Barrier.arrive_completes last]
      exact Barrier.completed_before bounded rfl
    · rw [Barrier.arrive_counts more]
      exact Barrier.completed_current bounded rfl
    · have rests : b.arr < (b.reduce p).exp := by rw [b.reduce_eq]; dsimp only; split <;> omega
      rw [Barrier.settle_one parties rests, b.reduce_eq]
    · rw [Barrier.settle_one parties (by rw [Barrier.reduce_current own]; exact below), Barrier.reduce_current own]
  case handles =>
    have reach : s.Reaches (s.cx.sreg o.sa) s1 k := ⟨on, home, gs, ok, key, clean⟩
    rw [← reach.cx]
    refine ⟨fun h canonical setup idle => ?binit, fun h unheld blank => (btest_turnOf o s).handle_next h reach (btestAt_empty unheld blank),
      fun b stands init member => ⟨fun alone => ?alone, ?waits⟩⟩
    case binit =>
      have begins := (binit_turnOf o s).handle_next h reach (binitAt_begins setup idle)
      refine ⟨_, begins, ?_, (State.barrierAt_congr rfl rfl).trans (State.barrierAt_setUpAt canonical k setup), ?_⟩
      · exact congrArg (Ctx.pc · + 8) (s1.setUpAt_cx k _)
      · exact Ctx.sreg_setSreg_status s1.cx o.sd _
    case alone =>
      have sees : s1.Sees k b b := ⟨stands, by rw [State.foundAs_eq, alone]; rfl, init, member⟩
      refine ⟨fun active => ⟨fun h => ?barv, fun h fresh room => ?breg, fun h again => ?again, fun h => ?bdrop, fun h armed => ?barvw⟩,
        exec_barrier_dissolved reach sees, fun h => (btest_turnOf o s).handle_next h reach (btestAt_reports sees alone)⟩
      case barv =>
        rw [(barv_turnOf o s).handle_next h reach ((sees.ofMember _).trans (barvAt_arrives active)), State.after, State.operate_cx]
      case breg => exact (breg_turnOf o s).handle_next h reach ((sees.ofMember _).trans (bregAt_registers active fresh room))
      case again => exact (breg_turnOf o s).handle_fails h reach ((sees.ofMember _).trans (bregAt_refuses again))
      case bdrop =>
        rw [(bdrop_turnOf o s).handle_next h reach ((sees.ofMember _).trans (bdropAt_drops active)), State.after, State.operate_cx]
        rfl
      case barvw =>
        refine ⟨_, (barvw_turnOf o s).handle_waits h reach ((sees.ofMember _).trans (barvwAt_arrives armed active)), ?_, ?_, rfl⟩
        · rw [Ctx.setSreg_eq]
        · exact (Ctx.sreg_setSreg_same ..).trans (by simp)
    case waits =>
      intro v present
      have sees : s1.Sees k b v := ⟨stands, s1.foundAs_eq k b, present, member⟩
      refine ⟨fun h completed => ?_, fun h waits active => ?_, fun h waits ended => ?_, fun h made completed => ?_⟩
      · exact (barw_turnOf o s).handle_next h reach ((sees.ofMember _).trans (barwAt_passes completed))
      · exact ⟨_, (barw_turnOf o s).handle_waits h reach ((sees.ofMember _).trans (barwAt_waits waits active)),
          (congrArg Ctx.pc (s1.rebind_cx k b) :), rfl, rfl⟩
      · exact (barw_turnOf o s).handle_fails h reach ((sees.ofMember _).trans (barwAt_fails waits ended))
      · rw [(barvw_turnOf o s).handle_next h reach ((sees.ofMember _).trans (barvwAt_passes made completed)), State.after, State.rebind_cx]

end Sys2Proof.Proofs
end


section
/-! PROOFS. What taking a trap writes (26 R475, R476). -/

namespace Sys2Proof.Machine

/-- A trapped context keeps the reported trap and marks it SECONDARY. -/
theorem Ctx.takeTrap_trapped {c : Ctx} {r : TrapRec} (t : Trap) (trapped : c.life = .trapped) (reported : c.trap = some r) :
    c.takeTrap t = { c with trap := some { r with secondary := true } } := by
  simp only [Ctx.takeTrap, trapped, reported]

end Sys2Proof.Machine

namespace Sys2Proof.Proofs

open Sys2Proof.Machine Sys2Proof.Safety

/-- Settles O18: the two lives from which a trap is taken, each by its lemma. -/
theorem trapEntry : Obligations.TrapEntry :=
  fun c t => ⟨c.takeTrap_running t, fun _ => Ctx.takeTrap_trapped t⟩

end Sys2Proof.Proofs
end

section
/-! PROOFS. Futures, adapters and tool accesses (19 R384 to R395): what resolves a future, and what meets one that no longer is armed. -/

namespace Sys2Proof.Machine

open Sys2Proof.Safety

/-! ## Entries of the table (19 R379 to R381, R388) -/

section
variable (s : State) (f : Future) (status detail : Nat)

/-- The entry of a resolution under way (19 R388). -/
def State.resolvingEntry : Future := { f with state := .resolving, status := status, detail := detail, stampr := s.ns }

theorem State.futures_putFuture : (s.putFuture f).futures = f :: s.futures.filter (·.index != f.index) := rfl

theorem State.futures_resolve :
    (s.resolve f status detail).futures = s.resolvingEntry f status detail :: s.futures.filter (·.index != f.index) := rfl

/-- An entry put into the table is the one of its index. -/
theorem State.mem_putFuture {g : Future} (h : g ∈ (s.putFuture f).futures) (same : g.index = f.index) : g = f := by
  rw [State.futures_putFuture, List.mem_cons, List.mem_filter] at h
  refine h.elim id fun other => absurd same ?_
  simpa using other.2

/-- The other entries stay. -/
theorem State.mem_putFuture_other {g : Future} (h : g ∈ s.futures) (other : g.index ≠ f.index) : g ∈ (s.putFuture f).futures :=
  List.mem_cons_of_mem _ (List.mem_filter.mpr ⟨h, by simpa using other⟩)

end

section
variable {s : State} {h : Word} {f : Future}

/-- The entry that a handle names has it as its own. -/
theorem State.futureOf_some (found : s.futureOf h = some f) : h ≠ 0 ∧ s.handleOf f = h := by
  unfold State.futureOf at found
  split at found
  · cases found
  · next nz =>
    refine ⟨by simpa using nz, ?_⟩
    have := List.find?_some found
    simp only [Bool.and_eq_true, beq_iff_eq] at this
    exact this.2

/-- A handle names its entry while it resolves. -/
theorem State.futureOf_resolve (found : s.futureOf h = some f) (status detail : Nat) :
    (s.resolve f status detail).futureOf h = some (s.resolvingEntry f status detail) := by
  obtain ⟨nz, own⟩ := State.futureOf_some found
  have named : ((s.resolvingEntry f status detail).state != .free &&
      (s.resolve f status detail).handleOf (s.resolvingEntry f status detail) == h) = true :=
    Bool.and_eq_true_iff.mpr ⟨rfl, beq_iff_eq.mpr own⟩
  rw [State.futureOf, if_neg (by simpa using nz), State.futures_resolve]
  exact List.find?_cons_of_pos named

/-! ## Deadlines (19 R390) -/

theorem State.overdue_iff (s : State) (f : Future) : s.overdue f = true ↔ f.deadline ≤ (s.time - clockPeriod s.clock) / 756 := by
  simp [State.overdue]

theorem State.deadline_due (armed : f.state = .armed) (due : f.deadline ≤ s.ns) : s.deadline f = s.resolve f 3 0 := by
  simp [State.deadline, armed, due]

theorem State.deadline_overdue (armed : f.state = .armed) (late : s.overdue f = true) : s.deadline f = s.resolve f 3 0 :=
  State.deadline_due armed (((s.overdue_iff f).mp late).trans (Nat.div_le_div_right (Nat.sub_le _ _)))

theorem State.atDeadline_overdue (armed : f.state = .armed) (late : s.overdue f = true) : s.atDeadline f = s.resolve f 3 0 := by
  rw [State.atDeadline, if_pos late, State.deadline_overdue armed late]

theorem State.atDeadline_early (early : s.overdue f = false) : s.atDeadline f = s := by
  simp [State.atDeadline, early]

theorem State.atDeadline_settled (settled : f.state ≠ .armed) : s.atDeadline f = s := by
  simp [State.atDeadline, State.deadline, settled]

end

/-! ## Resolves by a tool (19 R386) -/

section
variable {s : State} {n : Nat} {h : Word} {x : Tool} {f : Future} (status : Nat)

theorem exec_resolveOk (live : s.liveTool n = some x) : exec (.resolveOk n h) s = .next (s.resolveStore x h 1) := by
  show Host.Outcome.next _ = _
  rw [live]

theorem exec_resolveErr (live : s.liveTool n = some x) : exec (.resolveErr n h) s = .next (s.resolveStore x h 2) := by
  show Host.Outcome.next _ = _
  rw [live]

theorem exec_resolves (live : s.liveTool n = some x) :
    ∀ i ∈ [Instr.resolveOk n h, .resolveErr n h], ∃ status, exec i s = .next (s.resolveStore x h status) := by
  simp only [List.forall_mem_cons]
  exact ⟨⟨1, exec_resolveOk live⟩, ⟨2, exec_resolveErr live⟩, List.forall_mem_nil _⟩

/-- A store for another package's handle notes that package's outcome. -/
theorem State.resolveStore_away (x : Tool) (away : s.handleAway h = true) :
    (s.resolveStore x h status).futures = s.futures ∧ (s.resolveStore x h status).mem = s.mem := by
  rw [State.resolveStore, if_pos away]
  exact ⟨rfl, rfl⟩

variable (own : s.handleAway h = false)
include own

theorem State.resolveStore_unnamed (x : Tool) (unnamed : s.futureOf h = none) :
    s.resolveStore x h status = s.putTool { x with outcome := 2 } := by
  simp only [State.resolveStore, own, unnamed, Bool.false_eq_true, if_false]

variable (found : s.futureOf h = some f)
include found

theorem State.resolveStore_settled (x : Tool) (settled : f.state ≠ .armed) :
    s.resolveStore x h status = s.putTool { x with outcome := 1 } := by
  simp [State.resolveStore, own, found, settled]

theorem State.resolveStore_late (x : Tool) (armed : f.state = .armed) (late : s.overdue f = true) :
    s.resolveStore x h status = (s.resolve f 3 0).toolOutcome x.num 1 := by
  simp [State.resolveStore, own, found, armed, late, State.deadline_overdue armed late]

/-- A store in time resolves an armed future with the reply area's DETAIL. -/
theorem State.resolveStore_resolves {s1 : State} {bs : List Byte} (armed : f.state = .armed) (early : s.overdue f = false)
    (tool : f.adapter = none) (present : s.absent f.space f.reply 8 .load = false)
    (read : (s.putTool { x with outcome := 0 }).agentRead f.space f.reply 8 = .ok (s1, bs)) (fits : recNat bs 0 4 ≤ f.repcap) :
    s.resolveStore x h status = s1.resolve f status (recNat bs 4 4) := by
  simp [State.resolveStore, own, found, armed, early, tool, present, read, Nat.not_lt.mpr fits]

end

/-! ## Resolves by an Ultra Ethernet peer (19 R387, R393) -/

/-- A reply that no armed future takes is discarded and counted. -/
def State.discardReply (s : State) : State := { s with ueDiscards := s.ueDiscards + 1 }

/-- The bytes of a remote reply that go to the reply area: COUNT and DETAIL, and the tokens. -/
def replyBytes (p : List Byte) : List Byte := (p.drop 12).take 8 ++ (p.drop 24).take (4 * recNat p 12 4)

/-- An armed future takes a reply that came in time, by its length, its kind and its reply area (log entry 15). -/
def State.takeReply (s : State) (f : Future) (p : List Byte) : State :=
  if f.repcap < recNat p 12 4 then s.resolve f 2 0x55
  else if f.adapter.isSome then s.resolve f (recNat p 8 1) (recNat p 16 4)
  else if s.absent f.space f.reply (replyBytes p).length .store then
    s.resolve { f with await := .remote (replyBytes p) } (recNat p 8 1) (recNat p 16 4)
  else
    let s1 := match s.agentWrite f.space f.reply (replyBytes p) with
      | .ok s1 => s1
      | .error _ => s.logFuture
    s1.resolve f (recNat p 8 1) (recNat p 16 4)

section
variable {s : State} {p : List Byte} {f : Future}

theorem remoteResolve_waits (tools : s.toolsFirst = true) : exec (.remoteResolve p) s = .next (s.putOff (.remoteResolve p)) :=
  if_pos tools

variable (first : s.toolsFirst = false)
include first

theorem remoteResolve_unnamed (unnamed : s.futureOf (recWord p 0) = none) : exec (.remoteResolve p) s = .next s.discardReply := by
  simp only [exec, execRemoteResolve, first, unnamed, Option.elim, Bool.false_eq_true, if_false]
  rfl

variable (found : s.futureOf (recWord p 0) = some f)
include found

theorem remoteResolve_settled (settled : f.state ≠ .armed) : exec (.remoteResolve p) s = .next s.discardReply := by
  simp [exec, execRemoteResolve, first, found, State.atDeadline_settled settled, settled, State.discardReply]

theorem remoteResolve_late (armed : f.state = .armed) (late : s.overdue f = true) :
    exec (.remoteResolve p) s = .next (s.resolve f 3 0).discardReply := by
  have resolving : (s.resolvingEntry f 3 0).state = .resolving := rfl
  simp [exec, execRemoteResolve, first, found, State.atDeadline_overdue armed late, State.futureOf_resolve found, resolving, State.discardReply]

variable (early : s.overdue f = false)
include early

theorem remoteResolve_status (ok : recNat p 8 1 ≠ 1) (err : recNat p 8 1 ≠ 2) : exec (.remoteResolve p) s = .next s.discardReply := by
  simp [exec, execRemoteResolve, first, found, State.atDeadline_early early, ok, err, State.discardReply]

/-- A reply with a status resolves the armed future. -/
theorem remoteResolve_armed (armed : f.state = .armed) (status : recNat p 8 1 = 1 ∨ recNat p 8 1 = 2) :
    exec (.remoteResolve p) s = .next (s.takeReply f p) := by
  have known : (f.state != .armed || (recNat p 8 1 != 1 && recNat p 8 1 != 2)) = false := by
    rcases status with h | h <;> simp [armed, h]
  simp only [exec, execRemoteResolve, first, found, Option.elim, State.atDeadline_early early, known, Bool.false_eq_true, if_false]
  rfl

end

section
variable {s : State} {p : List Byte} {f : Future}

theorem State.takeReply_long (long : f.repcap < recNat p 12 4) : s.takeReply f p = s.resolve f 2 0x55 := if_pos long

variable (fits : recNat p 12 4 ≤ f.repcap)
include fits

theorem State.takeReply_adapter (adapter : f.adapter.isSome = true) : s.takeReply f p = s.resolve f (recNat p 8 1) (recNat p 16 4) := by
  rw [State.takeReply, if_neg (Nat.not_lt.mpr fits), if_pos adapter]

variable (tool : f.adapter = none)
include tool

theorem State.takeReply_absent (absent : s.absent f.space f.reply (replyBytes p).length .store = true) :
    s.takeReply f p = s.resolve { f with await := .remote (replyBytes p) } (recNat p 8 1) (recNat p 16 4) := by
  simp only [State.takeReply, Nat.not_lt.mpr fits, tool, absent, Option.isSome_none, Bool.false_eq_true, if_false, if_true]

variable (present : s.absent f.space f.reply (replyBytes p).length .store = false)
include present

theorem State.takeReply_writes {s1 : State} (write : s.agentWrite f.space f.reply (replyBytes p) = .ok s1) :
    s.takeReply f p = s1.resolve f (recNat p 8 1) (recNat p 16 4) := by
  simp only [State.takeReply, Nat.not_lt.mpr fits, tool, present, write, Option.isSome_none, Bool.false_eq_true, if_false]

theorem State.takeReply_fails {c : BitVec 7} (write : s.agentWrite f.space f.reply (replyBytes p) = .error c) :
    s.takeReply f p = s.logFuture.resolve f (recNat p 8 1) (recNat p 16 4) := by
  simp only [State.takeReply, Nat.not_lt.mpr fits, tool, present, write, Option.isSome_none, Bool.false_eq_true, if_false]

end

/-! ## The end of a resolution (19 R388, R403) -/

section
variable {s : State} {i : Nat} {f : Future}

theorem exec_futureDeadline (entry : s.futures.find? (·.index == i) = some f) : exec (.futureDeadline i) s = .next (s.atDeadline f) := by
  show Host.Outcome.next _ = _
  rw [entry]

theorem exec_futureResolution (entry : s.futures.find? (·.index == i) = some f) (first : s.ringBefore f = []) :
    exec (.futureResolution i) s = .next (s.finishFuture f) := by
  show Host.Outcome.next _ = _
  rw [entry]
  simp only [first, List.foldl_nil]

/-- An entry that neither resolves nor awaits a page stays. -/
theorem State.finishFuture_rests (rests : f.state ≠ .resolving) (await : f.await = .nothing) : s.finishFuture f = s := by
  simp [State.finishFuture, rests, await]

/-- A cancelled future without a link is resolved at once, and consumed where its launch has ended. -/
theorem State.finishFuture_cancelled (resolving : f.state = .resolving) (await : f.await = .nothing) (link : f.link = none)
    (replies : f.replies = []) (cancelled : f.status = 4) : s.finishFuture f =
      if f.launch = 0 then (s.putFuture { f with state := .resolved }).freeEntry { f with state := .resolved }
      else s.putFuture { f with state := .resolved } := by
  have settled : s.settleReply f = some (s, f) := by simp only [State.settleReply, await]
  have empty : s.content f = some (s, []) := by simp only [State.content, cancelled, ite_self]
  have appends : s.prefillWaits f 0 = false ∧ s.prefill f [] = (s, f) := by simp [State.prefillWaits, State.prefill]
  simp [State.finishFuture, State.linkAbsent, State.endResolution, resolving, await, link, replies, settled, empty, appends]

end

/-! ## Adapters (19 R394, R395) -/

/-- The key of an adapter's source. -/
def Adapter.from (a : Adapter) : Nat := if a.node = 0xFFFF then hostKey a.source else devKey a.node a.source

section
variable {s : State} {e addr : Nat} {r : Residency} (entry : s.residency.find? (·.entry == e) = some r)
include entry

theorem adapterLoadDone_resident (cause : Nat) (resident : r.resident = true) : exec (.adapterLoadDone e addr cause) s = .next s := by
  simp only [exec, execAdapterLoadDone, entry, resident, if_true]

variable (loading : r.resident = false) (alone : r.waiting = [])
include loading alone

theorem adapterLoadDone_fails {cause : Nat} (failed : cause ≠ 0) :
    exec (.adapterLoadDone e addr cause) s = .next { s with residency := s.residency.filter (·.entry != e) } := by
  simp [exec, execAdapterLoadDone, entry, loading, alone, failed]

theorem adapterLoadDone_loads {a : Adapter} (known : s.adapters.find? (·.num == r.num) = some a)
    (clean : segsPoisoned s.poison [(a.from, a.size)] = false) : exec (.adapterLoadDone e addr 0) s =
      .next ((s.copyRange a.from (devKey s.node addr) a.size).putResidency { r with resident := true, addr := addr, waiting := [] }) := by
  unfold Adapter.from at *
  simp [exec, execAdapterLoadDone, entry, loading, alone, known, clean]

end

/-! ## Tool contexts and their sandboxes (19 R384, R385; 26 R480) -/

/-- No tool of a number has a context that runs. -/
def State.ToolEnded (s : State) (n : Nat) : Prop := ∀ x ∈ s.tools, x.num = n → x.ended = true

section
variable {s : State} {n : Nat} {x : Tool}

theorem State.ToolEnded.liveTool (h : s.ToolEnded n) : s.liveTool n = none := by
  rw [State.liveTool, State.toolAt, Option.filter_eq_none_iff]
  intro x found
  have number : x.num = n := by simpa using List.find?_some found
  simp [h x (List.mem_of_find?_eq_some found) number]

theorem State.ToolEnded.resolve (h : s.ToolEnded n) (f : Future) (status detail : Nat) : (s.resolve f status detail).ToolEnded n := by
  intro y hy number
  obtain ⟨x, hx, rfl⟩ := List.mem_map.mp hy
  exact h x hx number

theorem State.liveTool_num (live : s.liveTool n = some x) : x.num = n := by
  have found : s.toolAt n = some x := (Option.filter_eq_some_iff.mp live).1
  simpa using List.find?_some found

/-- What the end of a tool context leaves: the tool without a context, and the futures of its requests resolved. -/
theorem State.endToolContext_keeps (s : State) (x : Tool) (detail : Nat) :
    (s.endToolContext x detail).ToolEnded x.num ∧ (s.endToolContext x detail).violations = s.violations := by
  unfold State.endToolContext
  refine List.foldlRecOn (motive := fun t : State => t.ToolEnded x.num ∧ t.violations = s.violations) _ _ ⟨?_, rfl⟩ ?_
  · intro y hy number
    obtain ⟨z, -, rfl⟩ := List.mem_map.mp hy
    by_cases own : z.num = x.num
    · simp [own]
    · simp [own] at number
  · intro t ⟨ended, same⟩ h _
    split
    · split
      · exact ⟨ended.resolve _ _ _, same⟩
      · exact ⟨ended, same⟩
    · exact ⟨ended, same⟩

/-- A violation is logged, and the tool's context ends. -/
theorem State.violate_ends (live : s.liveTool n = some x) (a : Word) :
    (s.violate x a).violations = (x.num, a) :: s.violations ∧ (s.violate x a).mem = s.mem ∧ (s.violate x a).liveTool n = none := by
  obtain ⟨ended, same⟩ := s.endToolContext_keeps x 0x21
  refine ⟨congrArg _ same, s.violate_mem x a, ?_⟩
  rw [← State.liveTool_num live]
  exact State.ToolEnded.liveTool (s := s.violate x a) ended

theorem sandboxViolation_ends (live : s.liveTool n = some x) (a : Word) : exec (.sandboxViolation n a) s = .next (s.violate x a) := by
  show Host.Outcome.next _ = _
  rw [live]

/-- A tool core that fails its check ends its context (log entry 42). -/
theorem toolCoreAccess_fails (live : s.liveTool n = some x) (injected : s.injected (toolBank x.unit) = true) (y : ToolAccess) :
    exec (.toolCoreAccess n y) s = .next (s.toolFails x) ∧ (s.toolFails x).liveTool n = none := by
  refine ⟨?_, ?_⟩
  · show Host.Outcome.next _ = _
    simp only [live, injected, if_true]
  · rw [← State.liveTool_num live]
    exact (State.endToolContext_keeps _ x 0x7A).1.liveTool

theorem toolCoreAccess_checked (live : s.liveTool n = some x) (sound : s.injected (toolBank x.unit) = false) (y : ToolAccess) :
    exec (.toolCoreAccess n y) s = .next (s.toolAccess x y) := by
  show Host.Outcome.next _ = _
  simp only [live, sound, Bool.false_eq_true, if_false]

section
variable {a : Word} {bs : List Byte} (outside : a.toNat < x.resolve ∨ x.resolve + 4096 ≤ a.toNat)
include outside

/-- An admitted store writes memory, through the directory, and clears the poison of the lines that it covers. -/
theorem State.toolAccess_store (admitted : x.windows.any (windowAdmits · 61 a.toNat bs.length) = true) : ∃ s1, s.FabricOnly s1 ∧
    s.toolAccess x (.store a bs) = { s1 with mem := Memory.write s1.mem (devKey s.node a.toNat) bs
                                             poison := clearPoison s1.poison [(devKey s.node a.toNat, bs.length)] } := by
  refine ⟨_, .foldl (f := fun s k => s.noteWrite 24 k) (fun s k => s.noteWrite_fabricOnly 24 k)
    (segsLines [(devKey s.node a.toNat, bs.length)]) s, ?_⟩
  have away : ¬ (x.resolve ≤ a.toNat ∧ a.toNat < x.resolve + 4096) := by omega
  simp [State.toolAccess, away, admitted]

theorem State.toolAccess_refused (refused : x.windows.any (windowAdmits · 61 a.toNat bs.length) = false)
    (foreign : s.inQueue x a.toNat bs.length = false) : s.toolAccess x (.store a bs) = s.violate x a := by
  have away : ¬ (x.resolve ≤ a.toNat ∧ a.toNat < x.resolve + 4096) := by omega
  simp [State.toolAccess, away, refused, foreign]

end

end

end Sys2Proof.Machine

namespace Sys2Proof.Proofs

open Sys2Proof.Machine Sys2Proof.Safety

/-- Settles O49: a resolve by the state and the deadline of the future that it names, the end of a resolution by what it awaits, a load by its
cause, and a tool's access by its windows. -/
theorem futureEvents : Obligations.FutureEvents := by
  refine ⟨fun s n h x live => ?store, fun s s1 n h x f bs live own found armed early tool present read fits => ?inTime, fun s n => rfl,
    fun s p => remoteResolve_waits, fun s p first => ?remote, fun s i f entry => ?ends, fun s f status detail => ?resolution,
    fun s e addr cause r entry => ?adapter, fun s n x a live => ?sandbox⟩
  case store =>
    intro i hi
    obtain ⟨status, runs⟩ := exec_resolves live i hi
    rw [runs]
    exact ⟨fun away => ⟨_, rfl, State.resolveStore_away status x away⟩, fun own =>
      ⟨fun unnamed => congrArg _ (State.resolveStore_unnamed status own x unnamed), fun f found =>
        ⟨fun settled => congrArg _ (State.resolveStore_settled status own found x settled),
          fun armed late => congrArg _ (State.resolveStore_late status own found x armed late)⟩⟩⟩
  case inTime =>
    rw [exec_resolveOk live, exec_resolveErr live]
    exact ⟨congrArg _ (State.resolveStore_resolves 1 own found armed early tool present read fits),
      congrArg _ (State.resolveStore_resolves 2 own found armed early tool present read fits)⟩
  case remote =>
    refine ⟨remoteResolve_unnamed first, fun f found => ⟨remoteResolve_settled first found, fun armed late => ?_,
      fun _ early => remoteResolve_status first found early, fun armed early status => ?_⟩⟩
    · exact ⟨_, remoteResolve_late first found armed late, rfl, rfl, rfl⟩
    · rw [remoteResolve_armed first found early armed status]
      refine ⟨fun long => congrArg _ (State.takeReply_long long), fun fits adapter => congrArg _ (State.takeReply_adapter fits adapter),
        fun fits tool => ⟨fun absent => congrArg _ (State.takeReply_absent fits tool absent), fun present => ⟨fun s1 write => ?_, fun c write => ?_⟩⟩⟩
      · exact congrArg _ (State.takeReply_writes fits tool present write)
      · exact congrArg _ (State.takeReply_fails fits tool present write)
  case ends =>
    rw [exec_futureDeadline entry]
    refine ⟨s.overdue_iff f, fun armed late => congrArg _ (State.atDeadline_overdue armed late), fun settled => congrArg _ ?_, State.deadline_due,
      fun first rests await => ?_, fun first resolving await link replies cancelled => ?_⟩
    · exact settled.elim State.atDeadline_settled State.atDeadline_early
    · rw [exec_futureResolution entry first, State.finishFuture_rests rests await]
    · rw [exec_futureResolution entry first, State.finishFuture_cancelled resolving await link replies cancelled]
      refine ⟨fun launched => congrArg _ (if_neg launched), fun ended => ⟨_, congrArg _ (if_pos ended), rfl, _, List.mem_cons_self, rfl, rfl, rfl⟩⟩
  case resolution =>
    refine ⟨List.mem_cons_self, rfl, fun g hg same => ?_, fun g hg other => State.mem_putFuture_other s (s.resolvingEntry f status detail) hg other⟩
    exact congrArg Future.state (State.mem_putFuture s (s.resolvingEntry f status detail) hg same)
  case adapter =>
    exact ⟨adapterLoadDone_resident entry cause, fun loading alone failed => adapterLoadDone_fails entry loading alone failed,
      fun a loading alone known clean =>
      ⟨_, adapterLoadDone_loads entry loading alone known clean, List.mem_cons_self, rfl⟩⟩
  case sandbox =>
    refine ⟨⟨_, sandboxViolation_ends live a, State.violate_ends live a⟩, fun injected y => ?_,
      fun bs sound outside => ⟨fun admitted => ?_, fun refused foreign => ?_⟩⟩
    · obtain ⟨runs, ended⟩ := toolCoreAccess_fails live injected y
      exact ⟨_, runs, s.toolFails_mem x, ended⟩
    · obtain ⟨s1, fabric, stored⟩ := State.toolAccess_store (s := s) outside admitted
      refine ⟨_, (toolCoreAccess_checked live sound _).trans (congrArg _ stored), ?_, fabric.cx, (congrArg State.violations fabric :), ?_⟩
      · rw [fabric.mem]
      · rw [fabric.poison]
    · exact ⟨_, (toolCoreAccess_checked live sound _).trans (congrArg _ (State.toolAccess_refused outside refused foreign)),
        State.violate_ends live a⟩

end Sys2Proof.Proofs
end


section
/-! PROOFS. Command graphs and host rings (21 R413, R422 to R429): how a walk's node starts, what each kind of node does, and the events that wait
for a word, a doorbell or a time. -/

namespace Sys2Proof.Machine

open Sys2Proof.Safety

/-! ## Walks (21 R422, R425) -/

theorem Walk.fail_first {w : Walk} (now i cause : Nat) (sound : w.failed = none) : w.fail now i cause = { w with failed := some (i, cause, now) } := by
  simp only [Walk.fail, sound]

theorem State.failWalk_first {w : Walk} (s : State) (cause : Nat) (sound : w.failed = none) :
    s.failWalk w cause = s.putWalk { w with failed := some (w.node, cause, s.time) } :=
  congrArg s.putWalk (Walk.fail_first s.time w.node cause sound)

section
variable {s s1 s2 : State} {w : Walk} {kind : Nat} {b : List Byte}

/-- A walk that has a node to start starts it. -/
theorem State.runWalk_starts (known : s.walkOf w.num = some w) (sound : w.failed = none) (fresh : w.started = false) (kind : Option Nat) :
    s.runWalk w.num kind = s.startNode w kind none := by
  simp only [State.runWalk, known, sound, fresh, Option.isSome_none, Bool.not_false, Bool.false_eq_true, if_false, if_true]

/-- The event of a node's own kind gives it its effect. -/
theorem State.runWalk_nodeStarts (h : NodeStarts s w kind b s1 s2) : s.runWalk w.num (some kind) = s2.nodeEffect (startedWalk s w b) none := by
  obtain ⟨known, sound, fresh, read, valid, rfl, engine, stamped⟩ := h
  rw [State.runWalk_starts known sound fresh]
  simp only [State.startNode, read, valid, engine, stamped, Option.elim, bne_self_eq_false, Bool.false_eq_true, if_false]
  rfl

/-- An invalid node fails its walk, whichever kind of node the event starts (R425). -/
theorem State.runWalk_invalid (known : s.walkOf w.num = some w) (sound : w.failed = none) (fresh : w.started = false)
    (read : s.agentRead w.space w.addr 64 = .ok (s1, b)) (bad : nodeBad b = true) (kind : Option Nat) :
    s.runWalk w.num kind = s1.putWalk { w with failed := some (w.node, 0x65, s1.time) } := by
  rw [State.runWalk_starts known sound fresh, ← State.failWalk_first s1 0x65 sound]
  simp only [State.startNode, read, bad, if_true]

theorem exec_nodeEvents (s : State) (num : Nat) : ∀ i ∈ nodeEvents num, ∃ kind, exec i s = .next (s.runWalk num kind) := by
  simp only [nodeEvents, List.forall_mem_cons]
  exact ⟨⟨_, rfl⟩, ⟨_, rfl⟩, ⟨_, rfl⟩, ⟨_, rfl⟩, ⟨_, rfl⟩, ⟨_, rfl⟩, ⟨_, rfl⟩, List.forall_mem_nil _⟩

end

/-! ## Effects of nodes (21 R423, R424, R429) -/

section
variable {s s1 s2 : State} {w : Walk}

theorem State.copies_nodeCopies (s : State) (w : Walk) : (s.nodeCopies w).copies = s.copies ++
    [{ num := s.serial, serves := .node w.num w.node, space := w.space, src := recWord w.body 8, dst := recWord w.body 16,
       len := recNat w.body 24 8 }] := by
  unfold State.nodeCopies
  split <;> rfl

theorem State.nodeSignals_writes (write : (recNat w.body 1 1).testBit 1 = false)
    (done : s.agentWrite w.space (recWord w.body 8) (wordBytes (recWord w.body 24)) = .ok s1) :
    s.nodeSignals w = s1.putWalk (w.goTo s1.time (w.node + 1)) := by
  simp only [State.nodeSignals, write, done, Bool.false_eq_true, if_false]
  rfl

theorem State.nodeSignals_adds {gs : List Seg} (add : (recNat w.body 1 1).testBit 1 = true)
    (reached : s.agentAccess w.space (recWord w.body 8) 8 .rmw = .ok s1 gs) (clean : segsPoisoned s1.poison gs = false) :
    (s.nodeSignals w).mem = writeSegs s1.mem gs (wordBytes (recWord (readSegs s1.mem gs) 0 + recWord w.body 24)) := by
  simp only [State.nodeSignals, add, reached, clean, Bool.false_eq_true, if_false, if_true]
  exact State.homeWrite_mem s1 gs _ false

/-- A wait ends by its word, or at its limit (R425). -/
theorem State.nodeWaits_passes {bs : List Byte} (read : s.agentRead w.space (recWord w.body 8) 8 = .ok (s1, bs))
    (met : nodeCompare w.body (recWord bs 0) = true) : s.nodeWaits w = s1.putWalk (w.goTo s1.time (w.node + 1)) := by
  simp only [State.nodeWaits, read, met, if_true]
  rfl

theorem State.nodeWaits_waits {bs : List Byte} (sound : w.failed = none) (read : s.agentRead w.space (recWord w.body 8) 8 = .ok (s1, bs))
    (unmet : nodeCompare w.body (recWord bs 0) = false) : s.nodeWaits w =
      if recNat w.body 36 4 ≠ 0 ∧ w.startedAt + 1000 * recNat w.body 36 4 ≤ s.ns then
        s1.putWalk { w with failed := some (w.node, 0x66, s1.time) } else s1.putWalk w := by
  simp [State.nodeWaits, read, unmet, State.failWalk_first s1 0x66 sound]

/-- A conditional node branches by its comparison and its limit, and counts the branches in its own record (R424). -/
theorem State.nodeDecides_taken {bs : List Byte} (read : s.agentRead w.space (recWord w.body 8) 8 = .ok (s1, bs))
    (taken : nodeCompare w.body (recWord bs 0) = true ∧ (recNat w.body 32 4 = 0 ∨ recNat w.body 48 4 < recNat w.body 32 4))
    (counted : s1.agentWrite w.space (w.addr + 48) (leBytes 4 (recNat w.body 48 4 + 1)) = .ok s2) :
    s.nodeDecides w = s2.putWalk (w.goTo s2.time (recNat w.body 4 4)) := by
  have branch : (nodeCompare w.body (recWord bs 0) && (recNat w.body 32 4 == 0 || decide (recNat w.body 48 4 < recNat w.body 32 4))) = true := by
    simpa using taken
  simp only [State.nodeDecides, read, Option.map_none, branch, if_true, counted]
  rfl

theorem State.nodeDecides_falls {bs : List Byte} (read : s.agentRead w.space (recWord w.body 8) 8 = .ok (s1, bs))
    (falls : ¬ (nodeCompare w.body (recWord bs 0) = true ∧ (recNat w.body 32 4 = 0 ∨ recNat w.body 48 4 < recNat w.body 32 4)))
    (counted : s1.agentWrite w.space (w.addr + 48) (leBytes 4 0) = .ok s2) :
    s.nodeDecides w = s2.putWalk (w.goTo s2.time (w.node + 1)) := by
  have branch : (nodeCompare w.body (recWord bs 0) && (recNat w.body 32 4 == 0 || decide (recNat w.body 48 4 < recNat w.body 32 4))) = false := by
    rw [Bool.eq_false_iff]
    simpa using falls
  simp only [State.nodeDecides, read, Option.map_none, branch, Bool.false_eq_true, if_false, counted]
  rfl

theorem State.interrupts_nodeDrains (s : State) (w : Walk) : (s.nodeDrains w).interrupts =
    if (s.hostRing (recNat w.body 4 4)).pend = 0 then s.interrupts else (s.hostRing (recNat w.body 4 4)).vector.toNat :: s.interrupts := by
  simp only [State.nodeDrains, beq_iff_eq]
  split <;> rfl

/-- A walk ends once its NOWAIT operations have. -/
theorem State.nodeEnds_ends (sound : w.failed = none) (rest : w.nowait = []) (compl : w.compl = none) :
    s.nodeEnds w = { s with walks := s.walks.filter (·.num != w.num) } := by
  simp [State.nodeEnds, State.endWalk, sound, rest, compl]

end

/-! ## Waits, doorbells and the time rule (21 R413, R423, R425, R429) -/

section
variable {s : State} {w : Walk} (known : s.walkOf w.num = some w) (started : w.started = true) (sound : w.failed = none)
  (kind : nodeKind w.body = 2)
include known started sound kind

theorem State.waitsOnWord_some : s.waitsOnWord w.num = some w := by
  simp [State.waitsOnWord, known, started, sound, kind]

theorem exec_waitOnWordReread : exec (.waitOnWordReread w.num) s = .next (s.nodeWaits w) := by
  simp only [exec, execWaitOnWordReread, State.waitsOnWord_some known started sound kind]

theorem exec_graphWaitTimeout : exec (.graphWaitTimeout w.num) s =
    .next (if recNat w.body 36 4 ≠ 0 ∧ w.startedAt + 1000 * recNat w.body 36 4 ≤ s.ns then s.nodeWaits w else s) := by
  simp [exec, execGraphWaitTimeout, State.waitsOnWord_some known started sound kind]

end

theorem exec_graphDoorbell_refused {s : State} {pa : Nat} (h : pa % 32 ≠ 0 ∨ s.booted = false) : exec (.graphDoorbell pa) s = .next s := by
  refine congrArg Host.Outcome.next (if_pos ?_)
  simpa using h

/-- A walk begins where fewer than 64 are under way (R422). -/
theorem State.startWalk_free {s : State} (room : s.walks.length < 64) (g : Word) (nnodes : Nat) (sp : Space) (priv : Bool) (compl : Option Word) :
    ∃ t, s.startWalk g nnodes sp priv compl = some t ∧ t.mem = s.mem ∧ t.walks.length = s.walks.length + 1 := by
  exact ⟨_, if_neg (Nat.not_le.mpr room), rfl, List.length_append⟩

/-- A doorbell at a start block within its limits starts a walk where one is free. -/
theorem exec_graphDoorbell_starts {s s1 : State} {pa : Nat} {b : List Byte} (place : pa % 32 = 0) (booted : s.booted = true)
    (read : s.agentRead ⟨0, none⟩ (BitVec.ofNat 64 pa) 32 = .ok (s1, b)) (valid : startBlockBad b = false) (room : s1.walks.length < 64) :
    ∃ t, exec (.graphDoorbell pa) s = .next t ∧ t.mem = s1.mem ∧ t.walks.length = s1.walks.length + 1 := by
  obtain ⟨t, begun, mem, walks⟩ := s1.startWalk_free room (recWord b 0) (recNat b 8 4) ⟨BitVec.ofNat 16 (recNat b 12 2), some (recNat b 16 8)⟩ true
    (if recWord b 24 == 0 then none else some (recWord b 24))
  refine ⟨t, ?_, mem, walks⟩
  simp only [exec, execGraphDoorbell, State.graphBell, place, booted, read, valid, begun, bne_self_eq_false, Bool.not_true, Bool.or_self,
    Bool.false_eq_true, if_false]

theorem State.hostRing_setHostRing (s : State) {r : Nat} (hr : r < 16) (x : HostRing) : (s.setHostRing r x).hostRing r = x := by
  simp [State.setHostRing, State.hostRing, hr]

end Sys2Proof.Machine

namespace Sys2Proof.Proofs

open Sys2Proof.Machine Sys2Proof.Safety

/-- Settles O46: a node by its kind once it has started, an invalid one as it is read, a wait by its word and its limit, a conditional by whether
it branches, a doorbell by its block, and a ring by its time. -/
theorem graphEvents : Obligations.GraphEvents := by
  refine ⟨fun s s1 s2 w kind b starts => ?nodes, fun s s1 w b known sound fresh read bad i hi => ?invalid,
    fun s w known started sound kind => ?waits, fun s s1 w bs read => ?decides,
    fun s pa => ⟨exec_graphDoorbell_refused, fun s1 b => exec_graphDoorbell_starts⟩, fun s r => ⟨fun early => ?_, fun hr late => ?_⟩⟩
  case nodes =>
    have effect := congrArg (Host.Outcome.next (φ := Fault) (ρ := Refusal)) (State.runWalk_nodeStarts starts)
    obtain ⟨-, sound, -, -, -, own, -⟩ := starts
    have own' : nodeKind (startedWalk s w b).body = kind := own
    rw [State.nodeEffect, own'] at effect
    intro x
    refine ⟨?_, ?_, ?_, ?_, ?_, ?_, ?_, ?_⟩ <;> rintro rfl
    · exact ⟨_, effect, rfl, rfl⟩
    · exact ⟨_, effect, s2.nodeCopies_mem x, s2.copies_nodeCopies x⟩
    · exact effect
    · exact fun write s3 done => effect.trans (congrArg _ (State.nodeSignals_writes (w := x) write done))
    · exact fun add s3 gs reached clean => ⟨_, effect, State.nodeSignals_adds (w := x) add reached clean⟩
    · exact effect
    · exact ⟨_, effect, s2.nodeDrains_mem x, s2.interrupts_nodeDrains x⟩
    · exact fun rest compl => effect.trans (congrArg _ (State.nodeEnds_ends (w := x) sound rest compl))
  case invalid =>
    obtain ⟨kind, runs⟩ := exec_nodeEvents s w.num i hi
    rw [runs, State.runWalk_invalid known sound fresh read bad]
  case waits =>
    have timeout := exec_graphWaitTimeout known started sound kind
    refine ⟨exec_waitOnWordReread known started sound kind, fun endless => ?_, fun limit late => ?_, fun s1 bs read =>
      ⟨State.nodeWaits_passes read, State.nodeWaits_waits sound read⟩⟩
    · rw [timeout, if_neg fun h => h.1 endless]
    · rw [timeout, if_pos ⟨limit, late⟩]
  case decides =>
    intro taken s2
    exact ⟨State.nodeDecides_taken read, State.nodeDecides_falls read⟩
  · exact congrArg Host.Outcome.next (if_neg (Bool.eq_false_iff.mp early))
  · refine ⟨_, congrArg Host.Outcome.next (if_pos late), ?_, rfl, s.raiseRing_mem r⟩
    exact congrArg HostRing.pend (s.hostRing_setHostRing hr _)

end Sys2Proof.Proofs
end


section
/-! PROOFS. Resets, the firmware switch, trace rings, triggers and the freeze signal (27 R487 to R490, R493; 28 R497, R499). -/

namespace Sys2Proof.Machine

open Sys2Proof.Safety

/-! ## Resets (28 R497) -/

section
variable (s : State) (bs : List Mcb)

/-- A reset keeps of memory what lies outside this node's: the host's bytes, and other packages' (R497). -/
theorem State.mem_rebooted (c : Host.Cell) :
    c ∈ (s.rebooted bs).mem ↔ c ∈ s.mem ∧ (isHost c.1 = true ∨ (isScratch c.1 = false ∧ keyNode c.1 ≠ s.node)) := by
  simp [State.rebooted]

theorem State.portAt_rebooted (p : Fin 6) :
    (s.rebooted bs).portAt p.val = if s.unitServes 2 p.val then Port.reset else { Port.reset with state := .fenced } := by
  simp [State.portAt, State.rebooted]

theorem State.benches_rebooted :
    (s.rebooted bs).benches.map (fun b => (b.num, b.features)) = s.benches.map (fun b => (b.num, b.features)) := by
  simp [State.rebooted, Function.comp_def, Bench.reset]

/-- A boot that fails is a fatal machine check with BOOTOK clear. -/
theorem State.boot_fails (s : State) {e : BootEnd} (failed : e = .unverified ∨ e = .untrained) :
    (s.boot e).booted = false ∧ (s.boot e).fatal = true ∧ (s.boot e).cx = s.cx := by
  have check (bank : Nat) (c : Check) (fatal : c.sev = 3) : let t := ({ s with booted := false } : State).machineCheck bank c
      t.booted = false ∧ t.fatal = true ∧ t.cx = s.cx := by
    have errors := State.machineCheck_errorOnly { s with booted := false } bank c
    exact ⟨(congrArg State.booted errors :), (State.machineCheck_fatal ..).trans (by simp [fatal]), errors.cx⟩
  rcases failed with rfl | rfl
  · exact check _ _ rfl
  · exact check _ _ rfl

end

/-! ## Trace rings (27 R487, R493) -/

section
variable (s : State)

/-- Bytes of a trace ring change memory and the directory alone. -/
theorem State.tracePut_eq (host : Bool) (a : Nat) (bs : List Byte) : s.tracePut host a bs =
    { s with lines := (s.tracePut host a bs).lines, ports := (s.tracePut host a bs).ports,
             mem := Memory.write s.mem (s.physKey host a) bs } := by
  refine (s.homeWrite_eq [(s.physKey host a, bs.length)] bs).trans ?_
  rw [writeSegs_single _ _ _ _ rfl]
  rfl

/-- A ring that takes a record now: it is enabled, has room, and does not lie in host memory in debug hold. -/
def State.ringTakes (r : TraceRing) : Prop := (r.tail - r.head).toNat ≠ 2 ^ r.log2 ∧ (r.host && s.debugHold) = false

/-- The ring of a number. -/
def State.ringOf (ring : BitVec 4) : TraceRing := s.traces[ring.toNat]'(by omega)

/-- A ring is replaced. -/
def State.setRing (ring : BitVec 4) (r : TraceRing) : State := { s with traces := s.traces.set ring.toNat r (by omega) }

@[simp] theorem State.ringOf_setRing (ring : BitVec 4) (r : TraceRing) : (s.setRing ring r).ringOf ring = r := by
  simp [State.ringOf, State.setRing]

/-- A ring that has dropped a record. -/
def TraceRing.dropped (r : TraceRing) : TraceRing := { r with dropcnt := if r.dropcnt == BitVec.allOnes 32 then r.dropcnt else r.dropcnt + 1 }

/-- A ring after a record. -/
def TraceRing.appended (r : TraceRing) : TraceRing := { r with tail := r.tail + 1 }

/-- A record written at the tail of its ring. -/
def State.ringPut (ring : BitVec 4) (bs : List Byte) : State :=
  let r := s.ringOf ring
  { s.tracePut r.host (r.base + 64 * (r.tail.toNat % 2 ^ r.log2)) bs with traces := (s.setRing ring r.appended).traces }

section
variable (ring : BitVec 4) (bs : List Byte)

theorem State.ringPut_keeps : (s.ringPut ring bs).cx = s.cx ∧ (s.ringPut ring bs).triggers = s.triggers ∧
    (s.ringPut ring bs).ringOf ring = (s.ringOf ring).appended ∧ (s.ringPut ring bs).mem =
      Memory.write s.mem (s.physKey (s.ringOf ring).host ((s.ringOf ring).base + 64 * ((s.ringOf ring).tail.toNat % 2 ^ (s.ringOf ring).log2))) bs := by
  simp only [State.ringPut]
  rw [State.tracePut_eq]
  exact ⟨rfl, rfl, s.ringOf_setRing ring _, rfl⟩

theorem State.traceWrite_disabled (off : (s.ringOf ring).en = false) : s.traceWrite ring bs = s :=
  if_pos (show (!(s.ringOf ring).en) = true by rw [off]; rfl)

variable (en : (s.ringOf ring).en = true)
include en

theorem State.traceWrite_takes (takes : s.ringTakes (s.ringOf ring)) : s.traceWrite ring bs = s.ringPut ring bs := by
  refine (if_neg (show ¬ (!(s.ringOf ring).en) = true by rw [en]; decide)).trans (if_neg ?_)
  rw [Bool.or_eq_true, beq_iff_eq]
  exact fun full => full.elim takes.1 (Bool.eq_false_iff.mp takes.2)

theorem State.traceWrite_drops (full : ¬ s.ringTakes (s.ringOf ring)) : s.traceWrite ring bs = s.setRing ring (s.ringOf ring).dropped := by
  refine (if_neg (show ¬ (!(s.ringOf ring).en) = true by rw [en]; decide)).trans (if_pos ?_)
  rw [Bool.or_eq_true, beq_iff_eq]
  by_contra neither
  exact full ⟨fun e => neither (.inl e), Bool.eq_false_iff.mpr fun e => neither (.inr e)⟩

end

/-- A trace record leaves the contexts and the triggers. -/
theorem State.traceWrite_keeps (ring : BitVec 4) (bs : List Byte) :
    (s.traceWrite ring bs).cx = s.cx ∧ (s.traceWrite ring bs).triggers = s.triggers := by
  cases en : (s.ringOf ring).en with
  | false =>
    rw [s.traceWrite_disabled ring bs en]
    exact ⟨rfl, rfl⟩
  | true =>
    by_cases takes : s.ringTakes (s.ringOf ring)
    · obtain ⟨cx, triggers, -⟩ := s.ringPut_keeps ring bs
      rw [s.traceWrite_takes ring bs en takes]
      exact ⟨cx, triggers⟩
    · rw [s.traceWrite_drops ring bs en takes]
      exact ⟨rfl, rfl⟩

end

/-- DROPCNT counts to its largest value and stays there. -/
theorem toNat_saturatingSucc (n : BitVec 32) : (if n == BitVec.allOnes 32 then n else n + 1).toNat = min (2 ^ 32 - 1) (n.toNat + 1) := by
  have small := n.isLt
  have top : n = BitVec.allOnes 32 ↔ n.toNat = 2 ^ 32 - 1 := by
    rw [← BitVec.toNat_inj, BitVec.toNat_allOnes]
  simp only [beq_iff_eq, top]
  split
  · omega
  · rw [BitVec.toNat_add, show (1 : BitVec 32).toNat = 1 from rfl]
    omega

section
variable {s : State} {c : CtxRef} {x : Ctx} {p : Sampling}

theorem exec_sample (found : s.findCtx c = some x) : exec (.sample c) s = .next (s.sample x) := by
  show Host.Outcome.next _ = _
  rw [found]

variable (sampled : s.samplings.find? (fun q => q.asid == x.asid) = some p)
include sampled

/-- A sample that is due writes a record of kind 3 (R488). -/
theorem State.sample_writes (running : x.life = .running) (on : p.period ≠ 0) (due : x.cycle.toNat % p.period = 0) (plain : x.sealed = false) :
    s.sample x = s.traceWrite p.ring (s.traceRecord x 3 x.pc) := by
  simp [State.sample, sampled, running, on, due, plain, mayTrace]

theorem State.sample_none (idle : x.life ≠ .running ∨ p.period = 0 ∨ x.cycle.toNat % p.period ≠ 0 ∨ x.sealed = true) : s.sample x = s := by
  simp only [State.sample, sampled, mayTrace]
  refine if_neg fun h => ?_
  simp at h
  obtain ⟨⟨⟨running, on⟩, due⟩, plain⟩ := h
  simp [running, on, due, plain] at idle

end

section
variable {s : State} {r : Fin 16}

theorem exec_traceTailFlush (s : State) (r : Fin 16) : exec (.traceTailFlush r.val) s = .next (s.flushTail r) :=
  congrArg Host.Outcome.next (dif_pos r.isLt)

theorem State.flushTail_shows (en : s.traces[r].en = true) (pending : s.traces[r].shown ≠ s.traces[r].tail)
    (free : (s.traces[r].host && s.debugHold) = false) : s.flushTail r =
      { s.tracePut s.traces[r].host s.traces[r].tailAddr (leBytes 8 s.traces[r].tail.toNat) with
        traces := s.traces.set r { s.traces[r] with shown := s.traces[r].tail } } := by
  simp only [State.flushTail, en, free, bne_iff_ne.mpr pending, Bool.not_false, Bool.and_self, if_true]

theorem State.flushTail_rests (h : s.traces[r].en = false ∨ s.traces[r].shown = s.traces[r].tail ∨ (s.traces[r].host && s.debugHold) = true) :
    s.flushTail r = s := by
  refine if_neg fun on => ?_
  simp only [Bool.and_eq_true, bne_iff_ne, Bool.not_eq_true'] at on
  obtain ⟨⟨en, pending⟩, free⟩ := on
  rcases h with h | h | h
  · rw [en] at h; cases h
  · exact pending h
  · rw [free] at h; cases h

end

/-! ## Triggers (27 R489) -/

section
variable (s : State) (n : Fin 8) (w : Word)

theorem exec_triggerArm : exec (.triggerArm n.val w) s = .next (s.writeTctl n w) :=
  congrArg Host.Outcome.next (dif_pos n.isLt)

/-- A write of TCTL changes its trigger, and beside it only what a trace record does. -/
theorem State.writeTctl_keeps : (s.writeTctl n w).cx = s.cx ∧ (s.writeTctl n w).triggers[n] = s.triggers[n].ofCtl w := by
  unfold State.writeTctl
  extract_lets t s1
  have written : s1.triggers[n] = t := by simp [s1]
  split
  · obtain ⟨cx, triggers⟩ := s1.traceWrite_keeps t.ring (s1.traceRecord Ctx.reset 6 0)
    exact ⟨cx, (congrArg (·[n]) triggers).trans written⟩
  · exact ⟨rfl, written⟩

/-- A trigger that does not start on arming writes no record. -/
theorem State.writeTctl_mem (later : (s.triggers[n].ofCtl w).state ≠ .tracing) : (s.writeTctl n w).mem = s.mem := by
  unfold State.writeTctl
  extract_lets t s1
  exact (congrArg State.mem (if_neg (mt beq_iff_eq.mp later))).trans rfl

theorem Trigger.state_ofCtl (t : Trigger) :
    (t.ofCtl w).state = if bit w 63 then (if field w 58 3 = (0 : BitVec 3) then .tracing else .armed) else .idle := by
  simp [Trigger.ofCtl]

end

end Sys2Proof.Machine

namespace Sys2Proof.Proofs

open Sys2Proof.Machine Sys2Proof.Safety

/-- Settles O53: a reset by what it keeps, a ring by whether it takes a record, a trigger by its control word, and the clocks by debug hold. -/
theorem resetAndDebugEvents : Obligations.ResetAndDebugEvents := by
  refine ⟨fun s f hf => ?reset, fun s e he i hi => ?fails, fun s => ⟨fun staged quiet => ?switches, fun waits => ?_⟩, fun s r => ?tail,
    fun s c x p found sampled => ?sample, fun s n w => ?trigger,
    fun s d => ⟨fun hold => congrArg Host.Outcome.next (if_pos hold), fun out => congrArg Host.Outcome.next (if_neg (Bool.eq_false_iff.mp out)), rfl⟩,
    fun s => ⟨⟨_, rfl, rfl, rfl, rfl, fun d hd => ?_⟩, fun thawed => ?_, fun frozen => ?_⟩⟩
  case reset =>
    have runs : exec f.1 s = .next (s.rebooted f.2) := by
      simp only [List.mem_cons, List.not_mem_nil, or_false] at hf
      rcases hf with rfl | rfl <;> rfl
    refine ⟨_, runs, rfl, rfl, rfl, rfl, rfl, rfl, s.portAt_rebooted f.2, rfl, rfl, rfl, s.benches_rebooted f.2, rfl, rfl, rfl, rfl, rfl, rfl, rfl, rfl,
      fun c hc => ?_, s.mem_rebooted f.2⟩
    exact ((s.mem_rebooted f.2 c).mp hc).2.imp_right And.right
  case fails =>
    have runs : ∃ bs, exec i s = .next ((s.rebooted bs).boot e) := by
      simp only [List.mem_cons, List.not_mem_nil, or_false] at hi
      rcases hi with rfl | rfl <;> exact ⟨_, rfl⟩
    obtain ⟨bs, runs⟩ := runs
    obtain ⟨booted, fatal, cx⟩ := (s.rebooted bs).boot_fails (e := e) (by simpa using he)
    exact ⟨_, runs, booted, fatal, cx⟩
  case switches =>
    refine ⟨_, congrArg Host.Outcome.next (if_pos ?_), rfl, rfl, rfl, rfl, rfl, rfl, rfl⟩
    rw [staged, quiet]
    rfl
  · refine congrArg Host.Outcome.next (if_neg ?_)
    rcases waits with h | h <;> simp [h]
  case tail =>
    intro x held
    rw [exec_traceTailFlush]
    refine ⟨fun en pending free => ⟨_, congrArg _ (State.flushTail_shows en pending free), ?_, ?_⟩, fun h => congrArg _ (State.flushTail_rests h)⟩
    · rw [State.tracePut_eq]
    · simp [x]
  case sample =>
    intro r held
    rw [exec_sample found]
    refine ⟨fun running on due plain en room free => ?_, fun running on due plain en full => ?_, fun idle => congrArg _ (State.sample_none sampled idle)⟩
    · obtain ⟨cx, -, ring, mem⟩ := s.ringPut_keeps p.ring (s.traceRecord x 3 x.pc)
      have writes := (State.sample_writes sampled running on due plain).trans (s.traceWrite_takes p.ring _ en ⟨room, free⟩)
      exact ⟨_, congrArg _ writes, cx, ring, mem⟩
    · have drops : ¬ s.ringTakes (s.ringOf p.ring) := fun takes => full.elim takes.1 (Bool.eq_false_iff.mp takes.2)
      have ring := s.ringOf_setRing p.ring (s.ringOf p.ring).dropped
      have writes := (State.sample_writes sampled running on due plain).trans (s.traceWrite_drops p.ring _ en drops)
      exact ⟨_, congrArg _ writes, rfl, (congrArg TraceRing.tail ring :),
        (congrArg (fun r : TraceRing => r.dropcnt.toNat) ring).trans (toNat_saturatingSucc _)⟩
  case trigger =>
    intro start
    obtain ⟨cx, armed⟩ := s.writeTctl_keeps n w
    have state := Trigger.state_ofCtl w s.triggers[n]
    refine ⟨_, exec_triggerArm s n w, cx, ?_⟩
    rw [armed]
    refine ⟨fun off => ?_, fun on later => ?_, fun on now => ?_, rfl, rfl, rfl, rfl, rfl⟩
    · have idle : (s.triggers[n].ofCtl w).state = .idle := state.trans (if_neg (Bool.eq_false_iff.mp off))
      exact ⟨idle, s.writeTctl_mem n w (by rw [idle]; decide)⟩
    · have waits : (s.triggers[n].ofCtl w).state = .armed := (state.trans (if_pos on)).trans (if_neg later)
      exact ⟨waits, s.writeTctl_mem n w (by rw [waits]; decide)⟩
    · exact (state.trans (if_pos on)).trans (if_pos now)
  · simpa using (List.mem_filter.mp hd).2
  · exact congrArg Host.Outcome.next (if_pos (beq_iff_eq.mpr thawed))
  · exact congrArg Host.Outcome.next (if_neg (by simpa using frozen))

end Sys2Proof.Proofs
end


section
/-! PROOFS. The command queue (28 R503, R504): what a command event does with the head, and how a context submits a block. -/

namespace Sys2Proof.Machine

open Sys2Proof.Safety

/-! ## The head of the queue (28 R503, R504) -/

/-- Each command event serves the head as its own command. -/
theorem exec_commandEvents (s : State) : ∀ f ∈ commandEvents, exec f.1 s = .next (s.serve f.2.1.1 f.2.1.2 f.2.2) := by
  simp only [commandEvents, List.forall_mem_cons]
  exact ⟨rfl, rfl, rfl, rfl, rfl, rfl, rfl, rfl, rfl, rfl, rfl, rfl, rfl, List.forall_mem_nil _⟩

/-- The OP and SUBOP of a command's block. -/
def Command.code (c : Command) : Nat × Nat := (recNat c.block 0 2, recNat c.block 2 1)

/-- A block of no command: its code is none, or its reserved bytes are not zero. -/
def Command.IsBad (c : Command) : Prop := c.code ∉ commandCodes ∨ ∃ b ∈ (c.block.drop 3).take 5, b ≠ 0

theorem Command.isBad_iff (c : Command) : (!commandCodes.contains c.code || !recZero c.block 3 5) = true ↔ c.IsBad := by
  simp [Command.IsBad, recZero]

/-- The page of a command's completion word is absent. -/
def State.answerWaits (s : State) (c : Command) : Bool := s.absent c.space (recWord c.block 8) 8 .store

section
variable {s : State} {op sub : Nat} {body : Serve}

theorem State.serve_empty (empty : s.commands = []) : s.serve op sub body = s := by
  simp only [State.serve, empty]

variable {c : Command} {rest : List Command} (head : s.commands = c :: rest)
include head

theorem State.serve_waits (waits : s.answerWaits c = true) : s.serve op sub body = s := by
  unfold State.answerWaits at waits
  simp only [State.serve, head, waits, if_true]

theorem State.serve_bad (present : s.answerWaits c = false) (bad : c.IsBad) :
    s.serve op sub body = ({ s with commands := rest } : State).answerCommand c 1 := by
  have refused := c.isBad_iff.mpr bad
  unfold State.answerWaits at present
  unfold Command.code at refused
  simp only [State.serve, head, present, refused, Bool.false_eq_true, if_false, if_true]

variable (valid : ¬ c.IsBad)
include valid

/-- A valid head stays where it waits, where it is another command, or where the command itself waits. -/
theorem State.serve_stays (h : c.code ≠ (op, sub) ∨ body { s with commands := rest } c.space c.block = none) : s.serve op sub body = s := by
  cases present : s.answerWaits c with
  | true => exact State.serve_waits head present
  | false =>
    have served := Bool.eq_false_iff.mpr (mt c.isBad_iff.mp valid)
    unfold State.answerWaits at present
    unfold Command.code at served h
    simp only [State.serve, head, present, served, Bool.false_eq_true, if_false]
    by_cases own : (recNat c.block 0 2, recNat c.block 2 1) = (op, sub)
    · simp only [h.resolve_left (not_not_intro own), ite_self]
    · rw [if_pos (bne_iff_ne.mpr own)]

theorem State.serve_serves (present : s.answerWaits c = false) (own : c.code = (op, sub)) {s1 : State} {n : Nat}
    (served : body { s with commands := rest } c.space c.block = some (s1, n)) : s.serve op sub body = s1.answerCommand c n := by
  have good := Bool.eq_false_iff.mpr (mt c.isBad_iff.mp valid)
  unfold State.answerWaits at present
  unfold Command.code at good own
  rw [own] at good
  simp only [State.serve, head, present, good, own, served, bne_self_eq_false, Bool.false_eq_true, if_false]

end

/-! ## CSR 0xC80 (28 R503) -/

theorem State.csr_mailbox (s : State) : s.csr 0xC80 = some (Config.mailboxRead s.free) := rfl

theorem State.withCsr_mailbox {s : State} (priv : s.cx.priv = true) (k : Word → Done) : s.withCsr 0xC80 k = k (Config.mailboxRead s.free) :=
  State.withCsr_listed k (fun _ => priv) s.csr_mailbox

/-- The state once a context has submitted the block that an access has found. -/
def State.submitted (s s1 : State) (o : SI) (gs : List Seg) : State :=
  { s1 with commands := s1.commands ++ [⟨readSegs s1.mem gs, s.cx.space⟩], free := s.free + 1,
            cx := s1.cx.setSreg o.sd (Config.mailboxRead s.free) }

section
variable {s : State} {o : SI}

theorem State.submitCommand_fails (old : Word) {f : Fail} (failed : s.access (some 0) (s.cx.sreg o.sa).toNat 64 .load true = .fail f) :
    s.submitCommand o old = .stop (s.takeFail 0 s.cx.pc f) := by
  unfold State.submitCommand
  rw [failed]
  rfl

theorem State.submitCommand_queues {s1 : State} {gs : List Seg} (read : s.access (some 0) (s.cx.sreg o.sa).toNat 64 .load true = .ok s1 gs)
    (clean : segsPoisoned s1.poison gs = false) : s.submitCommand o (Config.mailboxRead s.free) = .next (s.submitted s1 o gs) s.after := by
  unfold State.submitCommand
  rw [read]
  exact if_neg (Bool.eq_false_iff.mp clean)

variable (mailbox : csrNumber o = 0xC80)
include mailbox

/-- CSRW of 0xC80 is a turn that submits the block at s[sa]. -/
theorem csrw_turnOf : ∃ body, TurnOf (.csrw o) s body ∧ body s = s.withCsr 0xC80 (s.submitCommand o) :=
  ⟨_, .guarded rfl rfl, by simp only [mailbox, beq_self_eq_true, if_true]⟩

theorem csrw_denied (h : Executes (.csrw o) s) (user : s.cx.priv = false) : exec (.csrw o) s = .next (s.takeTrap (s.cuTrap 0x04)) := by
  obtain ⟨body, turn, submits⟩ := csrw_turnOf (s := s) mailbox
  exact turn.stop h (submits.trans (State.withCsr_denied _ (by decide) user))

theorem csrw_submits (priv : s.cx.priv = true) :
    ∃ body, TurnOf (.csrw o) s body ∧ body s = s.submitCommand o (Config.mailboxRead s.free) := by
  obtain ⟨body, turn, submits⟩ := csrw_turnOf (s := s) mailbox
  exact ⟨body, turn, submits.trans (State.withCsr_mailbox priv _)⟩

variable (h : Executes (.csrw o) s) (priv : s.cx.priv = true)
include h priv

theorem csrw_fails {f : Fail} (failed : s.access (some 0) (s.cx.sreg o.sa).toNat 64 .load true = .fail f) :
    exec (.csrw o) s = .next (s.takeFail 0 s.cx.pc f) := by
  obtain ⟨body, turn, submits⟩ := csrw_submits mailbox priv
  exact turn.stop h (submits.trans (State.submitCommand_fails _ failed))

theorem csrw_queues {s1 : State} {gs : List Seg} (read : s.access (some 0) (s.cx.sreg o.sa).toNat 64 .load true = .ok s1 gs)
    (clean : segsPoisoned s1.poison gs = false) : exec (.csrw o) s = .next (executed (.csrw o) (s.submitted s1 o gs) s.after) := by
  obtain ⟨body, turn, submits⟩ := csrw_submits mailbox priv
  exact turn.next h (submits.trans (State.submitCommand_queues read clean))

end

end Sys2Proof.Machine

namespace Sys2Proof.Proofs

open Sys2Proof.Machine Sys2Proof.Safety

/-- Settles O54: the head of the queue by its completion word, its code and its command; a block by its access. -/
theorem managementCommands : Obligations.ManagementCommands := by
  refine ⟨fun s f hf => ?_, fun o s mailbox h => ⟨csrw_denied mailbox h, fun priv =>
    ⟨fun f => csrw_fails mailbox h priv, fun s1 gs read clean => ⟨_, csrw_queues mailbox h priv read clean, rfl, rfl, rfl⟩⟩⟩⟩
  rw [exec_commandEvents s f hf]
  refine ⟨fun empty => congrArg _ (State.serve_empty empty), fun c rest head => ?_⟩
  intro s0 code bad waits
  refine ⟨fun absent => congrArg _ (State.serve_waits head absent), fun present refused => congrArg _ (State.serve_bad head present refused),
    fun valid other => congrArg _ (State.serve_stays head valid (.inl other)), fun valid _ none => congrArg _ (State.serve_stays head valid (.inr none)),
    fun s1 n present valid own served => congrArg _ (State.serve_serves head valid present own served)⟩

end Sys2Proof.Proofs
end


section
/-! PROOFS. What each management command does with its block (28 R503 to R507). -/

namespace Sys2Proof.Machine

open Sys2Proof.Safety

/-! ## Blocks -/

/-- The reserved bytes of a range that is one command's are reserved in each of its parts. -/
theorem recZero_split {b : List Byte} {off m n : Nat} (h : recZero b off (m + n) = true) :
    recZero b off m = true ∧ recZero b (off + m) n = true := by
  simpa [recZero, List.take_add, List.drop_drop] using h

theorem leNat_lt (l : List Byte) : leNat l < 256 ^ l.length := by
  induction l with
  | nil => simp [leNat]
  | cons x l ih =>
    have := x.isLt
    simp only [leNat, List.length_cons, Nat.pow_succ]
    omega

/-- A field of four bytes is zero as a cohort's name where its number is. -/
theorem ofNat_recNat_four (b : List Byte) (off : Nat) : BitVec.ofNat 32 (recNat b off 4) = 0 ↔ recNat b off 4 = 0 := by
  have bound : recNat b off 4 < 2 ^ 32 :=
    (leNat_lt _).trans_le (Nat.pow_le_pow_right (n := 256) (by norm_num) (List.length_take_le 4 (b.drop off)))
  rw [← BitVec.toNat_inj, BitVec.toNat_ofNat, Nat.mod_eq_of_lt bound]
  rfl

/-! ## Keys (14 R309; 23 R451 to R453) -/

section
variable {s : State} {sp : Space} {b : List Byte}

theorem serveKeyset_bad (bad : keyArgsBad b = true) : serveKeyset s sp b = some (s, 1) := by
  simp only [serveKeyset, bad, Bool.true_or, if_true, State.refuse]

theorem serveKeyerase_bad (bad : keyArgsBad b = true) : serveKeyerase s sp b = some (s, 1) := by
  simp only [serveKeyerase, bad, Bool.true_or, if_true, State.refuse]

section
variable {s1 : State} {w : List Byte} {key : BitVec 256} (good : keyArgsBad b = false) (reserved : recZero b 32 32 = true)
  (read : s.agentRead sp (recWord b 24) 40 = .ok (s1, w)) (unwrapped : keyUnwrap Config.deviceKek w = some key)
include good reserved read unwrapped

theorem serveKeyset_slot (target : recNat b 18 1 = 0) :
    serveKeyset s sp b = some (s1.putKey { slot := recNat b 16 2, key := key, stored := 0, live := true }, 0) := by
  simp [serveKeyset, good, reserved, read, unwrapped, target, State.done]

theorem serveKeyset_port (target : recNat b 18 1 = 1) (free : (s1.portAt (recNat b 16 2)).oldv = false) :
    serveKeyset s sp b = some (s1.setPort (recNat b 16 2) ((s1.portAt (recNat b 16 2)).install (recNat b 19 1 == 1) key), 0) := by
  simp [serveKeyset, good, reserved, read, unwrapped, target, free, State.done]

end

section
variable (good : keyArgsBad b = false) (reserved : recZero b 24 40 = true) (target : recNat b 18 1 = 0) {k : KeySlot}
  (slot : s.keySlot (recNat b 16 2) = some k)
include good reserved target slot

theorem serveKeyerase_live (live : k.live = true) : serveKeyerase s sp b = some (s, 1) := by
  simp [serveKeyerase, good, reserved, target, slot, live, State.refuse]

theorem serveKeyerase_slot (live : k.live = false) :
    serveKeyerase s sp b = some ({ s with keys := s.keys.filter (·.slot != recNat b 16 2) }, 0) := by
  simp [serveKeyerase, good, reserved, target, slot, live, State.done]

end

/-! ## Tools (19 R383, R384) -/

theorem windowTable_getElem? (ws : List (Word × Word)) {i : Nat} (h : i < 16) : (windowTable ws)[i]? = some (ws.getD i windowReset) := by
  rw [windowTable, List.getElem?_append]
  split
  · rw [List.getD_eq_getElem _ _ ‹_›, List.getElem?_eq_getElem]
  · rw [List.getD_eq_default _ _ (by omega), List.getElem?_replicate, if_pos (by omega)]

theorem serveTool_bad (bad : toolArgsBad b = true) : serveTool s sp b = some (s, 1) := by
  simp only [serveTool, bad, if_true, State.refuse]

/-- The entry that TOOL writes. -/
def toolOf (sp : Space) (b : List Byte) (ws : List (Word × Word)) : Tool :=
  { num := recNat b 16 2, peer := recNat b 18 1 == 2, ring := recWord b 24, entries := recNat b 32 4, windows := windowTable ws,
    resolve := recNat b 48 8, tailAddr := recWord b 56, space := sp, tail := 0, outcome := 0, requests := [], unit := recNat b 16 2 % 32 }

section
variable (good : toolArgsBad b = false)
include good

theorem serveTool_removes (kind : recNat b 18 1 = 0) :
    serveTool s sp b = some ({ s with tools := s.tools.filter (·.num != recNat b 16 2) }, 0) := by
  simp [serveTool, good, kind, State.done]

variable (kind : recNat b 18 1 ≠ 0) {s1 : State} {w : List Byte}
  (read : s.agentRead sp (recWord b 40) (16 * recNat b 36 2) = .ok (s1, w))
include kind read

theorem serveTool_writes (inOrder : ∀ x ∈ windowsOf w, windowOk x = true) :
    serveTool s sp b = some (s1.putTool (toolOf sp b (windowsOf w)), 0) := by
  have all : (windowsOf w).all windowOk = true := List.all_eq_true.mpr inOrder
  simp [serveTool, good, kind, read, all, State.done, toolOf]

theorem serveTool_refuses (outOfOrder : ∃ x ∈ windowsOf w, windowOk x = false) : serveTool s sp b = some (s, 1) := by
  have some : (windowsOf w).all windowOk = false := by simpa using outOfOrder
  simp [serveTool, good, kind, read, some, State.refuse]

end

/-! ## Adapters, handlers and samples (19 R394; 26 R477; 27 R488) -/

theorem serveAdapter_adds (add : recNat b 20 1 = 0) (zero : recZero b 21 3 = true) (aligned : recNat b 24 8 % 65536 = 0)
    (node : recNat b 40 2 ≤ 319 ∨ recNat b 40 2 = 0xFFFF) (reserved : recZero b 42 22 = true) :
    serveAdapter s sp b = some ({ s with
      adapters := ⟨BitVec.ofNat 32 (recNat b 16 4), recNat b 24 8, recNat b 32 8, recNat b 40 2⟩ ::
        s.adapters.filter (·.num != BitVec.ofNat 32 (recNat b 16 4)) }, 0) := by
  have known : (319 < recNat b 40 2 && recNat b 40 2 != 0xFFFF) = false := by
    rcases node with low | none <;> simp [*]
  simp [serveAdapter, add, zero, aligned, known, reserved, State.done]

/-- The entry that HANDLER writes. -/
def handlerOf (sp : Space) (b : List Byte) : Handler :=
  { asid := BitVec.ofNat 16 (recNat b 16 2), space := sp, cohort := BitVec.ofNat 32 (recNat b 20 4), member := recNat b 24 1,
    address := recWord b 32, ring := recWord b 40, slots := recNat b 48 4, seq := 0, undecided := [] }

section
variable (reserved18 : recZero b 18 2 = true) (reserved25 : recZero b 25 7 = true) (reserved52 : recZero b 52 12 = true)
include reserved18 reserved25 reserved52

theorem serveHandler_removes (noName : recNat b 20 4 = 0) :
    serveHandler s sp b = some ({ s with handlers := s.handlers.filter (·.asid != BitVec.ofNat 16 (recNat b 16 2)) }, 0) := by
  simp [serveHandler, reserved18, reserved25, reserved52, noName, State.done]

theorem serveHandler_adds (name : recNat b 20 4 ≠ 0) (member : recNat b 24 1 ≤ 63) (address : recNat b 32 8 % 8 = 0)
    (ring : recNat b 40 8 % 64 = 0) (slots : powerOfTwo (recNat b 48 4) 16 (2 ^ 16) = true) :
    serveHandler s sp b = some ({ s with
      handlers := handlerOf sp b :: s.handlers.filter (·.asid != BitVec.ofNat 16 (recNat b 16 2)) }, 0) := by
  have named : ¬ BitVec.ofNat 32 (recNat b 20 4) = 0 := mt (ofNat_recNat_four b 20).mp name
  simp only [Nat.reducePow] at slots
  rw [← beq_iff_eq, Bool.not_eq_true] at named
  simp only [serveHandler, named]
  simp [reserved18, reserved25, reserved52, Nat.not_lt.mpr member, address, ring, slots, State.done, handlerOf]

end

section
variable (counter : recNat b 18 1 ≤ 15) (zero : recZero b 19 5 = true) (reserved : recZero b 32 32 = true)
include counter zero reserved

theorem serveSample_removes (noPeriod : recNat b 24 8 = 0) :
    serveSample s sp b = some ({ s with samplings := s.samplings.filter (·.asid != BitVec.ofNat 16 (recNat b 16 2)) }, 0) := by
  simp [serveSample, Nat.not_lt.mpr counter, zero, reserved, noPeriod, State.done]

theorem serveSample_adds (power : powerOfTwo (recNat b 24 8) 1024 (2 ^ 32) = true) (period : recNat b 24 8 ≠ 0) :
    serveSample s sp b = some ({ s with
      samplings := ⟨BitVec.ofNat 16 (recNat b 16 2), BitVec.ofNat 4 (recNat b 18 1), recNat b 24 8⟩ ::
        s.samplings.filter (·.asid != BitVec.ofNat 16 (recNat b 16 2)) }, 0) := by
  simp only [Nat.reducePow] at power
  simp [serveSample, Nat.not_lt.mpr counter, zero, reserved, power, period, State.done]

end

/-! ## Standing bindings (21 R420) -/

section
variable (reserved18 : recZero b 18 6 = true) (reserved56 : recZero b 56 8 = true)
include reserved18 reserved56

section
variable (named : recNat b 16 2 < 64) (remove : bit (recWord b 24) 63 = false)
include named remove

theorem serveBinding_busy (busy : s.bindingBusy (recNat b 16 2) = true) : serveBinding s sp b = some (s, 2) := by
  simp [serveBinding, named, reserved18, reserved56, remove, busy]

theorem serveBinding_removes (idle : s.bindingBusy (recNat b 16 2) = false) :
    serveBinding s sp b =
      some ((s.binding (recNat b 16 2)).stock.foldl State.retireName
        { s with standing := s.standing.set (recNat b 16 2) Standing.reset }, 0) := by
  simp [serveBinding, named, reserved18, reserved56, remove, idle, State.done, State.dropStock]

end

theorem serveBinding_sets (named : recNat b 16 2 < 64) (valid : bit (recWord b 24) 63 = true)
    (cluster : (field (recWord b 24) 50 6 : BitVec 6).toNat ≤ 23) (member : 1 ≤ (field (recWord b 24) 42 7 : BitVec 7).toNat)
    (fits : (field (recWord b 24) 42 7 : BitVec 7).toNat ≤ 64) :
    serveBinding s sp b = some ({ s with
      standing := s.standing.set (recNat b 16 2)
        { stock := (s.binding (recNat b 16 2)).stock, w0 := bindingWord0 (recWord b 24), w1 := recWord b 32 &&& ~~~0xFF
          w2 := recWord b 40 } }, 0) := by
  simp [serveBinding, named, reserved18, reserved56, valid, State.done, Nat.not_lt.mpr cluster, Nat.ne_of_gt member, Nat.not_lt.mpr fits]

end

theorem serveBinding_unnamed (h : 64 ≤ recNat b 16 2) : serveBinding s sp b = some (s, 1) := by
  simp only [serveBinding, dif_neg (Nat.not_lt.mpr h), State.refuse]

theorem State.binding_set (s : State) {n : Nat} (h : n < 64) (x : Standing) :
    ({ s with standing := s.standing.set n x } : State).binding n = x := by
  simp [State.binding, h]

theorem State.bindingBusy_iff (s : State) (n : Nat) : s.bindingBusy n = true ↔ ∃ l ∈ s.launches, l.binding = some n := by
  simp [State.bindingBusy]

/-! ## TERMINATE (21 R417) -/

theorem serveTerminate_none (reserved : recZero b 24 40 = true) (unknown : s.launchOf (recWord b 16) = none) :
    serveTerminate s sp b = some (s, 1) := by
  simp [serveTerminate, reserved, unknown, State.refuse]

theorem serveTerminate_done (reserved : recZero b 24 40 = true) {l : Launch} (known : s.launchOf (recWord b 16) = some l) :
    ∃ t, serveTerminate s sp b = some (t, 0) := by
  unfold serveTerminate
  rw [if_neg (by simp [reserved]), known]
  dsimp only [State.done]
  split <;> exact ⟨_, rfl⟩

/-! ## STOP and RELEASE (27 R491) -/

@[simp] theorem State.happens_stops (s : State) (h : Happening) : (s.happens h).stops = s.stops := by
  unfold State.happens; split <;> rfl

theorem State.event_stops (s : State) (c : Ctx) (kind : Nat) (data : Word) : (s.event c kind data).stops = s.stops := State.happens_stops ..

theorem State.modCtx_stops (s : State) (r : CtxRef) (f : Ctx → Ctx) : (s.modCtx r f).stops = s.stops := rfl

theorem State.stopIdle_stops (s : State) (p : Stop) : (s.stopIdle p).stops = s.stops :=
  List.foldlRecOn (motive := fun t : State => t.stops = s.stops) _ _ rfl fun _ h _ _ => (State.event_stops ..).trans h

theorem State.releaseCtx_stops (s : State) (r : CtxRef) : (s.releaseCtx r).stops = s.stops := by
  unfold State.releaseCtx
  split
  · rfl
  · extract_lets
    split
    · exact State.event_stops ..
    · rfl

theorem State.release_stops (s : State) (p : Stop) : (s.release p).stops = s.stops.filter (· != p) :=
  List.foldlRecOn (motive := fun t : State => t.stops = s.stops.filter (· != p)) _ _ rfl
    fun _ h _ _ => (State.releaseCtx_stops ..).trans h

section
variable {p : Stop}

theorem serveStop_none (bad : stopOf b = none) : serveStop s sp b = some (s, 1) := by
  simp only [serveStop, bad, State.refuse]

theorem serveRelease_none (bad : stopOf b = none) : serveRelease s sp b = some (s, 1) := by
  simp only [serveRelease, bad, State.refuse]

variable (described : stopOf b = some p)
include described

theorem serveStop_stops : ∃ t, serveStop s sp b = some (t, 0) ∧ p ∈ t.stops := by
  refine ⟨_, by simp only [serveStop, described, State.done]; rfl, ?_⟩
  rw [State.stopIdle_stops]
  dsimp only
  split
  · exact List.contains_iff_mem.mp ‹_›
  · exact List.mem_append_right _ (List.mem_singleton_self p)

theorem serveRelease_stops : ∃ t, serveRelease s sp b = some (t, 0) ∧ p ∉ t.stops :=
  ⟨s.release p, by simp only [serveRelease, described, State.done], by simp [State.release_stops]⟩

end

/-! ## SERVICE of a bench (28 R507; 10 R220) -/

section
variable (bench : recNat b 16 1 = 0) (reserved18 : recZero b 18 2 = true) (reserved24 : recZero b 24 40 = true) (named : recNat b 20 4 < 192)
  {action : Nat} (asked : recNat b 17 1 = action) (known : action ≤ 3)
include bench reserved18 reserved24 named asked known

theorem serveService_bench : serveService s sp b = s.serviceBench (recNat b 20 4) action := by
  obtain ⟨reserved16, reserved40⟩ := recZero_split (m := 16) (n := 24) reserved24
  have inRange : ¬ 191 < recNat b 20 4 := by omega
  simp [serveService, bench, reserved18, reserved16, reserved40, asked, inRange, Nat.not_lt.mpr known]

end

theorem State.serviceBench_fence {n : Nat} (serves : (s.bench n).state = .inService) :
    s.serviceBench n 0 = some (s.setBench { s.bench n with state := .quiescing, toFence := true, asked := s.time }, 0) := by
  simp [State.serviceBench, State.fenceBench, serves, State.done]

theorem State.serviceBench_retire {n : Nat} (fenced : (s.bench n).state = .fenced) :
    s.serviceBench n 3 = some (s.setBench { s.bench n with state := .retired }, 0) := by
  simp [State.serviceBench, fenced, State.done]

theorem State.serviceBench_reinstate_untested {n : Nat} (fenced : (s.bench n).state = .fenced) (untested : (s.bench n).passed = false) :
    s.serviceBench n 2 = some (s, 1) := by
  simp [State.serviceBench, fenced, untested, State.refuse]

/-! ## UPDATE and ATTEST (28 R498 to R500) -/

section
variable (aligned : recNat b 24 4 % 64 = 0) (short : recNat b 24 4 ≤ 65536) (reserved : recZero b 33 31 = true)
  (fits : recNat b 28 4 + recNat b 24 4 ≤ 2 ^ 23)
include aligned short reserved fits

theorem serveUpdate_busy (last : recNat b 32 1 ≤ 1) (staged : s.stagedOk = true) : serveUpdate s sp b = some (s, 2) := by
  simp only [Nat.reducePow] at fits
  simp [serveUpdate, aligned, Nat.not_lt.mpr short, Nat.not_lt.mpr last, reserved, Nat.not_lt.mpr fits, staged]

theorem serveUpdate_stages (more : recNat b 32 1 = 0) (free : s.stagedOk = false) {s1 : State} {bs : List Byte}
    (read : s.agentRead sp (recWord b 16) (recNat b 24 4) = .ok (s1, bs)) :
    serveUpdate s sp b = some ({ s1 with staged := stageAt s.staged (recNat b 28 4) bs }, 0) := by
  simp only [Nat.reducePow] at fits
  simp [serveUpdate, aligned, Nat.not_lt.mpr short, more, reserved, Nat.not_lt.mpr fits, free, read, State.done]

end

section
variable (aligned : recNat b 48 8 % 8 = 0) (reserved : recZero b 60 4 = true)
include aligned reserved

theorem serveAttest_exhausted (used : Config.hssCapacity ≤ s.hssUsed) : serveAttest s sp b = some (s, 3) := by
  simp [serveAttest, aligned, reserved, used]

/-- What ATTEST writes: the report of the block's nonce, signed. -/
def State.signedReport (s : State) (b : List Byte) : List Byte :=
  s.report ((b.drop 16).take 32) ++ Config.hssSignature s.hssUsed (s.report ((b.drop 16).take 32))

theorem serveAttest_signs (unused : s.hssUsed < Config.hssCapacity) (fits : (s.signedReport b).length ≤ recNat b 56 4) {s1 : State}
    (written : ({ s with hssUsed := s.hssUsed + 1 } : State).agentWrite sp (recWord b 48) (s.signedReport b) = .ok s1) :
    serveAttest s sp b = some (s1, 0) := by
  unfold State.signedReport at fits written
  simp only [serveAttest, aligned, reserved, Nat.not_le.mpr unused, Nat.not_lt.mpr fits, written, State.done]
  simp

end

end

end Sys2Proof.Machine

namespace Sys2Proof.Proofs

open Sys2Proof.Machine Sys2Proof.Safety

/-- Settles O55: each clause is the command's own rule. -/
theorem commandEffects : Obligations.CommandEffects := by
  intro s sp b _
  refine ⟨fun s1 w key good zero read unwrapped => ⟨serveKeyset_slot good zero read unwrapped, serveKeyset_port good zero read unwrapped⟩,
    fun bad => ⟨serveKeyset_bad bad, serveKeyerase_bad bad⟩,
    fun good zero target => ⟨fun k => serveKeyerase_live good zero target, fun k => serveKeyerase_slot good zero target⟩,
    serveTool_removes, serveTool_bad, fun r52 r18 r25 => serveHandler_removes r18 r25 r52,
    fun named r18 r56 remove => ⟨fun busy => serveBinding_busy r18 r56 named remove ((s.bindingBusy_iff _).mpr busy), fun idle => ?_⟩,
    serveBinding_unnamed, fun zero => ⟨serveTerminate_none zero, fun l => serveTerminate_done zero⟩,
    fun p described => ⟨serveStop_stops described, serveRelease_stops described⟩,
    fun bad => ⟨serveStop_none bad, serveRelease_none bad⟩, serveSample_removes,
    fun aligned short last zero fits => serveUpdate_busy aligned short zero fits last, serveAttest_exhausted,
    fun s1 w good kind read => ⟨fun inOrder => ?_, serveTool_refuses good kind read⟩,
    fun add zero aligned node r42 => ⟨_, serveAdapter_adds add zero aligned node r42, rfl, rfl⟩,
    fun r18 r25 r52 name member address ring slots =>
      ⟨_, serveHandler_adds r18 r25 r52 name member address ring slots, rfl, _, List.mem_cons_self, rfl, rfl, rfl, rfl, rfl, rfl⟩,
    fun named r18 r56 valid cluster member fits => ⟨_, serveBinding_sets r18 r56 named valid cluster member fits, rfl, ?_⟩,
    fun counter zero r32 power period => ⟨_, serveSample_adds counter zero r32 power period, rfl, List.mem_cons_self⟩,
    fun bench r18 r24 named => ⟨fun serves asked => ?_, fun fenced asked => ?_, fun fenced untested asked => ?_⟩,
    fun s1 bs aligned short more zero fits free read => serveUpdate_stages aligned short zero fits more free read,
    fun s1 aligned zero unused => ?_⟩
  · refine serveBinding_removes r18 r56 named remove (Bool.eq_false_iff.mpr fun busy => ?_)
    obtain ⟨l, mem, names⟩ := (s.bindingBusy_iff _).mp busy
    exact idle l mem names
  · exact ⟨_, serveTool_writes good kind read inOrder, rfl, _, List.mem_cons_self, rfl, fun i => windowTable_getElem? _, rfl, rfl, rfl⟩
  · rw [s.binding_set named]
    exact ⟨rfl, rfl, rfl⟩
  · exact (serveService_bench bench r18 r24 named asked (by decide)).trans (State.serviceBench_fence serves)
  · exact (serveService_bench bench r18 r24 named asked (by decide)).trans (State.serviceBench_retire fenced)
  · exact (serveService_bench bench r18 r24 named asked (by decide)).trans (State.serviceBench_reinstate_untested fenced untested)
  · intro r bs fits written
    exact serveAttest_signs aligned zero unused fits written

end Sys2Proof.Proofs
end


section
/-! PROOFS. Launch records, the binding of cohorts, and the completion of launches (21 R409 to R421). -/

namespace Sys2Proof.Machine

open Sys2Proof.Safety

/-! ## Records (21 R412 to R414; 28 R503) -/

section
variable {s : State} {k : Nat} {x : Submission}

theorem exec_submitted (h : s.submissions[k]? = some x) : exec (.launchRecordArrival (.submitted k)) s =
    .next (({ s with submissions := s.submissions.eraseIdx k } : State).checkSubmission x) := by
  show Host.Outcome.next _ = _
  simp only [h]

theorem State.checkSubmission_unread {c : BitVec 7} (unread : s.agentRead x.space x.record 128 = .error c) :
    s.checkSubmission x = s.refuseLaunch x none 2 c := by
  unfold State.checkSubmission
  rw [unread]

/-- The address space in which the image of a context's or a walk's record is read (21 R411; log entry 38). -/
def Submission.own (x : Submission) (r : List Byte) : Space :=
  if x.priv = false ∨ recNat r 26 2 % 65536 = 0 then x.space else ⟨BitVec.ofNat 16 (recNat r 26 2), some (recNat r 64 8)⟩

theorem Submission.own_eq (x : Submission) (r : List Byte) :
    (if x.priv && BitVec.ofNat 16 (recNat r 26 2) != 0 then ⟨BitVec.ofNat 16 (recNat r 26 2), some (recNat r 64 8)⟩ else x.space) = x.own r := by
  have zero : BitVec.ofNat 16 (recNat r 26 2) = 0 ↔ recNat r 26 2 % 65536 = 0 := by
    rw [← BitVec.toNat_inj, BitVec.toNat_ofNat]; rfl
  simp only [Submission.own, ← zero]
  cases x.priv
  · rfl
  · by_cases h : BitVec.ofNat 16 (recNat r 26 2) = 0 <;> simp [h]

section
variable {s1 : State} {r : List Byte} (read : s.agentRead x.space x.record 128 = .ok (s1, r)) (device : x.hostRead = false)
include read device

theorem State.checkSubmission_refused {reason : Nat} {cause : BitVec 7}
    (bad : s1.checkLaunch r x.space (x.own r) x.priv false = .error (reason, cause)) :
    s.checkSubmission x = s1.refuseLaunch x (some (x.space, recWord r 96)) reason cause := by
  unfold State.checkSubmission
  rw [read]
  simp only [device, Bool.false_and, Bool.false_eq_true, if_false, Bool.false_or, Submission.own_eq, bad]

theorem State.checkSubmission_accepted {s2 : State} {y : Checked} (good : s1.checkLaunch r x.space (x.own r) x.priv false = .ok (s2, y)) :
    s.checkSubmission x = s2.acceptLaunch x r y x.space := by
  unfold State.checkSubmission
  rw [read]
  simp only [device, Bool.false_and, Bool.false_eq_true, if_false, Bool.false_or, Submission.own_eq, good]

end

end

/-! ## Handed cohorts (21 R414) -/

@[simp] theorem State.allocName_launches (s : State) (stage nmem number launch) : (s.allocName stage nmem number launch).1.launches = s.launches := by
  unfold State.allocName
  split <;> rfl

theorem State.takeStock_launches {s t : State} {b : Nat} {c : LCohort} {id : Word} {n : BitVec 32} (e : s.takeStock b c id = some (t, n)) :
    t.launches = s.launches := by
  grind [State.takeStock, State.modDir]

/-- Naming cohorts leaves the launches alone, and names each cohort once. -/
theorem State.nameCohorts_keeps (s : State) (id : Word) (b : Nat) (cs : List LCohort) :
    (s.nameCohorts id b cs).1.launches = s.launches ∧ (s.nameCohorts id b cs).2.length = cs.length := by
  induction cs generalizing s with
  | nil => exact ⟨rfl, rfl⟩
  | cons c rest ih =>
    unfold State.nameCohorts
    split
    · exact ⟨(ih _).1, congrArg (· + 1) (ih _).2⟩
    · refine ⟨(ih _).1.trans ?_, congrArg (· + 1) (ih _).2⟩
      split
      · exact State.takeStock_launches ‹_›
      · exact State.allocName_launches ..

@[simp] theorem numbered_length (cs : List LCohort) : (numbered cs).length = cs.length := by simp [numbered]

@[simp] theorem unitsOf_length {α : Type} (n : Nat) (l : List α) : (unitsOf n l).length = l.length / max 1 n := by simp [unitsOf]

/-- The cohorts that the accepting node hands over, before they have names. -/
def handedCohorts (h : HandedLaunch) : List LCohort := numbered ((unitsOf 8 h.table).map (cohortOf (field h.id 55 9 : BitVec 9).toNat))

theorem handedCohorts_length (h : HandedLaunch) : (handedCohorts h).length = h.table.length / 8 := by simp [handedCohorts]

section
variable {s : State} {h : HandedLaunch}

theorem State.takeHanded_unbooted (boot : s.booted = false) : s.takeHanded h = s := by simp [State.takeHanded, boot]

theorem State.takeHanded_unreadable {c : BitVec 7} (unread : s.readImage ⟨h.asid, some h.root⟩ (recWord h.record 0) = .error c) :
    s.takeHanded h = s := by
  simp [State.takeHanded, unread]

/-- The launch as this node keeps it, once it has named the cohorts. -/
def handedLaunch (s s1 : State) (h : HandedLaunch) (image : Image) : Launch :=
  launchOfRecord h.record h.id ⟨image, handedCohorts h, ⟨h.asid, some h.root⟩⟩
    (s1.nameCohorts h.id (recNat h.record 20 2) (handedCohorts h)).2 ⟨h.asid, some h.root⟩ s.ns none

theorem State.takeHanded_takes {s1 : State} {image : Image} (boot : s.booted = true)
    (read : s.readImage ⟨h.asid, some h.root⟩ (recWord h.record 0) = .ok (s1, image)) (new : (s1.launchOf h.id).isSome = false)
    (foreign : (field h.id 55 9 : BitVec 9).toNat ≠ s.node) (room : ((handedCohorts h).filter (·.node == s.node)).length ≤ s1.freeSlots) :
    s.takeHanded h = { (s1.nameCohorts h.id (recNat h.record 20 2) (handedCohorts h)).1 with
      launches := (s1.nameCohorts h.id (recNat h.record 20 2) (handedCohorts h)).1.launches ++ [handedLaunch s s1 h image] } := by
  have taken : ¬ ((s1.launchOf h.id).isSome || (field h.id 55 9 : BitVec 9).toNat == s.node ||
      decide (s1.freeSlots < ((handedCohorts h).filter (·.node == s.node)).length)) = true := by
    rw [new, beq_false_of_ne foreign, decide_eq_false (Nat.not_lt.mpr room)]
    exact Bool.false_ne_true
  unfold State.takeHanded
  rw [if_neg (by simp [boot]), read]
  exact if_neg taken

end

theorem State.launchBell_ignored {s : State} {pa : Nat} (h : pa % 128 ≠ 0 ∨ s.booted = false) : s.launchBell pa = s :=
  if_pos (by simpa using h)

theorem State.launchBell_submits {s : State} {pa : Nat} (aligned : pa % 128 = 0) (boot : s.booted = true) :
    s.launchBell pa = { s with submissions := s.submissions ++
      [{ record := BitVec.ofNat 64 pa, space := ⟨0, none⟩, priv := true, hostRead := true, by_ := .host }] } :=
  if_neg (by simp [aligned, boot])

/-! ## Binding (02 R28, R32; 21 R418 to R421) -/

/-- A cohort of a launch can be bound to slots, its stage apart. -/
def BindFits (s : State) (l : Launch) (c : LCohort) (slots : List BindSlot) : Prop :=
  c.bound = false ∧ c.node = s.node ∧ l.terminated = false ∧ c.placed slots = true ∧ s.slotsOk (List.range c.members) slots l.demand = true

section
variable {s : State} {l : Launch} {c : LCohort} {slots : List BindSlot}

theorem State.bindCohort_refuses {binding : Option Nat} (asked : l.binding = binding)
    (h : ¬ (BindFits s l c slots ∧ (binding = none → s.stageReady l c = true))) : s.bindCohort l c slots binding = s := by
  subst asked
  refine if_pos (Bool.not_eq_false _ ▸ fun bad => h ?_)
  simp only [Bool.or_eq_false_iff, Bool.not_eq_false', bne_eq_false_iff_eq, Bool.and_eq_false_iff] at bad
  obtain ⟨⟨⟨⟨⟨bound, node⟩, live⟩, stage⟩, placed⟩, ok⟩ := bad
  refine ⟨⟨bound, node, live, placed, ok⟩, fun none => ?_⟩
  simpa [none] using stage

end

section
variable {s : State} {id k : Nat} {l : Launch} {c : LCohort} (slots : List BindSlot) (launch : s.launchOf (BitVec.ofNat 64 id) = some l)
  (cohort : l.cohorts[k]? = some c)
include launch

theorem exec_cohortBind_standing (standing : l.binding.isSome = true) : exec (.cohortBind id k slots) s = .next s := by
  show Host.Outcome.next _ = _
  simp only [launch, standing, if_true]
  split <;> rfl

theorem exec_standingBind_none (unbound : l.binding = none) : exec (.standingBind id k slots) s = .next s := by
  show Host.Outcome.next _ = _
  simp only [launch, unbound]
  cases l.cohorts[k]? <;> rfl

include cohort

theorem exec_cohortBind (unbound : l.binding = none) : exec (.cohortBind id k slots) s =
    .next (if (s.bindCohort l c slots none).colocOk l then s.bindCohort l c slots none else s) := by
  show Host.Outcome.next _ = _
  simp only [launch, cohort, unbound, Option.isSome_none, Bool.false_eq_true, if_false]

/-- A cohort that does not fit, or whose stage is not due, stays pending. -/
theorem exec_cohortBind_refuses (unbound : l.binding = none) (h : ¬ (BindFits s l c slots ∧ s.stageReady l c = true)) :
    exec (.cohortBind id k slots) s = .next s := by
  rw [exec_cohortBind slots launch cohort unbound, State.bindCohort_refuses unbound (by simpa using h), ite_self]

variable {b : Nat} (standing : l.binding = some b)
include standing

theorem exec_standingBind : exec (.standingBind id k slots) s =
    .next (if slots.all (s.binding b).reserves && s.queueHead b == some (l.id, k) then s.bindCohort l c slots (some b) else s) := by
  show Host.Outcome.next _ = _
  simp only [launch, cohort, standing, State.inTurn, Option.all_some]

theorem exec_standingBind_unreserved (h : ∃ p ∈ slots, (s.binding b).reserves p = false) : exec (.standingBind id k slots) s = .next s := by
  have unreserved : slots.all (s.binding b).reserves = false := by simpa using h
  rw [exec_standingBind slots launch cohort standing, unreserved, Bool.false_and, if_neg Bool.false_ne_true]

theorem exec_standingBind_queued (h : s.queueHead b ≠ some (l.id, k)) : exec (.standingBind id k slots) s = .next s := by
  rw [exec_standingBind slots launch cohort standing, beq_false_of_ne h, Bool.and_false, if_neg Bool.false_ne_true]

theorem exec_standingBind_refuses (h : ¬ BindFits s l c slots) : exec (.standingBind id k slots) s = .next s := by
  rw [exec_standingBind slots launch cohort standing, State.bindCohort_refuses standing (mt And.left h), ite_self]

theorem exec_standingBind_binds (reserved : ∀ p ∈ slots, (s.binding b).reserves p = true) (turn : s.queueHead b = some (l.id, k)) :
    exec (.standingBind id k slots) s = .next (s.bindCohort l c slots (some b)) := by
  rw [exec_standingBind slots launch cohort standing, List.all_eq_true.mpr reserved, turn, beq_self_eq_true, Bool.and_self, if_pos rfl]

end

/-! ## The context of a member (03 R69; 21 R418) -/

/-- An argument takes its place in the registers, from s1 up. -/
def putArg (v : Vector Word 32) (x : Word × Nat) : Vector Word 32 := if h : x.2 + 1 < 32 then v.set (x.2 + 1) x.1 else v

theorem putArgs_getElem (args : List Word) (v : Vector Word 32) (n i : Nat) (hi : i < 32) :
    ((args.zipIdx n).foldl putArg v)[i] = if n < i ∧ i ≤ n + args.length then args.getD (i - 1 - n) 0 else v[i] := by
  induction args generalizing v n with
  | nil => simp
  | cons a rest ih =>
    rw [List.zipIdx_cons, List.foldl_cons, ih, List.length_cons]
    by_cases first : i = n + 1
    · subst first
      simp [putArg, hi]
    · have same : (putArg v (a, n))[i] = v[i] := by
        unfold putArg
        split
        · exact Vector.getElem_set_ne _ _ (by simpa using Ne.symm first)
        · rfl
      rw [same]
      by_cases inside : n + 1 < i ∧ i ≤ n + 1 + rest.length
      · rw [if_pos inside, if_pos (by omega), show i - 1 - n = (i - 1 - (n + 1)) + 1 by omega, List.getD_cons_succ]
      · rw [if_neg inside, if_neg (by omega)]

theorem bindCtx_sreg (s : State) (l : Launch) (c : LCohort) (m : Nat) (p : BindSlot) (k : BitVec 5) (pos : 0 < k.toNat) :
    (bindCtx s l c m p).sreg k = if k.toNat ≤ l.args.length then l.args.getD (k.toNat - 1) 0 else Ctx.reset.sreg k := by
  have named : (k == 0) = false := beq_false_of_ne fun h => by simp [h] at pos
  simp only [Ctx.sreg, named, Bool.false_eq_true, if_false]
  refine (putArgs_getElem l.args Ctx.reset.s 0 k.toNat (by omega)).trans ?_
  simp [pos]

/-! ## The entry of a context (21 R418; 27 R491) -/

section
variable (s : State) (x : Ctx) (e : Word)

/-- The state in which a new context of a bank is the current one. -/
def State.withNew : State := { s with cx := x, others := (if s.cx.life == .unbound then [] else [s.cx]) ++ s.others }

theorem State.withNew_others : (s.withNew x).others = s.ctxs := by
  simp only [State.withNew, State.ctxs]
  split <;> rfl

/-- The state in which a new context has started its first activation, or is held back, with what became of it. -/
def State.startNew : State × Bool := (s.withNew x).startActivation .launch e

theorem State.enterCtx_eq : s.enterCtx x e =
    if !(s.startNew x e).2 then { (s.startNew x e).1 with cx := { (s.startNew x e).1.cx with life := .inactive, entry := e } }
    else if (s.withNew x).others.any fun y => y.sameCore x && y.life == .running then
      { (s.startNew x e).1 with cx := { (s.startNew x e).1.cx with life := .inactive } }
    else (s.startNew x e).1 := rfl

theorem State.startActivation_coord (cause : ActCause) : (s.startActivation cause e).1.cx.coord = s.cx.coord := by
  unfold State.startActivation
  extract_lets _ c s1
  have held : s1.cx = s.cx := (State.event_cx ..).trans (by rw [State.happens_eq])
  split
  · exact (congrArg Ctx.coord (State.event_cx ..)).trans (congrArg Ctx.coord held :)
  · exact (congrArg Ctx.coord (State.event_cx ..) :)

/-- An activation that no breakpoint holds back runs from its entry. -/
theorem State.startActivation_unheld {s : State} {cause : ActCause} {e : Word}
    (unheld : s.breaks { s.cx with cause := cause, entry := e, started := s.ns, actno := s.cx.actno + 1 } = false) :
    (s.startActivation cause e).2 = true ∧ (s.startActivation cause e).1.cx =
      { s.cx with life := .running, since := s.cx.clk, pc := e, wdog := 0, cause := cause, entry := e, started := s.ns,
                  actno := s.cx.actno + 1 } := by
  have starts : s.startActivation cause e = (({ s with
      cx := { s.cx with life := .running, since := s.cx.clk, pc := e, wdog := 0, cause := cause, entry := e, started := s.ns,
                        actno := s.cx.actno + 1 } } : State).event _ 1 0, true) := if_neg (Bool.not_eq_true _ ▸ unheld)
  rw [starts]
  exact ⟨rfl, State.event_cx ..⟩

theorem State.enterCtx_coord : (s.enterCtx x e).cx.coord = x.coord := by
  refine Eq.trans ?_ ((s.withNew x).startActivation_coord e .launch)
  rw [State.enterCtx_eq]
  split
  · rfl
  · split <;> rfl

/-- A new context starts its activation at once where no other runs on its core and no breakpoint holds it. -/
theorem State.enterCtx_starts (free : CoreFree s x)
    (unheld : s.breaks { x with cause := .launch, entry := e, started := s.ns, actno := x.actno + 1 } = false) :
    (s.enterCtx x e).cx =
      { x with life := .running, since := x.clk, pc := e, wdog := 0, cause := .launch, entry := e, started := s.ns, actno := x.actno + 1 } := by
  have quiet : ((s.withNew x).others.any fun y => y.sameCore x && y.life == .running) = false := by
    rw [State.withNew_others, List.any_eq_false]
    intro y hy
    simpa using free y hy
  obtain ⟨started, entered⟩ := State.startActivation_unheld (s := s.withNew x) (cause := .launch) (e := e) unheld
  rw [State.enterCtx_eq, State.startNew, started, quiet]
  exact entered

end

/-! ## Completion (21 R416) -/

theorem State.completeLaunch_waits {s : State} {l : Launch} {told : Bool} (h : s.launchOver l told = false) : s.completeLaunch l told = s :=
  if_pos (by simp [h])

theorem State.completeLaunch_ends {s : State} {l : Launch} {told : Bool} (ended : s.launchOver l told = true)
    (present : s.absent l.complSpace l.compl (64 + 8 * l.entries.length) .store = false) (walk : l.walk = none) :
    ∀ y ∈ (s.completeLaunch l told).launches, y.id ≠ l.id := by
  have ends : ∃ t : State, (s.completeLaunch l told).launches = t.launches.filter (·.id != l.id) := by
    unfold State.completeLaunch
    rw [if_neg (by simp [ended, present])]
    dsimp only
    rw [show (s.remoteEntries l).walk = none from walk]
    exact ⟨_, rfl⟩
  obtain ⟨t, launches⟩ := ends
  simp [launches]

theorem exec_launchCompletion {s : State} {id : Nat} {l : Launch} (h : s.launchOf (BitVec.ofNat 64 id) = some l) :
    exec (.launchCompletion id) s = .next (s.completeLaunch l true) := by
  show Host.Outcome.next _ = _
  simp only [h]

end Sys2Proof.Machine

namespace Sys2Proof.Proofs

open Sys2Proof.Machine Sys2Proof.Safety

/-- Settles O45: each event by the rule of its case. -/
theorem launchEvents : Obligations.LaunchEvents := by
  refine ⟨fun s k x submitted => ⟨fun c unread => ?_, fun s1 r read device => ⟨fun c y bad => ?_, fun s2 y good => ?_⟩⟩,
    fun s h => ⟨fun boot => congrArg _ (State.takeHanded_unbooted boot), fun c unread => congrArg _ (State.takeHanded_unreadable unread),
      fun s1 image boot read new foreign room => ?_⟩,
    fun s pa => ⟨fun h => congrArg _ (State.launchBell_ignored h), fun aligned boot => congrArg _ (State.launchBell_submits aligned boot)⟩,
    ?bind,
    fun s l c m p => ⟨rfl, rfl, rfl, rfl, rfl, rfl, rfl, rfl, rfl, rfl, rfl, fun k pos given => ?_, fun k beyond => ?_,
      fun e => ⟨s.enterCtx_coord _ e, fun free unheld => ?_⟩⟩,
    fun s id l launch => ⟨fun h => ?_, fun ended present walk =>
      ⟨_, exec_launchCompletion launch, State.completeLaunch_ends ended present walk⟩⟩⟩
  case bind =>
    intro s id k l c slots launch cohort need fits
    refine ⟨fun unbound h => exec_cohortBind_refuses slots launch cohort unbound h, fun unbound _ _ apart => ?_,
      fun unbound _ _ _ => exec_cohortBind slots launch cohort unbound, exec_cohortBind_standing slots launch,
      exec_standingBind_none slots launch, fun b standing => ⟨exec_standingBind_unreserved slots launch cohort standing,
        exec_standingBind_queued slots launch cohort standing, fun _ h => exec_standingBind_refuses slots launch cohort standing h,
        fun reserved turn _ => exec_standingBind_binds slots launch cohort standing reserved turn⟩⟩
    rw [exec_cohortBind slots launch cohort unbound, if_pos (by simp [State.colocOk, apart])]
  · exact (exec_submitted submitted).trans (congrArg _ (State.checkSubmission_unread unread))
  · exact (exec_submitted submitted).trans (congrArg _ (State.checkSubmission_refused read device bad))
  · exact (exec_submitted submitted).trans (congrArg _ (State.checkSubmission_accepted read device good))
  · obtain ⟨launches, length⟩ := s1.nameCohorts_keeps h.id (recNat h.record 20 2) (handedCohorts h)
    exact ⟨_, congrArg Host.Outcome.next (State.takeHanded_takes boot read new foreign room),
      s1.nameCohorts_mem h.id (recNat h.record 20 2) (handedCohorts h), handedLaunch s s1 h image, congrArg (· ++ [handedLaunch s s1 h image]) launches, rfl, rfl, length.trans (handedCohorts_length h)⟩
  · rw [bindCtx_sreg s l c m p k pos, if_pos given]
  · rw [bindCtx_sreg s l c m p k (by omega), if_neg (Nat.not_le.mpr beyond)]
  · rw [s.enterCtx_starts _ e free unheld]
    exact ⟨rfl, rfl, rfl⟩
  · exact (exec_launchCompletion launch).trans (congrArg _ (State.completeLaunch_waits h))

end Sys2Proof.Proofs
end


section
/-! PROOFS. Links: training, replay, keys, the flits that arrive, and the pod (23 R440 to R453, R468). -/

namespace Sys2Proof.Machine

open Sys2Proof.Safety

/-! ## The ports of a state -/

/-- A port that is replaced reads as the new one. -/
@[simp] theorem State.portAt_setPort {n : Nat} (h : n < 6) (s : State) (p : Port) : (s.setPort n p).portAt n = p := by
  simp [State.setPort, State.portAt, h]

@[simp] theorem State.setPort_node (s : State) (n : Nat) (p : Port) : (s.setPort n p).node = s.node := by
  unfold State.setPort
  split <;> rfl

/-- A port that retains nothing has nothing to fail. -/
theorem Port.emptied_eq {p : Port} (empty : p.replay = []) : { p with replay := [] } = p := by
  rw [← empty]

theorem State.linkEvent_errorOnly (s : State) (n : Nat) (sev : BitVec 2) (synd : Nat) : s.ErrorOnly (s.linkEvent n sev synd) :=
  s.machineCheck_errorOnly _ _

@[simp] theorem State.linkEvent_portAt (s : State) (n : Nat) (sev : BitVec 2) (synd k : Nat) : (s.linkEvent n sev synd).portAt k = s.portAt k :=
  (congrArg (State.portAt · k) (s.linkEvent_errorOnly n sev synd) :)

@[simp] theorem State.linkEvent_node (s : State) (n : Nat) (sev : BitVec 2) (synd : Nat) : (s.linkEvent n sev synd).node = s.node :=
  (congrArg State.node (s.linkEvent_errorOnly n sev synd) :)

/-- A copy's unit that lands changes no port. -/
theorem State.landUnit_keeps (s : State) (x : Sent) : (s.landUnit x).ports = s.ports ∧ (s.landUnit x).node = s.node := by
  have recalled (gs : List Seg) : (s.recallSegs gs).ports = s.ports ∧ (s.recallSegs gs).node = s.node :=
    List.foldlRecOn (motive := fun t : State => t.ports = s.ports ∧ t.node = s.node) _ _ ⟨rfl, rfl⟩ fun _ h _ _ => h
  unfold State.landUnit
  split
  · exact recalled _
  all_goals exact ⟨rfl, rfl⟩

/-- Only a copy's unit lands. -/
theorem State.landUnit_other (s : State) {x : Sent} (h : ∀ num, x.origin ≠ .copy num) : s.landUnit x = s := by
  unfold State.landUnit
  split
  · exact absurd ‹_› (h _)
  all_goals rfl

/-! ## What a rotation and its RETIRE leave of a port (23 R452, R468) -/

/-- A port in another state. -/
def Port.withState (p : Port) (x : PortState) : Port := { p with state := x }

/-- Only keys, the rotation between them and what the port is to tell differ. -/
def Port.SameLink (p q : Port) : Prop :=
  q = { p with key0 := q.key0, key1 := q.key1, oldv := q.oldv, retireDue := q.retireDue, resent := q.resent, farRetired := q.farRetired,
               naks := q.naks, grants := q.grants, control := q.control }

namespace Port.SameLink

variable {p q r : Port}

theorem refl (p : Port) : p.SameLink p := rfl

theorem trans (h : p.SameLink q) (k : q.SameLink r) : p.SameLink r := by
  unfold SameLink at *
  rw [k, h]

theorem state (h : p.SameLink q) : q.state = p.state := (congrArg Port.state h :)
theorem width (h : p.SameLink q) : q.width = p.width := (congrArg Port.width h :)
theorem lanesel (h : p.SameLink q) : q.lanesel = p.lanesel := (congrArg Port.lanesel h :)
theorem ack (h : p.SameLink q) : q.ack = p.ack := (congrArg Port.ack h :)
theorem kp (h : p.SameLink q) : q.kp = p.kp := (congrArg Port.kp h :)
theorem switchDue (h : p.SameLink q) : q.switchDue = p.switchDue := (congrArg Port.switchDue h :)
theorem replay (h : p.SameLink q) : q.replay = p.replay := (congrArg Port.replay h :)
theorem expected (h : p.SameLink q) : q.expected = p.expected := (congrArg Port.expected h :)

theorem withState (h : p.SameLink q) (x : PortState) : (p.withState x).SameLink (q.withState x) := by
  unfold SameLink at *
  rw [h]
  rfl

end Port.SameLink

theorem Port.zeroise_sameLink (p : Port) (phase : Bool) : p.SameLink (p.zeroise phase) := by
  cases phase <;> rfl

theorem Port.endRotation_sameLink (p : Port) : p.SameLink p.endRotation := by
  unfold Port.endRotation
  split
  · exact (p.zeroise_sameLink _).trans rfl
  · rfl

theorem Port.noteRetire_sameLink (p : Port) : p.SameLink p.noteRetire := by
  unfold Port.noteRetire
  split
  · exact Port.SameLink.trans (q := ({ p with retireDue := true, resent := none } : Port).tell false true) rfl (Port.endRotation_sameLink _)
  · exact p.endRotation_sameLink

theorem Port.retireAgain_sameLink (p : Port) : p.SameLink p.retireAgain := by
  unfold Port.retireAgain
  split <;> rfl

/-- A rotation ends with RETIRE sent and received alone. -/
theorem Port.endRotation_waits {p : Port} (h : p.oldv = false ∨ p.retireDue = false ∨ p.farRetired = false) : p.endRotation = p :=
  if_neg (by grind)

/-! ## Acknowledgements and NAKs (23 R446, R447) -/

section
variable {n : Nat} (valid : n < 6) (s : State) (seq : Nat)

include valid in
theorem State.dropAcked_portAt : (s.dropAcked n seq).portAt n = ((s.portAt n).acked seq).noteRetire := by
  have landed : (s.dropAcked n seq).ports = (s.setPort n ((s.portAt n).acked seq).noteRetire).ports :=
    List.foldlRecOn (motive := fun t : State => t.ports = (s.setPort n ((s.portAt n).acked seq).noteRetire).ports) _ _ rfl
      fun t h x _ => (t.landUnit_keeps x).1.trans h
  exact (congrArg (fun v : Vector Port 6 => v.toList.getD n Port.reset) landed).trans (State.portAt_setPort valid s _)

theorem State.dropAcked_node : (s.dropAcked n seq).node = s.node :=
  List.foldlRecOn (motive := fun t : State => t.node = s.node) _ _ (s.setPort_node n _) fun t h x _ => (t.landUnit_keeps x).2.trans h

theorem State.dropAcked_mem (noCopy : ∀ x ∈ (s.portAt n).replay, ∀ num, x.origin ≠ .copy num) : (s.dropAcked n seq).mem = s.mem :=
  List.foldlRecOn (motive := fun t : State => t.mem = s.mem) _ _ (s.setPort_mem n _)
    fun t h x mem => (congrArg State.mem (t.landUnit_other (noCopy x (List.mem_of_mem_filter mem)))).trans h

/-- The port to which an acknowledgement or a NAK has come: its rotation apart. -/
theorem Port.acked_sameLink (p : Port) (seq : Nat) : (p.acked seq).SameLink (p.acked seq).noteRetire := Port.noteRetire_sameLink _

/-- The state of a port after a NAK. -/
def PortState.afterNak (x : PortState) : PortState := if x = .up then .replay else x

include valid in
/-- A NAK is an acknowledgement that starts the replay of a link in use. -/
theorem State.takeNak_portAt : (((s.portAt n).acked seq).withState (s.portAt n).state.afterNak).SameLink ((s.takeNak n seq).portAt n) := by
  unfold State.takeNak
  extract_lets s1 p s2
  have told : p = ((s.portAt n).acked seq).noteRetire := State.dropAcked_portAt valid s seq
  have acked : ((s.portAt n).acked seq).SameLink p.retireAgain.noteRetire := by
    rw [told]
    exact ((Port.acked_sameLink _ seq).trans (Port.retireAgain_sameLink _)).trans (Port.noteRetire_sameLink _)
  have state : p.state = (s.portAt n).state := by
    rw [told]
    exact (Port.acked_sameLink _ seq).state
  have replaced : s2.portAt n = p.retireAgain.noteRetire := State.portAt_setPort valid ..
  rw [← replaced] at acked
  split
  · next up =>
    rw [State.linkEvent_portAt, State.portAt_setPort valid, PortState.afterNak, if_pos (state.symm.trans (eq_of_beq up))]
    exact acked.withState .replay
  · next stays =>
    rw [PortState.afterNak, if_neg (fun up => stays (beq_iff_eq.mpr (state.trans up)))]
    exact acked

theorem State.takeNak_node : (s.takeNak n seq).node = s.node := by
  unfold State.takeNak
  extract_lets s1 p s2
  have replaced : s2.node = s.node := (State.setPort_node ..).trans (s.dropAcked_node seq)
  split
  · rw [State.linkEvent_node, State.setPort_node, replaced]
  · exact replaced

theorem State.takeNak_mem (noCopy : ∀ x ∈ (s.portAt n).replay, ∀ num, x.origin ≠ .copy num) : (s.takeNak n seq).mem = s.mem := by
  unfold State.takeNak
  extract_lets s1 p s2
  have replaced : s2.mem = s.mem := (State.setPort_mem ..).trans (s.dropAcked_mem seq noCopy)
  split
  · rw [State.linkEvent_mem, State.setPort_mem, replaced]
  · exact replaced

end

/-! ## Failures and training (23 R447, R448, R450) -/

section
variable {n : Nat} (valid : n < 6) {s : State}

theorem State.failRetained_nothing (cause : BitVec 7) (empty : (s.portAt n).replay = []) : s.failRetained n cause = s.setPort n (s.portAt n) := by
  unfold State.failRetained
  rw [Port.emptied_eq empty, empty]
  rfl

include valid in
theorem State.failPort_fails (empty : (s.portAt n).replay = []) :
    ((s.failPort n).portAt n).state = .failed ∧ (s.failPort n).mem = s.mem := by
  unfold State.failPort
  extract_lets _ s1
  have failed : (s1.linkEvent n 2 0).portAt n = { s.portAt n with state := .failed, width := 3, lanesel := 0 } :=
    (State.linkEvent_portAt ..).trans (State.portAt_setPort valid ..)
  rw [State.failRetained_nothing 0x58 (by rw [failed]; exact empty), State.portAt_setPort valid, State.setPort_mem, State.linkEvent_mem, failed]
  exact ⟨rfl, s.setPort_mem n _⟩

variable {seq : Nat}

theorem exec_trainingRequest_trains (down : (s.portAt n).state = .down) (serves : s.unitServes 2 n = true) :
    exec (.trainingRequest n) s = .next (s.train n) :=
  congrArg Host.Outcome.next (if_pos (by rw [down, serves]; rfl))

theorem exec_trainingRequest_ignored (h : (s.portAt n).state ≠ .down ∨ s.unitServes 2 n = false) : exec (.trainingRequest n) s = .next s :=
  congrArg Host.Outcome.next (if_neg (by grind))

theorem exec_linkTrained_width {w l : BitVec 2} (training : (s.portAt n).state = .train) (width : trainWidth (s.portAt n).failmask = some (w, l)) :
    exec (.linkTrained n seq) s = .next (s.setPort n { s.portAt n with state := .up, width := w, lanesel := l }) := by
  show Host.Outcome.next _ = _
  simp only [training, width]

theorem exec_linkTrained_none (training : (s.portAt n).state = .train ∨ (s.portAt n).state = .retrain)
    (none : trainWidth (s.portAt n).failmask = none) : exec (.linkTrained n seq) s = .next (s.failPort n) := by
  show Host.Outcome.next _ = _
  rcases training with training | training <;> simp only [training, none]

theorem exec_linkTrained_late (training : (s.portAt n).state = .retrain) (late : (s.portAt n).trainingAt + 20000 * 756 < s.time) :
    exec (.linkTrained n seq) s = .next (s.failPort n) := by
  show Host.Outcome.next _ = _
  simp only [training, if_pos late]
  split <;> rfl

/-- A retrained port, before the far end's number is taken. -/
def State.retrained (s : State) (n : Nat) (w l : BitVec 2) : State :=
  ((s.setPort n { s.portAt n with state := .replay, width := w, lanesel := l }).linkEvent n 1 0).linkEvent n 1 0

theorem exec_linkTrained_retrained {w l : BitVec 2} (training : (s.portAt n).state = .retrain)
    (width : trainWidth (s.portAt n).failmask = some (w, l)) (inTime : s.time ≤ (s.portAt n).trainingAt + 20000 * 756) :
    exec (.linkTrained n seq) s = .next ((s.retrained n w l).dropAcked n seq) := by
  show Host.Outcome.next _ = _
  simp only [training, width, if_neg (Nat.not_lt.mpr inTime)]
  rfl

include valid in
theorem State.retrained_portAt (w l : BitVec 2) : (s.retrained n w l).portAt n = { s.portAt n with state := .replay, width := w, lanesel := l } := by
  simp only [State.retrained, State.linkEvent_portAt, State.portAt_setPort valid]

theorem exec_retrainTimeout_fails (training : (s.portAt n).state = .retrain) (late : (s.portAt n).trainingAt + 20000 * 756 ≤ s.time) :
    exec (.retrainTimeout n) s = .next (s.failPort n) :=
  congrArg Host.Outcome.next (if_pos (by simpa [training] using late))

theorem exec_retrainTimeout_waits (h : (s.portAt n).state ≠ .retrain ∨ s.time < (s.portAt n).trainingAt + 20000 * 756) :
    exec (.retrainTimeout n) s = .next s :=
  congrArg Host.Outcome.next (if_neg (by simpa [Nat.not_le, imp_iff_not_or] using h))

/-- A lane fails: the port, and the link retrains where it is in use. -/
def Port.loseLane (p : Port) (lane now : Nat) : Port :=
  if p.state = .up ∨ p.state = .replay then { p with failmask := p.failmask ||| (1 <<< lane), state := .retrain, trainingAt := now }
  else { p with failmask := p.failmask ||| (1 <<< lane) }

theorem Port.loseLane_failmask (p : Port) (lane now : Nat) : (p.loseLane lane now).failmask = p.failmask ||| (1 <<< lane) := by
  unfold Port.loseLane
  split <;> rfl

theorem Port.loseLane_state (p : Port) (lane now : Nat) :
    (p.loseLane lane now).state = if p.state = .up ∨ p.state = .replay then .retrain else p.state := by
  unfold Port.loseLane
  split <;> rfl

theorem exec_laneFailure {lane : Nat} (h : lane < 16) :
    exec (.laneFailure n lane) s = .next ((s.setPort n ((s.portAt n).loseLane lane s.time)).linkEvent n 1 lane) := by
  refine congrArg Host.Outcome.next ((if_neg (Nat.not_le.mpr h)).trans ?_)
  unfold Port.loseLane
  split <;> simp [*]

end

/-! ## Credits and keys (23 R442, R451 to R453) -/

section
variable {n : Nat} (valid : n < 6) {s : State}

theorem exec_replayDone : exec (.replayDone n) s =
    .next (if (s.portAt n).state == .replay then s.setPort n ((s.portAt n).withState .up) else s) := rfl

theorem exec_creditReceive {cls vc k : Nat} (hc : cls < 3) (hv : vc < 2) : exec (.creditReceive n cls vc k) s =
    .next (s.setPort n { s.portAt n with
      credits := (s.portAt n).credits.set (2 * cls + vc) ((s.portAt n).credits[2 * cls + vc]'(by omega) + k) (by omega) }) := by
  show Host.Outcome.next _ = _
  rw [dif_pos (show 2 * cls + vc < 6 by omega), if_pos (by simp [hc, hv])]

/-- A port whose key phase has switched, before it looks whether RETIRE is due. -/
def Port.switched (p : Port) : Port := { p with kp := !p.kp, oldv := p.keyed, switchDue := false, farRetired := p.farRetired && p.keyed }

theorem exec_keyPhaseSwitch_switches (due : (s.portAt n).switchDue = true) (idle : (s.portAt n).oldv = false)
    (there : (if (s.portAt n).kp then (s.portAt n).key0 else (s.portAt n).key1).isSome = true) (up : (s.portAt n).state = .up) :
    exec (.keyPhaseSwitch n) s = .next (s.setPort n (s.portAt n).switched.noteRetire) := by
  refine congrArg Host.Outcome.next (if_pos ?_)
  cases phase : (s.portAt n).kp <;> simp_all

theorem exec_keyPhaseSwitch_waits (h : (s.portAt n).switchDue = false ∨ (s.portAt n).oldv = true ∨ (s.portAt n).state ≠ .up) :
    exec (.keyPhaseSwitch n) s = .next s :=
  congrArg Host.Outcome.next (if_neg (by grind))

/-- A switched port keeps both keys until RETIRE has been sent and received. -/
theorem Port.switched_keeps {p : Port} (unsent : p.retireDue = false)
    (pending : p.farRetired = false ∨ p.replay.all (fun x => x.kp == !p.kp) = false) :
    p.switched.noteRetire.oldv = p.keyed ∧ p.switched.noteRetire.key0 = p.key0 ∧ p.switched.noteRetire.key1 = p.key1 := by
  unfold Port.noteRetire
  split
  · next due =>
    have unretired : p.farRetired = false := pending.resolve_right fun some => by
      obtain ⟨x, mem, other⟩ := List.all_eq_false.mp some
      simp only [Bool.and_eq_true, List.all_eq_true] at due
      exact other (due.2 x mem).1
    rw [Port.endRotation_waits (.inr (.inr (by simp [Port.tell, Port.switched, unretired])))]
    exact ⟨rfl, rfl, rfl⟩
  · rw [Port.endRotation_waits (p := p.switched) (.inr (.inl unsent))]
    exact ⟨rfl, rfl, rfl⟩

theorem State.takeRetire_rotates (h : (s.portAt n).oldv = true ∨ (s.portAt n).switchDue = true) :
    s.takeRetire n = s.setPort n ({ s.portAt n with farRetired := true } : Port).endRotation :=
  if_pos (by simpa using h)

theorem State.takeRetire_ignored (h : (s.portAt n).oldv = false) (h' : (s.portAt n).switchDue = false) : s.takeRetire n = s :=
  if_neg (by simp [h, h'])

/-- A rotation whose RETIRE was sent ends with the far end's: the old slot is zeroised. -/
theorem Port.endRotation_ends {p : Port} (old : p.oldv = true) (sent : p.retireDue = true) : ({ p with farRetired := true } : Port).endRotation =
    { p.zeroise (!p.kp) with oldv := false, retireDue := false, resent := none, farRetired := false } := by
  unfold Port.endRotation
  rw [if_pos (by simp [old, sent])]
  cases hk : p.kp <;> simp [Port.zeroise, hk]

/-- A port without keys. -/
def Port.unkeyed (p : Port) : Port :=
  { p with key0 := none, key1 := none, oldv := false, retireDue := false, resent := none, farRetired := false, switchDue := false }

include valid in
theorem exec_partitionDissolve (empty : (s.portAt n).replay = []) :
    exec (.partitionDissolve [n]) s = .next ((s.setPort n (s.portAt n).unkeyed).setPort n (s.portAt n).unkeyed) := by
  have unkeyed : (s.setPort n (s.portAt n).unkeyed).portAt n = (s.portAt n).unkeyed := State.portAt_setPort valid ..
  have dissolved : (([n].filter (· < 6)).foldl State.withdraw s) = (s.setPort n (s.portAt n).unkeyed).failRetained n 0x59 := by
    rw [List.filter_cons_of_pos (by simpa using valid)]
    rfl
  refine congrArg Host.Outcome.next (dissolved.trans ?_)
  rw [State.failRetained_nothing 0x59 (by rw [unkeyed]; exact empty), unkeyed]

end

/-! ## Flits (23 R444, R446) -/

section
variable {n : Nat} {s : State} {fs : List (List Byte)}

/-- Flits of one packet are no control flits. -/
theorem flitsFollow_data (h : flitsFollow fs = true) : fs.all flitControl = false := by
  cases fs with
  | nil => simp [flitsFollow] at h
  | cons f rest =>
    simp only [flitsFollow, List.zipIdx_cons, List.all_cons, Bool.and_eq_true, beq_iff_eq] at h
    obtain ⟨-, ⟨⟨⟨first, -⟩, -⟩, -⟩, -⟩ := h
    simp [flitControl, first]

theorem State.takeFlits_control (h : fs.all flitControl = true) : s.takeFlits n fs = s := if_pos h

section
variable (follow : flitsFollow fs = true)
include follow

theorem State.takeFlits_follow : s.takeFlits n fs =
    if flitPseq (fs.headD []) != (s.portAt n).expected % 2 ^ 24 && seqGap (flitPseq (fs.headD [])) ((s.portAt n).expected % 2 ^ 24) < 2 ^ 23 then
      s.acknowledge n
    else if flitPseq (fs.headD []) != (s.portAt n).expected % 2 ^ 24 then s.oweNak n
    else (s.openFlits n fs).elim (s.oweNak n) fun x =>
      ((if x.1.dest = s.node then (s.setPort n ((s.portAt n).accepted (flitPhase (fs.headD [])))).freeFlits n (flitVc (fs.headD [])) x.1 x.2
        else s.setPort n ((s.portAt n).accepted (flitPhase (fs.headD [])))).acknowledge n).acceptPacket n (flitVc (fs.headD [])) x.1 x.2 := by
  unfold State.takeFlits
  rw [if_neg (by simp [flitsFollow_data follow]), if_neg (by simp [follow])]
  cases s.openFlits n fs with
  | none => rfl
  | some x => simp only [Option.elim_some, beq_iff_eq]

section
variable (next : flitPseq (fs.headD []) = (s.portAt n).expected % 2 ^ 24)
include next

theorem State.takeFlits_accepts {h : MsgHeader} {payload : List Byte} (opened : s.openFlits n fs = some (h, payload)) : s.takeFlits n fs =
    ((if h.dest = s.node then (s.setPort n ((s.portAt n).accepted (flitPhase (fs.headD [])))).freeFlits n (flitVc (fs.headD [])) h payload
      else s.setPort n ((s.portAt n).accepted (flitPhase (fs.headD [])))).acknowledge n).acceptPacket n (flitVc (fs.headD [])) h payload := by
  have expected : (flitPseq (fs.headD []) != (s.portAt n).expected % 2 ^ 24) = false := bne_eq_false_iff_eq.mpr next
  rw [State.takeFlits_follow follow, expected, opened]
  rfl

theorem State.takeFlits_unopened (unopened : s.openFlits n fs = none) : s.takeFlits n fs = s.oweNak n := by
  have expected : (flitPseq (fs.headD []) != (s.portAt n).expected % 2 ^ 24) = false := bne_eq_false_iff_eq.mpr next
  rw [State.takeFlits_follow follow, expected, unopened]
  rfl

end

section
variable (other : flitPseq (fs.headD []) ≠ (s.portAt n).expected % 2 ^ 24)
include other

theorem State.takeFlits_duplicate (before : seqGap (flitPseq (fs.headD [])) ((s.portAt n).expected % 2 ^ 24) < 2 ^ 23) :
    s.takeFlits n fs = s.acknowledge n := by
  rw [State.takeFlits_follow follow, if_pos (by rw [bne_iff_ne.mpr other, decide_eq_true before]; rfl)]

theorem State.takeFlits_ahead (ahead : 2 ^ 23 ≤ seqGap (flitPseq (fs.headD [])) ((s.portAt n).expected % 2 ^ 24)) :
    s.takeFlits n fs = s.oweNak n := by
  rw [State.takeFlits_follow follow, decide_eq_false (Nat.not_lt.mpr ahead), Bool.and_false, if_neg Bool.false_ne_true, if_pos (bne_iff_ne.mpr other)]

end

end

/-- What CTL says changes neither the node nor the number that a port expects. -/
def State.KeepsExpected (n : Nat) (s t : State) : Prop := t.node = s.node ∧ (t.portAt n).expected = (s.portAt n).expected

section
variable (valid : n < 6)
include valid

theorem State.takeAck_expected (s : State) (seq : Nat) : State.KeepsExpected n s (s.takeAck n seq) :=
  ⟨s.dropAcked_node seq, (congrArg Port.expected (State.dropAcked_portAt valid s seq)).trans (Port.acked_sameLink _ seq).expected⟩

theorem State.takeNak_expected (s : State) (seq : Nat) : State.KeepsExpected n s (s.takeNak n seq) :=
  ⟨s.takeNak_node seq, (State.takeNak_portAt valid s seq).expected⟩

theorem State.takeRetire_expected (s : State) : State.KeepsExpected n s (s.takeRetire n) := by
  unfold State.takeRetire
  extract_lets p
  split
  · exact ⟨s.setPort_node n _, (congrArg Port.expected (State.portAt_setPort valid ..)).trans (Port.endRotation_sameLink _).expected⟩
  · exact ⟨rfl, rfl⟩

theorem State.takeCtl_expected (s : State) (f : List Byte) : State.KeepsExpected n s (s.takeCtl n f) := by
  unfold State.takeCtl
  extract_lets ctl s1
  have told : State.KeepsExpected n s s1 := by
    unfold s1
    split
    · exact State.takeNak_expected valid s _
    · split
      · exact State.takeAck_expected valid s _
      · exact ⟨rfl, rfl⟩
  split
  · obtain ⟨node, expected⟩ := State.takeRetire_expected valid s1
    exact ⟨node.trans told.1, expected.trans told.2⟩
  · exact told

theorem State.takeCtls_expected (s : State) (fs : List (List Byte)) : State.KeepsExpected n s (fs.foldl (fun s f => s.takeCtl n f) s) :=
  List.foldlRecOn (motive := State.KeepsExpected n s) _ _ ⟨rfl, rfl⟩ fun t told f _ =>
    let step := State.takeCtl_expected valid t f
    ⟨step.1.trans told.1, step.2.trans told.2⟩

end

section
variable (inUse : (s.portAt n).state = .up ∨ (s.portAt n).state = .replay) (sound : s.injected (1796 + n) = false)
include inUse sound

theorem exec_packetReceive : exec (.packetReceive n fs) s =
    .next (if !fs.all flitIntact then s.oweNak n else (fs.foldl (fun s f => s.takeCtl n f) s).takeFlits n fs) := by
  have used : ((s.portAt n).state != .up && (s.portAt n).state != .replay) = false := by
    rcases inUse with up | replay <;> simp [*]
  refine congrArg Host.Outcome.next ?_
  simp only [sound, Bool.false_eq_true, if_false, used, Bool.false_or]

theorem exec_packetReceive_broken (broken : fs.all flitIntact = false) : exec (.packetReceive n fs) s = .next (s.oweNak n) := by
  rw [exec_packetReceive inUse sound, broken]
  rfl

theorem exec_packetReceive_intact (intact : fs.all flitIntact = true) :
    exec (.packetReceive n fs) s = .next ((fs.foldl (fun s f => s.takeCtl n f) s).takeFlits n fs) := by
  rw [exec_packetReceive inUse sound, intact]
  rfl

theorem exec_packetReceive_control {f : List Byte} (intact : flitIntact f = true) (control : flitControl f = true) :
    exec (.packetReceive n [f]) s = .next (s.takeCtl n f) := by
  rw [exec_packetReceive_intact inUse sound (by simp [intact]), State.takeFlits_control (by simp [control])]
  rfl

end

/-- CTL's ACKV, NAK and RETIRE, alone. -/
theorem State.takeCtl_cases (s : State) (n : Nat) (f : List Byte) :
    (recNat f 7 1 % 8 = 1 → s.takeCtl n f = s.takeAck n (recNat f 4 3)) ∧
      (recNat f 7 1 % 8 = 3 → s.takeCtl n f = s.takeNak n (recNat f 4 3)) ∧
      (recNat f 7 1 % 8 = 4 → s.takeCtl n f = s.takeRetire n) := by
  have bits (i : Nat) (h : i < 3) : (recNat f 7 1).testBit i = (recNat f 7 1 % 8).testBit i := by
    rw [show (8 : Nat) = 2 ^ 3 from rfl, Nat.testBit_mod_two_pow, decide_eq_true h, Bool.true_and]
  unfold State.takeCtl
  refine ⟨fun h => ?_, fun h => ?_, fun h => ?_⟩ <;> dsimp only <;> rw [bits 0 (by decide), bits 1 (by decide), bits 2 (by decide), h] <;> rfl

end

/-! ## Widths (23 R448) -/

/-- A half of the lanes is intact where both of its quarters are. -/
theorem half_intact_iff (mask : BitVec 16) (off : Nat) :
    mask.extractLsb' off 8 = 0 ↔ mask.extractLsb' off 4 = 0 ∧ mask.extractLsb' (off + 4) 4 = 0 := by
  simp only [← BitVec.toNat_inj, BitVec.extractLsb'_toNat, Nat.shiftRight_eq_div_pow, Nat.pow_add, ← Nat.div_div_eq_div_mul]
  generalize mask.toNat / 2 ^ off = m
  simp only [BitVec.ofNat_eq_ofNat, BitVec.toNat_ofNat]
  omega

theorem quarterOk_iff (mask : BitVec 16) (q : Nat) : quarterOk mask q = true ↔ mask.extractLsb' (4 * q) 4 = 0 := beq_iff_eq

section
variable {mask : BitVec 16}

theorem lowHalf_iff : (quarterOk mask 0 && quarterOk mask 1) = true ↔ mask.extractLsb' 0 8 = 0 := by
  rw [Bool.and_eq_true, quarterOk_iff, quarterOk_iff, half_intact_iff]

theorem highHalf_iff : (quarterOk mask 2 && quarterOk mask 3) = true ↔ mask.extractLsb' 8 8 = 0 := by
  rw [Bool.and_eq_true, quarterOk_iff, quarterOk_iff, half_intact_iff]

theorem trainWidth_low (failed : mask ≠ 0) (low : mask.extractLsb' 0 8 = 0) : trainWidth mask = some (1, 0) := by
  rw [trainWidth, if_neg (by simpa using failed), if_pos (lowHalf_iff.mpr low)]

section
variable (low : mask.extractLsb' 0 8 ≠ 0)
include low

theorem mask_ne_zero : mask ≠ 0 := fun zero => low (by simp [zero])

theorem trainWidth_high (high : mask.extractLsb' 8 8 = 0) : trainWidth mask = some (1, 1) := by
  rw [trainWidth, if_neg (by simpa using mask_ne_zero low), if_neg (mt lowHalf_iff.mp low), if_pos (highHalf_iff.mpr high)]

theorem trainWidth_quarter (high : mask.extractLsb' 8 8 ≠ 0) :
    trainWidth mask = ((List.range 4).find? (quarterOk mask)).map fun q => (2, BitVec.ofNat 2 q) := by
  rw [trainWidth, if_neg (by simpa using mask_ne_zero low), if_neg (mt lowHalf_iff.mp low), if_neg (mt highHalf_iff.mp high)]

end

theorem find_quarter_some {q : Fin 4} (intact : mask.extractLsb' (4 * q.val) 4 = 0)
    (first : ∀ r : Fin 4, r < q → mask.extractLsb' (4 * r.val) 4 ≠ 0) : (List.range 4).find? (quarterOk mask) = some q.val := by
  rw [List.find?_range_eq_some]
  refine ⟨(quarterOk_iff _ _).mpr intact, List.mem_range.mpr q.isLt, fun r before => ?_⟩
  rw [Bool.not_eq_true', Bool.eq_false_iff, ne_eq, quarterOk_iff]
  exact first ⟨r, before.trans q.isLt⟩ before

theorem find_quarter_none (failed : ∀ q : Fin 4, mask.extractLsb' (4 * q.val) 4 ≠ 0) : (List.range 4).find? (quarterOk mask) = none := by
  rw [List.find?_range_eq_none]
  intro q h
  rw [Bool.not_eq_true', Bool.eq_false_iff, ne_eq, quarterOk_iff]
  exact failed ⟨q, h⟩

theorem trainWidth_none (failed : ∀ q : Fin 4, mask.extractLsb' (4 * q.val) 4 ≠ 0) : trainWidth mask = none := by
  have low : mask.extractLsb' 0 8 ≠ 0 := fun h => failed 0 ((half_intact_iff mask 0).mp h).1
  have high : mask.extractLsb' 8 8 ≠ 0 := fun h => failed 2 ((half_intact_iff mask 8).mp h).1
  rw [trainWidth_quarter low high, find_quarter_none failed]
  rfl

end

/-! ## The pod (12 R251; 23 R440) -/

theorem exec_podFormation {s : State} {dx dy dz node : Nat} {lost : List Nat} (hx : 1 ≤ dx) (hx' : dx ≤ 8) (hy : 1 ≤ dy) (hy' : dy ≤ 8)
    (hz : 1 ≤ dz) (hz' : dz ≤ 5) (place : ({ s with dx := dx, dy := dy, dz := dz, node := node, lost := lost } : State).inPod node = true) :
    exec (.podFormation dx dy dz ⟨node, lost⟩) s =
      .next ({ s with dx := dx, dy := dy, dz := dz, node := node, lost := lost } : State).failFacing :=
  congrArg Host.Outcome.next (if_pos (by simp [hx, hx', hy, hy', hz, hz', place]))

theorem exec_podFormation_refused {s : State} {dx dy dz node : Nat} {lost : List Nat}
    (h : dx = 0 ∨ 8 < dx ∨ dy = 0 ∨ 8 < dy ∨ dz = 0 ∨ 5 < dz) : exec (.podFormation dx dy dz ⟨node, lost⟩) s = .next s :=
  congrArg Host.Outcome.next (if_neg (by simp only [Bool.and_eq_true, decide_eq_true_eq]; omega))

theorem State.failFacing_none {s : State} (quiet : ∀ p < 6, (s.portAt p).state = .down ∨ (s.portAt p).state = .train ∨
    (s.portAt p).state = .failed ∨ (s.portAt p).state = .fenced ∨ s.facing p ∉ s.lost) : s.failFacing = s := by
  refine List.foldlRecOn (motive := fun t : State => t = s) _ _ rfl fun t same p mem => ?_
  subst same
  have port := quiet p (List.mem_range.mp mem)
  have kept (inUse : (t.portAt p).state = .up ∨ (t.portAt p).state = .retrain ∨ (t.portAt p).state = .replay) :
      (if t.lost.contains (t.facing p) then t.failPort p else t) = t :=
    if_neg (by rw [List.contains_iff_mem]; grind)
  split
  · exact kept (.inl ‹_›)
  · exact kept (.inr (.inl ‹_›))
  · exact kept (.inr (.inr ‹_›))
  all_goals rfl

end Sys2Proof.Machine

namespace Sys2Proof.Proofs

open Sys2Proof.Machine Sys2Proof.Safety

/-- Settles O50: each event by what it does to its port, the arrival of flits by what they are. -/
theorem linkEvents : Obligations.LinkEvents := by
  refine ⟨?ports, fun s n valid => ⟨rfl, rfl⟩, fun mask => ⟨fun zero => by rw [zero]; rfl, trainWidth_low, trainWidth_high,
    fun low high q intact first => ?_, trainWidth_none⟩, fun s dest order => rfl, fun s dx dy dz node lost => ⟨fun hx hx' hy hy' hz hz' place =>
      ⟨exec_podFormation hx hx' hy hy' hz hz' place, fun quiet => (exec_podFormation hx hx' hy hy' hz hz' place).trans
        (congrArg _ (State.failFacing_none quiet))⟩, exec_podFormation_refused⟩⟩
  case ports =>
    intro s n valid p
    refine ⟨fun down serves => ⟨_, exec_trainingRequest_trains down serves, State.portAt_setPort valid .., s.setPort_mem .., s.setPort_cx ..⟩,
      exec_trainingRequest_ignored,
      fun seq w l training width => ⟨_, exec_linkTrained_width training width, State.portAt_setPort valid .., s.setPort_mem ..⟩,
      fun seq training none empty => ⟨_, exec_linkTrained_none training none, State.failPort_fails valid empty⟩,
      fun seq training late empty => ⟨_, exec_linkTrained_late training late, State.failPort_fails valid empty⟩,
      fun seq w l training width inTime => ⟨_, exec_linkTrained_retrained training width inTime, ?retrained⟩,
      fun training late empty => ⟨_, exec_retrainTimeout_fails training late, State.failPort_fails valid empty⟩,
      exec_retrainTimeout_waits, fun lane h => ⟨_, exec_laneFailure h, ?lane⟩,
      fun seq => ⟨s.takeAck n seq, rfl, ?ack⟩, fun seq => ⟨s.takeNak n seq, rfl, ?nak⟩, ⟨_, exec_replayDone, ?replayed⟩,
      fun cls vc k hc hv => ⟨_, exec_creditReceive hc hv, s.setPort_mem .., fun j => ?credits⟩,
      fun due idle there up => ⟨_, exec_keyPhaseSwitch_switches due idle there up, ?switched⟩, exec_keyPhaseSwitch_waits,
      fun old sent => ⟨s.takeRetire n, rfl, ?retired⟩,
      fun h unsent => congrArg Host.Outcome.next ((State.takeRetire_rotates h).trans
        (congrArg (s.setPort n) (Port.endRotation_waits (.inr (.inl unsent))))),
      fun old due => congrArg Host.Outcome.next (State.takeRetire_ignored old due),
      fun empty => ⟨_, exec_partitionDissolve valid empty, ?dissolved⟩, ?packets⟩
    case retrained =>
      have same := Port.acked_sameLink { s.portAt n with state := .replay, width := w, lanesel := l } seq
      rw [State.dropAcked_portAt valid, State.retrained_portAt valid]
      exact ⟨same.state, same.width, same.lanesel, same.ack, same.replay⟩
    case lane =>
      rw [State.linkEvent_portAt, State.portAt_setPort valid, State.linkEvent_mem, State.setPort_mem]
      exact ⟨Port.loseLane_failmask .., rfl, Port.loseLane_state ..⟩
    case ack =>
      have same := Port.acked_sameLink (s.portAt n) seq
      rw [State.takeAck, State.dropAcked_portAt valid]
      exact ⟨same.ack, same.state, same.replay, s.dropAcked_mem seq⟩
    case nak =>
      have same := State.takeNak_portAt valid s seq
      exact ⟨same.state, same.replay, s.takeNak_mem seq⟩
    case replayed =>
      by_cases replaying : p.state = .replay
      · rw [if_pos replaying, if_pos (beq_iff_eq.mpr replaying), State.portAt_setPort valid]
        exact ⟨rfl, rfl⟩
      · rw [if_neg replaying, if_neg (mt beq_iff_eq.mp replaying)]
        exact ⟨rfl, rfl⟩
    case credits =>
      rw [State.portAt_setPort valid]
      by_cases granted : j.val = 2 * cls + vc
      · simp [granted, p]
      · simp [granted, Vector.getElem_set_ne, Ne.symm granted, p]
    case switched =>
      have same := Port.noteRetire_sameLink p.switched
      rw [State.portAt_setPort valid]
      exact ⟨same.kp, same.switchDue, s.setPort_mem .., Port.switched_keeps⟩
    case retired =>
      rw [State.takeRetire_rotates (.inl old), Port.endRotation_ends old sent, State.portAt_setPort valid, State.setPort_mem]
      cases phase : (s.portAt n).kp <;> simp [Port.zeroise, phase, p]
    case dissolved =>
      rw [State.portAt_setPort valid, State.setPort_mem, State.setPort_mem]
      exact ⟨rfl, rfl, empty, rfl, rfl⟩
    case packets =>
      intro fs inUse sound kp seq
      refine ⟨exec_packetReceive_broken inUse sound, fun intact => ?_, fun f one intact control => ?_⟩
      · intro s1 p1
        have received : exec (.packetReceive n fs) s = .next (s1.takeFlits n fs) := exec_packetReceive_intact inUse sound intact
        obtain ⟨node, expected⟩ : s1.node = s.node ∧ p1.expected = p.expected := State.takeCtls_expected valid s fs
        rw [received, ← expected, ← node]
        exact ⟨fun control => congrArg _ (State.takeFlits_control control), fun follow => ⟨rfl,
          fun next h payload opened => congrArg _ (State.takeFlits_accepts follow next opened),
          fun next unopened => congrArg _ (State.takeFlits_unopened follow next unopened),
          fun other before => congrArg _ (State.takeFlits_duplicate follow other before),
          fun other ahead => congrArg _ (State.takeFlits_ahead follow other ahead)⟩⟩
      · obtain ⟨ack, nak, retire⟩ := s.takeCtl_cases n f
        rw [one, exec_packetReceive_control inUse sound intact control]
        exact ⟨fun h => congrArg _ (ack h), fun h => congrArg _ (nak h), fun h => congrArg _ (retire h)⟩
  · rw [trainWidth_quarter low high, find_quarter_some intact first]
    rfl

end Sys2Proof.Proofs
end
